-- ==== Sys2Proof/Word.lean ====
section
/-! DEFINITION. The words of the hub: a byte and a 32-bit register word (R376). -/
namespace Sys2Proof

/-- One byte of a format (R8). -/
abbrev Byte := BitVec 8

/-- One register word; every register is 32 bits wide (R376). -/
abbrev Word := BitVec 32

end Sys2Proof
end

