-- ==== Sys2Proof/Syntax.lean ====
section
/-! DEFINITION. The commands of the hub: one constructor of `Instr` for each row of spec/opcode_table.json, with what
the command or event brings from outside. -/
namespace Sys2Proof

/-- The transport of a ZCS message (R352): UDP with the port it came in on and the requester's address, the Harvest
return channel, or the xSPI slave port. -/
inductive Via where
  | udp (port ip udp : Nat)
  | rc
  | xspi
  deriving DecidableEq, Repr

/-- What every ZCS request carries beside its payload (R354). -/
structure Hdr where
  via : Via
  session : BitVec 32
  tag : BitVec 32
  deriving DecidableEq, Repr

/-- Who makes a register access: a ZCS session, or the session of its own of the xSPI slave port (R384). -/
inductive Actor where
  | session (id : BitVec 32)
  | xspi
  deriving DecidableEq, Repr

/-- An access to a window register that has a row of its own. -/
inductive Access where
  | read
  | write (who : Actor) (w : Word)
  deriving DecidableEq, Repr

/-- One conversion of a direct channel: the differential input in µV, the conversion result inside full scale, and the
clamp (R58, R60, R64). -/
structure Conv where
  uV : Int
  code : BitVec 14
  clamp : Bool
  deriving DecidableEq, Repr

/-- The conversions of one direct channel in one slot, phase 0 first. -/
structure ChIn where
  ch : Nat
  convs : List Conv
  deriving DecidableEq, Repr

/-- What one slot brings to the collector cycle: conversions (an unlisted channel converts 0), transfers hit by a
parity error (R122), and whether anything but this hub holds GRAFT_TOKEN low (R410). -/
structure CycleIn where
  samples : List ChIn
  parity : List Nat
  tokenLow : Bool
  deriving DecidableEq, Repr

/-- The monitors tending reads at a frame boundary (R432): margins (0.1 %), ring oscillators, temperatures (16-bit
signed), converter phase currents, dead times in ns and efficiency, what the rails show (mV, and 10 mA; R454), the
input power in 0.1 W (R455), the trim blocks in whose latches an upset has struck
since the last frame (R445: 0 to 23 beds, 24 slow, 25 timing, 26 memory, 27 lane), and the busy percentages of the pairs. A
list that is short brings nothing new for the monitors it leaves out. -/
structure MonitorIn where
  margins : List Nat
  rings : List Nat
  temps : List (BitVec 16)
  phases : List Nat
  dead : List Nat
  rails : List (Nat × Nat)
  watts : Option Nat
  efficiency : Nat
  stale : Bool
  trimBad : List Nat
  cmdLoad : Nat
  tndLoad : Nat
  deriving DecidableEq, Repr

/-- A calibration result of one slice (R70). -/
structure CalIn where
  offset : BitVec 16
  gain : BitVec 16
  skew : BitVec 6
  deriving DecidableEq, Repr

/-- The comparison a bed's spare made since the last quiet window (R72): the pairs of corrected codes, of the spare and of
the working slice; and the calibration of the slice released in this window (R70). -/
structure RotIn where
  bed : Nat
  pairs : List (BitVec 14 × BitVec 14)
  cal : CalIn
  deriving DecidableEq, Repr

/-- What a quiet window brings: the comparisons, and the line-check voltages (bed, µV; R76). -/
structure QuietIn where
  rot : List RotIn
  line : List (Nat × Nat)
  deriving DecidableEq, Repr

/-- The outcome of the command/address parity check (R248). -/
inductive CaOutcome where
  | ok | error | failure
  deriving DecidableEq, Repr

/-- A per-bank refresh command (R232): the bank pair, and its parity check (R248). -/
structure RefreshIn where
  pair : Nat
  ca : CaOutcome
  deriving DecidableEq, Repr

/-- What MR4 holds (R233), and the parity check of the command that reads it (R248). -/
structure Mr4In where
  field : Nat
  ca : CaOutcome
  deriving DecidableEq, Repr

/-- A granule that the scrubber reads (R250): the channels in which it meets errors (R247), and its parity check (R248). -/
structure ScrubIn where
  errs : List Nat
  ca : CaOutcome
  deriving DecidableEq, Repr

/-- A migration's copy (R259): its port, and the addresses whose copy read met errors, with the channels in error (R249). -/
structure CopyIn where
  port : Nat
  errs : List (Nat × List Nat)
  deriving DecidableEq, Repr

/-- GRAFT_TOKEN seen released (R422): in the first 2 µs of the orbit; and whether the other hub is an eligible standby that may
take it too. -/
structure TokenIn where
  early : Bool
  peer : Bool
  deriving DecidableEq, Repr

/-- One granule request at a port (R224, R230): a read, or a write of 256 bytes; the channels of the burst, 0 to 4, in
which a read meets errors (R247); its parity check, and that of a migration's target, which takes the write too (R259); its
latency in ns. -/
structure MemIn where
  addr : Nat
  data : Option (List Byte)
  errs : List Nat
  ca : CaOutcome
  caTarget : CaOutcome
  ns : Nat
  deriving DecidableEq, Repr

/-- What ends in an engine (R269, R277): its compressor, with the tokens made of the payload, its decompressor, or its copy
unit. -/
inductive JobStep where
  | compressed (tokens : List Byte)
  | verified
  | copied
  deriving DecidableEq, Repr

/-- What an eye scan counted for one eye (R147): decisions that differ at the 64 phase positions at the centre voltage, and
at the voltages, 2 mV apart, at the centre phase. -/
structure EyeIn where
  phases : List Nat
  volts : List Nat
  deriving DecidableEq, Repr

/-- One slow result (R314): group, the input-referred voltage in pV, on a channel with REF = VEXC as at VEXC's nominal value;
whether the modulator overloaded (R312); clamp overlap; whether it overlaps a change of excitation or source on its pin (R319);
VEXC's largest deviation in the conversion in ppm and its load in mA (R317, R330); and for a fine value the voltage by the
spare when the spare converts in parallel (R323). -/
structure SlowIn where
  group : Nat
  pv : Int
  overload : Bool
  clamp : Bool
  changed : Bool
  vexcDev : Nat
  vexcLoad : Nat
  spare : Option Int
  deriving DecidableEq, Repr

/-- The content of an Ethernet frame the hub reads (R332, R333). -/
inductive EthBody where
  | bad
  | arp (target sender : Nat)
  | icmpEcho (dst src : Nat) (data : List Byte)
  | zcs (dst src udp id offset : Nat) (more : Bool) (data : List Byte)
  | other
  deriving DecidableEq, Repr

/-- An Ethernet frame on a port. -/
structure EthIn where
  port : Nat
  body : EthBody
  deriving DecidableEq, Repr

/-- The PTP messages the ordinary clock handles (R334). An Announce brings its master's data set: priority 1, clock class, accuracy,
variance, priority 2, identity of the grandmaster, steps removed. A Sync completed by its Follow_Up and delay exchange brings the
measured offset in 1/256 ns, from timestamps at the PCS boundary (R335). -/
inductive PtpBody where
  | announce (utcOffset : Nat) (dataset : List Nat)
  | syncDone (offset : Int)
  | delayReq (seq : Nat)
  deriving DecidableEq, Repr

/-- A PTP message: its port, the identity of the port that sent it, transport, domain, log sync interval, and body. -/
structure PtpIn where
  port : Nat
  sender : Nat
  ieee8023 : Bool
  domain : Nat
  logSync : Int
  body : PtpBody
  deriving DecidableEq, Repr

/-- What discovery reads from the flash devices (R475): the selects that answer, and of the image device whether 8D-8D-8D
works, its maximum frequencies in MHz in that mode and in 1S-1S-1S, and whether it declares continuous reads. -/
structure FlashIn where
  present : Nat
  ddr : Bool
  ddrMhz : Nat
  sdrMhz : Nat
  cont : Bool
  deriving DecidableEq, Repr

/-- A transmission heard on the Hedgerow bus: in a node slot, the admission slot (32) or the beacon slot (33), its preamble's offset in 10 ns
against slot start plus 4 µs, whether it begins before or runs past the slot, its bytes after the delimiter, CRC-32C included
(R340). -/
structure HdgIn where
  slot : Nat
  offset : Int
  overrun : Bool
  raw : List Byte
  deriving DecidableEq, Repr

/-- The commands and events of the hub, one per row of the table of operations. DEDUCED, log entry 117. -/
inductive Instr where
  /-- PING (R364): ZCS PING returns its request bytes at once. -/
  | ping (h : Hdr) (data : List Byte)
  /-- IDENT (R364): ZCS IDENT reports steppings, ordering code, identity, state, role and modes, and may set the session lease. -/
  | ident (h : Hdr) (lease : Option Nat)
  /-- REG_READ (R365): ZCS REG_READ reads a run of registers, each read having its access-code effect. -/
  | regRead (h : Hdr) (addr count : Nat) (fixed : Bool)
  /-- REG_WRITE (R365): ZCS REG_WRITE writes a run of registers in order, staging RWS fields, wholly or not at all. -/
  | regWrite (h : Hdr) (addr : Nat) (fixed : Bool) (words : List Word)
  /-- REG_MODIFY (R385): ZCS REG_MODIFY reads and writes one register in one indivisible access. -/
  | regModify (h : Hdr) (addr : Nat) (mask value : Word)
  /-- IMAGE_LOAD (R371): ZCS IMAGE_LOAD accepts one chunk of a configuration image, or refetches the image from flash when TOTAL is 0. -/
  | imageLoad (h : Hdr) (offset total : Nat) (bytes : List Byte)
  /-- IMAGE_LOAD_COMPLETE (R371): Checks of a completed image end; a passing image replaces the image copy and its base and tables are written, otherwise IMAGE_INVALID. -/
  | imageLoadComplete (flash : Option (FlashIn × List Byte))
  /-- OVERLAY_STAGE (R368): ZCS OVERLAY_STAGE stages the base values and the deltas of one mode, or discards the staged set. -/
  | overlayStage (h : Hdr) (mode : Nat)
  /-- OVERLAY_COMMIT (R366): ZCS OVERLAY_COMMIT snapshots the staged set, checks it on arrival and answers PENDING_QUIET for its quiet window. -/
  | overlayCommit (h : Hdr) (orbit : Nat) (named : Bool)
  /-- OVERLAY_REVERT (R369): ZCS OVERLAY_REVERT stages MODE_PREV and commits it unnamed. -/
  | overlayRevert (h : Hdr)
  /-- BUDGET_CHECK (R210): ZCS BUDGET_CHECK runs the budget and ring checks without applying anything and returns the itemised report. -/
  | budgetCheck (h : Hdr)
  /-- STREAM_START (R20): ZCS STREAM_START checks the configuration and budget and answers PENDING_QUIET for the stream start. -/
  | streamStart (h : Hdr) (orbit : Nat) (named : Bool)
  /-- STREAM_STOP (R216): ZCS STREAM_STOP schedules the end of record intake at a quiet window. -/
  | streamStop (h : Hdr) (orbit : Nat) (named : Bool)
  /-- LOOKBACK (R218): ZCS LOOKBACK marks the retained segments of a SEQ or orbit range for re-send and reports the range. -/
  | lookback (h : Hdr) (furrow kind first last : Nat)
  /-- ACK_WINDOW (R213): ZCS ACK_WINDOW stages BUDGET.ACK_WIN and commits it unnamed. -/
  | ackWindow (h : Hdr) (us : Nat)
  /-- TIME_SET (R337): ZCS TIME_SET steps the wall clock unless PTP is in sync. -/
  | timeSet (h : Hdr) (sec ns frac : Nat)
  /-- PHASE_CALIBRATE (R52): ZCS PHASE_CALIBRATE starts collecting 16 echo reports to set the d_down estimate. -/
  | phaseCalibrate (h : Hdr)
  /-- PHASE_CALIBRATE_DONE (R52): Collection of 16 reports completes; the new delay is checked and applied at the next quiet window and ALIGN_VALID set. -/
  | phaseCalibrateDone
  /-- GRAFT_ARM (R419): ZCS GRAFT_ARM arms the hub with a role preference and peer, or disarms it. -/
  | graftArm (h : Hdr) (pref peer : Nat)
  /-- GRAFT_DRILL (R429): ZCS GRAFT_DRILL schedules a deliberate handover to the standby as a boundary action. -/
  | graftDrill (h : Hdr)
  /-- GRAFT_STATUS (R431): ZCS GRAFT_STATUS returns the GRAFT registers without clearing RC fields. -/
  | graftStatus (h : Hdr)
  /-- RANK_RETIRE (R256): ZCS RANK_RETIRE retires a named rank slot with CAUSE 6. -/
  | rankRetire (h : Hdr) (port slot : Nat)
  /-- MEM_HEALTH (R364): ZCS MEM_HEALTH returns slot health, degraded step and disabled furrows. -/
  | memHealth (h : Hdr)
  /-- NVM_READ (R400): ZCS NVM_READ reads bytes from the factory area or the field store. -/
  | nvmRead (h : Hdr) (area offset len : Nat)
  /-- NVM_WRITE (R402): ZCS NVM_WRITE starts a copy-on-write of configuration-store bytes within one sector. -/
  | nvmWrite (h : Hdr) (offset : Nat) (bytes : List Byte)
  /-- NVM_WRITE_DONE (R402): A field-store sector write completes: the new copy is mapped and the old sector freed or retired. -/
  | nvmWriteDone (pulses : Nat) (failed : Bool)
  /-- LOG_READ (R399): ZCS LOG_READ returns entries of the hub log, power events or ageing log. -/
  | logRead (h : Hdr) (source max start : Nat)
  /-- TENDING_REPORT (R441): ZCS TENDING_REPORT returns the tending header and 70 margin entries. -/
  | tendingReport (h : Hdr)
  /-- MARGIN_APPLY (R439): ZCS MARGIN_APPLY pins or releases a tending resource, reloads trim or requests a re-plan, as a boundary action. -/
  | marginApply (h : Hdr) (resource value : Nat)
  /-- SLOW_CONFIG (R319): ZCS SLOW_CONFIG stages the SLOW fields and parameters of one channel. -/
  | slowConfig (h : Hdr) (ch : Nat) (cfg p0 p1 p2 : Word)
  /-- TRIP_CLEAR (R329): ZCS TRIP_CLEAR clears the SAFE latch and/or the power trip if their inputs have been high, or refuses with TRIP_ACTIVE. -/
  | tripClear (h : Hdr) (safe power : Bool)
  /-- SELFTEST (R364): ZCS SELFTEST starts the selected tests while not streaming. -/
  | selftest (h : Hdr) (tests : Word)
  /-- SELFTEST_DONE (R364): The self-tests end and their results are answered. -/
  | selftestDone (failed : Word)
  /-- RESET (R499): ZCS RESET answers and schedules a cold or warm reset. -/
  | reset (h : Hdr) (kind : Nat)
  /-- ZCS_UNKNOWN_OPCODE (R355): A request with an opcode absent from the set is answered BAD_OPCODE. -/
  | zcsUnknownOpcode (h : Hdr) (opcode : Nat)
  /-- SESSION_LEASE_EXPIRY (R356): A session silent beyond its lease closes and its cache is freed. -/
  | sessionLeaseExpiry (session : BitVec 32)
  /-- ORBIT_LOAD_ARM (R30): Writing ORBIT_LOAD_HI.LOAD arms an orbit-number load at the next marker. -/
  | orbitLoadArm (w : Word)
  /-- LINE_CHECK_START (R76): Writing LINECHK with START requests a line check of a channel at the next quiet window. -/
  | lineCheckStart (bed : Nat) (w : Word)
  /-- FC_REQ_WRITE (R158): Writing FC_REQ queues a fast command for one or all enabled ports. -/
  | fcReqWrite (w : Word)
  /-- SC_TX_WRITE (R155): Writing SC_TX queues a slow-control byte for the indexed port. -/
  | scTxWrite (w : Word)
  /-- SC_RX_READ (R160): Reading SC_RX removes and returns the oldest reply byte of the port. -/
  | scRxRead
  /-- CS_DATA_ACCESS (R170): An access to CLASS_WIN.CS_DATA stages or reads class words and advances the word index. -/
  | csDataAccess (a : Access)
  /-- COEF_ACCESS (R100): An access to SIEVE_COEF.COEF stages or reads a coefficient and advances TAP_INDEX. -/
  | coefAccess (a : Access)
  /-- MASK_ACCESS (R125): An access to SENTINEL.MASK stages or reads mask limits and advances MASK_INDEX. -/
  | maskAccess (a : Access)
  /-- MEMBER_ACCESS (R198): An access to FASTSUM.MEMBER stages or reads a member and advances MEMBER_INDEX. -/
  | memberAccess (a : Access)
  /-- RET_DATA_READ (R472): Reading COLDFRAME.RET_DATA returns a retention word and advances RET_INDEX. -/
  | retDataRead
  /-- SENTINEL_REARM_REQUEST (R119): Writing SENTINEL.REARM requests re-arming of frozen sentinels at a qualifying boundary. -/
  | sentinelRearmRequest (w : Word)
  /-- MEAS_PCOUNT_READ (R112): Reading MEAS_PCOUNT returns and clears the period count and resets PMIN and PMAX. -/
  | measPcountRead
  /-- LANE_PWR_REQ (R146): Writing PWR_REQ requests a lane power state for the next orbit boundary, ignored for lanes in use. -/
  | lanePwrReq (harvest : Bool) (w : Word)
  /-- EYE_SCAN_START (R147): Writing EYE_CTRL.START starts an eye scan with the monitor slicers. -/
  | eyeScanStart (harvest : Bool) (w : Word)
  /-- MAP_ORDER_WRITE (R227): Writing MEMCTL.MAP.ORDER holds an address order for the next training. -/
  | mapOrderWrite (w : Word)
  /-- BUDGET_RESERVE_WRITE (R222): Writing BUDGET.RESERVE is budget-checked and committed like an overlay. -/
  | budgetReserveWrite (who : Actor) (w : Word)
  /-- ACK_WIN_WRITE (R222): Writing BUDGET.ACK_WIN is budget- and ring-checked and committed like an overlay. -/
  | ackWinWrite (who : Actor) (w : Word)
  /-- SCRUB_PERIOD_WRITE (R250): Writing SCRUB.CFG.PERIOD is checked like ACK_WIN and applies from the next granule. -/
  | scrubPeriodWrite (who : Actor) (w : Word)
  /-- STORED_ONLY_CLEAR (R278): Clearing ENG_STAT.STORED_ONLY ends an engine's stored-only mode. -/
  | storedOnlyClear (w : Word)
  /-- VEXC_FAULT_CLEAR (R317): Clearing EXC_FAULT lets VEXC return at the next management-frame boundary. -/
  | vexcFaultClear (w : Word)
  /-- SAFE_FORCE (R328): Writing SAFE_CTRL.FORCE sets the SAFE latch as SAFE_N would. -/
  | safeForce (w : Word)
  /-- HDG_TX_WRITE (R351): Writing HEDGEROW.TX queues a byte for a node or for broadcast. -/
  | hdgTxWrite (w : Word)
  /-- HDG_RX_READ (R351): Reading HEDGEROW.RX removes and returns the oldest received byte of a node. -/
  | hdgRxRead
  /-- SHADOW_DISCARD (R383): Writing SHADOW_CTRL.DISCARD discards the page's staged values, subject to the stage owner. -/
  | shadowDiscard (who : Actor) (page : Nat) (w : Word)
  /-- ERR_CLEAR (R380): Writing CTRL.ERR_CLR clears the page's ERR_COUNT and ERR_CAPT. -/
  | errClear (page : Nat)
  /-- COUNTER_CLEAR (R380): Writing CTRL.CNT_CLR clears every RC counter of the page. -/
  | counterClear (page : Nat)
  /-- PD_REQ_WRITE (R459): Writing POWER.PD_REQ requests power domains on or off at the next orbit boundary. -/
  | pdReqWrite (w : Word)
  /-- XSPI_MODE_WRITE (R474): Writing XSPI.CFG.MODE switches the port between master and slave 1 µs after the transaction. -/
  | xspiModeWrite (w : Word)
  /-- REGISTER_WRITE (R383): A write to a register without a row of its own acts on or stages its fields, or is ignored and counted. -/
  | registerWrite (who : Actor) (addr : Nat) (w : Word)
  /-- COLLECTOR_CYCLE (R120): Each slot the collector gathers bed groups, tributary groups and slow results in fixed order and passes them to the barrow. -/
  | collectorCycle (c : CycleIn)
  /-- ORBIT_BOUNDARY (R28): The slot counter wraps, the orbit number advances and slow settings take effect. -/
  | orbitBoundary
  /-- MFRAME_BOUNDARY (R41): An orbit whose number is a multiple of M starts a management frame and its slow actions. -/
  | mframeBoundary (m : MonitorIn)
  /-- QUIET_WINDOW_START (R25): The first quiet-window slot applies due data-path actions in the fixed order. -/
  | quietWindowStart (q : QuietIn)
  /-- ORBIT_MARKER (R31): An orbit marker is seen and confirms, loads or is counted as a slip. -/
  | orbitMarker
  /-- ORBIT_MARKER_MISS (R31): An expected orbit marker does not arrive and is counted. -/
  | orbitMarkerMiss
  /-- ORBIT_LOCK_ACQUIRE (R31): Four markers spaced N_slot apart lock or relock the orbit. -/
  | orbitLockAcquire
  /-- ORBIT_LOCK_LOSS (R31): Four consecutive orbits ending in a miss or slip clear ORBIT_LOCK. -/
  | orbitLockLoss
  /-- BCLK_FAULT (R35): In PIN mode BCLK stops or departs from nominal, losing machine timing. -/
  | bclkFault (stopped : Bool) (hz : Nat)
  /-- BC_PLL_LOCK (R45): The jitter-cleaning PLL locks to the bunch clock and sets BC_LOCK. -/
  | bcPllLock
  /-- SRC_RETURN_H00 (R34): After H00 holds lock for 1,024 orbits the source returns to H00 at a quiet window. -/
  | srcReturnH00
  /-- PROBE_LAUNCH (R47): Once per probe interval a probe is launched on H00 and timed. -/
  | probeLaunch (slot frac : Nat)
  /-- ALIGN_LOST (R51): Four consecutive outlier reports set ALIGN_LOST and hold the delay. -/
  | alignLost
  /-- ALIGN_HOLD (R51): Sixteen probes without an accepted report set ALIGN_HOLD and hold the delay. -/
  | alignHold
  /-- REFERENCE_CLOCK_PRESENT (R43): CD49 or CD62 becomes present and the management blocks move off CD01. -/
  | referenceClockPresent (cd : Nat)
  /-- CLOCK_DOMAIN_LOSS (R392): A clock domain stops or loses lock and is reported in CLOCKS. -/
  | clockDomainLoss (cd : Nat)
  /-- CLAMP_CONDUCT (R60): A direct-input clamp conducts; samples are marked and the CLAMP bit set. -/
  | clampConduct (ch : Nat)
  /-- TERM_DISCONNECT (R61): An overvoltage beyond 1 µs disconnects the 100 Ω termination and sets TERM_OPEN. -/
  | termDisconnect (ch : Nat)
  /-- TERM_RECONNECT (R61): After 10 µs within ±2.2 V the termination reconnects at an orbit boundary. -/
  | termReconnect (ch : Nat)
  /-- BED_POWER_UP_CAL (R68): When a bed's domain starts, all 33 slices are calibrated against the reference. -/
  | bedPowerUpCal (bed : Nat)
  /-- BED_CAL_DONE (R68): Start calibration completes and the working slices connect to their channels. -/
  | bedCalDone (bed : Nat) (cals : List CalIn)
  /-- PEDESTAL_FOLLOWER_UPDATE (R108): At the end of a quiet window the follower forms its means and updates, discards or seeds. -/
  | pedestalFollowerUpdate
  /-- SENTINEL_FREEZE (R117): After SN_POST further samples the sentinel ring freezes. -/
  | sentinelFreeze (sn : Nat)
  /-- RX_BLOCK (R136): A receiver takes a block, checks its header and delivers or hunts. -/
  | rxBlock (lane : Nat) (symbols : List Nat)
  /-- BLOCK_LOCK_ACQUIRE (R135): Sixty-four consecutive valid headers set BLOCK_LOCK. -/
  | blockLockAcquire (lane : Nat)
  /-- BLOCK_LOCK_LOSS (R135): Sixteen invalid headers in 64 blocks clear BLOCK_LOCK. -/
  | blockLockLoss (lane : Nat)
  /-- FRAME_LOCK_ACQUIRE (R137): Sixteen well-placed BFS headers set FRAME_LOCK. -/
  | frameLockAcquire (lane : Nat)
  /-- FRAME_LOCK_LOSS (R137): Four frames in error or loss of block lock clear FRAME_LOCK. -/
  | frameLockLoss (lane : Nat)
  /-- LANE_RETRAIN_END (R141): A lane pause ends and the monitor and data slicer banks exchange roles. -/
  | laneRetrainEnd (lane : Nat)
  /-- LANE_DEEP_EXIT_START (R145): A waiting deep exit begins when the wake ration allows. -/
  | laneDeepExitStart
  /-- LANE_EXIT_COMPLETE (R142): A lane direction completes its exit to active. -/
  | laneExitComplete (lane : Nat) (tx : Bool)
  /-- SHALLOW_IDLE_BURST (R144): A shallow Harvest transmitter sends 64 IDLE blocks every 100 µs. -/
  | shallowIdleBurst (lane : Nat)
  /-- EYE_SCAN_DONE (R147): An eye scan completes or is cut short and EYE_RESULT is updated. -/
  | eyeScanDone (lane : Nat) (low mid high : EyeIn) (complete : Bool)
  /-- TRIB_FRAME (R161): A tributary frame arrives whole and is classified on time, DUP, LATE, BADO, filler or HDRX. -/
  | tribFrame (port : Nat) (herr : Nat) (bits : BitVec 504)
  /-- PORT_DRAIN_END (R528): A draining port's last deadline passes with an empty late queue and it leaves use. -/
  | portDrainEnd (port : Nat)
  /-- TRIG_EDGE (R181): A trigger input edge is accepted and time-stamped, or ignored in dead time. -/
  | trigEdge (input : Nat) (rising : Bool) (tdc : Nat)
  /-- MARK_BUCKET_REFILL (R183): A mark token bucket gains a token at its refill interval. -/
  | markBucketRefill (bucket : Nat)
  /-- SEGMENT_AGE_CLOSE (R205): A segment open for 64 × AGE cycles closes. -/
  | segmentAgeClose (furrow : Nat)
  /-- MEMORY_ACCESS (R230): A port serves a granule read or write request. -/
  | memoryAccess (m : MemIn)
  /-- REFRESH_COMMAND (R232): A per-bank refresh command is issued at the normal or doubled interval. -/
  | refreshCommand (port slot : Nat) (pair : RefreshIn)
  /-- MR4_POLL (R233): Every 32 ms MR4 is read and refresh rates adjusted. -/
  | mr4Poll (port slot : Nat) (temps : List Int) (field : Mr4In)
  /-- RD_TABLE_CLEAR (R236): Every 32 ms the row-disturbance tables are cleared. -/
  | rdTableClear
  /-- MEM_RETRAIN_END (R243): A memory pause ends, publishes windows or fails and retires the slot. -/
  | memRetrainEnd (port : Nat) (failed : List Nat) (windows : List (Nat × Nat))
  /-- MEM_RETRAIN_UNLOCKED (R242): While never locked, a port retrains every 5 ms on CD01. -/
  | memRetrainUnlocked (port : Nat)
  /-- SCRUB_GRANULE (R250): The patrol scrubber reads the next granule. -/
  | scrubGranule (errs : ScrubIn)
  /-- CE_WINDOW_END (R255): A corrected-error window ends and counts restart. -/
  | ceWindowEnd
  /-- MIGRATION_COPY_DONE (R259): The migration copy completes and awaits the map switch. -/
  | migrationCopyDone (port : CopyIn)
  /-- COHERENT_REQUEST (R266): Coherent agents' requests and writebacks for a line are resolved in order. -/
  | coherentRequest (line : Nat) (writeback : Option (Nat × List Byte)) (requests : List Nat)
  /-- SEGMENT_DISPATCH (R298): The next due segment is bound to a lane and handed to the lowest free engine. -/
  | segmentDispatch
  /-- COMPRESS_JOB_DONE (R277): An engine finishes a job, verifies or falls back, and releases it to its lane. -/
  | compressJobDone (eng : Nat) (step : JobStep)
  /-- SEGMENT_TX_DONE (R275): A segment's last block leaves and its chunks return to the pool. -/
  | segmentTxDone (lane : Nat)
  /-- LANE_MARK_SEND (R293): A LANE_MARK is sent after every 1,024th block. -/
  | laneMarkSend (lane block : Nat)
  /-- BACKLOG_WAIT_TRIGGER (R300): A closed segment waiting 64 slots lights every dark lane. -/
  | backlogWaitTrigger
  /-- LANE_DARKEN (R300): After DARK_HOLD orbits of surplus, one lane is darkened. -/
  | laneDarken
  /-- RETURN_FRAME (R304): A return-channel frame is taken whole, checked and its items acted on. -/
  | returnFrame (lane : Nat) (frame : List Byte)
  /-- LANE_DROP_TIMEOUT (R307): A usable lane not reported locked within 200 µs counts as dropped. -/
  | laneDropTimeout (lane : Nat)
  /-- RETURN_CHANNEL_DOWN (R307): No valid return frame for 64 slots sets RC_DOWN. -/
  | returnChannelDown
  /-- SLOW_COARSE_RESULT (R314): A coarse sinc¹ value forms a slow record when enabled. -/
  | slowCoarseResult (r : SlowIn)
  /-- SLOW_FINE_RESULT (R314): A fine sinc³ value forms a slow record and the group switches channel. -/
  | slowFineResult (r : SlowIn)
  /-- SLOW_MOD_CAL_DONE (R323): A released modulator finishes calibration and becomes the spare. -/
  | slowModCalDone (mod : Nat)
  /-- SLOW_CLAMP (R313): A slow-pin clamp conducts and flags results. -/
  | slowClamp (pin : Nat)
  /-- VEXC_OVERLOAD_TRIP (R317): A VEXC overload beyond 1 ms turns VEXC off. -/
  | vexcOverloadTrip (load : Nat)
  /-- IX_COMPLIANCE (R318): A current source beyond compliance sets COMPLY. -/
  | ixCompliance (ix : Nat)
  /-- IL_PERIOD_END (R326): An interlock output period ends and the output updates. -/
  | ilPeriodEnd (il : Nat)
  /-- IL_STALE (R327): A source without a fine value for STALE ms forces the fault code. -/
  | ilStale (il : Nat)
  /-- SAFE_N_ASSERT (R328): SAFE_N low sets the SAFE latch, turning excitation off and interlocks to fault. -/
  | safeNAssert (lowNs : Nat)
  /-- ETH_FRAME (R332): An Ethernet frame is answered, reassembled into ZCS or discarded. -/
  | ethFrame (f : EthIn)
  /-- REASM_TIMEOUT (R333): A datagram incomplete after 100 ms is abandoned. -/
  | reasmTimeout (src id : Nat)
  /-- ETH_LINK_CHANGE (R334): A link change may move PTP to the other port. -/
  | ethLinkChange (port : Nat) (up module : Bool)
  /-- PTP_MESSAGE (R334): A PTP message is time-stamped and processed. -/
  | ptpMessage (m : PtpIn)
  /-- PTP_ANNOUNCE_TIMEOUT (R337): Announce timeout puts the clock in holdover. -/
  | ptpAnnounceTimeout
  /-- COLDFRAME_TIME_SET (R467): The cold-frame counter is set at the next wall second. -/
  | coldframeTimeSet
  /-- HEDGEROW_TIMER_CYCLE (R341): Before orbit lock a bus cycle runs every 5.0 ms. -/
  | hedgerowTimerCycle
  /-- HEDGEROW_FRAME_RX (R345): A satellite transmission is classified and acted on. -/
  | hedgerowFrameRx (f : HdgIn)
  /-- HEDGEROW_NODE_TIMEOUT (R346): A node silent for 16 cycles loses ACTIVE and its UID. -/
  | hedgerowNodeTimeout (node : Nat)
  /-- LOCKSTEP_MISMATCH (R394): A lockstep mismatch halts the pair and restarts it from ROM. -/
  | lockstepMismatch (pair : Nat)
  /-- PAIR_RESTART_DONE (R395): A restarted processor pair runs again. -/
  | pairRestartDone (pair : Nat)
  /-- WATCHDOG_EXPIRY (R396): A 100 ms watchdog expiry forces a watchdog reset. -/
  | watchdogExpiry
  /-- SRAM_SCRUB_PASS (R397): The SRAM scrubber corrects errors or forces a reset. -/
  | sramScrubPass (corrected : List Nat) (fatal : Option Nat)
  /-- ROM_RECHECK (R398): Every 60 s the ROM CRC is rechecked. -/
  | romRecheck (ok : Bool)
  /-- GRAFT_SYNC_SEND (R411): The active hub sends a sync frame. -/
  | graftSyncSend
  /-- GRAFT_SYNC_RX (R414): A standby takes a sync frame, checks timing and compares WR_SEQ; `crc` are the four
  bytes after the frame's `bytes`. -/
  | graftSyncRx (bytes : List Byte) (crc : Word) (onTime : Bool)
  /-- GRAFT_REPLY_SEND (R413): The standby sends a reply frame 120 µs into the interval. -/
  | graftReplySend
  /-- GRAFT_REPLY_RX (R413): The active hub sets PEER_ELIGIBLE from a reply; `crc` are the four bytes after its `bytes`. -/
  | graftReplyRx (bytes : List Byte) (crc : Word)
  /-- GRAFT_RELEASE (R421): The active hub releases the token and stops driving. -/
  | graftRelease
  /-- GRAFT_TOKEN_SEEN_RELEASED (R422): A standby sees the token released and schedules takeover. -/
  | graftTokenSeenReleased (early : TokenIn)
  /-- GRAFT_TAKEOVER (R423): A standby takes the token, increments EPOCH and starts re-sends. -/
  | graftTakeover
  /-- GRAFT_LISTEN_END (R422): After one listening interval the new active hub starts sending sync frames. -/
  | graftListenEnd (heard : Bool)
  /-- CATCH_UP_DONE (R426): All marked segments are re-sent; CATCH_UP clears. -/
  | catchUpDone
  /-- TENDING_REPLAN (R434): Tending re-plans and writes a TYPE 1 record. -/
  | tendingReplan
  /-- TRIM_RELOAD_DONE (R446): A trim reload completes. -/
  | trimReloadDone (block : Nat)
  /-- VIN_CHANGE (R449): An input voltage changes and the feeding input changes. -/
  | vinChange (a b : Nat)
  /-- RAIL_FAULT (R460): A rail fault switches off its domains. -/
  | railFault (rail : Nat)
  /-- PD_START_ADMIT (R457): A waiting domain start is admitted when its rails have room. -/
  | pdStartAdmit
  /-- PD_RAMP_END (R457): A domain's ramp ends in or out of regulation. -/
  | pdRampEnd (pd : Nat) (ok : Bool)
  /-- PTRIP_N_ASSERT (R461): PTRIP_N low sets the trip latch and stops the converter. -/
  | ptripNAssert (lowNs : Nat) (inDead : Bool)
  /-- CONVERTER_TRIP (R461): Internal converter faults set the trip latch. -/
  | converterTrip (cause : Nat)
  /-- PFAIL_DETECT (R464): Low VHOLD raises PFAIL and starts the emergency save. -/
  | pfailDetect (vhold : Nat)
  /-- EMERGENCY_SAVE_DONE (R465): The power-event record save completes or fails. -/
  | emergencySaveDone (ok : Bool)
  /-- POWER_RESTORE (R464): VHOLD holds 10 ms and the hub restarts. -/
  | powerRestore
  /-- POWER_LOSS (R464): VHOLD falls below 6.0 V and the hub is unpowered. -/
  | powerLoss
  /-- COLDFRAME_TO_MAIN (R467): The cold frame switches to main supply. -/
  | coldframeToMain
  /-- COLDFRAME_TO_VBAT (R467): The cold frame returns to VBAT. -/
  | coldframeToVbat
  /-- VBAT_LOW (R467): VBAT below 2.2 V sets VBAT_LOW. -/
  | vbatLow (mv : Nat)
  /-- XSPI_REG_READ (R484): A slave REG_READ transaction returns register words: `done` of them were completed, and CS rose in the
  middle of the next where `broken`. -/
  | xspiRegRead (addr count : Nat) (fixed ready : Bool) (done : Nat) (broken : Bool)
  /-- XSPI_REG_WRITE (R484): A slave REG_WRITE transaction writes register words, those completed before CS rose in the middle of one
  where `broken`. -/
  | xspiRegWrite (addr count : Nat) (fixed ready : Bool) (words : List Word) (broken : Bool)
  /-- XSPI_STATUS (R483): A slave STATUS transaction returns SLV_STAT. -/
  | xspiStatus
  /-- XSPI_ZCS_WRITE (R487): A slave ZCS_WRITE passes a ZCS message. -/
  | xspiZcsWrite (len : Nat) (bytes : List Byte)
  /-- XSPI_ZCS_READ (R487): A slave ZCS_READ returns the oldest response. -/
  | xspiZcsRead (max : Nat) (finished : Bool)
  /-- XSPI_UNKNOWN_CMD (R483): An unknown slave command sets LAST_ERR 1. -/
  | xspiUnknownCmd (cmd : Nat)
  /-- XSPI_ABORT (R486): XSPI_CS0_N rising mid-word aborts the transaction: in the middle of the header or of a data word
  (`mid`), or before the first data word, with READY as given. -/
  | xspiAbort (cmd : Nat) (mid ready : Bool)
  /-- XIP_READ (R478): A read through the XIP window hits or fills a line. -/
  | xipRead (offset : Nat) (timeouts : Nat)
  /-- STARTUP_VIN_GOOD (R489): Step 1 completes: VHOLD good for 10 ms. -/
  | startupVinGood (vhold : Nat)
  /-- STARTUP_VINT_START (R489): Step 2: VINT soft-starts. -/
  | startupVintStart (vint : Nat) (ok : Bool)
  /-- STARTUP_PD01_ON (R489): Step 3: PD01 and CD01 come up. -/
  | startupPd01On (strap : Bool)
  /-- STARTUP_CANARY_CHECK (R469): Step 4: the cold-frame canary decides validity. -/
  | startupCanaryCheck (intact : Bool)
  /-- STARTUP_ROM_BOOT (R398): Step 5: PD02 on, ROM boots and is checked. -/
  | startupRomBoot
  /-- STARTUP_TRIM_LOAD (R444): Step 6: trim loads from a valid copy. -/
  | startupTrimLoad (ok1 ok2 same : Bool)
  /-- STARTUP_STORE_SCAN (R491): Step 7: PD03 on, store scanned, boot record applied. -/
  | startupStoreScan
  /-- STARTUP_IMAGE_SOURCE (R492): Step 8: image source chosen and checked. -/
  | startupImageSource (f : FlashIn) (flash : List Byte)
  /-- STARTUP_DOMAINS (R493): Step 9: power domains start under the ration. -/
  | startupDomains
  /-- STARTUP_TRAIN_AND_APPLY (R493): Step 10: memory trains and the image is applied. -/
  | startupTrainAndApply (failed : List Nat) (ms : Nat) (flash : List Byte)
  /-- STARTUP_LANE_BRINGUP (R494): Step 11: required lanes are brought up. -/
  | startupLaneBringup
  /-- STARTUP_TIME_LOCK (R495): Step 12: machine time locks and aligns. -/
  | startupTimeLock
  /-- STARTUP_BUDGET_CHECK (R496): Step 13: the base is budget-checked. -/
  | startupBudgetCheck
  /-- READY (R497): The hub becomes READY. -/
  | ready
  /-- RESET_N_ASSERT (R498): RESET_N low holds every domain except PD00 off or in reset. -/
  | resetNAssert (lowNs : Nat)
  /-- RESET_N_RELEASE (R498): RESET_N rising starts the reset sequence. -/
  | resetNRelease (strap : Bool)
  /-- RESET_TAKE_EFFECT (R499): A requested reset acts after its response or at the next orbit boundary. -/
  | resetTakeEffect
  /-- SAFE_N_RELEASE (R329): SAFE_N returns high; the latch stays set but SAFE_STAT.PIN changes and the 1.0 µs high history that TRIP_CLEAR and the standby latch rule of R427 require begins. -/
  | safeNRelease
  /-- PTRIP_N_RELEASE (R463): PTRIP_N returns high, which PTRIP_STAT.PIN reports and which starts the 1.0 µs high period that TRIP_CLEAR of the power trip requires. -/
  | ptripNRelease
  deriving DecidableEq, Repr

end Sys2Proof
end

