-- ==== Sys2Proof/Decode.lean ====
section
/-! DEFINITION. No row of spec/opcode_table.json gives bits: no word of the table's numbering spells a command. -/
namespace Sys2Proof

/-- The command a word of `nbits` bits spells by the table: none, since no row gives bits.
DESIGN CHOICE, log entry 19. -/
def decodeTableWord (_nbits _w : Nat) : Option Instr := none

end Sys2Proof
end

