-- ==== Sys2Proof/Config.lean ====
section
/-! DEFINITION. The free values: what the manual leaves open on this hub. Every constant here is opaque, so that no
proof can lean on a value. Log entries 2 and 4 to 12 name them. -/
namespace Sys2Proof.Config

/-- Free value number `n`: a result the manual leaves open; `State.freeCtr` numbers the draws.
DESIGN CHOICE, log entry 2. -/
opaque freeValue : Nat → BitVec 32

/-- Whether the Farrow weight of `tap` at fraction `mu` (1/1,024 sample) is rounded up from its exact five-point
Lagrange value in units of 2^-16 (R82 gives the weights, not their rounding). DESIGN CHOICE, log entry 5. -/
opaque farrowRoundsUp : (mu tap : Nat) → Bool

/-- Whether a quotient whose rounding the manual does not state is rounded up from its floor.
DESIGN CHOICE, log entry 4. -/
opaque roundsUp : (num : Int) → (den : Nat) → Bool

/-- Coefficient `tap` (0 to 31 of stage 2, 32 to 39 of stage 4) of the ROM bank MIN32, held in ROM (R90).
DESIGN CHOICE, log entry 6. -/
opaque min32Coef : Nat → BitVec 16

/-- A byte of the factory area (R400), as the test floor wrote it. DESIGN CHOICE, log entry 8. -/
opaque factoryByte : Nat → Byte

/-- The unique die ID of GLOBAL.DIE_ID (R390). DESIGN CHOICE, log entry 8. -/
opaque dieId : BitVec 64

/-- Whether the part is the screened LGH768-S64 (R1, GLOBAL.PART). DESIGN CHOICE, log entry 8. -/
opaque screened : Bool

/-- The MAC address of port E0 or E1 (R332, R349). DESIGN CHOICE, log entry 8. -/
opaque macAddr : Nat → BitVec 48

/-- The internal latency L_int of R50, in 1/65,536 slot, held in the trim (R443). DESIGN CHOICE, log entry 9. -/
opaque lInt : BitVec 28

/-- The fixed latency between the PCS boundary and the serial pins of port E0 or E1, arriving or leaving, in 1/65,536 ns, held in the
trim (R335, R443). DESIGN CHOICE, log entry 9. -/
opaque ptpLatency : (port : Nat) → (egress : Bool) → BitVec 32

/-- The pin-to-TDC latency of R182, in TDC bins, held in the trim (R443). DESIGN CHOICE, log entry 9. -/
opaque tdcLatency : BitVec 16

/-- The physical row of a logical row on one die, the row scrambling held in the trim (R236, R443).
DESIGN CHOICE, log entry 9. -/
opaque physicalRow : (port slot row : Nat) → BitVec 15

/-- The curve unit's result where its formula has none: a quotient by 0, a parameter that is no finite number (R320). The
arguments are curve, code, gain code, reference, parameters, current and the auxiliary result. DESIGN CHOICE, log entry 10. -/
opaque curveValue : (args : List Nat) → Word

/-- The temperature of a resistance thermometer of curves 1 to 3 at a resistance in ohms, as IEC 60751 or DIN 43760 gives it
(R320). DESIGN CHOICE, log entry 10. -/
opaque rtdTemp : (curve : Nat) → (num : Int) → (den : Nat) → Word

/-- The temperature of a thermocouple of curves 4 to 8 from its voltage and its cold junction's temperature, by IEC 60584-1 (R320).
DESIGN CHOICE, log entry 10. -/
opaque thermoTemp : (curve : Nat) → (num : Int) → (den : Nat) → (junction : Word) → Word

/-- The low or high end of a thermocouple type's range in IEC 60584-1, in °C (R320). DESIGN CHOICE, log entry 10. -/
opaque thermoEdge : (curve : Nat) → (high : Bool) → Int

/-- The temperature of an NTC at a resistance in ohms with parameters P0 to P2, a logarithm whose arithmetic is not stated (R320).
DESIGN CHOICE, log entry 10. -/
opaque ntcTemp : (num : Int) → (den : Nat) → (p0 p1 p2 : Word) → Word

/-- The output quantity of R326 in 0.1 Hz or 0.01 % where A, B or VALUE is no finite number. DESIGN CHOICE, log entry 11. -/
opaque interlockValue : (pwm : Bool) → (a b value : Word) → BitVec 33

/-- The voltage sensitivity of a margin sensor, in 1/256 of 0.1 % per step of VCORE, held in the trim (R435, R443).
DESIGN CHOICE, log entry 7. -/
opaque avsSensitivity : (sensor : Nat) → BitVec 16

/-- What ring-oscillator drift and a die temperature (0.1 °C) take from or add to a sensor's margin in tending's projection, in
1/256 of 0.1 % (R435): its arithmetic is not stated. DESIGN CHOICE, log entry 7. -/
opaque marginShift : (sensor : Nat) → (drift : List Int) → (temp : Int) → BitVec 32

/-- A ring oscillator's period at the factory (R435). DESIGN CHOICE, log entry 8. -/
opaque factoryRing : Nat → BitVec 16

/-- The drift to which tending projects a port's narrowest window from its snapshots, oldest first, in 1/65,536 of 1/64 UI per
frame (R437): its arithmetic is not stated. DESIGN CHOICE, log entry 7. -/
opaque windowDrift : (port : Nat) → (history : List Nat) → BitVec 16

/-- The selections that a copy of the trim holds for a block, as one number (R443, R444). DESIGN CHOICE, log entry 9. -/
opaque trimBlock : (copy block : Nat) → BitVec 256

/-- The slope of R442 where fewer than two snapshots exist, which fix no line. DESIGN CHOICE, log entry 12. -/
opaque tendingSlope : (kind index : Nat) → BitVec 16

/-- The offset of a bed's slice at the factory, from which its drift is counted (R432, R440).
DESIGN CHOICE, log entry 8. -/
opaque factoryOffset : (bed slice : Nat) → BitVec 16

/-- The minutes to LIMIT of R442 while BC_NOMINAL is 0, so that the length of a re-plan interval is not known: samples and
LIMIT. DESIGN CHOICE, log entry 12. -/
opaque tendingTtl : (samples : List Int) → (limit : Nat) → BitVec 32

/-- The stored check value of the ROM is good (R398) at boot number `n`: a property of the part.
DESIGN CHOICE, log entry 12. -/
opaque romGood : Nat → Bool

end Sys2Proof.Config
end

