-- ==== Sys2Proof/Machine/Bits.lean ====
section
/-! DEFINITION. Bit fields, byte orders, rounding, saturation and the CRCs the formats share. -/
namespace Sys2Proof.Machine

/-- Bits [lo + w - 1 : lo] of a number (R7). -/
def bitsAt (v lo w : Nat) : Nat := v / 2 ^ lo % 2 ^ w

/-- Bit `i` of a number as a Bool. -/
def bitAt (v i : Nat) : Bool := v / 2 ^ i % 2 == 1

/-- A Bool as the number a one-bit field holds. -/
def b2n (b : Bool) : Nat := if b then 1 else 0

/-- `v` with bit `i` set. -/
def setBit (v i : Nat) : Nat := if bitAt v i then v else v + 2 ^ i

/-- `v` with bit `i` clear. -/
def clrBit (v i : Nat) : Nat := if bitAt v i then v - 2 ^ i else v

/-- `v` with bit `i` set to `b`. -/
def putBit (v i : Nat) (b : Bool) : Nat := if b then setBit v i else clrBit v i

/-- Bitwise clear: the W1C effect of writing `w` on `v` (R11). -/
def w1c (v w : Nat) : Nat := v - (v &&& w)

/-- The number of ones among the low `n` bits. -/
def popcount : (n v : Nat) → Nat
  | 0, _ => 0
  | n + 1, v => v % 2 + popcount n (v / 2)

/-- The bits below `n` that are set, in ascending order. -/
def bitsSet (n v : Nat) : List Nat := (List.range n).filter (bitAt v)

/-- The signed value of a `w`-bit two's-complement field. -/
def sext (w v : Nat) : Int := if v % 2 ^ w < 2 ^ (w - 1) then (v % 2 ^ w : Nat) else (v % 2 ^ w : Nat) - (2 ^ w : Nat)

/-- The `w`-bit two's-complement field of a signed value. -/
def toField (w : Nat) (v : Int) : Nat := (v % (2 ^ w : Nat)).toNat

/-- Saturation to a signed `w`-bit range, and whether it acted (R81). -/
def satS (w : Nat) (v : Int) : Int × Bool :=
  let hi : Int := (2 ^ (w - 1) : Nat) - 1
  let lo : Int := - ((2 ^ (w - 1) : Nat) : Int)
  if hi < v then (hi, true) else if v < lo then (lo, true) else (v, false)

/-- Division by `d > 0` to nearest, ties towards +∞ (R81, R108, R111). -/
def roundDiv (n : Int) (d : Nat) : Int := Int.fdiv (2 * n + d) (2 * d)

/-- The arithmetic right shift of R81. -/
def roundShift (a : Int) (s : Nat) : Int := if s = 0 then a else Int.fdiv (a + (2 ^ (s - 1) : Nat)) (2 ^ s : Nat)

/-- Ceiling division of naturals. -/
def ceilDiv (a b : Nat) : Nat := if b = 0 then 0 else (a + b - 1) / b

/-- A natural limited to `m`. -/
def cap (m v : Nat) : Nat := if v < m then v else m

/-- `n` little-endian bytes of a number (R8). -/
def le : (n v : Nat) → List Byte
  | 0, _ => []
  | n + 1, v => BitVec.ofNat 8 v :: le n (v / 256)

/-- The number little-endian bytes spell (R8). -/
def fromLe : List Byte → Nat
  | [] => 0
  | b :: bs => b.toNat + 256 * fromLe bs

/-- `len` bytes from offset `off`. -/
def slice (l : List Byte) (off len : Nat) : List Byte := (l.drop off).take len

/-- The little-endian number of `len` bytes at `off`. -/
def leAt (l : List Byte) (off len : Nat) : Nat := fromLe (slice l off len)

/-- Bytes padded with zeros to a length. -/
def padTo (n : Nat) (l : List Byte) : List Byte := l ++ List.replicate (n - l.length) 0

/-- A list with element `i` replaced; unchanged beyond its end. -/
def setAt {α : Type} : List α → Nat → α → List α
  | [], _, _ => []
  | _ :: xs, 0, a => a :: xs
  | x :: xs, i + 1, a => x :: setAt xs i a

/-- A list with element `i` passed through `f`. -/
def modAt {α : Type} : List α → Nat → (α → α) → List α
  | [], _, _ => []
  | x :: xs, 0, f => f x :: xs
  | x :: xs, i + 1, f => x :: modAt xs i f

/-- The last `n` elements of a list. -/
def lastN {α : Type} (n : Nat) (l : List α) : List α := l.drop (l.length - n)

/-- Insertion by a strict order, after equal keys (a stable sort's step). -/
def insertBy {α : Type} (lt : α → α → Bool) (a : α) : List α → List α
  | [] => [a]
  | x :: xs => if lt a x then a :: x :: xs else x :: insertBy lt a xs

/-- Stable insertion sort by a strict order. -/
def sortBy {α : Type} (lt : α → α → Bool) (l : List α) : List α :=
  l.foldl (fun acc a => insertBy lt a acc) []

/-- Sum of a list of naturals. -/
def sumNat (l : List Nat) : Nat := l.foldl (· + ·) 0

/-- Sum of a list of integers. -/
def sumInt (l : List Int) : Int := l.foldl (· + ·) 0

/-- The largest of a list of naturals, 0 for none. -/
def maxNat (l : List Nat) : Nat := l.foldl max 0

/-! CRC-32C in its reflected form (R284). -/

/-- One bit of the reflected CRC-32C register. -/
def crc32cBit (c : BitVec 32) : BitVec 32 :=
  if c.getLsbD 0 then (c >>> 1) ^^^ 0x82F63B78#32 else c >>> 1

/-- One byte into the CRC-32C register. -/
def crc32cByte (c : BitVec 32) (b : Byte) : BitVec 32 :=
  crc32cBit (crc32cBit (crc32cBit (crc32cBit (crc32cBit (crc32cBit (crc32cBit (crc32cBit
    (c ^^^ b.setWidth 32))))))))

/-- CRC-32C of bytes: initial 0xFFFF_FFFF, final inversion (R284). PRESUMED, log entry 116. -/
def crc32c (l : List Byte) : BitVec 32 := (l.foldl crc32cByte 0xFFFFFFFF#32) ^^^ 0xFFFFFFFF#32

/-- The last four bytes of a received frame are the CRC-32C of the others, little-endian (R340). -/
def crcGood (raw : List Byte) : Bool :=
  decide (4 ≤ raw.length) && leAt raw (raw.length - 4) 4 == (crc32c (raw.take (raw.length - 4))).toNat

/-- The frame bytes of a received frame, its CRC-32C removed (R340). -/
def noCrc (raw : List Byte) : List Byte := raw.take (raw.length - 4)

/-- The bits of bytes in transmission order, least significant first (R127, R302). -/
def bitsOfBytes : List Byte → List Bool
  | [] => []
  | b :: bs => (List.range 8).map (fun i => b.getLsbD i) ++ bitsOfBytes bs

/-- The low `n` bits of a number, least significant first. -/
def bitsOfNat (n v : Nat) : List Bool := (List.range n).map (bitAt v)

/-- A frame on the wire (R340): the preamble 0x55 0x55, the delimiter 0xD5, its bytes and their CRC-32C, each bit as two half-bits, a 0
positive first, a 1 negative first. -/
def busLine (frame : List Byte) : List Bool :=
  (bitsOfBytes ([0x55#8, 0x55#8, 0xD5#8] ++ frame ++ le 4 (crc32c frame).toNat)).flatMap fun b => [!b, b]

/-- The number bits spell, least significant first. -/
def natOfBits : List Bool → Nat
  | [] => 0
  | b :: bs => b2n b + 2 * natOfBits bs

/-- The downlink CRC-8 of R154 over bits in transmission order. -/
def crc8 (l : List Bool) : BitVec 8 :=
  l.foldl (fun c b => let fb := c.getLsbD 7 != b
                      let c := c <<< 1
                      if fb then c ^^^ 0x07#8 else c) 0#8

/-- The return-frame CRC-16 of R303 over bits in transmission order. PRESUMED, log entry 116. -/
def crc16 (l : List Bool) : BitVec 16 :=
  l.foldl (fun c b => let fb := c.getLsbD 15 != b
                      let c := c <<< 1
                      if fb then c ^^^ 0x1021#16 else c) 0xFFFF#16

/-- A CRC register's bits in transmission order, most significant first (R154, R303). PRESUMED, log entry 116. -/
def crcBits {w : Nat} (c : BitVec w) : List Bool := (List.range w).map (fun i => c.getLsbD (w - 1 - i))

/-- A whole number limited to a range. -/
def clampTo (lo hi v : Int) : Int := if v < lo then lo else if hi < v then hi else v

/-! Sparse maps in one canonical form: keys strictly rising, no entry equal to the default. -/

/-- A sparse map from keys to naturals. -/
abbrev NMap := List (Nat × Nat)

/-- The value at a key, `d` where unlisted. -/
def mget (d : Nat) : NMap → Nat → Nat
  | [], _ => d
  | (k, v) :: m, key => if k = key then v else if key < k then d else mget d m key

/-- The map with `key` holding `v`; writing the default removes the entry. -/
def mput (d : Nat) : NMap → Nat → Nat → NMap
  | [], key, v => if v = d then [] else [(key, v)]
  | (k, x) :: m, key, v =>
    if k = key then (if v = d then m else (k, v) :: m)
    else if key < k then (if v = d then (k, x) :: m else (key, v) :: (k, x) :: m)
    else (k, x) :: mput d m key v

/-- The keys of a sparse map rise strictly from `lo`. -/
def mwf : Nat → NMap → Bool
  | _, [] => true
  | lo, (k, _) :: m => decide (lo ≤ k) && mwf (k + 1) m

end Sys2Proof.Machine
end

