-- ==== Sys2Proof/Machine/Regs.lean ====
section
/-! DEFINITION. The register fields of the 66 pages (R378), as the chapters' register tables give them: address on the
first page of the kind, bit 0 of the field, width, access code (R11) and reset value. -/
namespace Sys2Proof.Machine

/-- The access codes of R11. -/
inductive Acc where
  | rw | ro | w1c | wo | rws | rc
  deriving DecidableEq, Repr

/-- One register field. `kind` is 0 where every instance resets to `rst`, else it names a rule of `Fld.resetOf`. -/
structure Fld where
  addr : Nat
  lsb : Nat
  width : Nat
  acc : Acc
  rst : Nat
  kind : Nat
  deriving DecidableEq, Repr

namespace R

/-- R55: 0 PIN, 1 EMBEDDED; R32. -/
def trellis_TIMING_MODE : Fld := ⟨0x001040, 0, 1, .rw, 0, 0⟩
/-- R55: 0b00 k = 1, 0b01 k = 2, 0b10 k = 4; 0b11 refused. -/
def trellis_TIMING_KSEL : Fld := ⟨0x001040, 1, 2, .rws, 0, 0⟩
/-- R55: N_slot, 256 to 16,383. -/
def trellis_TIMING_NSLOT : Fld := ⟨0x001040, 16, 14, .rws, 256, 0⟩
/-- R55: Slot number of the marker slot; R29. -/
def trellis_ORBIT_CFG_MARK_SLOT : Fld := ⟨0x001044, 0, 14, .rws, 0, 0⟩
/-- R55: First quiet-window slot. -/
def trellis_QUIET_QW_FIRST : Fld := ⟨0x001048, 0, 14, .rws, 0, 0⟩
/-- R55: Quiet-window length in slots; R38. -/
def trellis_QUIET_QW_LEN : Fld := ⟨0x001048, 16, 14, .rws, 0, 0⟩
/-- R55: M, 1 to 1,024. -/
def trellis_MFRAME_MF_ORBITS : Fld := ⟨0x00104C, 0, 11, .rws, 48, 0⟩
/-- R55: Orbit number to load, [31:0]. -/
def trellis_ORBIT_LOAD_LO_ORBIT_LO : Fld := ⟨0x001050, 0, 32, .rw, 0, 0⟩
/-- R55: Orbit number to load, [47:32]. -/
def trellis_ORBIT_LOAD_HI_ORBIT_HI : Fld := ⟨0x001054, 0, 16, .rw, 0, 0⟩
/-- R55: 1 arms a load at the next marker; R30. -/
def trellis_ORBIT_LOAD_HI_LOAD : Fld := ⟨0x001054, 31, 1, .wo, 0, 0⟩
/-- R55: Orbit number [31:0]; a read latches ORBIT_NOW_HI. -/
def trellis_ORBIT_NOW_LO_ORBIT_LO : Fld := ⟨0x001058, 0, 32, .ro, 0, 0⟩
/-- R55: Orbit number [47:32], as latched. -/
def trellis_ORBIT_NOW_HI_ORBIT_HI : Fld := ⟨0x00105C, 0, 16, .ro, 0, 0⟩
/-- R55: Slot number. -/
def trellis_SLOT_NOW_SLOT : Fld := ⟨0x001060, 0, 14, .ro, 0, 0⟩
/-- R55: Jitter-cleaning PLL locked. -/
def trellis_TSTAT_BC_LOCK : Fld := ⟨0x001064, 0, 1, .ro, 0, 0⟩
/-- R55: Orbit locked; R31. -/
def trellis_TSTAT_ORBIT_LOCK : Fld := ⟨0x001064, 1, 1, .ro, 0, 0⟩
/-- R55: R35. -/
def trellis_TSTAT_TIMING_LOST : Fld := ⟨0x001064, 2, 1, .ro, 0, 0⟩
/-- R55: PLL holding its last control word. -/
def trellis_TSTAT_HOLDOVER : Fld := ⟨0x001064, 3, 1, .ro, 0, 0⟩
/-- R55: Bunch clock taken from H01; R34. -/
def trellis_TSTAT_SRC_H01 : Fld := ⟨0x001064, 4, 1, .ro, 0, 0⟩
/-- R55: R52. -/
def trellis_TSTAT_ALIGN_VALID : Fld := ⟨0x001064, 5, 1, .ro, 0, 0⟩
/-- R55: R51. -/
def trellis_TSTAT_ALIGN_HOLD : Fld := ⟨0x001064, 6, 1, .ro, 0, 0⟩
/-- R55: R51. -/
def trellis_TSTAT_ALIGN_LOST : Fld := ⟨0x001064, 7, 1, .ro, 0, 0⟩
/-- R55: Missing markers, saturating. -/
def trellis_ORBIT_MISS_COUNT : Fld := ⟨0x001068, 0, 16, .rc, 0, 0⟩
/-- R55: Misplaced markers, saturating. -/
def trellis_ORBIT_SLIP_COUNT : Fld := ⟨0x00106C, 0, 16, .rc, 0, 0⟩
/-- R55: Probes without accepted report. -/
def trellis_PROBE_CNT_MISS : Fld := ⟨0x001070, 0, 16, .rc, 0, 0⟩
/-- R55: Outlier reports. -/
def trellis_PROBE_CNT_OUTLIER : Fld := ⟨0x001070, 16, 16, .rc, 0, 0⟩
/-- R55: D_target in 1/65,536 slot, 0 to 4,095 slots. -/
def trellis_ALIGN_TARGET_D_TARGET : Fld := ⟨0x001074, 0, 28, .rws, 0, 0⟩
/-- R55: Signed d_up − d_down, in units of 1/65,536 ns. -/
def trellis_PROBE_ASYM_A : Fld := ⟨0x001078, 0, 32, .rw, 0, 0⟩
/-- R55: Rotator steps, 0 to 4,095. -/
def trellis_ALIGN_APPLIED_STEPS : Fld := ⟨0x00107C, 0, 12, .ro, 0, 0⟩
/-- R55: Whole sample periods. -/
def trellis_ALIGN_APPLIED_SAMPLES : Fld := ⟨0x00107C, 12, 20, .ro, 0, 0⟩
/-- R55: Estimated d_down in 1/65,536 slot. -/
def trellis_DDOWN_D_DOWN : Fld := ⟨0x001080, 0, 28, .ro, 0, 0⟩
/-- R55: Signed rotator steps, PIN mode; R54. -/
def trellis_PIN_OFFSET_OFFSET : Fld := ⟨0x001084, 0, 16, .rws, 0, 0⟩
/-- R55: Bed pair 0 to 11 for PAIR_PHASE. -/
def trellis_PAIR_INDEX_PAIR : Fld := ⟨0x001088, 0, 4, .rw, 0, 0⟩
/-- R55: Interpolator setting of the indexed pair. -/
def trellis_PAIR_PHASE_STEPS : Fld := ⟨0x00108C, 0, 9, .rws, 0, 0⟩
/-- R55: Nominal f_BC in units of 1 Hz: 0, or 30,000,000 to 50,000,000. Other. -/
def trellis_BC_NOMINAL_FREQ : Fld := ⟨0x001090, 0, 26, .rw, 0, 0⟩
/-- R79: Channel 0 to 31 for AFE_CFG. -/
def bed_AFE_INDEX_CH : Fld := ⟨0x010040, 0, 5, .rw, 0, 0⟩
/-- R79: 0 100 Ω, 1 high impedance; R57, R77. -/
def bed_AFE_CFG_TERM : Fld := ⟨0x010044, 0, 1, .rws, 1, 0⟩
/-- R79: R58. -/
def bed_AFE_CFG_GAIN : Fld := ⟨0x010044, 1, 2, .rws, 0, 0⟩
/-- R79: 0 disconnects the input; records carry the quality flag. -/
def bed_AFE_CFG_ENABLE : Fld := ⟨0x010044, 3, 1, .rws, 1, 0⟩
/-- R79: Bit i: channel i has clamped; R60. -/
def bed_CLAMP_CH : Fld := ⟨0x010048, 0, 32, .w1c, 0, 0⟩
/-- R79: Bit i: channel i has reported OR; R65. -/
def bed_OR_STICKY_CH : Fld := ⟨0x01004C, 0, 32, .w1c, 0, 0⟩
/-- R79: Bit i: termination of channel i disconnected; R61. -/
def bed_TERM_OPEN_CH : Fld := ⟨0x010050, 0, 32, .w1c, 0, 0⟩
/-- R79: Rotation enabled; R74. -/
def bed_ROT_CTRL_ENABLE : Fld := ⟨0x010054, 0, 1, .rws, 1, 0⟩
/-- R79: Mean-difference limit in LSB, 1 to 15; R72. -/
def bed_ROT_CTRL_MEAN_TOL : Fld := ⟨0x010054, 8, 4, .rws, 2, 0⟩
/-- R79: rms-difference limit in LSB, 1 to 15. -/
def bed_ROT_CTRL_RMS_TOL : Fld := ⟨0x010054, 12, 4, .rws, 3, 0⟩
/-- R79: Slice now spare; 63 if none. -/
def bed_ROT_STAT_SPARE : Fld := ⟨0x010058, 0, 6, .ro, 32, 0⟩
/-- R79: Channel the spare is on. -/
def bed_ROT_STAT_NEXT_CH : Fld := ⟨0x010058, 8, 5, .ro, 0, 0⟩
/-- R79: 0 idle, 1 calibrating, 2 comparing, 3 cross-checking. -/
def bed_ROT_STAT_STATE : Fld := ⟨0x010058, 16, 2, .ro, 0, 0⟩
/-- R79: R73 step 3. -/
def bed_ROT_STAT_SLICE_FAULT : Fld := ⟨0x010058, 18, 1, .ro, 0, 0⟩
/-- R79: R73 step 4. -/
def bed_ROT_STAT_SPARE_FAULT : Fld := ⟨0x010058, 19, 1, .ro, 0, 0⟩
/-- R79: Mismatches since reset, saturating. -/
def bed_ROT_STAT_MISMATCH : Fld := ⟨0x010058, 24, 8, .ro, 0, 0⟩
/-- R79: Slice 0 to 32 for the registers at 0x060–0x06C. -/
def bed_SLICE_INDEX_SLICE : Fld := ⟨0x01005C, 0, 6, .rw, 0, 0⟩
/-- R79: Signed offset correction in 1/64 LSB. -/
def bed_SLICE_OFFSET_OFFSET : Fld := ⟨0x010060, 0, 16, .ro, 0, 0⟩
/-- R79: Gain correction, unsigned Q2.14. -/
def bed_SLICE_GAIN_GAIN : Fld := ⟨0x010064, 0, 16, .ro, 16384, 0⟩
/-- R79: Skew trim in 0.4 ps steps; 32 is centre. -/
def bed_SLICE_SKEW_SKEW : Fld := ⟨0x010068, 0, 6, .ro, 32, 0⟩
/-- R79: Channel served; 32 spare; 63 out of use. -/
def bed_SLICE_MAP_CH : Fld := ⟨0x01006C, 0, 6, .ro, 0, 1⟩
/-- R79: Handovers since reset, wrapping. -/
def bed_HANDOVERS_COUNT : Fld := ⟨0x010070, 0, 32, .ro, 0, 0⟩
/-- R79: Channel to test. -/
def bed_LINECHK_CH : Fld := ⟨0x010074, 0, 5, .rw, 0, 0⟩
/-- R79: 1 starts a check at the next quiet window; R76. -/
def bed_LINECHK_START : Fld := ⟨0x010074, 7, 1, .wo, 0, 0⟩
/-- R79: Bits [2i+1:2i]: line class of channel i, channels 0–15. -/
def bed_LINE_STAT_LO_CH : Fld := ⟨0x010078, 0, 32, .ro, 0, 0⟩
/-- R79: Bits [2i+1:2i]: line class of channel 16 + i. -/
def bed_LINE_STAT_HI_CH : Fld := ⟨0x01007C, 0, 32, .ro, 0, 0⟩
/-- R99: Channel 0 to 767. -/
def sieve_CH_INDEX_CH : Fld := ⟨0x028040, 0, 10, .rw, 0, 0⟩
/-- R99: Coefficient bank; R88. -/
def sieve_CH_CFG_BANK : Fld := ⟨0x028044, 0, 4, .rws, 1, 0⟩
/-- R99: Stage-0 shift. -/
def sieve_CH_CFG_S0 : Fld := ⟨0x028044, 4, 4, .rws, 12, 0⟩
/-- R99: Stage-1 shift. -/
def sieve_CH_CFG_S1 : Fld := ⟨0x028044, 8, 4, .rws, 14, 0⟩
/-- R99: 0 SIEVE.PED, 1 pedestal follower; R84. -/
def sieve_CH_CFG_PED_SRC : Fld := ⟨0x028044, 12, 1, .rws, 0, 0⟩
/-- R99: Negate the fast value; R98. -/
def sieve_CH_CFG_FP_INV : Fld := ⟨0x028044, 13, 1, .rws, 0, 0⟩
/-- R99: 0 AUTO, 1 to 63 slots; R93. -/
def sieve_CH_CFG_LABEL : Fld := ⟨0x028044, 16, 6, .rws, 0, 0⟩
/-- R99: Signed, in 1/1,024 sample; R82. -/
def sieve_FD_DELAY_D : Fld := ⟨0x028048, 0, 14, .rws, 0, 0⟩
/-- R99: Unsigned Q2.14; R83. -/
def sieve_GAIN_G : Fld := ⟨0x02804C, 0, 16, .rws, 16384, 0⟩
/-- R99: Signed, in units of y0. -/
def sieve_PED_PED : Fld := ⟨0x028050, 0, 18, .rws, 0, 0⟩
/-- R99: Group delay in 1/256 sample; R91. -/
def sieve_GD_GD : Fld := ⟨0x028054, 0, 16, .ro, 7424, 0⟩
/-- R99: In 1/256 sample; R92. -/
def sieve_GD_RESID : Fld := ⟨0x028054, 16, 10, .ro, 0, 0⟩
/-- R99: Slots; R92. -/
def sieve_LABEL_STAT_LBL_NEED : Fld := ⟨0x028058, 0, 6, .ro, 29, 0⟩
/-- R99: Slots; 0 until STREAM_START; R93. -/
def sieve_LABEL_STAT_LBL_HELD : Fld := ⟨0x028058, 8, 6, .ro, 0, 0⟩
/-- R99: Bit t: stage t has saturated; R97. -/
def sieve_SAT_STICKY_STAGE : Fld := ⟨0x02805C, 0, 5, .w1c, 0, 0⟩
/-- R99: Pedestal in use. -/
def sieve_PED_NOW_PED : Fld := ⟨0x028060, 0, 18, .ro, 0, 0⟩
/-- R99: Saturated values, all channels, saturating. -/
def sieve_SAT_COUNT_COUNT : Fld := ⟨0x028070, 0, 32, .rc, 0, 0⟩
/-- R99: Side-by-side changes; R95. -/
def sieve_TRANSITIONS_COUNT : Fld := ⟨0x028074, 0, 16, .rc, 0, 0⟩
/-- R100: Bank 0 to 15 for the registers below. -/
def coef_BANK_INDEX_BANK : Fld := ⟨0x029040, 0, 4, .rw, 0, 0⟩
/-- R100: 0 linear-phase, 1 minimum-phase. -/
def coef_BANK_CFG_KIND : Fld := ⟨0x029044, 0, 1, .rws, 0, 5⟩
/-- R100: 1 to 32. -/
def coef_BANK_CFG_N2 : Fld := ⟨0x029044, 4, 6, .rws, 1, 6⟩
/-- R100: 1 to 8. -/
def coef_BANK_CFG_N4 : Fld := ⟨0x029044, 12, 4, .rws, 1, 7⟩
/-- R100: Stage-2 shift. -/
def coef_BANK_CFG_S2 : Fld := ⟨0x029044, 16, 4, .rws, 14, 8⟩
/-- R100: Stage-3 shift. -/
def coef_BANK_CFG_S3 : Fld := ⟨0x029044, 20, 4, .rws, 0, 9⟩
/-- R100: Stage-4 shift. -/
def coef_BANK_CFG_S4 : Fld := ⟨0x029044, 24, 4, .rws, 12, 0⟩
/-- R100: 0 PICK, 1 SUM; R86. -/
def coef_BANK_CFG_DEC_MODE : Fld := ⟨0x029044, 28, 1, .rws, 1, 0⟩
/-- R100: Phase P for PICK. -/
def coef_BANK_CFG_DEC_PHASE : Fld := ⟨0x029044, 29, 2, .rws, 0, 0⟩
/-- R100: 0 to 31: h2[TAP]; 32 to 39: h4[TAP − 32]. -/
def coef_TAP_INDEX_TAP : Fld := ⟨0x029048, 0, 6, .rw, 0, 0⟩
/-- R100: Signed coefficient at TAP_INDEX; a write or read advances TAP_INDEX. -/
def coef_COEF_VALUE : Fld := ⟨0x02904C, 0, 16, .rws, 0, 4⟩
/-- R100: Stage-2 term in 1/256 sample; R91. -/
def coef_BANK_GD_GD2 : Fld := ⟨0x029050, 0, 16, .ro, 0, 10⟩
/-- R100: Stage-4 term in 1/256 slot. -/
def coef_BANK_GD_GD4 : Fld := ⟨0x029050, 16, 16, .ro, 0, 11⟩
/-- R124: Bed 0 to 23. -/
def rec_BED_INDEX_BED : Fld := ⟨0x02A040, 0, 5, .rw, 0, 0⟩
/-- R124: 0 OFF, 1 BASE16, 2 PAIR32, 3 RAW; R101. -/
def rec_BED_CFG_MODE : Fld := ⟨0x02A044, 0, 2, .rws, 1, 0⟩
/-- R124: R102. -/
def rec_BED_CFG_VSHIFT : Fld := ⟨0x02A044, 2, 3, .rws, 4, 0⟩
/-- R124: R113. -/
def rec_BED_CFG_LZ_EN : Fld := ⟨0x02A044, 5, 1, .rws, 0, 0⟩
/-- R124: Slots, 0 to 2; 3 refused. -/
def rec_BED_CFG_LZ_PRE : Fld := ⟨0x02A044, 6, 2, .rws, 0, 0⟩
/-- R124: Slots, 0 to 15. -/
def rec_BED_CFG_LZ_POST : Fld := ⟨0x02A044, 8, 4, .rws, 0, 0⟩
/-- R124: Furrow of the bed groups. -/
def rec_BED_CFG_FURROW : Fld := ⟨0x02A044, 16, 16, .rws, 0, 2⟩
/-- R124: Channel 0 to 767. -/
def rec_CH_INDEX_CH : Fld := ⟨0x02A048, 0, 10, .rw, 0, 0⟩
/-- R124: Threshold class; R110. -/
def rec_CH_CFG_CLASS : Fld := ⟨0x02A04C, 0, 3, .rws, 0, 0⟩
/-- R124: 0 positive-going, 1 negative-going. -/
def rec_CH_CFG_POL : Fld := ⟨0x02A04C, 3, 1, .rws, 0, 0⟩
/-- R124: Class 0 to 7. -/
def rec_THR_INDEX_CLASS : Fld := ⟨0x02A050, 0, 3, .rw, 0, 0⟩
/-- R124: Offset in y4 units. -/
def rec_THR_OFF_OFFSET : Fld := ⟨0x02A054, 0, 19, .rws, 524287, 0⟩
/-- R124: R108. -/
def rec_PF_CFG_TAU : Fld := ⟨0x02A058, 0, 4, .rws, 6, 0⟩
/-- R124: Slots; R107. -/
def rec_PF_CFG_GUARD : Fld := ⟨0x02A058, 4, 6, .rws, 16, 0⟩
/-- R124: y4 units. -/
def rec_PF_CFG_JUMP : Fld := ⟨0x02A058, 12, 20, .rws, 4096, 0⟩
/-- R124: Signed B4 of the indexed channel. -/
def rec_PF_B4_B4 : Fld := ⟨0x02A05C, 0, 20, .ro, 0, 0⟩
/-- R124: R108. -/
def rec_PF_B4_SEEDED : Fld := ⟨0x02A05C, 31, 1, .ro, 0, 0⟩
/-- R124: Windows without update, all channels, saturating. -/
def rec_PF_STAT_SKIP : Fld := ⟨0x02A060, 0, 16, .rc, 0, 0⟩
/-- R124: Discarded windows, saturating. -/
def rec_PF_STAT_JUMPS : Fld := ⟨0x02A060, 16, 16, .rc, 0, 0⟩
/-- R124: Channel 0 to 767. -/
def rec_MEAS_INDEX_CH : Fld := ⟨0x02A064, 0, 10, .rw, 0, 0⟩
/-- R124: v at the latest PEAK; R112. -/
def rec_MEAS_AMP_AMP : Fld := ⟨0x02A068, 0, 21, .ro, 0, 0⟩
/-- R124: Of the latest PEAK. -/
def rec_MEAS_PEAK_FTIME : Fld := ⟨0x02A06C, 0, 10, .ro, 0, 0⟩
/-- R124: Label of the latest PEAK. -/
def rec_MEAS_PEAK_SLOT : Fld := ⟨0x02A06C, 10, 14, .ro, 0, 0⟩
/-- R124: Latest period, 1/1,024 slot. -/
def rec_MEAS_PERIOD_PERIOD : Fld := ⟨0x02A070, 0, 32, .ro, 0, 0⟩
/-- R124: Shortest period since the count was read. -/
def rec_MEAS_PMIN_PMIN : Fld := ⟨0x02A074, 0, 32, .ro, 4294967295, 0⟩
/-- R124: Longest period since the count was read. -/
def rec_MEAS_PMAX_PMAX : Fld := ⟨0x02A078, 0, 32, .ro, 0, 0⟩
/-- R124: Periods measured; a read resets PMIN and PMAX. -/
def rec_MEAS_PCOUNT_COUNT : Fld := ⟨0x02A07C, 0, 32, .rc, 0, 0⟩
/-- R124: Zeroed values, all channels, saturating. -/
def rec_LZ_COUNT_COUNT : Fld := ⟨0x02A080, 0, 32, .rc, 0, 0⟩
/-- R124: R106; 0 until STREAM_START. -/
def rec_LAT_L_MAX : Fld := ⟨0x02A084, 0, 6, .ro, 0, 0⟩
/-- R124: L_MAX + 8 slots, 8 to 71; R123. -/
def rec_LAT_PIN_TO_COLL : Fld := ⟨0x02A084, 8, 7, .ro, 0, 0⟩
/-- R125: Sentinel 0 to 15. -/
def sent_SN_INDEX_SN : Fld := ⟨0x02B040, 0, 4, .rw, 0, 0⟩
/-- R125: Sentinel enabled. -/
def sent_SN_CFG_ENABLE : Fld := ⟨0x02B044, 0, 1, .rws, 0, 0⟩
/-- R125: OR is a violation; R116. -/
def sent_SN_CFG_OR_VIOL : Fld := ⟨0x02B044, 1, 1, .rws, 1, 0⟩
/-- R125: R119. -/
def sent_SN_CFG_AUTO_REARM : Fld := ⟨0x02B044, 2, 1, .rws, 1, 0⟩
/-- R125: R115. -/
def sent_SN_CFG_REF_SRC : Fld := ⟨0x02B044, 3, 2, .rws, 0, 0⟩
/-- R125: Trigger input for REF_SRC 1. -/
def sent_SN_CFG_TRIG : Fld := ⟨0x02B044, 5, 3, .rws, 0, 0⟩
/-- R125: Watched channel 0 to 767. -/
def sent_SN_CFG_CH : Fld := ⟨0x02B044, 16, 10, .rws, 0, 0⟩
/-- R125: Signed, −64 to +63 samples. -/
def sent_SN_ALIGN_ALIGN : Fld := ⟨0x02B048, 0, 8, .rws, 0, 0⟩
/-- R125: Slot for REF_SRC 2. -/
def sent_SN_ALIGN_REF_SLOT : Fld := ⟨0x02B048, 16, 14, .rws, 0, 0⟩
/-- R125: Samples after the violation; R117. -/
def sent_SN_POST_POST : Fld := ⟨0x02B04C, 0, 13, .rws, 4096, 0⟩
/-- R125: Mask sample 0 to 63. -/
def sent_MASK_INDEX_I : Fld := ⟨0x02B050, 0, 6, .rw, 0, 0⟩
/-- R125: Signed code; a write or read advances MASK_INDEX, from 63 to 0. -/
def sent_MASK_UPPER : Fld := ⟨0x02B054, 0, 14, .rws, 8191, 0⟩
/-- R125: Signed code. -/
def sent_MASK_LOWER : Fld := ⟨0x02B054, 16, 14, .rws, 8192, 0⟩
/-- R125: 0 ARMED or disabled, 1 COMPARING, 2 POST, 3 FROZEN. -/
def sent_SN_STAT_STATE : Fld := ⟨0x02B058, 0, 2, .ro, 0, 0⟩
/-- R125: Mask sample of the last violation. -/
def sent_SN_STAT_VIOL_I : Fld := ⟨0x02B058, 8, 6, .ro, 0, 0⟩
/-- R125: Snapshot count, wrapping. -/
def sent_SN_STAT_SNAP : Fld := ⟨0x02B058, 16, 16, .ro, 0, 0⟩
/-- R125: Bit n: sentinel n has violated. -/
def sent_ALARM_SN : Fld := ⟨0x02B05C, 0, 16, .w1c, 0, 0⟩
/-- R125: Bit n: re-arm sentinel n under R119. -/
def sent_REARM_SN : Fld := ⟨0x02B060, 0, 16, .wo, 0, 0⟩
/-- R125: Skipped reference events, all sentinels, saturating. -/
def sent_REF_SKIP_COUNT : Fld := ⟨0x02B064, 0, 16, .rc, 0, 0⟩
/-- R148: Lane 0 to 31 (LANES_H: 0 to 15). -/
def lane_LANE_INDEX_LANE : Fld := ⟨0x030040, 0, 5, .rw, 0, 0⟩
/-- R148: R129. -/
def lane_LANE_CFG_TX_PRECODE : Fld := ⟨0x030044, 0, 1, .rws, 0, 0⟩
/-- R148: R129. -/
def lane_LANE_CFG_RX_PRECODE : Fld := ⟨0x030044, 1, 1, .rws, 0, 0⟩
/-- R148: R131. -/
def lane_LANE_CFG_TX_INV : Fld := ⟨0x030044, 2, 1, .rws, 0, 0⟩
/-- R148: R131. -/
def lane_LANE_CFG_RX_INV : Fld := ⟨0x030044, 3, 1, .rws, 0, 0⟩
/-- R148: R140. -/
def lane_LANE_CFG_FFE_PRE : Fld := ⟨0x030044, 8, 4, .rws, 0, 0⟩
/-- R148: R140. -/
def lane_LANE_CFG_FFE_POST : Fld := ⟨0x030044, 12, 5, .rws, 0, 0⟩
/-- R148: 0 active, 1 shallow, 2 deep; 3 ignored and counted; R146. -/
def lane_PWR_REQ_TX_REQ : Fld := ⟨0x030048, 0, 2, .rw, 2, 0⟩
/-- R148: As TX_REQ. -/
def lane_PWR_REQ_RX_REQ : Fld := ⟨0x030048, 2, 2, .rw, 2, 0⟩
/-- R148: R135. -/
def lane_LANE_STAT_BLOCK_LOCK : Fld := ⟨0x03004C, 0, 1, .ro, 0, 0⟩
/-- R148: R137; 0 on lanes that are not bunch-locked. -/
def lane_LANE_STAT_FRAME_LOCK : Fld := ⟨0x03004C, 1, 1, .ro, 0, 0⟩
/-- R148: 0 active, 1 shallow, 2 deep, 3 changing. -/
def lane_LANE_STAT_TX_STATE : Fld := ⟨0x03004C, 2, 2, .ro, 2, 0⟩
/-- R148: As TX_STATE. -/
def lane_LANE_STAT_RX_STATE : Fld := ⟨0x03004C, 4, 2, .ro, 2, 0⟩
/-- R148: R145. -/
def lane_LANE_STAT_WAKE_PENDING : Fld := ⟨0x03004C, 6, 1, .ro, 0, 0⟩
/-- R148: R138. -/
def lane_LANE_STAT_BOUND_HIT : Fld := ⟨0x03004C, 7, 1, .ro, 0, 0⟩
/-- R148: Header and BFS errors, saturating. -/
def lane_HDR_ERR_COUNT : Fld := ⟨0x030050, 0, 32, .rc, 0, 0⟩
/-- R148: Block-lock losses, saturating. -/
def lane_LOCK_LOSS_BLOCK : Fld := ⟨0x030054, 0, 16, .rc, 0, 0⟩
/-- R148: Frame-lock losses, saturating. -/
def lane_LOCK_LOSS_FRAME : Fld := ⟨0x030054, 16, 16, .rc, 0, 0⟩
/-- R148: Lowest peaking, 0.5 dB steps. -/
def lane_CTLE_BOUND_MIN : Fld := ⟨0x030058, 0, 6, .ro, 0, 0⟩
/-- R148: Highest peaking, 0.5 dB steps. -/
def lane_CTLE_BOUND_MAX : Fld := ⟨0x030058, 8, 6, .ro, 36, 0⟩
/-- R148: Magnitude limit of tap 1, 1/64 of the outer level. -/
def lane_DFE_BOUND_H1_MAX : Fld := ⟨0x03005C, 0, 6, .ro, 32, 0⟩
/-- R148: Magnitude limit of taps 2 to 12. -/
def lane_DFE_BOUND_HN_MAX : Fld := ⟨0x03005C, 8, 6, .ro, 16, 0⟩
/-- R148: Peaking in use, 0.5 dB steps. -/
def lane_EQ_NOW_CTLE : Fld := ⟨0x030060, 0, 6, .ro, 0, 0⟩
/-- R148: Signed tap 1 in use, 1/64 of the outer level. -/
def lane_EQ_NOW_H1 : Fld := ⟨0x030060, 8, 7, .ro, 0, 0⟩
/-- R148: 1 starts a scan; R147. -/
def lane_EYE_CTRL_START : Fld := ⟨0x030064, 0, 1, .wo, 0, 0⟩
/-- R148: 10 to 24; other values ignored and counted. -/
def lane_EYE_CTRL_DWELL : Fld := ⟨0x030064, 1, 5, .rw, 16, 0⟩
/-- R148: 1/64 symbol. -/
def lane_EYE_RESULT_WIDTH : Fld := ⟨0x030068, 0, 7, .ro, 0, 0⟩
/-- R148: Last scan completed. -/
def lane_EYE_RESULT_VALID : Fld := ⟨0x030068, 7, 1, .ro, 0, 0⟩
/-- R148: 2 mV steps. -/
def lane_EYE_RESULT_HEIGHT : Fld := ⟨0x030068, 8, 8, .ro, 0, 0⟩
/-- R148: 0 lower, 1 middle, 2 upper eye. -/
def lane_EYE_RESULT_WORST : Fld := ⟨0x030068, 16, 2, .ro, 0, 0⟩
/-- R148: Management frames per pause; R141. -/
def lane_RETRAIN_INTERVAL : Fld := ⟨0x03006C, 0, 16, .ro, 1024, 0⟩
/-- R148: Pauses completed, wrapping. -/
def lane_RETRAIN_COUNT : Fld := ⟨0x03006C, 16, 16, .ro, 0, 0⟩
/-- R177: Port 0 to 31. -/
def ing_PORT_INDEX_PORT : Fld := ⟨0x032040, 0, 5, .rw, 0, 0⟩
/-- R177: R149. -/
def ing_PORT_CFG_ENABLE : Fld := ⟨0x032044, 0, 1, .rws, 0, 0⟩
/-- R177: R171, R174. -/
def ing_PORT_CFG_CLUSTER_EN : Fld := ⟨0x032044, 1, 1, .rws, 0, 0⟩
/-- R177: R160. -/
def ing_PORT_CFG_SC_REPLY_EN : Fld := ⟨0x032044, 2, 1, .rws, 0, 0⟩
/-- R177: R157. -/
def ing_PORT_CFG_TA_FWD : Fld := ⟨0x032044, 3, 1, .rws, 0, 0⟩
/-- R177: 1/64 slot; R156. -/
def ing_PORT_CFG_TX_PHASE : Fld := ⟨0x032044, 4, 6, .rws, 0, 0⟩
/-- R177: R174. -/
def ing_PORT_CFG_FURROW : Fld := ⟨0x032044, 16, 16, .rws, 0, 3⟩
/-- R177: R174. -/
def ing_LATE_FURROW_FURROW : Fld := ⟨0x032048, 0, 16, .rws, 544, 0⟩
/-- R177: Slots, 64 to 4,096; R162. -/
def ing_ALIGN_LAT : Fld := ⟨0x03204C, 0, 13, .rws, 512, 0⟩
/-- R177: R157, R158. -/
def ing_FC_SCHED_OM_SLOT : Fld := ⟨0x032050, 0, 14, .rws, 0, 0⟩
/-- R177: R157, R158. -/
def ing_FC_SCHED_CAL_SLOT : Fld := ⟨0x032050, 16, 14, .rws, 0, 0⟩
/-- R177: Orbits; 0 off. -/
def ing_FC_CAL_CAL_EVERY : Fld := ⟨0x032054, 0, 16, .rws, 0, 0⟩
/-- R177: 0x04, 0x05 or 0x10–0x1F; other codes ignored and counted in ERR_COUNT. -/
def ing_FC_REQ_CODE : Fld := ⟨0x032058, 0, 7, .wo, 0, 0⟩
/-- R177: 1 all enabled ports, 0 the indexed port. -/
def ing_FC_REQ_ALL : Fld := ⟨0x032058, 7, 1, .wo, 0, 0⟩
/-- R177: Queued for the indexed port; a write to a full queue is ignored and. -/
def ing_SC_TX_BYTE : Fld := ⟨0x03205C, 0, 8, .wo, 0, 0⟩
/-- R177: R155. -/
def ing_SC_TX_FIRST : Fld := ⟨0x03205C, 8, 1, .wo, 0, 0⟩
/-- R177: R155. -/
def ing_SC_TX_LAST : Fld := ⟨0x03205C, 9, 1, .wo, 0, 0⟩
/-- R177: Oldest reply byte; the read removes it. -/
def ing_SC_RX_BYTE : Fld := ⟨0x032060, 0, 8, .rc, 0, 0⟩
/-- R177: R160. -/
def ing_SC_RX_FIRST : Fld := ⟨0x032060, 8, 1, .rc, 0, 0⟩
/-- R177: R160. -/
def ing_SC_RX_LAST : Fld := ⟨0x032060, 9, 1, .rc, 0, 0⟩
/-- R177: 1 if a byte was returned. -/
def ing_SC_RX_VALID : Fld := ⟨0x032060, 10, 1, .rc, 0, 0⟩
/-- R177: STATUS of the last frame. -/
def ing_PORT_STAT_STATUS : Fld := ⟨0x032064, 0, 6, .ro, 0, 0⟩
/-- R177: Groups in the late queue; R164. -/
def ing_PORT_STAT_QUEUE : Fld := ⟨0x032064, 16, 14, .ro, 0, 0⟩
/-- R177: Frames received, saturating. -/
def ing_CNT_FRAMES_FRAMES : Fld := ⟨0x032068, 0, 24, .rc, 0, 0⟩
/-- R177: Filler frames, saturating. -/
def ing_CNT_FRAMES_FILLER : Fld := ⟨0x032068, 24, 8, .rc, 0, 0⟩
/-- R177: LATE frames, saturating. -/
def ing_CNT_LATE_LATE : Fld := ⟨0x03206C, 0, 16, .rc, 0, 0⟩
/-- R177: DUP frames, saturating. -/
def ing_CNT_LATE_DUP : Fld := ⟨0x03206C, 16, 16, .rc, 0, 0⟩
/-- R177: R165, saturating. -/
def ing_CNT_GAP_GAP : Fld := ⟨0x032070, 0, 32, .rc, 0, 0⟩
/-- R177: BADO frames, saturating. -/
def ing_CNT_MISC_BADO : Fld := ⟨0x032074, 0, 16, .rc, 0, 0⟩
/-- R177: Reply bytes discarded; R160. -/
def ing_CNT_MISC_SC_OVF : Fld := ⟨0x032074, 16, 16, .rc, 0, 0⟩
/-- R177: Groups with HERR, and HDRX frames discarded (R161), saturating. -/
def ing_CNT_HERR_HERR : Fld := ⟨0x032078, 0, 32, .rc, 0, 0⟩
/-- R177: Accepts discarded; R158. -/
def ing_CNT_CMD_ACC : Fld := ⟨0x03207C, 0, 16, .rc, 0, 0⟩
/-- R177: FC_REQ commands discarded. -/
def ing_CNT_CMD_REQ : Fld := ⟨0x03207C, 16, 16, .rc, 0, 0⟩
/-- R177: Class 0 to 15 of the indexed port. -/
def ing_CLS_INDEX_CLASS : Fld := ⟨0x032080, 0, 4, .rw, 0, 0⟩
/-- R177: R167. -/
def ing_CLS_CFG_ACTION : Fld := ⟨0x032084, 0, 2, .rws, 0, 0⟩
/-- R177: Signed; R168. -/
def ing_CLS_CFG_OFFSET : Fld := ⟨0x032084, 2, 10, .rws, 0, 0⟩
/-- R177: Signed, 1/16 slot. -/
def ing_CLS_CFG_FTO : Fld := ⟨0x032084, 12, 5, .rws, 0, 0⟩
/-- R177: Unsigned Q4.12. -/
def ing_CLS_GAIN_GAIN : Fld := ⟨0x032088, 0, 16, .rws, 4096, 0⟩
/-- R177: Dropped hits of the indexed port and class, saturating; R169. -/
def ing_DROP_COUNT_COUNT : Fld := ⟨0x03208C, 0, 32, .rc, 0, 0⟩
/-- R178: Word ch >> 3 of the port; R166. -/
def cwin_CS_INDEX_WORD : Fld := ⟨0x033040, 0, 15, .rw, 0, 0⟩
/-- R178: Port 0 to 31. -/
def cwin_CS_INDEX_PORT : Fld := ⟨0x033040, 15, 5, .rw, 0, 0⟩
/-- R178: Classes of channels 8 × WORD to 8 × WORD + 7. A read or write. -/
def cwin_CS_DATA_CLASSES : Fld := ⟨0x033044, 0, 32, .rws, 0, 0⟩
/-- R178: Words staged for the next commit, up to 4,096; R170. -/
def cwin_CS_STAGED_COUNT : Fld := ⟨0x033048, 0, 13, .ro, 0, 0⟩
/-- R197: Bit n: TRIGn forms marks. -/
def dib_SRC_EN_TRIG : Fld := ⟨0x034040, 0, 8, .rws, 0, 0⟩
/-- R197: Accepts form marks. -/
def dib_SRC_EN_ACC : Fld := ⟨0x034040, 8, 1, .rws, 0, 0⟩
/-- R197: Input 0 to 7. -/
def dib_TRIG_INDEX_TRIG : Fld := ⟨0x034044, 0, 3, .rw, 0, 0⟩
/-- R197: 0 rising, 1 falling, 2 both; 3 refused with BAD_PARAM. -/
def dib_TRIG_CFG_EDGE : Fld := ⟨0x034048, 0, 2, .rws, 0, 0⟩
/-- R197: 100 Ω termination; R181. -/
def dib_TRIG_CFG_TERM : Fld := ⟨0x034048, 2, 1, .rws, 1, 0⟩
/-- R197: Slots, 1 to 255; 0 refused. -/
def dib_TRIG_CFG_DEAD : Fld := ⟨0x034048, 8, 8, .rws, 1, 0⟩
/-- R197: Signed TDC bins; R182. -/
def dib_TRIG_OFFSET_OFFSET : Fld := ⟨0x03404C, 0, 16, .rws, 0, 0⟩
/-- R197: Marks formed by the indexed input, saturating. -/
def dib_TRIG_COUNT_COUNT : Fld := ⟨0x034050, 0, 32, .rc, 0, 0⟩
/-- R197: Marks queued; R184. -/
def dib_MARK_STAT_QUEUE : Fld := ⟨0x034054, 0, 10, .ro, 0, 0⟩
/-- R197: MSEQ of the next mark. -/
def dib_MARK_STAT_MSEQ : Fld := ⟨0x034054, 16, 16, .ro, 0, 0⟩
/-- R197: Edges ignored in dead time, all inputs, saturating. -/
def dib_DROP_TRIG_DEAD : Fld := ⟨0x034058, 0, 16, .rc, 0, 0⟩
/-- R197: Edges refused by the ration, all inputs, saturating. -/
def dib_DROP_TRIG_RATION : Fld := ⟨0x034058, 16, 16, .rc, 0, 0⟩
/-- R197: Self-triggers refused by the ration, saturating. -/
def dib_DROP_SELF_COUNT : Fld := ⟨0x03405C, 0, 16, .rc, 0, 0⟩
/-- R197: Accepts refused by the ration, saturating. -/
def dib_DROP_ACC_RATION : Fld := ⟨0x034060, 0, 16, .rc, 0, 0⟩
/-- R197: Accepts with SLOT ≥ N_slot, saturating. -/
def dib_DROP_ACC_BAD : Fld := ⟨0x034060, 16, 16, .rc, 0, 0⟩
/-- R198: Sums formed; self-triggers possible. -/
def fsum_CTRL_ENABLE : Fld := ⟨0x035040, 0, 1, .rws, 0, 0⟩
/-- R198: Segments sent and charged; R192, R196. -/
def fsum_CTRL_SEND : Fld := ⟨0x035040, 1, 1, .rws, 0, 0⟩
/-- R198: 0 H00, 1 H01; R195. -/
def fsum_CTRL_LANE : Fld := ⟨0x035040, 2, 1, .rws, 0, 0⟩
/-- R198: R194. -/
def fsum_CTRL_FURROW : Fld := ⟨0x035040, 16, 16, .rws, 65280, 0⟩
/-- R198: Sum 0 to 63. -/
def fsum_SUM_INDEX_SUM : Fld := ⟨0x035044, 0, 6, .rw, 0, 0⟩
/-- R198: Sum formed and sent. -/
def fsum_SUM_CFG_ENABLE : Fld := ⟨0x035048, 0, 1, .rws, 0, 0⟩
/-- R198: Self-trigger; R191. -/
def fsum_SUM_CFG_TRIG_EN : Fld := ⟨0x035048, 1, 1, .rws, 0, 0⟩
/-- R198: R189. -/
def fsum_SUM_CFG_SHIFT : Fld := ⟨0x035048, 2, 4, .rws, 0, 0⟩
/-- R198: Signed threshold. -/
def fsum_SUM_CFG_THR : Fld := ⟨0x035048, 16, 11, .rws, 1023, 0⟩
/-- R198: Slots, 0 to 1,023. -/
def fsum_SUM_HOLD_HOLDOFF : Fld := ⟨0x03504C, 0, 10, .rws, 0, 0⟩
/-- R198: Member 0 to 31. -/
def fsum_MEMBER_INDEX_MEMBER : Fld := ⟨0x035050, 0, 5, .rw, 0, 0⟩
/-- R198: Channel 0 to 767. -/
def fsum_MEMBER_CH : Fld := ⟨0x035054, 0, 10, .rws, 0, 0⟩
/-- R198: Signed weight; 0 unused. A read or write advances MEMBER_INDEX, from. -/
def fsum_MEMBER_W : Fld := ⟨0x035054, 16, 4, .rws, 0, 0⟩
/-- R198: Signed val of the latest slot. -/
def fsum_SUM_NOW_VAL : Fld := ⟨0x035058, 0, 11, .ro, 0, 0⟩
/-- R198: R189. -/
def fsum_SUM_NOW_FLAG : Fld := ⟨0x035058, 11, 1, .ro, 0, 0⟩
/-- R198: Self-triggers of the indexed sum, saturating. -/
def fsum_SELF_COUNT_COUNT : Fld := ⟨0x03505C, 0, 32, .rc, 0, 0⟩
/-- R198: Fast-sum segments whose first block has left the transmit pins,. -/
def fsum_SEG_COUNT_COUNT : Fld := ⟨0x035060, 0, 32, .rc, 0, 0⟩
/-- R198: Fast-sum segments discarded; R195. -/
def fsum_SEG_LOST_COUNT : Fld := ⟨0x035064, 0, 32, .rc, 0, 0⟩
/-- R221: Furrow 0x0000 to 0xFFFF. -/
def fwin_F_INDEX_FURROW : Fld := ⟨0x038040, 0, 16, .rw, 0, 0⟩
/-- R221: 64 KiB units; R202. -/
def fwin_D_BASE_BASE : Fld := ⟨0x038044, 0, 20, .rws, 0, 0⟩
/-- R221: log2 bytes, 16 to 35. -/
def fwin_D_BASE_SIZE : Fld := ⟨0x038044, 24, 6, .rws, 16, 0⟩
/-- R221: R200. -/
def fwin_D_CFG_CLASS : Fld := ⟨0x038048, 0, 8, .rws, 0, 0⟩
/-- R221: R209. -/
def fwin_D_CFG_EFFORT : Fld := ⟨0x038048, 8, 3, .rws, 1, 0⟩
/-- R221: R202. -/
def fwin_D_CFG_PRIO : Fld := ⟨0x038048, 11, 3, .rws, 0, 0⟩
/-- R221: R201. -/
def fwin_D_CFG_ENABLE : Fld := ⟨0x038048, 14, 1, .rws, 0, 0⟩
/-- R221: 64-slot units, 1 to 255. -/
def fwin_D_CFG_AGE : Fld := ⟨0x038048, 16, 8, .rws, 64, 0⟩
/-- R221: Bytes per orbit. -/
def fwin_D_WORST_WORST : Fld := ⟨0x03804C, 0, 32, .rws, 0, 0⟩
/-- R221: Bit n: Hn. -/
def fwin_D_LANES_LANES : Fld := ⟨0x038050, 0, 16, .rws, 65535, 0⟩
/-- R221: Orbits; R214. -/
def fwin_D_RETAIN_RETAIN : Fld := ⟨0x038054, 0, 32, .rws, 0, 0⟩
/-- R221: 0 WR_SEQ, 1 RD_SEQ, 2 ACK_SEQ, 3 TAIL_SEQ. -/
def fwin_PTR_SEL_SEL : Fld := ⟨0x038058, 0, 2, .rw, 0, 0⟩
/-- R221: Selected SEQ [31:0]; a read latches PTR_HI. -/
def fwin_PTR_LO_SEQ_LO : Fld := ⟨0x03805C, 0, 32, .ro, 0, 0⟩
/-- R221: Selected SEQ [39:32], as latched. -/
def fwin_PTR_HI_SEQ_HI : Fld := ⟨0x038060, 0, 8, .ro, 0, 0⟩
/-- R221: R215, saturating. -/
def fwin_F_STAT_OVERRUN : Fld := ⟨0x038064, 0, 16, .rc, 0, 0⟩
/-- R221: R213, saturating. -/
def fwin_F_STAT_ACK_LATE : Fld := ⟨0x038064, 16, 16, .rc, 0, 0⟩
/-- R221: Furrows enabled, at most 1,024. -/
def fwin_ENABLED_COUNT : Fld := ⟨0x038068, 0, 11, .ro, 0, 0⟩
/-- R222: Look-back reserve in 0.5 GB/s, 0 to 64. -/
def bud_RESERVE_LB : Fld := ⟨0x039040, 0, 7, .rws, 16, 0⟩
/-- R222: µs, 100 to 100,000; R213. -/
def bud_ACK_WIN_WINDOW : Fld := ⟨0x039044, 0, 17, .rws, 1000, 0⟩
/-- R222: 0 to 3: B1 to B4. -/
def bud_CHK_INDEX_CHECK : Fld := ⟨0x039048, 0, 2, .rw, 0, 0⟩
/-- R222: MB/s; 1/1,000 engine for B3. -/
def bud_DEMAND_DEMAND : Fld := ⟨0x03904C, 0, 32, .ro, 0, 0⟩
/-- R222: Same units. -/
def bud_CAPACITY_CAPACITY : Fld := ⟨0x039050, 0, 32, .ro, 0, 0⟩
/-- R222: B1 to B4 failed in the last check. -/
def bud_BSTAT_FAIL : Fld := ⟨0x039054, 0, 4, .ro, 0, 0⟩
/-- R222: Ring check failed. -/
def bud_BSTAT_RING : Fld := ⟨0x039054, 4, 1, .ro, 0, 0⟩
/-- R222: A check has run since reset. -/
def bud_BSTAT_VALID : Fld := ⟨0x039054, 5, 1, .ro, 0, 0⟩
/-- R222: Items in the last report; R211. -/
def bud_BSTAT_ITEMS : Fld := ⟨0x039054, 8, 8, .ro, 0, 0⟩
/-- R222: R212, saturating. -/
def bud_ACK_ERR_BAD : Fld := ⟨0x039058, 0, 16, .rc, 0, 0⟩
/-- R222: R212, saturating. -/
def bud_ACK_ERR_STALE : Fld := ⟨0x039058, 16, 16, .rc, 0, 0⟩
/-- R222: Look-back requests running, 0 to 16. -/
def bud_LB_STAT_ACTIVE : Fld := ⟨0x03905C, 0, 5, .ro, 0, 0⟩
/-- R245: 0 STREAM, 1 SPREAD, 2 LINEAR; 3 ignored and counted in ERR_COUNT; R227. -/
def memctl_MAP_ORDER : Fld := ⟨0x040040, 0, 2, .rw, 0, 0⟩
/-- R245: Order in effect. -/
def memctl_MAP_MAP_NOW : Fld := ⟨0x040040, 4, 2, .ro, 0, 0⟩
/-- R245: In-service capacity, GiB. -/
def memctl_CAPACITY_GIB : Fld := ⟨0x040044, 0, 7, .ro, 64, 0⟩
/-- R245: Bit m: Mm in service. -/
def memctl_CAPACITY_PORTS : Fld := ⟨0x040044, 8, 8, .ro, 255, 0⟩
/-- R245: Management frames; R240. -/
def memctl_RT_CFG_INTERVAL : Fld := ⟨0x040048, 0, 11, .ro, 1, 0⟩
/-- R245: Port to pause next. -/
def memctl_RT_CFG_NEXT : Fld := ⟨0x040048, 16, 3, .ro, 0, 0⟩
/-- R245: Bit m: Mm trained. -/
def memctl_TRAIN_STAT_DONE : Fld := ⟨0x04004C, 0, 8, .ro, 0, 0⟩
/-- R245: Bit m: a slot of Mm failed training at start; R238. -/
def memctl_TRAIN_STAT_FAIL : Fld := ⟨0x04004C, 8, 8, .ro, 0, 0⟩
/-- R245: Initial training time, ms; R237. -/
def memctl_TRAIN_STAT_TIME : Fld := ⟨0x04004C, 16, 16, .ro, 0, 0⟩
/-- R245: Neighbour refreshes, all ports, saturating. -/
def memctl_RD_TRIG_COUNT : Fld := ⟨0x040050, 0, 32, .rc, 0, 0⟩
/-- R246: Slot of logical rank 0: 0 A, 1 B, 2 C, 3 none. -/
def mport_RANK_MAP_LR0 : Fld := ⟨0x041040, 0, 2, .ro, 0, 0⟩
/-- R246: Slot of logical rank 1. -/
def mport_RANK_MAP_LR1 : Fld := ⟨0x041040, 2, 2, .ro, 1, 0⟩
/-- R246: Spare slot; 3 none. -/
def mport_RANK_MAP_SPARE : Fld := ⟨0x041040, 4, 2, .ro, 2, 0⟩
/-- R246: 0 in service, 1 spare, 2 migrating, 3 retired. -/
def mport_SLOT_STAT_A : Fld := ⟨0x041044, 0, 2, .ro, 0, 0⟩
/-- R246: As A. -/
def mport_SLOT_STAT_B : Fld := ⟨0x041044, 2, 2, .ro, 0, 0⟩
/-- R246: As A. -/
def mport_SLOT_STAT_C : Fld := ⟨0x041044, 4, 2, .ro, 1, 0⟩
/-- R246: Bit s: slot s (0 A, 1 B, 2 C) at the doubled rate; R233. -/
def mport_TEMP_HOT : Fld := ⟨0x041048, 0, 3, .ro, 0, 0⟩
/-- R246: Bit s − 3: slot s beyond the highest band; R234. -/
def mport_TEMP_OVER : Fld := ⟨0x041048, 3, 3, .ro, 0, 0⟩
/-- R246: Refresh-rate field of the hottest channel, last read. -/
def mport_TEMP_MR4 : Fld := ⟨0x041048, 8, 5, .ro, 0, 0⟩
/-- R246: Pauses completed, wrapping. -/
def mport_RT_STAT_COUNT : Fld := ⟨0x04104C, 0, 16, .ro, 0, 0⟩
/-- R246: Split pauses, saturating; R241. -/
def mport_RT_STAT_SPLIT : Fld := ⟨0x04104C, 16, 8, .rc, 0, 0⟩
/-- R246: Failed retrainings, saturating; R243. -/
def mport_RT_STAT_FAIL : Fld := ⟨0x04104C, 24, 8, .rc, 0, 0⟩
/-- R246: 0 A, 1 B, 2 C; 3 reads as 0. -/
def mport_WIN_INDEX_SLOT : Fld := ⟨0x041050, 0, 2, .rw, 0, 0⟩
/-- R246: 0 to 3 data channels, 4 check channel. -/
def mport_WIN_INDEX_CH : Fld := ⟨0x041050, 2, 3, .rw, 0, 0⟩
/-- R246: Read window, 1/64 UI. -/
def mport_WIN_RD : Fld := ⟨0x041054, 0, 8, .ro, 0, 0⟩
/-- R246: Write window, 1/64 UI. -/
def mport_WIN_WR : Fld := ⟨0x041054, 8, 8, .ro, 0, 0⟩
/-- R246: Command/address window, 1/64 UI. -/
def mport_WIN_CA : Fld := ⟨0x041054, 16, 8, .ro, 0, 0⟩
/-- R246: Neighbour refreshes on this port, saturating; R236. -/
def mport_RD_TRIG_COUNT : Fld := ⟨0x041058, 0, 32, .rc, 0, 0⟩
/-- R246: Longest request latency, ns, saturating; R231. -/
def mport_LAT_MAX_NS : Fld := ⟨0x04105C, 0, 16, .rc, 0, 0⟩
/-- R267: Seconds, 10 to 3,600; R250. -/
def scrub_CFG_PERIOD : Fld := ⟨0x049040, 0, 12, .rws, 60, 0⟩
/-- R267: Next granule, address ÷ 256. -/
def scrub_POS_GRANULE : Fld := ⟨0x049044, 0, 28, .ro, 0, 0⟩
/-- R267: Completed passes, wrapping. -/
def scrub_PASSES_COUNT : Fld := ⟨0x049048, 0, 32, .ro, 0, 0⟩
/-- R267: Corrected errors, all slots, saturating. -/
def scrub_CE_ALL_COUNT : Fld := ⟨0x04904C, 0, 32, .rc, 0, 0⟩
/-- R267: Uncorrectable errors, all slots, saturating. -/
def scrub_UE_ALL_COUNT : Fld := ⟨0x049050, 0, 16, .rc, 0, 0⟩
/-- R267: Poison bits set, saturating. -/
def scrub_UE_ALL_POISONED : Fld := ⟨0x049050, 16, 16, .rc, 0, 0⟩
/-- R267: Address [31:0] of the last uncorrectable granule; a read latches. -/
def scrub_UE_CAPT_LO_ADDR_LO : Fld := ⟨0x049054, 0, 32, .ro, 0, 0⟩
/-- R267: Address [35:32], as latched. -/
def scrub_UE_CAPT_HI_ADDR_HI : Fld := ⟨0x049058, 0, 4, .ro, 0, 0⟩
/-- R267: 0 descriptors, 1 history index, 2 image copy, 3 unsent, 4 sent and. -/
def scrub_UE_CAPT_HI_REGION : Fld := ⟨0x049058, 4, 3, .ro, 0, 0⟩
/-- R268: Port 0 to 7. -/
def spare_SP_INDEX_PORT : Fld := ⟨0x04A040, 0, 3, .rw, 0, 0⟩
/-- R268: 0 A, 1 B, 2 C; 3 reads as 0. -/
def spare_SP_INDEX_SLOT : Fld := ⟨0x04A040, 3, 2, .rw, 0, 0⟩
/-- R268: Corrected errors in the current CE window. -/
def spare_SLOT_HEALTH_CE : Fld := ⟨0x04A044, 0, 16, .ro, 0, 0⟩
/-- R268: Uncorrectable errors, saturating. -/
def spare_SLOT_HEALTH_UE : Fld := ⟨0x04A044, 16, 8, .ro, 0, 0⟩
/-- R268: C/A errors in the current frame, saturating. -/
def spare_SLOT_HEALTH_CA : Fld := ⟨0x04A044, 24, 4, .ro, 0, 0⟩
/-- R268: R256; 0 not retired. -/
def spare_SLOT_HEALTH_CAUSE : Fld := ⟨0x04A044, 28, 3, .ro, 0, 0⟩
/-- R268: R257. -/
def spare_SLOT_HEALTH_PAIR_SUSPECT : Fld := ⟨0x04A044, 31, 1, .ro, 0, 0⟩
/-- R268: R255. -/
def spare_CE_LIMIT_LIMIT : Fld := ⟨0x04A048, 0, 16, .rw, 256, 0⟩
/-- R268: Management frames, 1 to 65,535; 0 ignored and counted in ERR_COUNT. -/
def spare_CE_LIMIT_WINDOW : Fld := ⟨0x04A048, 16, 16, .rw, 1024, 0⟩
/-- R268: Bit m: Mm migrating. -/
def spare_MIG_STAT_ACTIVE : Fld := ⟨0x04A04C, 0, 8, .ro, 0, 0⟩
/-- R268: Bit m: copying at 3.0 GB/s. -/
def spare_MIG_STAT_FAST : Fld := ⟨0x04A04C, 8, 8, .ro, 0, 0⟩
/-- R268: Granules copied on the indexed port. -/
def spare_MIG_PROG_GRANULES : Fld := ⟨0x04A050, 0, 25, .ro, 0, 0⟩
/-- R268: 0 none, 1 one rank per port, 2 seven ports, 3 STREAM_DEGRADED. -/
def spare_DEGRADE_STEP : Fld := ⟨0x04A054, 0, 2, .ro, 0, 0⟩
/-- R268: Port lost in step 2. -/
def spare_DEGRADE_LOST_PORT : Fld := ⟨0x04A054, 4, 3, .ro, 0, 0⟩
/-- R268: R253. -/
def spare_DEGRADE_IMAGE_LOST : Fld := ⟨0x04A054, 7, 1, .ro, 0, 0⟩
/-- R268: Orbit [31:0] of the last step's switch; a read latches DEG_ORBIT_HI. -/
def spare_DEG_ORBIT_LO_ORBIT_LO : Fld := ⟨0x04A058, 0, 32, .ro, 0, 0⟩
/-- R268: Orbit [47:32], as latched. -/
def spare_DEG_ORBIT_HI_ORBIT_HI : Fld := ⟨0x04A05C, 0, 16, .ro, 0, 0⟩
/-- R268: Furrows disabled under R264. -/
def spare_DEG_ORBIT_HI_DISABLED : Fld := ⟨0x04A05C, 16, 16, .ro, 0, 0⟩
/-- R268: Bed groups and tributary groups discarded for disabled furrows, one. -/
def spare_SHED_COUNT : Fld := ⟨0x04A060, 0, 32, .rc, 0, 0⟩
/-- R288: Verify mode; R277. -/
def comp_CTRL_VERIFY : Fld := ⟨0x03B040, 0, 1, .rws, 1, 0⟩
/-- R288: Engine 0 to 35; 36 to 63 read as 0. -/
def comp_ENG_INDEX_ENG : Fld := ⟨0x03B044, 0, 6, .rw, 0, 0⟩
/-- R288: The engine holds at least one job. -/
def comp_ENG_STAT_BUSY : Fld := ⟨0x03B048, 0, 1, .ro, 0, 0⟩
/-- R288: R278. -/
def comp_ENG_STAT_STORED_ONLY : Fld := ⟨0x03B048, 1, 1, .w1c, 0, 0⟩
/-- R288: Consecutive verify failures, saturating at 255. -/
def comp_ENG_STAT_CONSEC_FAIL : Fld := ⟨0x03B048, 8, 8, .ro, 0, 0⟩
/-- R288: Jobs completed by the indexed engine, wrapping. -/
def comp_ENG_JOBS_COUNT : Fld := ⟨0x03B04C, 0, 32, .ro, 0, 0⟩
/-- R288: Verify failures, all engines, saturating; R277. -/
def comp_VERIFY_FAIL_COUNT : Fld := ⟨0x03B050, 0, 32, .rc, 0, 0⟩
/-- R288: Input CRC mismatches, all engines, saturating; R276. -/
def comp_INPUT_CRC_COUNT : Fld := ⟨0x03B054, 0, 32, .rc, 0, 0⟩
/-- R288: Segments sent stored under the output limit of R274, saturating. -/
def comp_STORED_COUNT : Fld := ⟨0x03B058, 0, 32, .rc, 0, 0⟩
/-- R288: Bytes sent ÷ bytes read, block headers included and stored segments. -/
def comp_RATIO_OUT_IN : Fld := ⟨0x03B05C, 0, 16, .ro, 32768, 0⟩
/-- R288: Chunks free now; R275. -/
def comp_CHUNK_FREE_FREE : Fld := ⟨0x03B060, 0, 11, .ro, 1536, 0⟩
/-- R288: Fewest chunks free since the last read; the read sets it to FREE. -/
def comp_CHUNK_LOW_LOW : Fld := ⟨0x03B064, 0, 11, .rc, 1536, 0⟩
/-- R288: Code of the last image decoder error, R285; 0 none. -/
def comp_LOAM_ERR_CODE : Fld := ⟨0x03B068, 0, 3, .ro, 0, 0⟩
/-- R288: Byte offset in the image; R286. -/
def comp_LOAM_ERR_OFFSET : Fld := ⟨0x03B068, 8, 24, .ro, 0, 0⟩
/-- R309: 0 H00, 1 H01; R305. -/
def harv_CFG_ZCS_LANE : Fld := ⟨0x03A040, 0, 1, .rws, 0, 0⟩
/-- R309: 1/64 units, 64 to 255; R300. -/
def harv_CFG_MARGIN : Fld := ⟨0x03A040, 8, 8, .rws, 80, 0⟩
/-- R309: Orbits, 1 to 65,535. -/
def harv_CFG_DARK_HOLD : Fld := ⟨0x03A040, 16, 16, .rws, 64, 0⟩
/-- R309: Bit n: Hn lit. -/
def harv_LIT_LIT : Fld := ⟨0x03A044, 0, 16, .ro, 0, 0⟩
/-- R309: Bit n: Hn usable; R297. -/
def harv_LIT_USABLE : Fld := ⟨0x03A044, 16, 16, .ro, 0, 0⟩
/-- R309: R300. -/
def harv_FORE_N_FORE : Fld := ⟨0x03A048, 0, 5, .ro, 2, 0⟩
/-- R309: 64-slot triggers, saturating. -/
def harv_FORE_WAIT_TRIG : Fld := ⟨0x03A048, 16, 16, .rc, 0, 0⟩
/-- R309: H00 delivering valid frames. -/
def harv_RC_STAT_H00_FRAME : Fld := ⟨0x03A04C, 0, 1, .ro, 0, 0⟩
/-- R309: H01 delivering valid frames. -/
def harv_RC_STAT_H01_FRAME : Fld := ⟨0x03A04C, 1, 1, .ro, 0, 0⟩
/-- R309: No valid frame for 64 slots. -/
def harv_RC_STAT_RC_DOWN : Fld := ⟨0x03A04C, 2, 1, .ro, 0, 0⟩
/-- R309: Last DROPS seen. -/
def harv_RC_STAT_DROPS : Fld := ⟨0x03A04C, 8, 8, .ro, 0, 0⟩
/-- R309: Bit n: Hn dropped; R307. -/
def harv_RC_STAT_DROPPED : Fld := ⟨0x03A04C, 16, 16, .ro, 0, 0⟩
/-- R309: CRC failures on H00, saturating. -/
def harv_RC_CRC_H00 : Fld := ⟨0x03A050, 0, 16, .rc, 0, 0⟩
/-- R309: CRC failures on H01, saturating. -/
def harv_RC_CRC_H01 : Fld := ⟨0x03A050, 16, 16, .rc, 0, 0⟩
/-- R309: Frames lost on both lanes; R304. -/
def harv_RC_ERR_LOST : Fld := ⟨0x03A054, 0, 16, .rc, 0, 0⟩
/-- R309: Bad items; R305. -/
def harv_RC_ERR_ITEM : Fld := ⟨0x03A054, 16, 16, .rc, 0, 0⟩
/-- R309: ORBIT or SLOT mismatches; R302. -/
def harv_RC_MISC_MISMATCH : Fld := ⟨0x03A058, 0, 16, .rc, 0, 0⟩
/-- R309: Discarded partial messages; R305. -/
def harv_RC_MISC_ZCS_ABORT : Fld := ⟨0x03A058, 16, 16, .rc, 0, 0⟩
/-- R309: Segments re-sent under R308, saturating. -/
def harv_REPLAY_COUNT : Fld := ⟨0x03A05C, 0, 32, .rc, 0, 0⟩
/-- R309: Uncompressed bytes of closed segments not yet handed to an engine. -/
def harv_BACKLOG_BYTES : Fld := ⟨0x03A060, 0, 32, .ro, 0, 0⟩
/-- R309: Largest BACKLOG since the last read. -/
def harv_BACKLOG_MAX_BYTES : Fld := ⟨0x03A064, 0, 32, .rc, 0, 0⟩
/-- R309: Longest time from a request to lit, µs; R301. -/
def harv_LIGHT_MAX_US : Fld := ⟨0x03A068, 0, 16, .rc, 0, 0⟩
/-- R330: Scanning runs. -/
def slow_CTRL_ENABLE : Fld := ⟨0x00E040, 0, 1, .rws, 0, 0⟩
/-- R330: R323. -/
def slow_CTRL_ROT_EN : Fld := ⟨0x00E040, 1, 1, .rws, 1, 0⟩
/-- R330: R317. -/
def slow_CTRL_VEXC_EN : Fld := ⟨0x00E040, 2, 1, .rws, 0, 0⟩
/-- R330: 0 2.5 V, 1 5.0 V. -/
def slow_CTRL_VEXC_SEL : Fld := ⟨0x00E040, 3, 1, .rws, 0, 0⟩
/-- R330: Channel 0 to 95. -/
def slow_CH_INDEX_CH : Fld := ⟨0x00E044, 0, 7, .rw, 0, 0⟩
/-- R330: Channel in the scan. -/
def slow_CH_CFG_EN : Fld := ⟨0x00E048, 0, 1, .rws, 0, 0⟩
/-- R330: Pair with the odd pin; even channels only; R310. -/
def slow_CH_CFG_DIFF : Fld := ⟨0x00E048, 1, 1, .rws, 0, 0⟩
/-- R330: G = 2^GAIN. -/
def slow_CH_CFG_GAIN : Fld := ⟨0x00E048, 2, 3, .rws, 0, 0⟩
/-- R330: 0 internal, 1 VEXC. -/
def slow_CH_CFG_REF : Fld := ⟨0x00E048, 5, 1, .rws, 0, 0⟩
/-- R330: R315. -/
def slow_CH_CFG_ODR : Fld := ⟨0x00E048, 6, 4, .rws, 0, 0⟩
/-- R330: 0 off, 1 1 µA, 2 10 µA; 3 refused. -/
def slow_CH_CFG_BURN : Fld := ⟨0x00E048, 10, 2, .rws, 0, 0⟩
/-- R330: R314. -/
def slow_CH_CFG_COARSE_EN : Fld := ⟨0x00E048, 12, 1, .rws, 0, 0⟩
/-- R330: R320; 14 and 15 refused. -/
def slow_CH_CFG_CURVE : Fld := ⟨0x00E048, 13, 4, .rws, 0, 0⟩
/-- R330: R320; 127 none. -/
def slow_CH_CFG_AUX_CH : Fld := ⟨0x00E048, 17, 7, .rws, 127, 0⟩
/-- R330: Discharge, DISCH + 1 µs. -/
def slow_CH_CFG_DISCH : Fld := ⟨0x00E048, 24, 6, .rws, 0, 0⟩
/-- R330: Parameter 0 to 2 of the indexed channel. -/
def slow_PARAM_INDEX_P : Fld := ⟨0x00E04C, 0, 2, .rw, 0, 0⟩
/-- R330: binary32. -/
def slow_PARAM_VALUE : Fld := ⟨0x00E050, 0, 32, .rws, 0, 0⟩
/-- R330: Source 0 to 7. -/
def slow_IX_INDEX_IX : Fld := ⟨0x00E054, 0, 3, .rw, 0, 0⟩
/-- R330: 0 off, 1 to 100 × 10 µA; 101 to 127 refused. -/
def slow_IX_CFG_LEVEL : Fld := ⟨0x00E058, 0, 7, .rws, 0, 0⟩
/-- R330: Pin 0 to 95. -/
def slow_IX_CFG_PIN : Fld := ⟨0x00E058, 8, 7, .rws, 0, 0⟩
/-- R330: Bit n: IXn beyond compliance; R318. -/
def slow_IX_STAT_COMPLY : Fld := ⟨0x00E05C, 0, 8, .ro, 0, 0⟩
/-- R330: VEXC in regulation. -/
def slow_VEXC_STAT_ON : Fld := ⟨0x00E060, 0, 1, .ro, 0, 0⟩
/-- R330: R317. -/
def slow_VEXC_STAT_EXC_FAULT : Fld := ⟨0x00E060, 1, 1, .w1c, 0, 0⟩
/-- R330: Load current, mA. -/
def slow_VEXC_STAT_LOAD : Fld := ⟨0x00E060, 8, 8, .ro, 0, 0⟩
/-- R330: Bits [3g+2:3g]: modulator serving group g. -/
def slow_GROUP_MAP_MOD : Fld := ⟨0x00E064, 0, 12, .ro, 1672, 0⟩
/-- R330: Spare modulator; 7 none. -/
def slow_GROUP_MAP_SPARE : Fld := ⟨0x00E064, 12, 3, .ro, 4, 0⟩
/-- R330: Management frames, 1 to 1,024. -/
def slow_ROT_CFG_ROT_FRAMES : Fld := ⟨0x00E068, 0, 11, .rws, 16, 0⟩
/-- R330: ppm of FS, 1 to 255. -/
def slow_ROT_CFG_ROT_TOL : Fld := ⟨0x00E068, 16, 8, .rws, 20, 0⟩
/-- R330: Group of the next handover. -/
def slow_ROT_STAT_NEXT_GROUP : Fld := ⟨0x00E06C, 0, 2, .ro, 0, 0⟩
/-- R330: R324. -/
def slow_ROT_STAT_MOD_FAULT : Fld := ⟨0x00E06C, 2, 1, .ro, 0, 0⟩
/-- R330: Faulty modulator; 7 none. -/
def slow_ROT_STAT_FAULT_MOD : Fld := ⟨0x00E06C, 3, 3, .ro, 7, 0⟩
/-- R330: Mismatches since reset, saturating. -/
def slow_ROT_STAT_MISMATCH : Fld := ⟨0x00E06C, 24, 8, .ro, 0, 0⟩
/-- R330: Channels 32 × WORD to 32 × WORD + 31; 3 reads as 0. -/
def slow_FLAG_SEL_WORD : Fld := ⟨0x00E070, 0, 2, .rw, 0, 0⟩
/-- R330: 0 CLAMP, 1 OPEN, 2 OR; 3 reads as 0. -/
def slow_FLAG_SEL_KIND : Fld := ⟨0x00E070, 2, 2, .rw, 0, 0⟩
/-- R330: Sticky bits of the selected kind and word. -/
def slow_FLAG_BITS_CH : Fld := ⟨0x00E074, 0, 32, .w1c, 0, 0⟩
/-- R330: Latest fine code of the indexed channel. -/
def slow_LAST_CODE_CODE : Fld := ⟨0x00E078, 0, 24, .ro, 0, 0⟩
/-- R330: Latest fine VALUE, binary32. -/
def slow_LAST_VALUE_VALUE : Fld := ⟨0x00E07C, 0, 32, .ro, 0, 0⟩
/-- R330: FLAGS of that record; R321. -/
def slow_LAST_FLAGS_FLAGS : Fld := ⟨0x00E080, 0, 16, .ro, 0, 0⟩
/-- R330: ms since it was formed, saturating. -/
def slow_LAST_FLAGS_AGE : Fld := ⟨0x00E080, 16, 16, .ro, 65535, 0⟩
/-- R330: Last full scan of the indexed channel's group, µs. -/
def slow_SCAN_TIME_US : Fld := ⟨0x00E084, 0, 32, .ro, 0, 0⟩
/-- R331: Output 0 to 7. -/
def il_IL_INDEX_IL : Fld := ⟨0x00F040, 0, 3, .rw, 0, 0⟩
/-- R331: Output enabled. -/
def il_IL_CFG_EN : Fld := ⟨0x00F044, 0, 1, .rws, 0, 0⟩
/-- R331: 0 frequency, 1 PWM. -/
def il_IL_CFG_MODE : Fld := ⟨0x00F044, 1, 1, .rws, 0, 0⟩
/-- R331: 0 1 kHz, 1 10 kHz. -/
def il_IL_CFG_CARRIER : Fld := ⟨0x00F044, 2, 1, .rws, 0, 0⟩
/-- R331: Source channel 0 to 95. -/
def il_IL_CFG_SRC : Fld := ⟨0x00F044, 3, 7, .rws, 0, 0⟩
/-- R331: ms, 1 to 1,023; 0 refused. -/
def il_IL_CFG_STALE : Fld := ⟨0x00F044, 16, 10, .rws, 100, 0⟩
/-- R331: binary32; Hz or %. -/
def il_IL_A_A : Fld := ⟨0x00F048, 0, 32, .rws, 0, 0⟩
/-- R331: binary32, per unit of VALUE. -/
def il_IL_B_B : Fld := ⟨0x00F04C, 0, 32, .rws, 0, 0⟩
/-- R331: Fault code being sent. -/
def il_IL_STAT_FAULT : Fld := ⟨0x00F050, 0, 1, .ro, 1, 0⟩
/-- R331: 0 none, 1 disabled, 2 SAFE, 3 stale, 4 source flag, 5 standby or off. -/
def il_IL_STAT_CAUSE : Fld := ⟨0x00F050, 1, 3, .ro, 1, 0⟩
/-- R331: R326. -/
def il_IL_STAT_LIMIT : Fld := ⟨0x00F050, 4, 1, .ro, 0, 0⟩
/-- R331: Frequency in 0.1 Hz, or duty in 0.01%. -/
def il_IL_STAT_OUT : Fld := ⟨0x00F050, 8, 24, .ro, 0, 0⟩
/-- R331: SAFE_N level. -/
def il_SAFE_STAT_PIN : Fld := ⟨0x00F054, 0, 1, .ro, 1, 0⟩
/-- R331: R328. -/
def il_SAFE_STAT_LATCH : Fld := ⟨0x00F054, 1, 1, .ro, 0, 0⟩
/-- R331: Latched lows, saturating. -/
def il_SAFE_STAT_EDGES : Fld := ⟨0x00F054, 8, 8, .rc, 0, 0⟩
/-- R331: TRIP_CLEAR refused with TRIP_ACTIVE, saturating. -/
def il_SAFE_STAT_REFUSED : Fld := ⟨0x00F054, 16, 16, .rc, 0, 0⟩
/-- R331: 1 sets the latch; R328. -/
def il_SAFE_CTRL_FORCE : Fld := ⟨0x00F058, 0, 1, .wo, 0, 0⟩
/-- R349: 0 E0, 1 E1. -/
def eth_PORT_INDEX_PORT : Fld := ⟨0x00B040, 0, 1, .rw, 0, 0⟩
/-- R349: Port enabled. -/
def eth_PORT_CFG_EN : Fld := ⟨0x00B044, 0, 1, .rw, 1, 0⟩
/-- R349: 0 1000BASE-X, 1 10GBASE-R. -/
def eth_PORT_CFG_SPEED : Fld := ⟨0x00B044, 1, 1, .rw, 0, 0⟩
/-- R349: Clause 37 auto-negotiation. -/
def eth_PORT_CFG_AN : Fld := ⟨0x00B044, 2, 1, .rw, 1, 0⟩
/-- R349: IPv4 address; 0 answers nothing; R333. -/
def eth_IP_ADDR_ADDR : Fld := ⟨0x00B048, 0, 32, .rw, 0, 0⟩
/-- R349: Subnet mask. -/
def eth_IP_MASK_MASK : Fld := ⟨0x00B04C, 0, 32, .rw, 4294967040, 0⟩
/-- R349: MAC address [31:0]. -/
def eth_MAC_LO_MAC : Fld := ⟨0x00B050, 0, 32, .ro, 0, 17⟩
/-- R349: MAC address [47:32]. -/
def eth_MAC_HI_MAC : Fld := ⟨0x00B054, 0, 16, .ro, 0, 18⟩
/-- R349: Link up. -/
def eth_PORT_STAT_LINK : Fld := ⟨0x00B058, 0, 1, .ro, 0, 0⟩
/-- R349: SFP module present. -/
def eth_PORT_STAT_MODULE : Fld := ⟨0x00B058, 1, 1, .ro, 0, 0⟩
/-- R349: Frames with FCS or header errors, saturating. -/
def eth_RX_DROP_BAD : Fld := ⟨0x00B05C, 0, 16, .rc, 0, 0⟩
/-- R349: Datagrams abandoned; R333. -/
def eth_RX_DROP_REASM : Fld := ⟨0x00B05C, 16, 16, .rc, 0, 0⟩
/-- R350: PTP running. -/
def ptp_CFG_EN : Fld := ⟨0x00C040, 0, 1, .rw, 0, 0⟩
/-- R350: 0 E0, 1 E1. -/
def ptp_CFG_PORT : Fld := ⟨0x00C040, 1, 1, .rw, 0, 0⟩
/-- R350: R334. -/
def ptp_CFG_FAILOVER : Fld := ⟨0x00C040, 2, 1, .rw, 1, 0⟩
/-- R350: 0 UDP/IPv4, 1 IEEE 802.3. -/
def ptp_CFG_TRANSPORT : Fld := ⟨0x00C040, 3, 1, .rw, 0, 0⟩
/-- R350: As master. -/
def ptp_CFG_TWO_STEP : Fld := ⟨0x00C040, 4, 1, .rw, 1, 0⟩
/-- R350: Never master. -/
def ptp_CFG_SLAVE_ONLY : Fld := ⟨0x00C040, 5, 1, .rw, 1, 0⟩
/-- R350: domainNumber. -/
def ptp_CFG_DOMAIN : Fld := ⟨0x00C040, 8, 8, .rw, 0, 0⟩
/-- R350: Signed, 1/65,536 ns; R335. -/
def ptp_INGRESS_E0_ASYM : Fld := ⟨0x00C044, 0, 32, .rw, 0, 0⟩
/-- R350: As INGRESS_E0. -/
def ptp_EGRESS_E0_ASYM : Fld := ⟨0x00C048, 0, 32, .rw, 0, 0⟩
/-- R350: As INGRESS_E0. -/
def ptp_INGRESS_E1_ASYM : Fld := ⟨0x00C04C, 0, 32, .rw, 0, 0⟩
/-- R350: As INGRESS_E0. -/
def ptp_EGRESS_E1_ASYM : Fld := ⟨0x00C050, 0, 32, .rw, 0, 0⟩
/-- R350: SEC [31:0]. -/
def ptp_TIME_SEC_LO_SEC : Fld := ⟨0x00C054, 0, 32, .ro, 0, 0⟩
/-- R350: SEC [47:32], as latched. -/
def ptp_TIME_SEC_HI_SEC : Fld := ⟨0x00C058, 0, 16, .ro, 0, 0⟩
/-- R350: As latched. -/
def ptp_TIME_NS_NS : Fld := ⟨0x00C05C, 0, 30, .ro, 0, 0⟩
/-- R350: As latched. -/
def ptp_TIME_FRAC_FRAC : Fld := ⟨0x00C060, 0, 16, .ro, 0, 0⟩
/-- R350: Signed, 2^−40; R336. -/
def ptp_RATE_RATE : Fld := ⟨0x00C064, 0, 32, .ro, 0, 0⟩
/-- R350: Signed, 1/256 ns. -/
def ptp_OFFSET_OFFSET : Fld := ⟨0x00C068, 0, 32, .ro, 0, 0⟩
/-- R350: R337. -/
def ptp_STAT_SYNC : Fld := ⟨0x00C06C, 0, 1, .ro, 0, 0⟩
/-- R350: R337. -/
def ptp_STAT_HOLDOVER : Fld := ⟨0x00C06C, 1, 1, .ro, 0, 0⟩
/-- R350: R337. -/
def ptp_STAT_TIME_VALID : Fld := ⟨0x00C06C, 2, 1, .ro, 0, 0⟩
/-- R350: Port in use. -/
def ptp_STAT_PORT_NOW : Fld := ⟨0x00C06C, 3, 1, .ro, 0, 0⟩
/-- R350: currentUtcOffset from the master. -/
def ptp_STAT_UTC_OFFSET : Fld := ⟨0x00C06C, 16, 16, .ro, 0, 0⟩
/-- R350: µs, 1 to 65,535. -/
def ptp_SERVO_STEP_LIM : Fld := ⟨0x00C070, 0, 16, .rw, 100, 0⟩
/-- R350: ns, 1 to 65,535. -/
def ptp_SERVO_LOCK_NS : Fld := ⟨0x00C070, 16, 16, .rw, 100, 0⟩
/-- R350: Orbits, 1 to 65,535; 0 ignored and counted in ERR_COUNT; R338. -/
def ptp_OT_CFG_EVERY : Fld := ⟨0x00C074, 0, 16, .rw, 1, 0⟩
/-- R351: Bus cycles run. -/
def hdg_CTRL_EN : Fld := ⟨0x00D040, 0, 1, .rws, 0, 0⟩
/-- R351: µs, 20 to 500; R341. -/
def hdg_LAYOUT_NS : Fld := ⟨0x00D044, 0, 10, .rws, 100, 0⟩
/-- R351: µs, 200 to 1,000. -/
def hdg_LAYOUT_BEACON_LEN : Fld := ⟨0x00D044, 16, 10, .rws, 200, 0⟩
/-- R351: Node 0 to 31. -/
def hdg_NODE_INDEX_NODE : Fld := ⟨0x00D048, 0, 5, .rw, 0, 0⟩
/-- R351: R346, R347. -/
def hdg_NODE_STAT_ACTIVE : Fld := ⟨0x00D04C, 0, 1, .ro, 0, 0⟩
/-- R351: R346. -/
def hdg_NODE_STAT_QUAR : Fld := ⟨0x00D04C, 1, 1, .ro, 0, 0⟩
/-- R351: R344. -/
def hdg_NODE_STAT_SKEW_WARN : Fld := ⟨0x00D04C, 2, 1, .w1c, 0, 0⟩
/-- R351: Consecutive overruns. -/
def hdg_NODE_STAT_OVR_RUN : Fld := ⟨0x00D04C, 4, 2, .ro, 0, 0⟩
/-- R351: Last offset, signed, 10 ns. -/
def hdg_NODE_STAT_OFFSET : Fld := ⟨0x00D04C, 16, 16, .ro, 0, 0⟩
/-- R351: R345, saturating. -/
def hdg_NODE_ERR_CRC : Fld := ⟨0x00D050, 0, 16, .rc, 0, 0⟩
/-- R351: R345, saturating. -/
def hdg_NODE_ERR_OVERRUN : Fld := ⟨0x00D050, 16, 16, .rc, 0, 0⟩
/-- R351: UID [31:0]. -/
def hdg_UID_LO_UID : Fld := ⟨0x00D054, 0, 32, .ro, 0, 0⟩
/-- R351: UID [63:32]. -/
def hdg_UID_HI_UID : Fld := ⟨0x00D058, 0, 32, .ro, 0, 0⟩
/-- R351: Latest STATUS. -/
def hdg_NODE_STATUS_STATUS : Fld := ⟨0x00D05C, 0, 16, .ro, 0, 0⟩
/-- R351: R345, saturating. -/
def hdg_NODE_STATUS_RX_OVF : Fld := ⟨0x00D05C, 16, 16, .rc, 0, 0⟩
/-- R351: Queued for the indexed node (256-byte queue); a write to a full queue. -/
def hdg_TX_BYTE : Fld := ⟨0x00D060, 0, 8, .wo, 0, 0⟩
/-- R351: 1: broadcast queue instead. -/
def hdg_TX_ALL : Fld := ⟨0x00D060, 8, 1, .wo, 0, 0⟩
/-- R351: Oldest byte; the read removes it. -/
def hdg_RX_BYTE : Fld := ⟨0x00D064, 0, 8, .rc, 0, 0⟩
/-- R351: A byte was returned. -/
def hdg_RX_VALID : Fld := ⟨0x00D064, 8, 1, .rc, 0, 0⟩
/-- R351: First byte of a frame's payload. -/
def hdg_RX_FIRST : Fld := ⟨0x00D064, 9, 1, .rc, 0, 0⟩
/-- R351: R343, R345, saturating. -/
def hdg_BUS_ERR_STRAY : Fld := ⟨0x00D068, 0, 16, .rc, 0, 0⟩
/-- R351: R347, saturating. -/
def hdg_BUS_ERR_ADMIT_FAIL : Fld := ⟨0x00D068, 16, 16, .rc, 0, 0⟩
/-- R351: Cycles run, wrapping. -/
def hdg_CYCLE_COUNT : Fld := ⟨0x00D06C, 0, 32, .ro, 0, 0⟩
/-- R380: Page number of R378. -/
def hdr_PAGE_ID_PAGE : Fld := ⟨0x000000, 0, 12, .ro, 0, 12⟩
/-- R380: Bed b on BEDbb, port m on MPORTm, 0 elsewhere. -/
def hdr_PAGE_ID_INSTANCE : Fld := ⟨0x000000, 16, 8, .ro, 0, 13⟩
/-- R380: Layout revision within MAJOR. -/
def hdr_PAGE_VER_MINOR : Fld := ⟨0x000004, 0, 8, .ro, 0, 0⟩
/-- R380: Layout version; 0x01 on every page at C0 with ZCS 3.2. -/
def hdr_PAGE_VER_MAJOR : Fld := ⟨0x000004, 8, 8, .ro, 1, 0⟩
/-- R380: 1 clears ERR_COUNT and ERR_CAPT. -/
def hdr_CTRL_ERR_CLR : Fld := ⟨0x000008, 0, 1, .wo, 0, 0⟩
/-- R380: 1 clears every RC counter of the page, without a read. -/
def hdr_CTRL_CNT_CLR : Fld := ⟨0x000008, 1, 1, .wo, 0, 0⟩
/-- R380: IRQ_STAT & IRQ_EN is not 0. -/
def hdr_STAT_IRQ_PENDING : Fld := ⟨0x00000C, 0, 1, .ro, 0, 0⟩
/-- R380: The page holds staged values not yet taken by a commit snapshot. -/
def hdr_STAT_STAGED : Fld := ⟨0x00000C, 1, 1, .ro, 0, 0⟩
/-- R380: A snapshot holding values of this page awaits its boundary. -/
def hdr_STAT_PENDING : Fld := ⟨0x00000C, 2, 1, .ro, 0, 0⟩
/-- R380: R379: at least one domain of the page is off. -/
def hdr_STAT_PARTIAL : Fld := ⟨0x00000C, 3, 1, .ro, 0, 0⟩
/-- R380: ERR_COUNT has been incremented. -/
def hdr_IRQ_STAT_ERR : Fld := ⟨0x000010, 0, 1, .w1c, 0, 0⟩
/-- R380: An event has occurred that its chapter says raises the page interrupt. -/
def hdr_IRQ_STAT_EVENT : Fld := ⟨0x000010, 1, 1, .w1c, 0, 0⟩
/-- R380: A commit has changed a field of this page. -/
def hdr_IRQ_STAT_COMMIT : Fld := ⟨0x000010, 2, 1, .w1c, 0, 0⟩
/-- R380: Bit n enables IRQ_STAT bit n. -/
def hdr_IRQ_EN_EN : Fld := ⟨0x000014, 0, 3, .rw, 2, 0⟩
/-- R380: Offset of the register concerned in the last counted error, unless. -/
def hdr_ERR_CAPT_WHAT : Fld := ⟨0x000018, 0, 16, .ro, 0, 0⟩
/-- R380: R381. -/
def hdr_ERR_CAPT_CAUSE : Fld := ⟨0x000018, 16, 8, .ro, 0, 0⟩
/-- R380: The index register's value at the error, or 0. -/
def hdr_ERR_CAPT_INDEX : Fld := ⟨0x000018, 24, 8, .ro, 0, 0⟩
/-- R380: Errors counted on this page, saturating. -/
def hdr_ERR_COUNT_COUNT : Fld := ⟨0x00001C, 0, 16, .rc, 0, 0⟩
/-- R380: 1: reads of RWS fields on this page return the staged value where one. -/
def hdr_SHADOW_CTRL_READ_STAGED : Fld := ⟨0x000020, 0, 1, .rw, 0, 0⟩
/-- R380: 1 discards the page's staged values; R383. -/
def hdr_SHADOW_CTRL_DISCARD : Fld := ⟨0x000020, 1, 1, .wo, 0, 0⟩
/-- R380: Register words of this page staged, saturating at 8,191. -/
def hdr_SHADOW_CTRL_STAGED_WORDS : Fld := ⟨0x000020, 16, 13, .ro, 0, 0⟩
/-- R390: Identity carried in segment headers, probes, LANE_MARK blocks and. -/
def global_HUB_ID_ID : Fld := ⟨0x000040, 0, 16, .rws, 0, 0⟩
/-- R390: Silicon stepping (R1). -/
def global_STEPPING_SILICON : Fld := ⟨0x000044, 0, 8, .ro, 192, 0⟩
/-- R390: ROM firmware stepping, as IDENT reports it. -/
def global_STEPPING_ROM : Fld := ⟨0x000044, 16, 16, .ro, 770, 0⟩
/-- R390: 0 LGH768-A64, 1 LGH768-S64. -/
def global_PART_SCREENED : Fld := ⟨0x000048, 0, 1, .ro, 0, 14⟩
/-- R390: Unique die ID [31:0]; a read latches DIE_ID_HI. -/
def global_DIE_ID_LO_ID : Fld := ⟨0x00004C, 0, 32, .ro, 0, 15⟩
/-- R390: Unique die ID [63:32], as latched. -/
def global_DIE_ID_HI_ID : Fld := ⟨0x000050, 0, 32, .ro, 0, 16⟩
/-- R390: 0 starting, 1 READY, 2 streaming, 3 stopping; as IDENT. -/
def global_STATE_STATE : Fld := ⟨0x000054, 0, 2, .ro, 0, 0⟩
/-- R390: 0 unpaired, 1 active, 2 standby. -/
def global_STATE_ROLE : Fld := ⟨0x000054, 2, 2, .ro, 0, 0⟩
/-- R390: Mode in effect; 0xFF base. -/
def global_STATE_MODE : Fld := ⟨0x000054, 8, 8, .ro, 255, 0⟩
/-- R390: R368; 0xFF none. -/
def global_STATE_MODE_PREV : Fld := ⟨0x000054, 16, 8, .ro, 255, 0⟩
/-- R390: Bit n: PDnn on. -/
def global_PD_STAT_ON : Fld := ⟨0x000058, 0, 24, .ro, 3, 0⟩
/-- R390: Bit n: STAT.IRQ_PENDING of page n, pages 0x000–0x01F. -/
def global_IRQ_SUM0_PAGE : Fld := ⟨0x00005C, 0, 32, .ro, 0, 0⟩
/-- R390: Bit n: page 0x020 + n. -/
def global_IRQ_SUM1_PAGE : Fld := ⟨0x000060, 0, 32, .ro, 0, 0⟩
/-- R390: Bit n: page 0x040 + n. -/
def global_IRQ_SUM2_PAGE : Fld := ⟨0x000064, 0, 11, .ro, 0, 0⟩
/-- R390: 1: IRQ_N asserted while any bit of IRQ_SUM0–IRQ_SUM2 is set. -/
def global_IRQ_CFG_PIN_EN : Fld := ⟨0x000068, 0, 1, .rw, 0, 0⟩
/-- R390: Last reset: 0 power-on, 1 RESET_N, 2 command cold, 3 command warm, 4. -/
def global_RESET_CAUSE_KIND : Fld := ⟨0x00006C, 0, 3, .ro, 0, 0⟩
/-- R390: Orbit [31:0] of the last commit applied; a read latches COMMIT_HI. -/
def global_COMMIT_LO_ORBIT_LO : Fld := ⟨0x000070, 0, 32, .ro, 0, 0⟩
/-- R390: Orbit [47:32], as latched. -/
def global_COMMIT_HI_ORBIT_HI : Fld := ⟨0x000074, 0, 16, .ro, 0, 0⟩
/-- R390: Commits applied since reset, wrapping. -/
def global_COMMIT_HI_COUNT : Fld := ⟨0x000074, 16, 16, .ro, 0, 0⟩
/-- R390: No effect on the hub. -/
def global_SCRATCH_DATA : Fld := ⟨0x000078, 0, 32, .rw, 0, 0⟩
/-- R392: Bit n: CDn running and, where derived from a PLL or a recovered. -/
def clocks_RUN_LO_CD : Fld := ⟨0x002040, 0, 32, .ro, 3, 0⟩
/-- R392: Bit n: CD(32 + n), as RUN_LO. -/
def clocks_RUN_HI_CD : Fld := ⟨0x002044, 0, 32, .ro, 0, 0⟩
/-- R392: Bit n: CDn lost lock or stopped since the last read. -/
def clocks_LOSS_LO_CD : Fld := ⟨0x002048, 0, 32, .rc, 0, 0⟩
/-- R392: As LOSS_LO, for CD32–CD63. -/
def clocks_LOSS_HI_CD : Fld := ⟨0x00204C, 0, 32, .rc, 0, 0⟩
/-- R392: Domain 0 to 63 for CD_FREQ. -/
def clocks_CD_INDEX_CD : Fld := ⟨0x002050, 0, 6, .rw, 0, 0⟩
/-- R392: Frequency of the indexed domain in kHz, measured over 1 ms against. -/
def clocks_CD_FREQ_KHZ : Fld := ⟨0x002054, 0, 32, .ro, 0, 0⟩
/-- R392: CD49 present and within ±200 ppm of 156.25 MHz. -/
def clocks_REF_STAT_HREF : Fld := ⟨0x002058, 0, 1, .ro, 0, 0⟩
/-- R392: CD00 oscillating. -/
def clocks_REF_STAT_XTAL32 : Fld := ⟨0x002058, 1, 1, .ro, 0, 0⟩
/-- R392: The Hedgerow bus, the xSPI port and the trip and interlock logic are. -/
def clocks_REF_STAT_ON_CD01 : Fld := ⟨0x002058, 2, 1, .ro, 1, 0⟩
/-- R407: Command pair running. -/
def cpu_PAIR_STAT_CMD_RUN : Fld := ⟨0x008040, 0, 1, .ro, 0, 0⟩
/-- R407: Tending pair running. -/
def cpu_PAIR_STAT_TND_RUN : Fld := ⟨0x008040, 1, 1, .ro, 0, 0⟩
/-- R407: ROM check passed; R398. -/
def cpu_PAIR_STAT_ROM_OK : Fld := ⟨0x008040, 2, 1, .ro, 0, 0⟩
/-- R407: Command-pair mismatches, saturating; R394. -/
def cpu_MISMATCH_CMD : Fld := ⟨0x008044, 0, 16, .rc, 0, 0⟩
/-- R407: Tending-pair mismatches, saturating. -/
def cpu_MISMATCH_TND : Fld := ⟨0x008044, 16, 16, .rc, 0, 0⟩
/-- R407: Watchdog period, ms; R396. -/
def cpu_WDOG_PERIOD : Fld := ⟨0x008048, 0, 16, .ro, 100, 0⟩
/-- R407: Corrected SRAM errors, saturating; R397. -/
def cpu_SRAM_CE_COUNT : Fld := ⟨0x00804C, 0, 16, .rc, 0, 0⟩
/-- R407: Word of the last corrected error, offset ÷ 8. -/
def cpu_SRAM_CE_ADDR_WORD : Fld := ⟨0x008050, 0, 18, .ro, 0, 0⟩
/-- R407: Command-pair busy time over the last management frame, %. -/
def cpu_LOAD_CMD : Fld := ⟨0x008054, 0, 8, .ro, 0, 0⟩
/-- R407: Tending-pair busy time, %. -/
def cpu_LOAD_TND : Fld := ⟨0x008054, 8, 8, .ro, 0, 0⟩
/-- R408: Free sectors beyond the transfer and save sectors; R403. -/
def nvm_STORE_STAT_FREE : Fld := ⟨0x009040, 0, 5, .ro, 30, 0⟩
/-- R408: Stage 3 of R406. -/
def nvm_STORE_STAT_WORN : Fld := ⟨0x009040, 6, 1, .ro, 0, 0⟩
/-- R408: Ageing log held in SRAM only. -/
def nvm_STORE_STAT_AGE_RAM : Fld := ⟨0x009040, 7, 1, .ro, 0, 0⟩
/-- R408: Ageing-log sectors left. -/
def nvm_STORE_STAT_AGE_SECT : Fld := ⟨0x009040, 8, 6, .ro, 48, 0⟩
/-- R408: log2 D of R406. -/
def nvm_STORE_STAT_DECIM : Fld := ⟨0x009040, 16, 3, .ro, 0, 0⟩
/-- R408: Retry pulses per sector write, 1 to 63; 0 ignored and counted in. -/
def nvm_WEAR_CFG_PULSE_LIM : Fld := ⟨0x009044, 0, 6, .rw, 24, 0⟩
/-- R408: Physical sector 0 to 543. -/
def nvm_SEC_INDEX_PHYS : Fld := ⟨0x009048, 0, 10, .rw, 0, 0⟩
/-- R408: Logical sector mapped; 1,023 if none. -/
def nvm_SEC_STAT_LOGICAL : Fld := ⟨0x00904C, 0, 10, .ro, 0, 19⟩
/-- R408: 0 mapped, 1 free, 2 transfer or save, 3 retired. -/
def nvm_SEC_STAT_STATE : Fld := ⟨0x00904C, 10, 2, .ro, 0, 20⟩
/-- R408: Retry pulses of the last write, saturating at 255; R404. -/
def nvm_SEC_STAT_LAST_PULSES : Fld := ⟨0x00904C, 12, 8, .ro, 0, 0⟩
/-- R408: Erases of the indexed sector. -/
def nvm_SEC_ERASES_COUNT : Fld := ⟨0x009050, 0, 32, .ro, 0, 0⟩
/-- R408: Sectors retired. -/
def nvm_RETIRED_COUNT : Fld := ⟨0x009054, 0, 6, .ro, 0, 0⟩
/-- R408: Sector writes completed, wrapping. -/
def nvm_WRITES_COUNT : Fld := ⟨0x009058, 0, 32, .ro, 0, 0⟩
/-- R431: Set by GRAFT_ARM; R419. -/
def graft_CFG_ARMED : Fld := ⟨0x006040, 0, 1, .ro, 0, 0⟩
/-- R431: ROLE_PREF of the last GRAFT_ARM. -/
def graft_CFG_PREF : Fld := ⟨0x006040, 1, 2, .ro, 0, 0⟩
/-- R431: HUB_ID of the peer. -/
def graft_CFG_PEER_ID : Fld := ⟨0x006040, 16, 16, .ro, 0, 0⟩
/-- R431: 0 unpaired, 1 active, 2 standby; as GLOBAL.STATE.ROLE. -/
def graft_STAT_ROLE : Fld := ⟨0x006044, 0, 2, .ro, 0, 0⟩
/-- R431: Released since last armed. -/
def graft_STAT_RELEASED : Fld := ⟨0x006044, 2, 1, .ro, 0, 0⟩
/-- R431: R418. -/
def graft_STAT_ELIGIBLE : Fld := ⟨0x006044, 3, 1, .ro, 0, 0⟩
/-- R431: R413. -/
def graft_STAT_PEER_ELIGIBLE : Fld := ⟨0x006044, 4, 1, .ro, 0, 0⟩
/-- R431: Token released; R410. -/
def graft_STAT_TOKEN_FREE : Fld := ⟨0x006044, 5, 1, .ro, 1, 0⟩
/-- R431: R414. -/
def graft_STAT_SYNC_OK : Fld := ⟨0x006044, 6, 1, .ro, 0, 0⟩
/-- R431: R415. -/
def graft_STAT_SEQ_AGREE : Fld := ⟨0x006044, 7, 1, .ro, 0, 0⟩
/-- R431: Dead time running. -/
def graft_STAT_DEAD_TIME : Fld := ⟨0x006044, 8, 1, .ro, 0, 0⟩
/-- R431: R426. -/
def graft_STAT_CATCH_UP : Fld := ⟨0x006044, 9, 1, .ro, 0, 0⟩
/-- R431: Pair epoch; R423. -/
def graft_STAT_EPOCH : Fld := ⟨0x006044, 16, 8, .ro, 0, 0⟩
/-- R431: Last release by this hub; R420. -/
def graft_STAT_CAUSE : Fld := ⟨0x006044, 24, 3, .ro, 0, 0⟩
/-- R431: R418. -/
def graft_INELIG_NOT_ARMED : Fld := ⟨0x006048, 0, 1, .ro, 1, 0⟩
/-- R431: as its page says. -/
def graft_INELIG_RELEASED : Fld := ⟨0x006048, 1, 1, .ro, 0, 0⟩
/-- R431: as its page says. -/
def graft_INELIG_TIMING : Fld := ⟨0x006048, 2, 1, .ro, 1, 0⟩
/-- R431: as its page says. -/
def graft_INELIG_ALIGN : Fld := ⟨0x006048, 3, 1, .ro, 0, 0⟩
/-- R431: as its page says. -/
def graft_INELIG_CONFIG : Fld := ⟨0x006048, 4, 1, .ro, 0, 0⟩
/-- R431: as its page says. -/
def graft_INELIG_NOT_STREAMING : Fld := ⟨0x006048, 5, 1, .ro, 1, 0⟩
/-- R431: as its page says. -/
def graft_INELIG_DEGRADED : Fld := ⟨0x006048, 6, 1, .ro, 0, 0⟩
/-- R431: as its page says. -/
def graft_INELIG_NO_SYNC : Fld := ⟨0x006048, 7, 1, .ro, 0, 0⟩
/-- R431: as its page says. -/
def graft_INELIG_RING : Fld := ⟨0x006048, 8, 1, .ro, 0, 0⟩
/-- R431: Orbit [31:0] of the last takeover by this hub; a read latches TAKE_HI. -/
def graft_TAKE_LO_ORBIT_LO : Fld := ⟨0x00604C, 0, 32, .ro, 0, 0⟩
/-- R431: Orbit [47:32], as latched. -/
def graft_TAKE_HI_ORBIT_HI : Fld := ⟨0x006050, 0, 16, .ro, 0, 0⟩
/-- R431: Takeovers, wrapping. -/
def graft_TAKE_HI_TAKEOVERS : Fld := ⟨0x006050, 16, 16, .ro, 0, 0⟩
/-- R431: Orbit [31:0] of the last release by this hub; a read latches REL_HI. -/
def graft_REL_LO_ORBIT_LO : Fld := ⟨0x006054, 0, 32, .ro, 0, 0⟩
/-- R431: Orbit [47:32], as latched. -/
def graft_REL_HI_ORBIT_HI : Fld := ⟨0x006058, 0, 16, .ro, 0, 0⟩
/-- R431: Releases, wrapping. -/
def graft_REL_HI_RELEASES : Fld := ⟨0x006058, 16, 16, .ro, 0, 0⟩
/-- R431: Sync interval; R411. -/
def graft_SYNC_INT_ORBITS : Fld := ⟨0x00605C, 0, 8, .ro, 1, 0⟩
/-- R431: R411, saturating. -/
def graft_SYNC_ERR_CRC : Fld := ⟨0x006060, 0, 16, .rc, 0, 0⟩
/-- R431: R411, R414, saturating. -/
def graft_SYNC_ERR_MISSING : Fld := ⟨0x006060, 16, 16, .rc, 0, 0⟩
/-- R431: Renumberings; R415, saturating. -/
def graft_SEQ_FIX_COUNT : Fld := ⟨0x006064, 0, 32, .rc, 0, 0⟩
/-- R431: Segments marked at the last takeover. -/
def graft_REPLAYED_COUNT : Fld := ⟨0x006068, 0, 32, .ro, 0, 0⟩
/-- R431: Duration of the last catch-up, µs. -/
def graft_CATCH_US_US : Fld := ⟨0x00606C, 0, 32, .ro, 0, 0⟩
/-- R448: Steps above 0.65 V, 2.5 mV each; R435. -/
def tending_AVS_TARGET : Fld := ⟨0x007040, 0, 7, .ro, 60, 0⟩
/-- R448: Step applied now. -/
def tending_AVS_NOW : Fld := ⟨0x007040, 8, 7, .ro, 60, 0⟩
/-- R448: R436. -/
def tending_AVS_AVS_LIMIT : Fld := ⟨0x007040, 16, 1, .ro, 0, 0⟩
/-- R448: Worst sensor, last frame, 0.1%. -/
def tending_MARGIN_WORST : Fld := ⟨0x007044, 0, 8, .ro, 0, 0⟩
/-- R448: Its number, 0 to 95. -/
def tending_MARGIN_SENSOR : Fld := ⟨0x007044, 8, 7, .ro, 0, 0⟩
/-- R448: Margin target, 0.1%; R439. -/
def tending_MARGIN_TARGET : Fld := ⟨0x007044, 16, 8, .ro, 60, 0⟩
/-- R448: Signed, 0.1 °C. -/
def tending_TEMP_HOTTEST : Fld := ⟨0x007048, 0, 16, .ro, 0, 0⟩
/-- R448: 0 to 15. -/
def tending_TEMP_SENSOR : Fld := ⟨0x007048, 16, 4, .ro, 0, 0⟩
/-- R448: 0–95 margin, 96–119 ring oscillators, 120–135 temperatures. -/
def tending_MON_INDEX_MON : Fld := ⟨0x00704C, 0, 8, .rw, 0, 0⟩
/-- R448: In the unit of R432. -/
def tending_MON_VALUE_VALUE : Fld := ⟨0x007050, 0, 16, .ro, 0, 0⟩
/-- R448: Re-plans since reset, wrapping. -/
def tending_REPLAN_COUNT : Fld := ⟨0x007054, 0, 16, .ro, 0, 0⟩
/-- R448: Frames to the next re-plan; R434. -/
def tending_NEXT_FRAMES : Fld := ⟨0x007058, 0, 17, .ro, 0, 0⟩
/-- R448: R436, R442. -/
def tending_STAT_GUARD : Fld := ⟨0x00705C, 0, 1, .ro, 0, 0⟩
/-- R448: R444. -/
def tending_STAT_TRIM_INVALID : Fld := ⟨0x00705C, 1, 1, .ro, 0, 0⟩
/-- R448: R444. -/
def tending_STAT_TRIM_COPY2 : Fld := ⟨0x00705C, 2, 1, .ro, 0, 0⟩
/-- R448: R444. -/
def tending_STAT_TRIM_DIFFER : Fld := ⟨0x00705C, 3, 1, .ro, 0, 0⟩
/-- R448: A reload is in progress. -/
def tending_STAT_RELOAD_BUSY : Fld := ⟨0x00705C, 4, 1, .ro, 0, 0⟩
/-- R448: R447. -/
def tending_STAT_RELOAD_WAIT : Fld := ⟨0x00705C, 5, 1, .ro, 0, 0⟩
/-- R448: Uncovered bed reloading; 31 none. -/
def tending_STAT_RELOAD_BED : Fld := ⟨0x00705C, 8, 5, .ro, 31, 0⟩
/-- R448: Block mismatches, saturating; R445. -/
def tending_TRIM_FIX_COUNT : Fld := ⟨0x007060, 0, 16, .rc, 0, 0⟩
/-- R448: Block reloads completed, saturating. -/
def tending_TRIM_FIX_RELOADS : Fld := ⟨0x007060, 16, 16, .rc, 0, 0⟩
/-- R448: Bit n: RESOURCE n pinned by MARGIN_APPLY; R439. -/
def tending_PINNED_RES : Fld := ⟨0x007064, 0, 4, .ro, 0, 0⟩
/-- R470: 20 mV. -/
def power_VIN_STAT_VIN_A : Fld := ⟨0x003040, 0, 12, .ro, 0, 0⟩
/-- R470: 20 mV. -/
def power_VIN_STAT_VIN_B : Fld := ⟨0x003040, 12, 12, .ro, 0, 0⟩
/-- R470: R449. -/
def power_VIN_STAT_A_FEEDS : Fld := ⟨0x003040, 24, 1, .ro, 0, 0⟩
/-- R470: as its page says. -/
def power_VIN_STAT_B_FEEDS : Fld := ⟨0x003040, 25, 1, .ro, 0, 0⟩
/-- R470: R464. -/
def power_VIN_STAT_PFAIL : Fld := ⟨0x003040, 26, 1, .ro, 0, 0⟩
/-- R470: 0.1 V, 70 to 500; other values ignored and counted in ERR_COUNT. -/
def power_PFAIL_CFG_THRESH : Fld := ⟨0x003044, 0, 9, .rw, 80, 0⟩
/-- R470: VINT in regulation. -/
def power_CONV_STAT_VINT_OK : Fld := ⟨0x003048, 0, 1, .ro, 0, 0⟩
/-- R470: R453. -/
def power_CONV_STAT_VKA_OK : Fld := ⟨0x003048, 1, 1, .ro, 0, 0⟩
/-- R470: Trip latch set; R461. -/
def power_CONV_STAT_LATCHED : Fld := ⟨0x003048, 2, 1, .ro, 0, 0⟩
/-- R470: mV. -/
def power_CONV_STAT_VINT : Fld := ⟨0x003048, 16, 16, .ro, 0, 0⟩
/-- R470: Phase 0 to 3. -/
def power_PHASE_INDEX_PHASE : Fld := ⟨0x00304C, 0, 2, .rw, 0, 0⟩
/-- R470: Mean current, 0.1 A. -/
def power_PHASE_CURRENT : Fld := ⟨0x003050, 0, 8, .ro, 0, 0⟩
/-- R470: Last dead time, ns; R452. -/
def power_PHASE_DEAD : Fld := ⟨0x003050, 8, 6, .ro, 0, 0⟩
/-- R470: Rail 0 to 11; 12 to 15 read as 0. -/
def power_RAIL_INDEX_RAIL : Fld := ⟨0x003054, 0, 4, .rw, 0, 0⟩
/-- R470: Voltage, mV. -/
def power_RAIL_MV : Fld := ⟨0x003058, 0, 13, .ro, 0, 0⟩
/-- R470: Current, 10 mA. -/
def power_RAIL_MA : Fld := ⟨0x003058, 16, 16, .ro, 0, 0⟩
/-- R470: Bit n: rail n faulted; R460. -/
def power_RAIL_FAULT_RAIL : Fld := ⟨0x00305C, 0, 12, .w1c, 0, 0⟩
/-- R470: Bit n: PDnn requested on; bits 0 to 3 read 1 and ignore writes; R459. -/
def power_PD_REQ_ON : Fld := ⟨0x003060, 0, 24, .rw, 15, 0⟩
/-- R470: Bit n: PDnn waiting under R457. -/
def power_PD_WAIT_WAIT : Fld := ⟨0x003064, 0, 24, .ro, 0, 0⟩
/-- R470: Bit n: PDnn switched off by a fault. -/
def power_PD_FAULT_FAULT : Fld := ⟨0x003068, 0, 24, .w1c, 0, 0⟩
/-- R470: Longest burst from first request to last domain in regulation, µs. -/
def power_START_MAX_US : Fld := ⟨0x00306C, 0, 16, .rc, 0, 0⟩
/-- R470: Input power, 0.1 W; R455. -/
def power_POWER_IN_W : Fld := ⟨0x003070, 0, 16, .ro, 0, 0⟩
/-- R471: PTRIP_N level. -/
def trip_PTRIP_STAT_PIN : Fld := ⟨0x005040, 0, 1, .ro, 1, 0⟩
/-- R471: R461. -/
def trip_PTRIP_STAT_LATCH : Fld := ⟨0x005040, 1, 1, .ro, 0, 0⟩
/-- R471: The last trip fell within a dead time. -/
def trip_PTRIP_STAT_IN_DEAD : Fld := ⟨0x005040, 2, 1, .ro, 0, 0⟩
/-- R471: Trips, saturating. -/
def trip_PTRIP_STAT_EDGES : Fld := ⟨0x005040, 8, 8, .rc, 0, 0⟩
/-- R471: TRIP_CLEAR refused with TRIP_ACTIVE, saturating; R463. -/
def trip_PTRIP_STAT_REFUSED : Fld := ⟨0x005040, 16, 16, .rc, 0, 0⟩
/-- R471: PTRIP_N acted. -/
def trip_CAUSE_PTRIP : Fld := ⟨0x005044, 0, 1, .ro, 0, 0⟩
/-- R471: VINT above 5.5 V. -/
def trip_CAUSE_VINT_OV : Fld := ⟨0x005044, 1, 1, .ro, 0, 0⟩
/-- R471: Persistent phase overcurrent. -/
def trip_CAUSE_PHASE_OC : Fld := ⟨0x005044, 2, 1, .ro, 0, 0⟩
/-- R471: Mixed-signal die above 125 °C. -/
def trip_CAUSE_OVERTEMP : Fld := ⟨0x005044, 3, 1, .ro, 0, 0⟩
/-- R472: R469. -/
def coldframe_CF_STAT_TIME_VALID : Fld := ⟨0x004040, 0, 1, .ro, 0, 0⟩
/-- R472: R469. -/
def coldframe_CF_STAT_LOG_VALID : Fld := ⟨0x004040, 1, 1, .ro, 0, 0⟩
/-- R472: R469. -/
def coldframe_CF_STAT_COLD_FRAME_LOST : Fld := ⟨0x004040, 2, 1, .w1c, 0, 0⟩
/-- R472: Drawing from main; R467. -/
def coldframe_CF_STAT_ON_MAIN : Fld := ⟨0x004040, 3, 1, .ro, 0, 0⟩
/-- R472: VBAT below 2.2 V. -/
def coldframe_CF_STAT_VBAT_LOW : Fld := ⟨0x004040, 4, 1, .ro, 0, 0⟩
/-- R472: R469. -/
def coldframe_CF_STAT_RETAIN_CRC : Fld := ⟨0x004040, 5, 1, .w1c, 0, 0⟩
/-- R472: R465. -/
def coldframe_CF_STAT_SAVE_FAIL : Fld := ⟨0x004040, 6, 1, .w1c, 0, 0⟩
/-- R472: VBAT, mV, measured while on main. -/
def coldframe_VBAT_MV : Fld := ⟨0x004044, 0, 12, .ro, 0, 0⟩
/-- R472: Counter seconds [31:0]; a read latches SEC_HI. -/
def coldframe_SEC_LO_SEC : Fld := ⟨0x004048, 0, 32, .ro, 0, 0⟩
/-- R472: Seconds [47:32], as latched. -/
def coldframe_SEC_HI_SEC : Fld := ⟨0x00404C, 0, 16, .ro, 0, 0⟩
/-- R472: Subseconds, 1/32,768 s, as latched. -/
def coldframe_SEC_HI_SUB : Fld := ⟨0x00404C, 16, 15, .ro, 0, 0⟩
/-- R472: Word 0 to 63. -/
def coldframe_RET_INDEX_WORD : Fld := ⟨0x004050, 0, 6, .rw, 0, 0⟩
/-- R472: Bytes 4 × WORD to 4 × WORD + 3 of R468; a read advances WORD, from 63. -/
def coldframe_RET_DATA_DATA : Fld := ⟨0x004054, 0, 32, .ro, 0, 0⟩
/-- R488: 0 master, 1 slave; R473, R474. -/
def xspi_CFG_MODE : Fld := ⟨0x00A040, 0, 1, .rw, 0, 0⟩
/-- R488: 0 x1, 1 x4, 2 x8; 3 ignored and counted in ERR_COUNT; R480. -/
def xspi_SLV_CFG_WIDTH : Fld := ⟨0x00A044, 0, 2, .rw, 0, 0⟩
/-- R488: Cycles, 1 to 31; 0 ignored and counted; R481. -/
def xspi_SLV_CFG_WAIT : Fld := ⟨0x00A044, 8, 5, .rw, 6, 0⟩
/-- R488: 0 none, 1 unknown command, 2 bad address, 3 page off, 4 not ready, 5. -/
def xspi_SLV_STAT_LAST_ERR : Fld := ⟨0x00A048, 0, 4, .ro, 0, 0⟩
/-- R488: R482. -/
def xspi_SLV_STAT_SEQ : Fld := ⟨0x00A048, 4, 1, .ro, 0, 0⟩
/-- R488: R487. -/
def xspi_SLV_STAT_REQ_FULL : Fld := ⟨0x00A048, 5, 1, .ro, 0, 0⟩
/-- R488: Responses waiting, 0 to 8. -/
def xspi_SLV_STAT_RESP_Q : Fld := ⟨0x00A048, 8, 4, .ro, 0, 0⟩
/-- R488: R486, saturating. -/
def xspi_SLV_CNT_SLAVE_ABORT : Fld := ⟨0x00A04C, 0, 16, .rc, 0, 0⟩
/-- R488: R487, saturating. -/
def xspi_SLV_CNT_RESP_LOST : Fld := ⟨0x00A04C, 16, 16, .rc, 0, 0⟩
/-- R488: Transactions that took effect, wrapping. -/
def xspi_SLV_TRANS_COUNT : Fld := ⟨0x00A050, 0, 32, .ro, 0, 0⟩
/-- R488: Select of the image device; R477. -/
def xspi_MST_CFG_CS : Fld := ⟨0x00A054, 0, 2, .rw, 0, 0⟩
/-- R488: Clock = 800 MHz ÷ DIV, 4 to 63; R475. -/
def xspi_MST_CFG_DIV : Fld := ⟨0x00A054, 4, 6, .ro, 32, 0⟩
/-- R488: Continuous reads allowed; R479. -/
def xspi_MST_CFG_CONT : Fld := ⟨0x00A054, 10, 1, .rw, 1, 0⟩
/-- R488: 64 KiB units, 0 to 3,840. -/
def xspi_MST_CFG_IMG_OFF : Fld := ⟨0x00A054, 16, 12, .rw, 0, 0⟩
/-- R488: Bit n: SFDP found on CSn. -/
def xspi_MST_STAT_PRESENT : Fld := ⟨0x00A058, 0, 4, .ro, 0, 0⟩
/-- R488: 8D-8D-8D in use. -/
def xspi_MST_STAT_DDR : Fld := ⟨0x00A058, 4, 1, .ro, 0, 0⟩
/-- R488: R479. -/
def xspi_MST_STAT_CONT_ACTIVE : Fld := ⟨0x00A058, 5, 1, .ro, 0, 0⟩
/-- R488: R475. -/
def xspi_MST_STAT_NO_FLASH : Fld := ⟨0x00A058, 6, 1, .ro, 0, 0⟩
/-- R488: Port clock, MHz. -/
def xspi_MST_STAT_MHZ : Fld := ⟨0x00A058, 16, 8, .ro, 0, 0⟩
/-- R488: R476, saturating. -/
def xspi_MST_ERR_DQS_TIMEOUT : Fld := ⟨0x00A05C, 0, 16, .rc, 0, 0⟩
/-- R488: Fetches abandoned, saturating. -/
def xspi_MST_ERR_ABANDONED : Fld := ⟨0x00A05C, 16, 16, .rc, 0, 0⟩
/-- R488: R478, saturating. -/
def xspi_PF_STAT_HIT : Fld := ⟨0x00A060, 0, 16, .rc, 0, 0⟩
/-- R488: R478, saturating. -/
def xspi_PF_STAT_MISS : Fld := ⟨0x00A060, 16, 16, .rc, 0, 0⟩

end R

/-- The fields of page trellis, in address order. -/
def trellisTable : List Fld :=
  [R.trellis_TIMING_MODE, R.trellis_TIMING_KSEL, R.trellis_TIMING_NSLOT, R.trellis_ORBIT_CFG_MARK_SLOT,
   R.trellis_QUIET_QW_FIRST, R.trellis_QUIET_QW_LEN, R.trellis_MFRAME_MF_ORBITS, R.trellis_ORBIT_LOAD_LO_ORBIT_LO,
   R.trellis_ORBIT_LOAD_HI_ORBIT_HI, R.trellis_ORBIT_LOAD_HI_LOAD, R.trellis_ORBIT_NOW_LO_ORBIT_LO,
   R.trellis_ORBIT_NOW_HI_ORBIT_HI, R.trellis_SLOT_NOW_SLOT, R.trellis_TSTAT_BC_LOCK, R.trellis_TSTAT_ORBIT_LOCK,
   R.trellis_TSTAT_TIMING_LOST, R.trellis_TSTAT_HOLDOVER, R.trellis_TSTAT_SRC_H01, R.trellis_TSTAT_ALIGN_VALID,
   R.trellis_TSTAT_ALIGN_HOLD, R.trellis_TSTAT_ALIGN_LOST, R.trellis_ORBIT_MISS_COUNT, R.trellis_ORBIT_SLIP_COUNT,
   R.trellis_PROBE_CNT_MISS, R.trellis_PROBE_CNT_OUTLIER, R.trellis_ALIGN_TARGET_D_TARGET, R.trellis_PROBE_ASYM_A,
   R.trellis_ALIGN_APPLIED_STEPS, R.trellis_ALIGN_APPLIED_SAMPLES, R.trellis_DDOWN_D_DOWN,
   R.trellis_PIN_OFFSET_OFFSET, R.trellis_PAIR_INDEX_PAIR, R.trellis_PAIR_PHASE_STEPS, R.trellis_BC_NOMINAL_FREQ]

/-- The fields of page bed, in address order. -/
def bedTable : List Fld :=
  [R.bed_AFE_INDEX_CH, R.bed_AFE_CFG_TERM, R.bed_AFE_CFG_GAIN, R.bed_AFE_CFG_ENABLE, R.bed_CLAMP_CH,
   R.bed_OR_STICKY_CH, R.bed_TERM_OPEN_CH, R.bed_ROT_CTRL_ENABLE, R.bed_ROT_CTRL_MEAN_TOL, R.bed_ROT_CTRL_RMS_TOL,
   R.bed_ROT_STAT_SPARE, R.bed_ROT_STAT_NEXT_CH, R.bed_ROT_STAT_STATE, R.bed_ROT_STAT_SLICE_FAULT,
   R.bed_ROT_STAT_SPARE_FAULT, R.bed_ROT_STAT_MISMATCH, R.bed_SLICE_INDEX_SLICE, R.bed_SLICE_OFFSET_OFFSET,
   R.bed_SLICE_GAIN_GAIN, R.bed_SLICE_SKEW_SKEW, R.bed_SLICE_MAP_CH, R.bed_HANDOVERS_COUNT, R.bed_LINECHK_CH,
   R.bed_LINECHK_START, R.bed_LINE_STAT_LO_CH, R.bed_LINE_STAT_HI_CH]

/-- The fields of page sieve, in address order. -/
def sieveTable : List Fld :=
  [R.sieve_CH_INDEX_CH, R.sieve_CH_CFG_BANK, R.sieve_CH_CFG_S0, R.sieve_CH_CFG_S1, R.sieve_CH_CFG_PED_SRC,
   R.sieve_CH_CFG_FP_INV, R.sieve_CH_CFG_LABEL, R.sieve_FD_DELAY_D, R.sieve_GAIN_G, R.sieve_PED_PED, R.sieve_GD_GD,
   R.sieve_GD_RESID, R.sieve_LABEL_STAT_LBL_NEED, R.sieve_LABEL_STAT_LBL_HELD, R.sieve_SAT_STICKY_STAGE,
   R.sieve_PED_NOW_PED, R.sieve_SAT_COUNT_COUNT, R.sieve_TRANSITIONS_COUNT]

/-- The fields of page coef, in address order. -/
def coefTable : List Fld :=
  [R.coef_BANK_INDEX_BANK, R.coef_BANK_CFG_KIND, R.coef_BANK_CFG_N2, R.coef_BANK_CFG_N4, R.coef_BANK_CFG_S2,
   R.coef_BANK_CFG_S3, R.coef_BANK_CFG_S4, R.coef_BANK_CFG_DEC_MODE, R.coef_BANK_CFG_DEC_PHASE, R.coef_TAP_INDEX_TAP,
   R.coef_COEF_VALUE, R.coef_BANK_GD_GD2, R.coef_BANK_GD_GD4]

/-- The fields of page rec, in address order. -/
def recTable : List Fld :=
  [R.rec_BED_INDEX_BED, R.rec_BED_CFG_MODE, R.rec_BED_CFG_VSHIFT, R.rec_BED_CFG_LZ_EN, R.rec_BED_CFG_LZ_PRE,
   R.rec_BED_CFG_LZ_POST, R.rec_BED_CFG_FURROW, R.rec_CH_INDEX_CH, R.rec_CH_CFG_CLASS, R.rec_CH_CFG_POL,
   R.rec_THR_INDEX_CLASS, R.rec_THR_OFF_OFFSET, R.rec_PF_CFG_TAU, R.rec_PF_CFG_GUARD, R.rec_PF_CFG_JUMP,
   R.rec_PF_B4_B4, R.rec_PF_B4_SEEDED, R.rec_PF_STAT_SKIP, R.rec_PF_STAT_JUMPS, R.rec_MEAS_INDEX_CH,
   R.rec_MEAS_AMP_AMP, R.rec_MEAS_PEAK_FTIME, R.rec_MEAS_PEAK_SLOT, R.rec_MEAS_PERIOD_PERIOD, R.rec_MEAS_PMIN_PMIN,
   R.rec_MEAS_PMAX_PMAX, R.rec_MEAS_PCOUNT_COUNT, R.rec_LZ_COUNT_COUNT, R.rec_LAT_L_MAX, R.rec_LAT_PIN_TO_COLL]

/-- The fields of page sent, in address order. -/
def sentTable : List Fld :=
  [R.sent_SN_INDEX_SN, R.sent_SN_CFG_ENABLE, R.sent_SN_CFG_OR_VIOL, R.sent_SN_CFG_AUTO_REARM, R.sent_SN_CFG_REF_SRC,
   R.sent_SN_CFG_TRIG, R.sent_SN_CFG_CH, R.sent_SN_ALIGN_ALIGN, R.sent_SN_ALIGN_REF_SLOT, R.sent_SN_POST_POST,
   R.sent_MASK_INDEX_I, R.sent_MASK_UPPER, R.sent_MASK_LOWER, R.sent_SN_STAT_STATE, R.sent_SN_STAT_VIOL_I,
   R.sent_SN_STAT_SNAP, R.sent_ALARM_SN, R.sent_REARM_SN, R.sent_REF_SKIP_COUNT]

/-- The fields of page lane, in address order. -/
def laneTable : List Fld :=
  [R.lane_LANE_INDEX_LANE, R.lane_LANE_CFG_TX_PRECODE, R.lane_LANE_CFG_RX_PRECODE, R.lane_LANE_CFG_TX_INV,
   R.lane_LANE_CFG_RX_INV, R.lane_LANE_CFG_FFE_PRE, R.lane_LANE_CFG_FFE_POST, R.lane_PWR_REQ_TX_REQ,
   R.lane_PWR_REQ_RX_REQ, R.lane_LANE_STAT_BLOCK_LOCK, R.lane_LANE_STAT_FRAME_LOCK, R.lane_LANE_STAT_TX_STATE,
   R.lane_LANE_STAT_RX_STATE, R.lane_LANE_STAT_WAKE_PENDING, R.lane_LANE_STAT_BOUND_HIT, R.lane_HDR_ERR_COUNT,
   R.lane_LOCK_LOSS_BLOCK, R.lane_LOCK_LOSS_FRAME, R.lane_CTLE_BOUND_MIN, R.lane_CTLE_BOUND_MAX,
   R.lane_DFE_BOUND_H1_MAX, R.lane_DFE_BOUND_HN_MAX, R.lane_EQ_NOW_CTLE, R.lane_EQ_NOW_H1, R.lane_EYE_CTRL_START,
   R.lane_EYE_CTRL_DWELL, R.lane_EYE_RESULT_WIDTH, R.lane_EYE_RESULT_VALID, R.lane_EYE_RESULT_HEIGHT,
   R.lane_EYE_RESULT_WORST, R.lane_RETRAIN_INTERVAL, R.lane_RETRAIN_COUNT]

/-- The fields of page ing, in address order. -/
def ingTable : List Fld :=
  [R.ing_PORT_INDEX_PORT, R.ing_PORT_CFG_ENABLE, R.ing_PORT_CFG_CLUSTER_EN, R.ing_PORT_CFG_SC_REPLY_EN,
   R.ing_PORT_CFG_TA_FWD, R.ing_PORT_CFG_TX_PHASE, R.ing_PORT_CFG_FURROW, R.ing_LATE_FURROW_FURROW, R.ing_ALIGN_LAT,
   R.ing_FC_SCHED_OM_SLOT, R.ing_FC_SCHED_CAL_SLOT, R.ing_FC_CAL_CAL_EVERY, R.ing_FC_REQ_CODE, R.ing_FC_REQ_ALL,
   R.ing_SC_TX_BYTE, R.ing_SC_TX_FIRST, R.ing_SC_TX_LAST, R.ing_SC_RX_BYTE, R.ing_SC_RX_FIRST, R.ing_SC_RX_LAST,
   R.ing_SC_RX_VALID, R.ing_PORT_STAT_STATUS, R.ing_PORT_STAT_QUEUE, R.ing_CNT_FRAMES_FRAMES,
   R.ing_CNT_FRAMES_FILLER, R.ing_CNT_LATE_LATE, R.ing_CNT_LATE_DUP, R.ing_CNT_GAP_GAP, R.ing_CNT_MISC_BADO,
   R.ing_CNT_MISC_SC_OVF, R.ing_CNT_HERR_HERR, R.ing_CNT_CMD_ACC, R.ing_CNT_CMD_REQ, R.ing_CLS_INDEX_CLASS,
   R.ing_CLS_CFG_ACTION, R.ing_CLS_CFG_OFFSET, R.ing_CLS_CFG_FTO, R.ing_CLS_GAIN_GAIN, R.ing_DROP_COUNT_COUNT]

/-- The fields of page cwin, in address order. -/
def cwinTable : List Fld :=
  [R.cwin_CS_INDEX_WORD, R.cwin_CS_INDEX_PORT, R.cwin_CS_DATA_CLASSES, R.cwin_CS_STAGED_COUNT]

/-- The fields of page dib, in address order. -/
def dibTable : List Fld :=
  [R.dib_SRC_EN_TRIG, R.dib_SRC_EN_ACC, R.dib_TRIG_INDEX_TRIG, R.dib_TRIG_CFG_EDGE, R.dib_TRIG_CFG_TERM,
   R.dib_TRIG_CFG_DEAD, R.dib_TRIG_OFFSET_OFFSET, R.dib_TRIG_COUNT_COUNT, R.dib_MARK_STAT_QUEUE,
   R.dib_MARK_STAT_MSEQ, R.dib_DROP_TRIG_DEAD, R.dib_DROP_TRIG_RATION, R.dib_DROP_SELF_COUNT, R.dib_DROP_ACC_RATION,
   R.dib_DROP_ACC_BAD]

/-- The fields of page fsum, in address order. -/
def fsumTable : List Fld :=
  [R.fsum_CTRL_ENABLE, R.fsum_CTRL_SEND, R.fsum_CTRL_LANE, R.fsum_CTRL_FURROW, R.fsum_SUM_INDEX_SUM,
   R.fsum_SUM_CFG_ENABLE, R.fsum_SUM_CFG_TRIG_EN, R.fsum_SUM_CFG_SHIFT, R.fsum_SUM_CFG_THR, R.fsum_SUM_HOLD_HOLDOFF,
   R.fsum_MEMBER_INDEX_MEMBER, R.fsum_MEMBER_CH, R.fsum_MEMBER_W, R.fsum_SUM_NOW_VAL, R.fsum_SUM_NOW_FLAG,
   R.fsum_SELF_COUNT_COUNT, R.fsum_SEG_COUNT_COUNT, R.fsum_SEG_LOST_COUNT]

/-- The fields of page fwin, in address order. -/
def fwinTable : List Fld :=
  [R.fwin_F_INDEX_FURROW, R.fwin_D_BASE_BASE, R.fwin_D_BASE_SIZE, R.fwin_D_CFG_CLASS, R.fwin_D_CFG_EFFORT,
   R.fwin_D_CFG_PRIO, R.fwin_D_CFG_ENABLE, R.fwin_D_CFG_AGE, R.fwin_D_WORST_WORST, R.fwin_D_LANES_LANES,
   R.fwin_D_RETAIN_RETAIN, R.fwin_PTR_SEL_SEL, R.fwin_PTR_LO_SEQ_LO, R.fwin_PTR_HI_SEQ_HI, R.fwin_F_STAT_OVERRUN,
   R.fwin_F_STAT_ACK_LATE, R.fwin_ENABLED_COUNT]

/-- The fields of page bud, in address order. -/
def budTable : List Fld :=
  [R.bud_RESERVE_LB, R.bud_ACK_WIN_WINDOW, R.bud_CHK_INDEX_CHECK, R.bud_DEMAND_DEMAND, R.bud_CAPACITY_CAPACITY,
   R.bud_BSTAT_FAIL, R.bud_BSTAT_RING, R.bud_BSTAT_VALID, R.bud_BSTAT_ITEMS, R.bud_ACK_ERR_BAD, R.bud_ACK_ERR_STALE,
   R.bud_LB_STAT_ACTIVE]

/-- The fields of page memctl, in address order. -/
def memctlTable : List Fld :=
  [R.memctl_MAP_ORDER, R.memctl_MAP_MAP_NOW, R.memctl_CAPACITY_GIB, R.memctl_CAPACITY_PORTS,
   R.memctl_RT_CFG_INTERVAL, R.memctl_RT_CFG_NEXT, R.memctl_TRAIN_STAT_DONE, R.memctl_TRAIN_STAT_FAIL,
   R.memctl_TRAIN_STAT_TIME, R.memctl_RD_TRIG_COUNT]

/-- The fields of page mport, in address order. -/
def mportTable : List Fld :=
  [R.mport_RANK_MAP_LR0, R.mport_RANK_MAP_LR1, R.mport_RANK_MAP_SPARE, R.mport_SLOT_STAT_A, R.mport_SLOT_STAT_B,
   R.mport_SLOT_STAT_C, R.mport_TEMP_HOT, R.mport_TEMP_OVER, R.mport_TEMP_MR4, R.mport_RT_STAT_COUNT,
   R.mport_RT_STAT_SPLIT, R.mport_RT_STAT_FAIL, R.mport_WIN_INDEX_SLOT, R.mport_WIN_INDEX_CH, R.mport_WIN_RD,
   R.mport_WIN_WR, R.mport_WIN_CA, R.mport_RD_TRIG_COUNT, R.mport_LAT_MAX_NS]

/-- The fields of page scrub, in address order. -/
def scrubTable : List Fld :=
  [R.scrub_CFG_PERIOD, R.scrub_POS_GRANULE, R.scrub_PASSES_COUNT, R.scrub_CE_ALL_COUNT, R.scrub_UE_ALL_COUNT,
   R.scrub_UE_ALL_POISONED, R.scrub_UE_CAPT_LO_ADDR_LO, R.scrub_UE_CAPT_HI_ADDR_HI, R.scrub_UE_CAPT_HI_REGION]

/-- The fields of page spare, in address order. -/
def spareTable : List Fld :=
  [R.spare_SP_INDEX_PORT, R.spare_SP_INDEX_SLOT, R.spare_SLOT_HEALTH_CE, R.spare_SLOT_HEALTH_UE,
   R.spare_SLOT_HEALTH_CA, R.spare_SLOT_HEALTH_CAUSE, R.spare_SLOT_HEALTH_PAIR_SUSPECT, R.spare_CE_LIMIT_LIMIT,
   R.spare_CE_LIMIT_WINDOW, R.spare_MIG_STAT_ACTIVE, R.spare_MIG_STAT_FAST, R.spare_MIG_PROG_GRANULES,
   R.spare_DEGRADE_STEP, R.spare_DEGRADE_LOST_PORT, R.spare_DEGRADE_IMAGE_LOST, R.spare_DEG_ORBIT_LO_ORBIT_LO,
   R.spare_DEG_ORBIT_HI_ORBIT_HI, R.spare_DEG_ORBIT_HI_DISABLED, R.spare_SHED_COUNT]

/-- The fields of page comp, in address order. -/
def compTable : List Fld :=
  [R.comp_CTRL_VERIFY, R.comp_ENG_INDEX_ENG, R.comp_ENG_STAT_BUSY, R.comp_ENG_STAT_STORED_ONLY,
   R.comp_ENG_STAT_CONSEC_FAIL, R.comp_ENG_JOBS_COUNT, R.comp_VERIFY_FAIL_COUNT, R.comp_INPUT_CRC_COUNT,
   R.comp_STORED_COUNT, R.comp_RATIO_OUT_IN, R.comp_CHUNK_FREE_FREE, R.comp_CHUNK_LOW_LOW, R.comp_LOAM_ERR_CODE,
   R.comp_LOAM_ERR_OFFSET]

/-- The fields of page harv, in address order. -/
def harvTable : List Fld :=
  [R.harv_CFG_ZCS_LANE, R.harv_CFG_MARGIN, R.harv_CFG_DARK_HOLD, R.harv_LIT_LIT, R.harv_LIT_USABLE,
   R.harv_FORE_N_FORE, R.harv_FORE_WAIT_TRIG, R.harv_RC_STAT_H00_FRAME, R.harv_RC_STAT_H01_FRAME,
   R.harv_RC_STAT_RC_DOWN, R.harv_RC_STAT_DROPS, R.harv_RC_STAT_DROPPED, R.harv_RC_CRC_H00, R.harv_RC_CRC_H01,
   R.harv_RC_ERR_LOST, R.harv_RC_ERR_ITEM, R.harv_RC_MISC_MISMATCH, R.harv_RC_MISC_ZCS_ABORT, R.harv_REPLAY_COUNT,
   R.harv_BACKLOG_BYTES, R.harv_BACKLOG_MAX_BYTES, R.harv_LIGHT_MAX_US]

/-- The fields of page slow, in address order. -/
def slowTable : List Fld :=
  [R.slow_CTRL_ENABLE, R.slow_CTRL_ROT_EN, R.slow_CTRL_VEXC_EN, R.slow_CTRL_VEXC_SEL, R.slow_CH_INDEX_CH,
   R.slow_CH_CFG_EN, R.slow_CH_CFG_DIFF, R.slow_CH_CFG_GAIN, R.slow_CH_CFG_REF, R.slow_CH_CFG_ODR,
   R.slow_CH_CFG_BURN, R.slow_CH_CFG_COARSE_EN, R.slow_CH_CFG_CURVE, R.slow_CH_CFG_AUX_CH, R.slow_CH_CFG_DISCH,
   R.slow_PARAM_INDEX_P, R.slow_PARAM_VALUE, R.slow_IX_INDEX_IX, R.slow_IX_CFG_LEVEL, R.slow_IX_CFG_PIN,
   R.slow_IX_STAT_COMPLY, R.slow_VEXC_STAT_ON, R.slow_VEXC_STAT_EXC_FAULT, R.slow_VEXC_STAT_LOAD,
   R.slow_GROUP_MAP_MOD, R.slow_GROUP_MAP_SPARE, R.slow_ROT_CFG_ROT_FRAMES, R.slow_ROT_CFG_ROT_TOL,
   R.slow_ROT_STAT_NEXT_GROUP, R.slow_ROT_STAT_MOD_FAULT, R.slow_ROT_STAT_FAULT_MOD, R.slow_ROT_STAT_MISMATCH,
   R.slow_FLAG_SEL_WORD, R.slow_FLAG_SEL_KIND, R.slow_FLAG_BITS_CH, R.slow_LAST_CODE_CODE, R.slow_LAST_VALUE_VALUE,
   R.slow_LAST_FLAGS_FLAGS, R.slow_LAST_FLAGS_AGE, R.slow_SCAN_TIME_US]

/-- The fields of page il, in address order. -/
def ilTable : List Fld :=
  [R.il_IL_INDEX_IL, R.il_IL_CFG_EN, R.il_IL_CFG_MODE, R.il_IL_CFG_CARRIER, R.il_IL_CFG_SRC, R.il_IL_CFG_STALE,
   R.il_IL_A_A, R.il_IL_B_B, R.il_IL_STAT_FAULT, R.il_IL_STAT_CAUSE, R.il_IL_STAT_LIMIT, R.il_IL_STAT_OUT,
   R.il_SAFE_STAT_PIN, R.il_SAFE_STAT_LATCH, R.il_SAFE_STAT_EDGES, R.il_SAFE_STAT_REFUSED, R.il_SAFE_CTRL_FORCE]

/-- The fields of page eth, in address order. -/
def ethTable : List Fld :=
  [R.eth_PORT_INDEX_PORT, R.eth_PORT_CFG_EN, R.eth_PORT_CFG_SPEED, R.eth_PORT_CFG_AN, R.eth_IP_ADDR_ADDR,
   R.eth_IP_MASK_MASK, R.eth_MAC_LO_MAC, R.eth_MAC_HI_MAC, R.eth_PORT_STAT_LINK, R.eth_PORT_STAT_MODULE,
   R.eth_RX_DROP_BAD, R.eth_RX_DROP_REASM]

/-- The fields of page ptp, in address order. -/
def ptpTable : List Fld :=
  [R.ptp_CFG_EN, R.ptp_CFG_PORT, R.ptp_CFG_FAILOVER, R.ptp_CFG_TRANSPORT, R.ptp_CFG_TWO_STEP, R.ptp_CFG_SLAVE_ONLY,
   R.ptp_CFG_DOMAIN, R.ptp_INGRESS_E0_ASYM, R.ptp_EGRESS_E0_ASYM, R.ptp_INGRESS_E1_ASYM, R.ptp_EGRESS_E1_ASYM,
   R.ptp_TIME_SEC_LO_SEC, R.ptp_TIME_SEC_HI_SEC, R.ptp_TIME_NS_NS, R.ptp_TIME_FRAC_FRAC, R.ptp_RATE_RATE,
   R.ptp_OFFSET_OFFSET, R.ptp_STAT_SYNC, R.ptp_STAT_HOLDOVER, R.ptp_STAT_TIME_VALID, R.ptp_STAT_PORT_NOW,
   R.ptp_STAT_UTC_OFFSET, R.ptp_SERVO_STEP_LIM, R.ptp_SERVO_LOCK_NS, R.ptp_OT_CFG_EVERY]

/-- The fields of page hdg, in address order. -/
def hdgTable : List Fld :=
  [R.hdg_CTRL_EN, R.hdg_LAYOUT_NS, R.hdg_LAYOUT_BEACON_LEN, R.hdg_NODE_INDEX_NODE, R.hdg_NODE_STAT_ACTIVE,
   R.hdg_NODE_STAT_QUAR, R.hdg_NODE_STAT_SKEW_WARN, R.hdg_NODE_STAT_OVR_RUN, R.hdg_NODE_STAT_OFFSET,
   R.hdg_NODE_ERR_CRC, R.hdg_NODE_ERR_OVERRUN, R.hdg_UID_LO_UID, R.hdg_UID_HI_UID, R.hdg_NODE_STATUS_STATUS,
   R.hdg_NODE_STATUS_RX_OVF, R.hdg_TX_BYTE, R.hdg_TX_ALL, R.hdg_RX_BYTE, R.hdg_RX_VALID, R.hdg_RX_FIRST,
   R.hdg_BUS_ERR_STRAY, R.hdg_BUS_ERR_ADMIT_FAIL, R.hdg_CYCLE_COUNT]

/-- The fields of the common page header (R380), in address order. -/
def hdrTable : List Fld :=
  [R.hdr_PAGE_ID_PAGE, R.hdr_PAGE_ID_INSTANCE, R.hdr_PAGE_VER_MINOR, R.hdr_PAGE_VER_MAJOR, R.hdr_CTRL_ERR_CLR,
   R.hdr_CTRL_CNT_CLR, R.hdr_STAT_IRQ_PENDING, R.hdr_STAT_STAGED, R.hdr_STAT_PENDING, R.hdr_STAT_PARTIAL,
   R.hdr_IRQ_STAT_ERR, R.hdr_IRQ_STAT_EVENT, R.hdr_IRQ_STAT_COMMIT, R.hdr_IRQ_EN_EN, R.hdr_ERR_CAPT_WHAT,
   R.hdr_ERR_CAPT_CAUSE, R.hdr_ERR_CAPT_INDEX, R.hdr_ERR_COUNT_COUNT, R.hdr_SHADOW_CTRL_READ_STAGED,
   R.hdr_SHADOW_CTRL_DISCARD, R.hdr_SHADOW_CTRL_STAGED_WORDS]

/-- The fields of page global, in address order. -/
def globalTable : List Fld :=
  [R.global_HUB_ID_ID, R.global_STEPPING_SILICON, R.global_STEPPING_ROM, R.global_PART_SCREENED,
   R.global_DIE_ID_LO_ID, R.global_DIE_ID_HI_ID, R.global_STATE_STATE, R.global_STATE_ROLE, R.global_STATE_MODE,
   R.global_STATE_MODE_PREV, R.global_PD_STAT_ON, R.global_IRQ_SUM0_PAGE, R.global_IRQ_SUM1_PAGE,
   R.global_IRQ_SUM2_PAGE, R.global_IRQ_CFG_PIN_EN, R.global_RESET_CAUSE_KIND, R.global_COMMIT_LO_ORBIT_LO,
   R.global_COMMIT_HI_ORBIT_HI, R.global_COMMIT_HI_COUNT, R.global_SCRATCH_DATA]

/-- The fields of page clocks, in address order. -/
def clocksTable : List Fld :=
  [R.clocks_RUN_LO_CD, R.clocks_RUN_HI_CD, R.clocks_LOSS_LO_CD, R.clocks_LOSS_HI_CD, R.clocks_CD_INDEX_CD,
   R.clocks_CD_FREQ_KHZ, R.clocks_REF_STAT_HREF, R.clocks_REF_STAT_XTAL32, R.clocks_REF_STAT_ON_CD01]

/-- The fields of page cpu, in address order. -/
def cpuTable : List Fld :=
  [R.cpu_PAIR_STAT_CMD_RUN, R.cpu_PAIR_STAT_TND_RUN, R.cpu_PAIR_STAT_ROM_OK, R.cpu_MISMATCH_CMD, R.cpu_MISMATCH_TND,
   R.cpu_WDOG_PERIOD, R.cpu_SRAM_CE_COUNT, R.cpu_SRAM_CE_ADDR_WORD, R.cpu_LOAD_CMD, R.cpu_LOAD_TND]

/-- The fields of page nvm, in address order. -/
def nvmTable : List Fld :=
  [R.nvm_STORE_STAT_FREE, R.nvm_STORE_STAT_WORN, R.nvm_STORE_STAT_AGE_RAM, R.nvm_STORE_STAT_AGE_SECT,
   R.nvm_STORE_STAT_DECIM, R.nvm_WEAR_CFG_PULSE_LIM, R.nvm_SEC_INDEX_PHYS, R.nvm_SEC_STAT_LOGICAL,
   R.nvm_SEC_STAT_STATE, R.nvm_SEC_STAT_LAST_PULSES, R.nvm_SEC_ERASES_COUNT, R.nvm_RETIRED_COUNT, R.nvm_WRITES_COUNT]

/-- The fields of page graft, in address order. -/
def graftTable : List Fld :=
  [R.graft_CFG_ARMED, R.graft_CFG_PREF, R.graft_CFG_PEER_ID, R.graft_STAT_ROLE, R.graft_STAT_RELEASED,
   R.graft_STAT_ELIGIBLE, R.graft_STAT_PEER_ELIGIBLE, R.graft_STAT_TOKEN_FREE, R.graft_STAT_SYNC_OK,
   R.graft_STAT_SEQ_AGREE, R.graft_STAT_DEAD_TIME, R.graft_STAT_CATCH_UP, R.graft_STAT_EPOCH, R.graft_STAT_CAUSE,
   R.graft_INELIG_NOT_ARMED, R.graft_INELIG_RELEASED, R.graft_INELIG_TIMING, R.graft_INELIG_ALIGN,
   R.graft_INELIG_CONFIG, R.graft_INELIG_NOT_STREAMING, R.graft_INELIG_DEGRADED, R.graft_INELIG_NO_SYNC,
   R.graft_INELIG_RING, R.graft_TAKE_LO_ORBIT_LO, R.graft_TAKE_HI_ORBIT_HI, R.graft_TAKE_HI_TAKEOVERS,
   R.graft_REL_LO_ORBIT_LO, R.graft_REL_HI_ORBIT_HI, R.graft_REL_HI_RELEASES, R.graft_SYNC_INT_ORBITS,
   R.graft_SYNC_ERR_CRC, R.graft_SYNC_ERR_MISSING, R.graft_SEQ_FIX_COUNT, R.graft_REPLAYED_COUNT, R.graft_CATCH_US_US]

/-- The fields of page tending, in address order. -/
def tendingTable : List Fld :=
  [R.tending_AVS_TARGET, R.tending_AVS_NOW, R.tending_AVS_AVS_LIMIT, R.tending_MARGIN_WORST, R.tending_MARGIN_SENSOR,
   R.tending_MARGIN_TARGET, R.tending_TEMP_HOTTEST, R.tending_TEMP_SENSOR, R.tending_MON_INDEX_MON,
   R.tending_MON_VALUE_VALUE, R.tending_REPLAN_COUNT, R.tending_NEXT_FRAMES, R.tending_STAT_GUARD,
   R.tending_STAT_TRIM_INVALID, R.tending_STAT_TRIM_COPY2, R.tending_STAT_TRIM_DIFFER, R.tending_STAT_RELOAD_BUSY,
   R.tending_STAT_RELOAD_WAIT, R.tending_STAT_RELOAD_BED, R.tending_TRIM_FIX_COUNT, R.tending_TRIM_FIX_RELOADS,
   R.tending_PINNED_RES]

/-- The fields of page power, in address order. -/
def powerTable : List Fld :=
  [R.power_VIN_STAT_VIN_A, R.power_VIN_STAT_VIN_B, R.power_VIN_STAT_A_FEEDS, R.power_VIN_STAT_B_FEEDS,
   R.power_VIN_STAT_PFAIL, R.power_PFAIL_CFG_THRESH, R.power_CONV_STAT_VINT_OK, R.power_CONV_STAT_VKA_OK,
   R.power_CONV_STAT_LATCHED, R.power_CONV_STAT_VINT, R.power_PHASE_INDEX_PHASE, R.power_PHASE_CURRENT,
   R.power_PHASE_DEAD, R.power_RAIL_INDEX_RAIL, R.power_RAIL_MV, R.power_RAIL_MA, R.power_RAIL_FAULT_RAIL,
   R.power_PD_REQ_ON, R.power_PD_WAIT_WAIT, R.power_PD_FAULT_FAULT, R.power_START_MAX_US, R.power_POWER_IN_W]

/-- The fields of page trip, in address order. -/
def tripTable : List Fld :=
  [R.trip_PTRIP_STAT_PIN, R.trip_PTRIP_STAT_LATCH, R.trip_PTRIP_STAT_IN_DEAD, R.trip_PTRIP_STAT_EDGES,
   R.trip_PTRIP_STAT_REFUSED, R.trip_CAUSE_PTRIP, R.trip_CAUSE_VINT_OV, R.trip_CAUSE_PHASE_OC, R.trip_CAUSE_OVERTEMP]

/-- The fields of page coldframe, in address order. -/
def coldframeTable : List Fld :=
  [R.coldframe_CF_STAT_TIME_VALID, R.coldframe_CF_STAT_LOG_VALID, R.coldframe_CF_STAT_COLD_FRAME_LOST,
   R.coldframe_CF_STAT_ON_MAIN, R.coldframe_CF_STAT_VBAT_LOW, R.coldframe_CF_STAT_RETAIN_CRC,
   R.coldframe_CF_STAT_SAVE_FAIL, R.coldframe_VBAT_MV, R.coldframe_SEC_LO_SEC, R.coldframe_SEC_HI_SEC,
   R.coldframe_SEC_HI_SUB, R.coldframe_RET_INDEX_WORD, R.coldframe_RET_DATA_DATA]

/-- The fields of page xspi, in address order. -/
def xspiTable : List Fld :=
  [R.xspi_CFG_MODE, R.xspi_SLV_CFG_WIDTH, R.xspi_SLV_CFG_WAIT, R.xspi_SLV_STAT_LAST_ERR, R.xspi_SLV_STAT_SEQ,
   R.xspi_SLV_STAT_REQ_FULL, R.xspi_SLV_STAT_RESP_Q, R.xspi_SLV_CNT_SLAVE_ABORT, R.xspi_SLV_CNT_RESP_LOST,
   R.xspi_SLV_TRANS_COUNT, R.xspi_MST_CFG_CS, R.xspi_MST_CFG_DIV, R.xspi_MST_CFG_CONT, R.xspi_MST_CFG_IMG_OFF,
   R.xspi_MST_STAT_PRESENT, R.xspi_MST_STAT_DDR, R.xspi_MST_STAT_CONT_ACTIVE, R.xspi_MST_STAT_NO_FLASH,
   R.xspi_MST_STAT_MHZ, R.xspi_MST_ERR_DQS_TIMEOUT, R.xspi_MST_ERR_ABANDONED, R.xspi_PF_STAT_HIT, R.xspi_PF_STAT_MISS]

/-- The fields of one page kind, by the number of its first page (R378). -/
def tableOf (base : Nat) : List Fld :=
  match base with
  | 0x001 => trellisTable
  | 0x010 => bedTable
  | 0x028 => sieveTable
  | 0x029 => coefTable
  | 0x02A => recTable
  | 0x02B => sentTable
  | 0x030 => laneTable
  | 0x032 => ingTable
  | 0x033 => cwinTable
  | 0x034 => dibTable
  | 0x035 => fsumTable
  | 0x038 => fwinTable
  | 0x039 => budTable
  | 0x040 => memctlTable
  | 0x041 => mportTable
  | 0x049 => scrubTable
  | 0x04A => spareTable
  | 0x03B => compTable
  | 0x03A => harvTable
  | 0x00E => slowTable
  | 0x00F => ilTable
  | 0x00B => ethTable
  | 0x00C => ptpTable
  | 0x00D => hdgTable
  | 0x000 => globalTable
  | 0x002 => clocksTable
  | 0x008 => cpuTable
  | 0x009 => nvmTable
  | 0x006 => graftTable
  | 0x007 => tendingTable
  | 0x003 => powerTable
  | 0x005 => tripTable
  | 0x004 => coldframeTable
  | 0x00A => xspiTable
  | _ => []


end Sys2Proof.Machine
end

