-- ==== Sys2Proof/Machine/State.lean ====
section
/-! DEFINITION. The state of the hub as plain data, its reset, and the reasons a step can stop. -/
namespace Sys2Proof.Machine

/-- Faults. DESIGN CHOICE, log entry 115. -/
inductive Fault where
  /-- Raised by `execOrbitBoundary` where the orbit number would wrap: the spec defines no behaviour there (R28). Safe. -/
  | orbitWrap
  /-- Raised by `execMemoryAccess` on an address outside the in-service memory, which does not exist (R226, R261, R262).
  Safe. -/
  | noAddress
  deriving DecidableEq, Repr

/-- Refusals. -/
inductive Refusal where
  /-- Raised by `exec` for a command not modelled, under its mnemonic. Safe. -/
  | notModelled (mnemonic : String)
  deriving DecidableEq, Repr

/-! ## Association lists with rising keys -/

/-- The entry at a key, `d` where unlisted. -/
def aget {α : Type} (d : α) : List (Nat × α) → Nat → α
  | [], _ => d
  | (k, v) :: m, key => if k = key then v else aget d m key

/-- The list with `key` holding `v`. -/
def aput {α : Type} : List (Nat × α) → Nat → α → List (Nat × α)
  | [], key, v => [(key, v)]
  | (k, x) :: m, key, v =>
    if k = key then (k, v) :: m else if key < k then (key, v) :: (k, x) :: m else (k, x) :: aput m key v

/-! ## What leaves the hub -/

/-- What a PTP master sends (R334); times are in 1/65,536 ns of the PTP timescale, at the port's pins (R335). -/
inductive PtpOut where
  /-- Announce: the UTC offset and the data set of the hub's clock. -/
  | announce (seq utcOffset : Nat) (dataset : List Nat)
  /-- Sync, with its departure where the clock is one-step. -/
  | sync (seq : Nat) (departure : Option Int)
  /-- Follow_Up of a two-step Sync, with the departure of that Sync. -/
  | followUp (seq : Nat) (departure : Int)
  /-- Delay_Resp: the arrival of a requester's Delay_Req. -/
  | delayResp (seq requester : Nat) (arrival : Int)
  deriving DecidableEq, Repr

/-- An output at a pin or a port of the hub, in the order it left. -/
inductive Emit where
  /-- A ZCS response or completion on the transport of its request (R352); by UDP it leaves from port 42017 of the hub's
  address `src`, in the fragments that a 1,500-byte MTU asks for, each with the place of its bytes in the message (R333); on the
  uplink as a packet of lane `src`, H00 or H01 (R292, R352). -/
  | zcs (via : Via) (src : Nat) (parts : List (Nat × List Byte))
  /-- A downlink block of a tributary port: when it starts, in 1/64 slot after the start of the slot it is labelled with (R156),
  its 62 payload bits before scrambling, and the 32 symbols sent with the FFE's weights in 1/64 (R128, R140, R153). -/
  | downlink (port start payload : Nat) (symbols : List Nat) (ffe : List Int)
  /-- The symbols of blocks that left on a Harvest lane, with the FFE's weights (R127 to R132, R140); what they carried comes
  after them as `packet`, `priority`, `control` or `zcs`. -/
  | line (lane : Nat) (blocks : List (List Nat)) (ffe : List Int)
  /-- A normal packet on a Harvest lane (R292). -/
  | packet (lane : Nat) (bytes : List Byte)
  /-- A priority packet: 0x10 FSEG or 0x11 PROBE (R291). -/
  | priority (lane typ : Nat) (bytes : List Byte)
  /-- A control block of the given type with bits [125:8] (R132, R293). -/
  | control (lane typ payload count : Nat)
  /-- An ARP reply: port, target address, its MAC (R332). -/
  | arp (port target : Nat)
  /-- An ICMP echo reply (R332). -/
  | echo (port dst : Nat) (data : List Byte)
  /-- A PTP message that a master port sends (R334). -/
  | ptp (port : Nat) (msg : PtpOut)
  /-- A frame on the Hedgerow bus: its bytes, and the half-bits on the wire, true where A − B is positive (R340). -/
  | hedgerow (bytes : List Byte) (line : List Bool)
  /-- A frame on GRAFT_SYNC: its bytes, and the half-bits on the line (R411). -/
  | graft (bytes : List Byte) (line : List Bool)
  /-- What the hub drives on the xSPI slave port after the wait phase: status byte, then data bytes (R481). -/
  | slave (status : Nat) (bytes : List Byte)
  /-- Bytes the command pair takes through the XIP window (R477): the flash offset of a line served. -/
  | xip (offset : Nat) (served : Bool)
  deriving DecidableEq, Repr

/-! ## Machine time -/

/-- The probe-echo loop (R46 to R52). Delays are in units of 1/(2^33 × 10^9) slot. -/
structure Probe where
  seq : Nat
  /-- A probe waits for its report. -/
  waiting : Bool
  /-- The orbit in which the last probe was launched. -/
  lastOrbit : Option Nat
  orbit : Nat
  slot : Nat
  frac : Nat
  /-- d_down of the last accepted reports, newest first, at most eight. -/
  downs : List Int
  /-- The estimate of d_down as a sum over a count of reports, no estimate while the count is 0. -/
  estSum : Int
  estN : Nat
  outlierRun : Nat
  missRun : Nat
  /-- PHASE_CALIBRATE in progress: the reports collected, and the command that started it. -/
  calib : Option (List Int)
  calibHdr : Option Hdr
  /-- The calibrated delay, in rotator steps, that waits for the next quiet window. -/
  calibApply : Option Nat
  /-- Target and applied delay in rotator steps (samples × 4,096 + steps). -/
  target : Nat
  applied : Nat
  /-- The offset applied in PIN mode, in rotator steps (R54). -/
  pin : Int
  deriving DecidableEq, Repr

/-- The trellis (R28 to R42). -/
structure Trellis where
  slot : Nat
  orbit : Nat
  /-- The sample-phase counter, 0 to k − 1 (R28). -/
  phase : Nat
  /-- The collector cycle of the current slot has run. -/
  ran : Bool
  /-- Slots since power-on or reset: the index of the current slot. -/
  tick : Nat
  everLocked : Bool
  /-- The slot index at which the orbit first locked (R156). -/
  lockTick : Option Nat
  /-- An orbit load is armed (R30); the slot index of the marker at which one was last loaded. -/
  loadArmed : Bool
  loadTick : Option Nat
  /-- The slot index of the last marker, and consecutive markers spaced N_slot. -/
  lastMark : Option Nat
  markRun : Nat
  /-- This orbit saw its marker, its marker was missed, it had a miss or a slip, consecutive such orbits (R31). -/
  marked : Bool
  missed : Bool
  orbitBad : Bool
  badRun : Nat
  /-- The quiet window and M in effect (R40, R42). -/
  qwFirst : Nat
  qwLen : Nat
  mNow : Nat
  /-- The quiet window of this orbit has started; a frame has started at this boundary. -/
  inWindow : Bool
  frameDue : Bool
  /-- The slot index and length of the last quiet window; its follower update has been formed (R107, R108). -/
  winTick : Nat
  winLen : Nat
  pfDone : Bool
  /-- The window before, where its follower update has not been formed for every channel, and the channels for which it has
  (R107). -/
  prevWin : Option (Nat × Nat)
  prevDone : List Nat
  /-- The k and f_BC (Hz) the anti-alias filters were last tuned for (R59). -/
  filter : Option (Nat × Nat)
  /-- A relock in agreement clears TIMING_LOST at the next boundary; the clock has relocked out of phase with the orbit,
  whose next marker decides (R36). -/
  clearDue : Bool
  restartDue : Bool
  /-- The counters have entered an orbit at a marker: what an orbit boundary brings is due (R28, R36). -/
  edgeDue : Bool
  /-- The orbit-time record of slot 0 waits for the number that an armed load brings at this slot's marker (R338). -/
  timeDue : Bool
  /-- A restart waits for its orbit-time record (R36, R338), and the orbit whose records it flags. -/
  discont : Bool
  restartOrbit : Option Nat
  /-- A change of NSLOT or MARK_SLOT: the last orbit counted before it (R30). -/
  renumber : Option Nat
  /-- Consecutive whole orbits H00 has held block lock; it has held it since this orbit began (R34). -/
  h00Orbits : Nat
  h00Full : Bool
  /-- The orbit number of the last orbit-start block, in EMBEDDED mode (R30). -/
  embOrbit : Option Nat
  /-- The bunch clock runs; clock domains reported lost and not seen running since (R392). -/
  bclk : Bool
  stopped : List Nat
  probe : Probe
  deriving DecidableEq, Repr

/-- One raw sample: code, OR and CLAMP (R64, R60). -/
structure Samp where
  code : Int
  ovr : Bool
  clamp : Bool
  deriving DecidableEq, Repr

/-- What one slot left in the sample history: its label, the samples of the channels listed (others 0), the channels
whose samples carry QUAL, whether all do, the channels withheld from the follower (R63, R76, R95, R96), whether the hub
streamed in it (R192), and the wall clock's whole nanoseconds in it (R339). -/
structure SlotHist where
  tick : Nat
  orbit : Nat
  slot : Nat
  samples : List (Nat × List Samp)
  qual : List Nat
  qualBeds : Nat
  qualAll : Bool
  withheld : List Nat
  stream : Bool
  wall : Nat
  deriving DecidableEq, Repr

/-! ## Beds (R66 to R77) -/

/-- Where a bed's rotation stands (R69 to R74). -/
inductive RotPhase where
  | stopped
  | comparing (mismatches : Nat)
  | crossing
  | returning
  | out
  deriving DecidableEq, Repr

/-- The reload of a bed's trim (R446, R447): none, waiting to start, covered with the slices done, or uncovered with
the disturbed time left in slots. -/
inductive Reload where
  | none
  | waiting (force : Bool)
  | covered (done : Nat) (force : Bool)
  | uncovered (left : Nat) (force : Bool)
  deriving DecidableEq, Repr

/-- A bed. -/
structure Bed where
  phase : RotPhase
  chan : Nat
  /-- The slot index at which the bed's domain last started (R110). -/
  since : Nat
  /-- Start calibration has not completed; it runs (R68). -/
  uncal : Bool
  calRun : Bool
  lineReq : Option Nat
  /-- The channel whose samples carry QUAL and are withheld until this slot index (R76). -/
  lineMark : Option (Nat × Nat)
  /-- Terminations disconnected now (R61). -/
  opened : Nat
  /-- Channels withheld until a slot index after a TERM or GAIN change (R63). -/
  settling : List (Nat × Nat)
  reload : Reload
  /-- Samples disturbed by an uncovered reload, slot indices from and to (R447). -/
  disturbed : Option (Nat × Nat)
  /-- The spare is calibrated in the quiet window last begun (R69, R79). -/
  calNow : Bool
  deriving DecidableEq, Repr

/-- What a follower's values were for the labels before a quiet window, by its slot index: P0, B4, and whether it was
seeded (R95, R109). -/
structure PastPed where
  tick : Nat
  p0 : Int
  b4 : Int
  seeded : Bool
  deriving DecidableEq, Repr

/-- A channel's pedestal follower (R108, R109): the values it holds, those in effect for labels from the last quiet
window on, and those in effect before the windows of the sample history, newest first. -/
structure Follower where
  p0 : Int
  b4 : Int
  seeded : Bool
  run : Nat
  p0Now : Int
  b4Now : Int
  seedNow : Bool
  past : List PastPed
  /-- Sums over the window: y4 count and sum, y0 count and sum (R107). -/
  n4 : Nat
  s4 : Int
  n0 : Nat
  s0 : Int
  deriving DecidableEq, Repr

/-- A sentinel (R115 to R119). -/
structure Sentinel where
  /-- The ring's words, newest first; 1,024 more than its 8,192 are kept for violations found in the past. -/
  ring : List Nat
  state : Nat
  /-- Sample number of window sample 0, the next index to compare, and the settings the window opened with. -/
  base : Int
  next : Nat
  upper : List Int
  lower : List Int
  orViol : Bool
  post : Nat
  chan : Nat
  /-- The sample number, orbit and slot of the violating sample. -/
  vSample : Nat
  vOrbit : Nat
  vSlot : Nat
  frozenTick : Nat
  /-- The user's re-arm request. -/
  rearm : Bool
  deriving DecidableEq, Repr

/-! ## Lanes (R126 to R147) -/

/-- A lane, both directions. -/
structure Lane where
  /-- Power states of transmitter and receiver: 0 active, 1 shallow, 2 deep, 3 changing; where a change leads. -/
  tx : Nat
  rx : Nat
  txTo : Nat
  rxTo : Nat
  txWait : Bool
  rxWait : Bool
  /-- Time of the request, for LIGHT_MAX. -/
  reqNs : Nat
  upNs : Nat
  /-- Scrambler history of transmitter and receiver, and the precoders' last indices. -/
  descr : Nat
  lastIn : Nat
  /-- Block lock: 0 HUNT, 1 TEST, 2 LOCKED; valid headers in TEST; validity of the last 64 headers, newest first. -/
  blk : Nat
  valid : Nat
  recent : List Bool
  slip : Nat
  /-- The receiver has slipped a symbol since its last block, or takes its first since a deep exit (R129, R135). -/
  slipped : Bool
  /-- Frame alignment: position in the frame, frames in order, frames in error, frame delivered in error. -/
  pos : Nat
  good : Nat
  bad : Nat
  frameErr : Bool
  /-- Payload bits of the frame in progress, header errors per block, RELOCK due. -/
  acc : Nat
  herr : Nat
  discard : Bool
  /-- A BFS has fixed the frame position; the frame in progress is partial; the frame last sent up: header errors per
  block and its 504 bits. -/
  sync : Bool
  skip : Bool
  up : Option (Nat × Nat)
  /-- Scrambler history and last index sent, of a tributary transmitter. -/
  scr : Nat
  lastOut : Nat
  /-- Taps 2 to 12 of the receiver's DFE (R138), and which of its two slicer banks decides (R141). -/
  taps : List Int
  bank : Bool
  /-- A write of PWR_REQ waits for its orbit boundary. -/
  txDue : Bool
  rxDue : Bool
  /-- Retraining: management frames since the last pause, pause placed and the slot index at which it starts; eye scan
  running. -/
  due : Nat
  pausing : Bool
  pauseAt : Nat
  scan : Bool
  deriving DecidableEq, Repr

/-- A packet held for a lane (R272, R275): furrow and SEQ, the packet once its job is done, its chunks, and how many bits of
it have left. Number 7 marks a ZCS response (R292), which holds no chunks. -/
structure Held where
  furrow : Nat
  seq : Nat
  packet : Option (List Byte)
  chunks : Nat
  out : Nat
  deriving DecidableEq, Repr

/-- A Harvest transmitter's scheduling state (R297 to R308). -/
structure Tx where
  draining : Bool
  dropped : Bool
  /-- The back end has reported lock since the lane became usable; consecutive frames that did; the lane's last return. -/
  locked : Bool
  backNs : Nat
  goodRun : Nat
  /-- The furrows whose re-send marks wait for the lane's return (R308). -/
  markDue : List Nat
  /-- Blocks since the last LANE_MARK (R293). -/
  blocks : Nat
  /-- Segments handed to engines for the lane, in order, and the packets released to it. -/
  waiting : List Held
  sending : List Held
  deriving DecidableEq, Repr

/-! ## Tributary ports (R149 to R176) -/

/-- An on-time or queued group (R163). -/
structure Grp where
  orbit : Nat
  slot : Nat
  /-- Slot index of its deadline, or from which it is eligible. -/
  at_ : Nat
  bytes : List Byte
  deriving DecidableEq, Repr

/-- A tributary port: on-time and queued groups; RELOCK due (R176); its first timeline slot and the slot q of its drain,
as slot indices (R527, R528); the slow-control queues (byte + 256 FIRST + 512 LAST); accepts to forward, as orbit and
slot; FC_REQ codes, each with whether an orbit boundary has passed since (R158). -/
structure Port where
  onTime : List Grp
  late : List Grp
  relock : Bool
  first : Option Nat
  drain : Option Nat
  txq : List Nat
  rxq : List Nat
  accepts : List (Nat × Nat)
  reqs : List (Nat × Bool)
  deriving DecidableEq, Repr

/-! ## Marks and fast sums (R179 to R195) -/

/-- A mark on its way to the barrow. -/
structure Mark where
  known : Nat
  orbit : Nat
  slot : Nat
  fine : Nat
  source : Nat
  sid : Nat
  typ : Nat
  qual : Bool
  drops : Bool
  past : Bool
  seq : Nat
  deriving DecidableEq, Repr

/-- An edge at a trigger input that waits for its known slot (R180): slot index, machine time in slots, input, direction and
TDC value. -/
structure Edge where
  tick : Nat
  pos : Nat
  input : Nat
  rising : Bool
  tdc : Nat
  deriving DecidableEq, Repr

/-- A token bucket (R183). -/
structure Bucket where
  tokens : Nat
  last : Nat
  drops : Bool
  deriving DecidableEq, Repr

/-- The dibber. -/
structure Dibber where
  edges : List Edge
  waiting : List Mark
  toWrite : List Mark
  buckets : List Bucket
  /-- Per input: the time in TDC bins up to which edges are ignored. -/
  dead : List Nat
  mseq : Nat
  deriving DecidableEq, Repr

/-- A fast sum: val of the previous slot with its slot index, and the last self-trigger. -/
structure Sum where
  last : Option (Nat × Int)
  trig : Option Nat
  deriving DecidableEq, Repr

/-- A fast-sum segment waiting for its slot (R195). -/
structure FSeg where
  due : Nat
  lane : Nat
  bytes : List Byte
  deriving DecidableEq, Repr

/-! ## Furrows (R199 to R218) -/

/-- The open segment of a furrow: SEQ, class, the orbit and slot of its first unit (none while it holds only listings),
the slot index of the cycle that opened it, WALL_NS, record bytes, listed marks, LOSSY_ZERO, LATE, and the orbits an
orbit range of R218 finds it by. -/
structure OpenSeg where
  seq : Nat
  cls : Nat
  first : Option (Nat × Nat)
  opened : Nat
  wall : Nat
  bytes : List Byte
  marks : List Nat
  lossy : Bool
  late : Bool
  orbits : List Nat
  /-- Its SEQ repeats one already used (R415). -/
  dup : Bool
  /-- Open at the switch of a degraded step: never sent (R260). -/
  lost : Bool
  deriving DecidableEq, Repr

/-- A closed segment the hub retains: SEQ, address, whole length, class, the FLAGS it closed with (R207, R254), FIRST_ORBIT, the
orbits of R218, the slot index of its close, and its transmissions: handed over, wholly sent, the time its last block left, marked for re-send, the
first one of an epoch (R423), and whether it belongs to an earlier stream (R217), in which it was never acknowledged. -/
structure Seg where
  seq : Nat
  addr : Nat
  len : Nat
  cls : Nat
  flags : Nat
  orbit : Nat
  orbits : List Nat
  closedAt : Nat
  handed : Bool
  sent : Bool
  sentNs : Nat
  resend : Bool
  /-- Why it is marked: a dropped lane (R308), a takeover (R423). -/
  dropped : Bool
  epochChange : Bool
  old : Bool
  unacked : Bool
  /-- Its SEQ repeats one already used (R415). -/
  dup : Bool
  deriving DecidableEq, Repr

/-- A furrow's pointers, open segment and retained segments in rising SEQ. -/
structure Furrow where
  wr : Nat
  rd : Nat
  ack : Nat
  tail : Nat
  cur : Option OpenSeg
  segs : List Seg
  /-- Disabled under R264. -/
  shed : Bool
  /-- BASE and SIZE of the stream its segments belong to (R217). -/
  base : Nat
  size : Nat
  /-- What R415 has added to its numbering, what it adds at the next opening, and the SEQ after the highest used. -/
  shift : Nat
  bump : Nat
  top : Nat
  /-- A commit has disabled the furrow, and the units labelled before its orbit and slot q have not all passed (R205). -/
  drains : Option (Nat × Nat)
  /-- OVERRUN and ACK_LATE of the descriptor (R202). -/
  overrun : Nat
  ackLate : Nat
  /-- What a hub furrow's records have drawn on its ceiling, in units of 1/f_BC byte (R208). -/
  spent : Nat
  deriving DecidableEq, Repr

/-- A look-back request (R218): furrow and SEQs still to send. -/
structure Look where
  furrow : Nat
  seqs : List Nat
  deriving DecidableEq, Repr

/-- A job in an engine (R271 to R277): its segment and lane, the level and the verify mode it was handed over with, and
the header to be sent and the payload as read. -/
structure Job where
  furrow : Nat
  seq : Nat
  addr : Nat
  lane : Nat
  level : Nat
  verify : Bool
  poison : Bool
  mask : Nat
  header : List Byte
  payload : List Byte
  deriving DecidableEq, Repr

/-- A compression engine: the job in its compressor, the job and block in its decompressor, the job in its copy unit
(R269). -/
structure Engine where
  comp : Option Job
  ver : Option (Job × List Byte)
  copy : Option Job
  deriving DecidableEq, Repr

/-- A record entering the barrow from a hub furrow (R199). -/
structure HubRec where
  furrow : Nat
  bytes : List Byte
  deriving DecidableEq, Repr

/-! ## Stream memory (R223 to R265) -/

/-- A rank slot: refresh rate 0 normal, 1 doubled, 2 four times; consecutive readings below 80 °C, and at or below 105 °C
(R233, R234); the row-disturbance tables per bank, each of rows and counts (R236); it is in self-refresh (R239); the bank
pairs whose refresh is postponed (R235). -/
structure Rank where
  rate : Nat
  cool : Nat
  calm : Nat
  table : List (Nat × List (Nat × Nat))
  selfRef : Bool
  postponed : List (Nat × CaOutcome)
  deriving DecidableEq, Repr

/-- A request waiting at a port: the request, and how often a later one has passed it (R230). -/
structure MemReq where
  req : MemIn
  passed : Nat
  deriving DecidableEq, Repr

/-- A memory port. -/
structure MPort where
  /-- Quiet windows until its pause falls due, 0 from then on (R240); due in a window its map switched in. -/
  due : Option Nat
  ahead : Bool
  /-- The pause placed or in progress: 0 none, 1 whole, 2 first half, 3 second half; the slot index at which it starts; the
  second half is due (R241). -/
  pause : Nat
  pauseAt : Nat
  half : Bool
  /-- The row open in each bank of each slot: slot × 16 + bank, and row (R229). -/
  rows : List (Nat × Nat)
  /-- Migration (R259): 0 none, 1 waiting for its window, 2 copying, 3 copied, 4 its spare out of power-down and its copy due at a
  slot index; its source slot; that slot index; when the copy began. -/
  mig : Nat
  src : Nat
  copyAt : Nat
  copyNs : Nat
  /-- In-service slots that wait for a degraded step (R258). -/
  degrade : List Nat
  /-- The read queue and the write buffer, oldest first (R230, R231). -/
  reads : List MemReq
  writes : List MemReq
  deriving DecidableEq, Repr

/-- The owner of a coherent line, and the 64 bytes it took the line with (R266). -/
structure Owner where
  agent : Nat
  line : List Byte
  deriving DecidableEq, Repr

/-- Stream memory and sparing. -/
structure Mem where
  cells : List (Nat × Byte)
  ranks : List Rank
  ports : List MPort
  /-- Granules found uncorrectable and not written since (R249, R254). -/
  bad : List Nat
  /-- Step 2 of R262 waits for its fallback overlay and budget check at step 3 of R25. -/
  fallbackDue : Bool
  /-- A second port's loss waits to stop the stream (R265). -/
  stopDue : Bool
  /-- Owners of coherent lines by line (R266). -/
  owners : List (Nat × Owner)
  /-- The 2 MiB SRAM that the coherent agents cache, by line: lines whose bytes are not all 0 (R266). -/
  sram : List (Nat × List Byte)
  deriving DecidableEq, Repr

/-! ## Commands (R352 to R371) -/

/-- A staged field value. -/
structure Staged where
  page : Nat
  fld : Fld
  idx : Nat
  val : Nat
  deriving DecidableEq, Repr

/-- A cached response of a session (R357). -/
structure Cached where
  tag : BitVec 32
  flags : Nat
  status : Nat
  payload : List Byte
  deriving DecidableEq, Repr

/-- An open session (R356): lease in ns, time of its last message, its cache newest first. -/
structure Session where
  id : BitVec 32
  leaseNs : Nat
  last : Nat
  cache : List Cached
  /-- Tags being executed: long commands and boundary actions are answered later. -/
  running : List (BitVec 32)
  deriving DecidableEq, Repr

/-- What a pending boundary action does (R366). -/
inductive Action where
  | commit
  | start
  | stop
  | drill
  | margin (resource value : Nat)
  deriving DecidableEq, Repr

/-- The pending boundary action: its command (none for a register write), the orbit of its window, its snapshot, and
the mode an OVERLAY_STAGE in the snapshot selects. -/
structure Pending where
  act : Action
  opcode : Nat
  hdr : Option Hdr
  orbit : Nat
  snap : List Staged
  mode : Option Nat
  deriving DecidableEq, Repr

/-- A ZCS message waiting for execution (R360). -/
structure Msg where
  hdr : Hdr
  opcode : Nat
  bytes : List Byte
  /-- When it arrived. -/
  ns : Nat
  deriving DecidableEq, Repr

/-- The command set's state. -/
structure Zcs where
  sessions : List Session
  queue : List Msg
  staged : List Staged
  owner : Option Actor
  /-- The mode an OVERLAY_STAGE has staged. -/
  stagedMode : Option Nat
  action : Option Pending
  /-- The long command running: its header and opcode. -/
  long : Option (Hdr × Nat)
  /-- Time of the last slave-port access, for its session's lease (R384). -/
  slaveNs : Nat
  /-- A message joined from return-channel chunks. -/
  chunks : Option (List Byte)
  /-- The tests a running SELFTEST was asked for. -/
  tests : Nat
  deriving DecidableEq, Repr

/-- The image: the copy in effect, whether it came from flash, a load in progress and a complete image that is checked (R371), a
mode since the last load (R369), its CRC, and the base value of every field that an overlay changes (R368). -/
structure Image where
  copy : Option (List Byte)
  fromFlash : Bool
  load : Option (Nat × List Byte)
  checking : Option (List Byte)
  /-- A fetch from flash is running; one that only restores the image copy (R253, R260). -/
  fetching : Bool
  refetch : Bool
  hadMode : Bool
  crc : Nat
  base : List Staged
  deriving DecidableEq, Repr

/-! ## The slow front end (R310 to R329) -/

/-- The latest fine value of a slow channel. -/
structure Fine where
  code : BitVec 24
  value : Word
  flags : Nat
  ns : Nat
  deriving DecidableEq, Repr

/-- A group's scan (R314): the channel it converts; its settings as taken up at the switch, DIFF, GAIN, REF, ODR, BURN,
COARSE_EN, CURVE, AUX_CH, DISCH and P0 to P2; its coarse value is past; flags the conversion has met so far, and what a value met at which time, newest first; the start of
the scan and the time of the last full one in µs. -/
structure Scan where
  chan : Option Nat
  set : List Nat
  coarse : Bool
  flags : Nat
  seen : List (Nat × Nat)
  scanNs : Nat
  scanUs : Nat
  deriving DecidableEq, Repr

/-- Where the spare modulator's rotation stands (R323, R324): waiting for a group's next switch, converting beside it
with the mismatches so far, the same against the next group after two, taking the place of a faulty modulator, a
released modulator calibrating, stopped. -/
inductive SlowRot where
  | idle
  | waiting (group : Nat)
  | comparing (group mism : Nat)
  | crossWait (group : Nat)
  | cross (group : Nat)
  | replace (group : Nat)
  | calibrating (mod : Nat)
  | out
  deriving DecidableEq, Repr

/-- An interlock output (R326, R327): its source has grown stale; a fine value free of faults has come since the fault
code began. -/
structure Il where
  stale : Bool
  good : Bool
  deriving DecidableEq, Repr

/-- The slow front end. -/
structure Slow where
  /-- Committed SLOW and INTERLOCK values that wait for the next frame boundary (R319). -/
  due : List Staged
  scans : List Scan
  fine : List (Nat × Fine)
  rot : SlowRot
  rotFrames : Nat
  /-- The safe state of R328; excitation not driven because of the graft role; VEXC off after an overload (R317). -/
  safe : Bool
  roleOff : Bool
  vexcHold : Bool
  /-- VEXC was out of regulation at the last result, and its load in mA (R317, R330); conversions run (R311, R330). -/
  vexcBad : Bool
  vexcLoad : Nat
  scanning : Bool
  /-- When SAFE_N last went high, and when a low was last latched. -/
  safeHigh : Nat
  safeLow : Option Nat
  ils : List Il
  /-- Records waiting for their collector cycle: channel, slot index of the result, bytes 0 to 11 (R321). -/
  recs : List (Nat × Nat × List Byte)
  deriving DecidableEq, Repr

/-! ## Wall time, Ethernet and Hedgerow (R332 to R348) -/

/-- A datagram being reassembled (R333): port, source, UDP port, id, payload bytes by offset, length once its last
fragment is known, start time. -/
structure Reasm where
  port : Nat
  src : Nat
  udp : Nat
  id : Nat
  parts : List (Nat × List Byte)
  total : Option Nat
  ns : Nat
  deriving DecidableEq, Repr

/-- A reading of the wall clock at the FINE = 0 instant of an orbit and slot (R339): whole units of 2^-48 ns, and RATE from
there on. -/
structure Anchor where
  orbit : Nat
  slot : Nat
  units : Nat
  rate : Int
  deriving DecidableEq, Repr

/-- The wall clock and PTP (R334 to R338). `frac` counts 2^-48 ns; `rates` are the RATEs of the last 64 Sync messages,
newest first; `inLock` counts consecutive Syncs within LOCK_NS; a step since the last orbit-time record; the data set of the master
that is followed, its port's identity last; the hub is the master of its domain, with the times of its last Announce and Sync and the
next sequence number (R334); the cold-frame counter is to be set at the next wall second (R467); OT_CFG.EVERY in effect; readings of
the clock, newest first. -/
structure Wall where
  sec : Nat
  ns : Nat
  frac : Nat
  rate : Int
  rates : List Int
  inLock : Nat
  stepped : Bool
  best : Option (List Nat)
  isMaster : Bool
  annNs : Option Nat
  syncNs : Option Nat
  ptpSeq : Nat
  reasm : List Reasm
  setCold : Bool
  every : Nat
  anchors : List Anchor
  deriving DecidableEq, Repr

/-- A Hedgerow node (R345 to R347): SEQ of the last frame accepted, whole cycles without a valid frame, a valid frame in
this cycle, quarantine from the next beacon, transmit queue, receive queue (byte + 256 FIRST). -/
structure HNode where
  seq : Option Nat
  silent : Nat
  heard : Bool
  quarDue : Bool
  txq : List Nat
  rxq : List Nat
  deriving DecidableEq, Repr

/-- The Hedgerow bus: nodes, broadcast queue, the queue that led the last cycle with messages (32 broadcast), the grant
of the next beacon: node and UID. -/
structure Hdg where
  nodes : List HNode
  bcast : List Nat
  lead : Nat
  grant : Option (Nat × Nat)
  deriving DecidableEq, Repr

/-! ## Management (R393 to R503) -/

/-- A physical sector of the field store as programmed: its 4,096 bytes, and of its header the version, the logical sector, the erase
count and the CRC-32C over header and data (R401, R402). -/
structure Sector where
  data : List Byte
  version : Nat
  logical : Nat
  erases : Nat
  check : Nat
  deriving DecidableEq, Repr

/-- A sector write under way or waiting (R402, R403): logical sector, new contents, whether it answers an NVM_WRITE. -/
structure NvmOp where
  logical : Nat
  data : List Byte
  zcs : Bool
  deriving DecidableEq, Repr

/-- The field store (R401 to R406): the physical sectors written, writes in order, the transfer and save sectors, the
physical sectors to retire when rewritten, the ageing-log sectors with the oldest first, snapshots seen since start (for
D of R406), snapshots not yet in a sector, and the power-event sector next replaced. -/
structure Nvm where
  sectors : List (Nat × Sector)
  ops : List NvmOp
  transfer : Nat
  save : Nat
  worn : List Nat
  age : List Nat
  ageCount : Nat
  ageBuf : List (List Byte)
  peNext : Nat
  deriving DecidableEq, Repr

/-- One hub-log entry (R399). -/
structure LogE where
  orbit : Nat
  slot : Nat
  page : Nat
  reg : Nat
  bit : Nat
  sev : Nat
  part : Nat
  seq : Nat
  detail : List Byte
  deriving DecidableEq, Repr

/-- The control processors (R393 to R399): the hub-log ring, newest first; entries written since reset; time of the last
lockstep mismatch; pairs that restart (bit 0 command, bit 1 tending); entries that wait for the tending pair, which writes the
log, oldest first; and by pair those of mismatches, to be written once that pair runs again. -/
structure Cpu where
  ring : List LogE
  lseq : Nat
  mismNs : Option Nat
  restarting : Nat
  waiting : List LogE
  found : List (Nat × List LogE)
  deriving DecidableEq, Repr

/-- The graft logic (R409 to R431): the orbit of a release that waits and its cause; the orbit at which a standby takes
the token; a takeover at the next boundary after GRAFT_ARM; the orbit of this hub's last release; listening after a
takeover; the drill flag of the sync frames; EPOCH and configuration of the last valid active frame; which of the
last four intervals brought one, newest first, and whether this one has; intervals in the standby role since the last;
intervals without a valid reply; orbit of the frame to answer; the furrow the next frame's entries start from; furrows
whose last comparison agreed; WR_SEQ of the pair furrows at the interval start; the orbit number has been loaded from a
sync frame; times at which this interval and the previous one started; time of the takeover, and its tick, from which the fast sums'
segments are formed (R423); the orbit of the last sync frame sent; another driver holds GRAFT_TOKEN low, and since when the line
has been high, where that is not long ago (R410). -/
structure Graft where
  releaseOrbit : Option Nat
  releaseCause : Nat
  takeAt : Option Nat
  armTake : Bool
  lastRelease : Option Nat
  listening : Bool
  drill : Bool
  peerEpoch : Option Nat
  peerCfg : Option (Nat × Nat × Nat)
  heard : List Bool
  heardNow : Bool
  standbyInts : Nat
  replyMiss : Nat
  replySeen : Bool
  answer : Option Nat
  entryPos : Nat
  agreed : List Nat
  wrAt : List (Nat × Nat)
  orbitLoaded : Bool
  intNs : Nat
  prevNs : Nat
  takeNs : Nat
  fromTick : Nat
  sentOrbit : Option Nat
  lineLow : Bool
  highNs : Option Nat
  deriving DecidableEq, Repr

/-- An element taken out of use, as tending records it (R73, R324): orbit, what (0 a slice, 1 a spare slice, 2 a modulator),
and the bed or modulator. DESIGN CHOICE, log entry 123. -/
structure TendEvent where
  orbit : Nat
  what : Nat
  index : Nat
  deriving DecidableEq, Repr

/-- The latches of a trim block, in three copies whose majority counts (R443). -/
structure Latches where
  a : Nat
  b : Nat
  c : Nat
  deriving DecidableEq, Repr

/-- Tending (R432 to R447): the monitors last taken; TYPE 1 snapshots, newest first, at most 16; sums of the samples since
the last re-plan, their number, the eye widths of the first, the worst margin with its sensor and the hottest temperature
with its sensor among them; the adapted settings seen per receiver (least and largest peaking, largest magnitudes of the first
tap and of the others);
the time from which the plan may apply and its values by resource and index; the orbit of the last re-plan; whether the
fast guard is raising the target, and raises it at the next window; report entries whose NOW is at its LIMIT; pinned
values by RESOURCE; receivers whose bounds are pinned; trim blocks 25 to 27 to rewrite and those rewritten, whose
reloads end; modulators whose trim waits for their release, and whether the slow block's reload ends; the events that R73 and R324
record in tending; the receivers whose eye scan has completed, and the receivers and memory ports whose pause has ended, since
the last frame (R433); the copy of the trim in the tending pair's SRAM (0 none) and the latches of its blocks (R443, R444). -/
structure Tend where
  mon : Option MonitorIn
  snaps : List (List Byte)
  sums : List Int
  count : Nat
  first : List Nat
  worst : Option (Nat × Nat)
  hot : Option (Int × Nat)
  eq : List (Nat × (Nat × Nat × Nat × Nat))
  planNs : Option Nat
  plan : List (Nat × Nat × Nat)
  lastOrbit : Option Nat
  guarding : Bool
  guardUp : Bool
  limits : List Nat
  pins : List (Nat × Nat)
  wide : List Nat
  blocks : List Nat
  ended : List Nat
  mods : List Nat
  events : List TendEvent
  eyes : List Nat
  pauses : List Nat
  portPauses : List Nat
  trimCopy : Nat
  latches : List Latches
  deriving DecidableEq, Repr

/-- Power (R449 to R466): domains ramping with the time of admission; time of the first request of the burst; a PD_REQ
write waits for its boundary; when PTRIP_N last went high; the emergency save runs, with its record; PFAIL raised; the
hub is unpowered; orbit and slot of the last collector cycle; furrows with WR_SEQ, RD_SEQ and ACK_SEQ as of the last
frame boundary; starts of deep lane exits (R145). -/
structure Power where
  ramping : List (Nat × Nat)
  burst : Nat
  reqDue : Bool
  ptripHigh : Nat
  saving : Option (List Byte)
  pfail : Bool
  unpowered : Bool
  lastOrbit : Nat
  lastSlot : Nat
  ready : List (Nat × Nat × Nat × Nat)
  wakes : List Nat
  deriving DecidableEq, Repr

/-- The cold frame (R467 to R469): the retention SRAM, the counter's value at a time of the hub, and whether the last
emergency save failed. -/
structure Cold where
  ret : List Byte
  sec : Nat
  sub : Nat
  baseNs : Nat
  saveFailed : Bool
  deriving DecidableEq, Repr

/-- The octal serial port (R473 to R488): prefetch lines, most recently used first; the request buffer; responses; what discovery found of the image device; a fetch abandoned since the last image check. -/
structure Xspi where
  lines : List Nat
  reqBuf : Option (List Byte)
  resps : List (List Byte)
  dev : Option FlashIn
  abandoned : Bool
  deriving DecidableEq, Repr

/-- Start-up and reset (R489 to R503): steps completed; a reset requested, its RESET_CAUSE and the earliest orbit; RESET_N
is low; READY since the last power-on or cold reset; the image source is the flash; the image has been applied; MODE and
MODE_PREV that a warm reset restores; retained segments are to be sent after READY; a successful TRIP_CLEAR starts the
converter for a cold reset; the domains that step 9 starts. -/
structure Boot where
  step : Nat
  req : Option (Nat × Nat)
  held : Bool
  everReady : Bool
  flash : Bool
  applied : Bool
  modes : Option (Nat × Nat)
  resend : Bool
  restart : Bool
  want : Nat
  deriving DecidableEq, Repr

/-- The Harvest scheduler and return channel (R297 to R308). -/
structure Harvest where
  tx : List Tx
  /-- Bytes sent in this orbit; consecutive orbits with more than N_FORE + 1 lanes lit; a lane darkened in this orbit. -/
  bytesOrbit : Nat
  ovr : Nat
  darkened : Bool
  /-- Slot index of the last valid return frame, and of the last on each of H00 and H01. -/
  lastTick : Option Nat
  laneTick : List (Option Nat)
  /-- Machine times of the return frames acted on, and of those whose first copy failed, newest first; the machine time
  of the next frame of each lane. -/
  seen : List Nat
  failed : List Nat
  expect : List (Option Nat)
  dropsSeen : Option Nat
  /-- No frame came for 64 slots, and the LOCK bits have not been judged since (R307). -/
  lossDue : Bool
  /-- The buckets of look-back (R298) and of the re-sends after a takeover (R426) in units of 1/f_BC byte, what ZCS responses have drawn on theirs, and the responses that
  wait for it (R296, R298). -/
  lookTokens : Nat
  catchTokens : Nat
  zcsSpent : Nat
  zcsQ : List (List Byte)
  /-- Free chunks; bytes read and sent in the management frame in progress (R275, RATIO). -/
  chunks : Nat
  inBytes : Nat
  outBytes : Nat
  deriving DecidableEq, Repr

/-- The whole hub. -/
structure State where
  /-- Commands waiting, first in, first out. -/
  pending : List Instr
  /-- Every register field instance that differs from its reset value (R376 to R392 and the chapters' tables). -/
  regs : NMap
  /-- The registers as they were before the last quiet window, and that window's slot index; the same for the windows of up to
  4,096 slots before it, newest first (R95, R170). -/
  prevRegs : NMap
  switchTick : Nat
  olderRegs : List (Nat × NMap)
  /-- Values a _LO read latched, by _HI address; a written _LO that is held, by address (R389). -/
  latches : List (Nat × Nat)
  held : List (Nat × Nat)
  /-- Elapsed time of the hub (log entry 1) and the number of free values drawn (log entry 2). -/
  nowNs : Nat
  freeCtr : Nat
  outbox : List Emit
  trellis : Trellis
  hist : List SlotHist
  beds : List Bed
  followers : List (Nat × Follower)
  /-- The time of the last RISE crossing of a channel in 1/1,024 slot; the last label the shears formed, and that of each
  channel which is behind because its chain needs more slots than L_MAX + 8. -/
  rises : List (Nat × Nat)
  shearTick : Nat
  behind : List (Nat × Nat)
  sentinels : List Sentinel
  lanesT : List Lane
  lanesH : List Lane
  ports : List Port
  dibber : Dibber
  sums : List (Nat × Sum)
  fsegs : List FSeg
  furrows : List (Nat × Furrow)
  hubQ : List HubRec
  looks : List Look
  /-- Furrows whose open segment closes at the start of a cycle, by slot index (R205). -/
  closes : List (Nat × Nat)
  /-- Whether record intake runs, and the bed label from which groups enter (R526). -/
  intake : Bool
  intakeFrom : Nat
  stopping : Option Hdr
  mem : Mem
  engines : List Engine
  harvest : Harvest
  zcs : Zcs
  image : Image
  slow : Slow
  wall : Wall
  hdg : Hdg
  nvm : Nvm
  cpu : Cpu
  graft : Graft
  tend : Tend
  power : Power
  cold : Cold
  xspi : Xspi
  boot : Boot
  deriving DecidableEq, Repr

/-! ## Reset values of the parts -/

/-- A follower that holds nothing. -/
def Follower.empty : Follower := ⟨0, 0, false, 0, 0, 0, false, [], 0, 0, 0, 0⟩

/-- The probe-echo loop at reset: no probe, no estimate, no delay. -/
def Probe.empty : Probe :=
  { seq := 0, waiting := false, lastOrbit := none, orbit := 0, slot := 0, frac := 0, downs := [], estSum := 0, estN := 0
    outlierRun := 0, missRun := 0, calib := none, calibHdr := none, calibApply := none, target := 0, applied := 0
    pin := 0 }

/-- The trellis at reset: it has not locked, every counter is 0, M is 48 (R55). -/
def Trellis.empty : Trellis :=
  { slot := 0, orbit := 0, phase := 0, ran := false, tick := 0, everLocked := false, lockTick := none, loadArmed := false
    loadTick := none, lastMark := none, markRun := 0, marked := false, missed := false, orbitBad := false, badRun := 0
    qwFirst := 0, qwLen := 0, mNow := 48, inWindow := false, frameDue := false, winTick := 0, winLen := 0
    pfDone := true, prevWin := none, prevDone := [], filter := none, clearDue := false, restartDue := false, edgeDue := false, timeDue := false
    discont := false, restartOrbit := none, renumber := none, h00Orbits := 0, h00Full := false, embOrbit := none, bclk := false, stopped := []
    probe := Probe.empty }

/-- A bed at reset. -/
def Bed.empty : Bed := ⟨.stopped, 0, 0, true, false, none, none, 0, [], .none, none, false⟩

/-- A sentinel at reset. -/
def Sentinel.empty : Sentinel := ⟨[], 0, 0, 0, [], [], false, 0, 0, 0, 0, 0, 0, false⟩

/-- A lane at reset: both directions deep (R148). -/
def Lane.empty : Lane := { tx := 2, rx := 2, txTo := 2, rxTo := 2, txWait := false, rxWait := false
                           reqNs := 0, upNs := 0, descr := 0, lastIn := 0, taps := List.replicate 11 0, bank := false, blk := 0, valid := 0, recent := [], slip := 0, slipped := false
                           pos := 0, good := 0, bad := 0, frameErr := false, acc := 0, herr := 0, discard := false
                           sync := false, skip := false, up := none, scr := 0, lastOut := 0, txDue := false
                           rxDue := false, due := 0, pausing := false, pauseAt := 0, scan := false }

/-- A Harvest transmitter at reset: dark. -/
def Tx.empty : Tx := ⟨false, false, false, 0, 0, [], 0, [], []⟩

/-- A tributary port at reset. -/
def Port.empty : Port := ⟨[], [], false, none, none, [], [], [], []⟩

/-- An empty bucket. -/
def Bucket.empty : Bucket := ⟨0, 0, false⟩

/-- A furrow at reset: every pointer 0 (R221). -/
def Furrow.empty : Furrow := ⟨0, 0, 0, 0, none, [], false, 0, 0, 0, 0, 0, none, 0, 0, 0⟩

/-- A rank slot at reset. -/
def Rank.empty : Rank := ⟨0, 0, 0, [], false, []⟩

/-- A memory port at reset. -/
def MPort.empty : MPort := ⟨none, false, 0, 0, false, [], 0, 0, 0, 0, [], [], []⟩

/-- An engine that holds nothing. -/
def Engine.empty : Engine := ⟨none, none, none⟩

/-- A fast sum that has formed nothing. -/
def Sum.empty : Sum := ⟨none, none⟩

/-- A Hedgerow node at reset. -/
def HNode.empty : HNode := ⟨none, 0, false, false, [], []⟩

/-- A slow group's scan at reset. -/
def Scan.empty : Scan := ⟨none, [], false, 0, [], 0, 0⟩

/-- The hub right after power-on, before step 1 of start-up: every register at its reset value, memory with nothing
listed, no command waiting. DESIGN CHOICE, log entry 66. DESIGN CHOICE, log entry 119. -/
def State.reset : State where
  pending := []
  regs := []
  prevRegs := []
  switchTick := 0
  olderRegs := []
  latches := []
  held := []
  nowNs := 0
  freeCtr := 0
  outbox := []
  trellis := Trellis.empty
  hist := []
  beds := List.replicate 24 Bed.empty
  followers := []
  rises := []
  shearTick := 0
  behind := []
  sentinels := List.replicate 16 Sentinel.empty
  lanesT := List.replicate 32 Lane.empty
  lanesH := List.replicate 16 Lane.empty
  ports := List.replicate 32 Port.empty
  dibber := ⟨[], [], [], List.replicate 10 Bucket.empty, List.replicate 8 0, 0⟩
  sums := []
  fsegs := []
  furrows := []
  hubQ := []
  looks := []
  closes := []
  intake := false
  intakeFrom := 0
  stopping := none
  mem := ⟨[], List.replicate 24 Rank.empty, List.replicate 8 MPort.empty, [], false, false, [], []⟩
  engines := List.replicate 36 Engine.empty
  harvest := ⟨List.replicate 16 Tx.empty, 0, 0, false, none, [none, none], [], [], [none, none], none, false, 0, 0, 0, [], 1536, 0, 0⟩
  zcs := ⟨[], [], [], none, none, none, none, 0, none, 0⟩
  image := ⟨none, false, none, none, false, false, false, 0, []⟩
  slow := ⟨[], List.replicate 4 Scan.empty, [], .idle, 0, false, false, false, false, 0, false, 0, none, List.replicate 8 ⟨false, false⟩, []⟩
  wall := ⟨0, 0, 0, 0, [], 0, false, none, false, none, none, 0, [], false, 1, []⟩
  hdg := ⟨List.replicate 32 HNode.empty, [], 32, none⟩
  nvm := ⟨[], [], 512, 513, [], (List.range 48).map (448 + ·), 0, [], 0⟩
  cpu := ⟨[], 0, none, 0, [], []⟩
  graft := ⟨none, 0, none, false, none, false, false, none, none, [], false, 0, 0, false, none, 0, [], [], false, 0,
    0, 0, 0, none, false, none⟩
  tend := ⟨none, [], [], 0, [], none, none, [], none, [], none, false, false, [], [], [], [], [], [], [], [], [], [], 0,
    List.replicate 28 ⟨0, 0, 0⟩⟩
  power := ⟨[], 0, false, 0, none, false, false, 0, 0, [], []⟩
  cold := ⟨List.replicate 256 0, 0, 0, 0, false⟩
  xspi := ⟨[], none, [], none, false⟩
  boot := ⟨0, none, false, false, false, false, none, false, false, 0⟩

end Sys2Proof.Machine
end

