-- ==== Sys2Proof/Machine/Ops.lean ====
section
/-! DEFINITION. The named operations on the state: register fields, bytes of memory, free values, interrupts, errors,
the hub log, outputs. -/
namespace Sys2Proof.Machine

/-- What tells two fields apart: address and lowest bit. -/
def Fld.base (f : Fld) : Nat := f.addr * 32 + f.lsb

/-- The key of a field instance. -/
def Fld.key (f : Fld) (idx : Nat) : Nat := f.base * 2 ^ 20 + idx % 2 ^ 20

/-- The stage-2 and stage-4 coefficients of the standard banks (R90). DESIGN CHOICE, log entry 6. -/
def stdCoef (bank tap : Nat) : Nat :=
  match bank with
  | 1 => if tap < 32 then 120 * min (tap + 1) (32 - tap) else 205 * min (tap - 31) (40 - tap)
  | 2 => if tap < 16 then 455 * min (tap + 1) (16 - tap) else if tap < 32 then 0 else 205 * min (tap - 31) (40 - tap)
  | 3 => (Config.min32Coef tap).toNat
  | _ => if tap = 0 then 16384 else if tap = 32 then 4096 else 0

/-- The reset value of a field instance; `kind` names the fields whose instances differ.
DESIGN CHOICE, log entry 66. -/
def Fld.resetOf (f : Fld) (idx : Nat) : Nat :=
  match f.kind with
  | 1 => idx % 64
  | 2 => 0x100 + idx
  | 3 => 0x200 + idx
  | 4 => stdCoef (idx / 64) (idx % 64)
  | 5 => if idx = 3 then 1 else 0
  | 6 => if idx = 1 then 32 else if idx = 2 then 16 else if idx = 3 then 32 else 1
  | 7 => if idx = 1 then 8 else if idx = 2 then 8 else if idx = 3 then 8 else 1
  | 8 => if idx = 1 then 15 else if idx = 2 then 15 else if idx = 3 then 15 else 14
  | 9 => 0
  | 10 => if idx = 1 then 3968 else if idx = 2 then 1920 else if idx = 3 then 576 else 0
  | 11 => if idx = 1 then 896 else if idx = 2 then 896 else if idx = 3 then 128 else 0
  | 12 => idx
  | 13 => if 0x10 ≤ idx ∧ idx < 0x28 then idx - 0x10 else if 0x41 ≤ idx ∧ idx < 0x49 then idx - 0x41 else 0
  | 14 => b2n Config.screened
  | 15 => Config.dieId.toNat % 2 ^ 32
  | 16 => Config.dieId.toNat / 2 ^ 32
  | 17 => (Config.macAddr idx).toNat % 2 ^ 32
  | 18 => (Config.macAddr idx).toNat / 2 ^ 32
  | 19 => if idx < 512 then idx else 1023
  | 20 => if idx < 512 then 0 else if idx < 514 then 2 else 1
  | _ => f.rst

/-- The value of a field instance in a register map. -/
def mapGet (m : NMap) (f : Fld) (idx : Nat) : Nat := mget (f.resetOf idx) m (f.key idx)

/-- A register map with a field instance set. -/
def mapSet (m : NMap) (f : Fld) (idx v : Nat) : NMap := mput (f.resetOf idx) m (f.key idx) (v % 2 ^ f.width)

/-- The value of a field instance. -/
def State.gi (s : State) (f : Fld) (idx : Nat) : Nat := mapGet s.regs f idx

/-- The value of a field with one instance. -/
def State.g (s : State) (f : Fld) : Nat := s.gi f 0

/-- The field instance holds a number other than 0. -/
def State.on (s : State) (f : Fld) (idx : Nat) : Bool := s.gi f idx != 0

/-- A field instance written by the hub. -/
def State.pi (s : State) (f : Fld) (idx v : Nat) : State := { s with regs := mapSet s.regs f idx v }

/-- A field with one instance written by the hub. -/
def State.p (s : State) (f : Fld) (v : Nat) : State := s.pi f 0 v

/-- A counter raised, saturating at its width. -/
def State.inc (s : State) (f : Fld) (idx n : Nat) : State := s.pi f idx (cap (2 ^ f.width - 1) (s.gi f idx + n))

/-- A counter raised, wrapping at its width. -/
def State.incW (s : State) (f : Fld) (idx n : Nat) : State := s.pi f idx ((s.gi f idx + n) % 2 ^ f.width)

/-- A sticky or status bit of a bit-mask field set to a value. -/
def State.pbit (s : State) (f : Fld) (idx bit : Nat) (b : Bool) : State := s.pi f idx (putBit (s.gi f idx) bit b)

/-- A field raised to a value if that is larger. -/
def State.pmax (s : State) (f : Fld) (idx v : Nat) : State :=
  if s.gi f idx < v then s.pi f idx (cap (2 ^ f.width - 1) v) else s

/-! ## Free values, time, outputs -/

/-- A free value of 32 bits (DESIGN CHOICE, log entry 2). -/
def State.freeNow (s : State) : Nat := (Config.freeValue s.freeCtr).toNat

/-- A quotient whose rounding the manual leaves open: its floor, or one more where it is not exact (DESIGN CHOICE, log entry 4). -/
def freeQuot (num : Int) (den : Nat) : Int :=
  Int.fdiv num den + (if num % (den : Int) = 0 then 0 else if Config.roundsUp num den then 1 else 0)

/-- The draw counter after a draw. DESIGN CHOICE, log entry 2. -/
def State.drew (s : State) : State := { s with freeCtr := s.freeCtr + 1 }

/-- Output appended. -/
def State.emit (s : State) (e : Emit) : State := { s with outbox := s.outbox ++ [e] }

/-- Seconds and nanoseconds of the wall clock after a number of 2^-48 ns has passed. DESIGN CHOICE, log entry 1. -/
def Wall.forward (w : Wall) (units : Int) : Wall :=
  let t : Int := (w.ns * 2 ^ 48 + w.frac : Nat) + units
  let sec : Int := (w.sec : Int) + Int.fdiv t (10 ^ 9 * 2 ^ 48 : Nat)
  let r : Nat := (t % (10 ^ 9 * 2 ^ 48 : Nat)).toNat
  { w with sec := (sec % (2 ^ 48 : Nat)).toNat, ns := r / 2 ^ 48, frac := r % 2 ^ 48 }

/-- The wall clock's reading in units of 2^-48 ns. -/
def State.wallUnits (s : State) : Nat := (s.wall.sec * 1000000000 + s.wall.ns) * 2 ^ 48 + s.wall.frac

/-- The wall clock runs: CD49, at whose cycles it advances, is present (R43, R336). -/
def State.wallRuns (s : State) : Bool := s.on R.clocks_REF_STAT_HREF 0

/-- RATE in effect; −1 of a clock that stands still (R336). -/
def State.rateNow (s : State) : Int := if s.wallRuns then s.wall.rate else -(2 ^ 40 : Nat)

/-- The wall clock is read at the start of the current slot: where an orbit starts, or RATE or the clock changes
(R339). DEDUCED, log entry 13. -/
def State.anchor (s : State) : State :=
  let a : Anchor := ⟨s.trellis.orbit, s.trellis.slot, s.wallUnits, s.rateNow⟩
  { s with wall := { s.wall with anchors := (a :: s.wall.anchors).take 64 } }

/-- Nanoseconds pass: a wall clock that runs advances at 1 + RATE × 2^-40 (R334, R336; DESIGN CHOICE, log entry 1). -/
def State.elapse (s : State) (n : Nat) : State :=
  { s with nowNs := s.nowNs + n, wall := s.wall.forward ((n * 2 ^ 48 : Nat) + n * s.rateNow * 256) }

/-! ## Machine time -/

/-- k of R45. -/
def State.k (s : State) : Nat := 2 ^ min 2 (s.g R.trellis_TIMING_KSEL)

/-- N_slot. -/
def State.nSlot (s : State) : Nat := s.g R.trellis_TIMING_NSLOT

/-- f_BC, as TRELLIS.BC_NOMINAL names it (R208). -/
def State.fBC (s : State) : Nat := s.g R.trellis_BC_NOMINAL_FREQ

/-- Machine time as a count of slots. -/
def State.pos (s : State) : Nat := s.trellis.orbit * s.nSlot + s.trellis.slot

/-- The number of nanoseconds that slots last, 0 while f_BC is unknown. -/
def State.slotsNs (s : State) (n : Nat) : Nat := if s.fBC = 0 then 0 else n * 1000000000 / s.fBC

/-- Machine timing is lost (R35). -/
def State.lost (s : State) : Bool := s.on R.trellis_TSTAT_TIMING_LOST 0

/-- EMBEDDED mode (R32). -/
def State.embedded (s : State) : Bool := s.on R.trellis_TIMING_MODE 0

/-- The hub streams: GLOBAL.STATE.STATE is 2. DEDUCED, log entry 27. -/
def State.streaming (s : State) : Bool := s.g R.global_STATE_STATE == 2

/-- Graft role: 0 unpaired, 1 active, 2 standby. -/
def State.role (s : State) : Nat := s.g R.graft_STAT_ROLE

/-- The hub is a graft standby. -/
def State.standby (s : State) : Bool := s.role == 2

/-- A power domain is on (R390). -/
def State.pd (s : State) (n : Nat) : Bool := bitAt (s.g R.global_PD_STAT_ON) n

/-- Power domain n switched on or off. -/
def State.setPd (s : State) (n : Nat) (b : Bool) : State := s.pbit R.global_PD_STAT_ON 0 n b

/-! ## Interrupts and errors (R380, R381) -/

/-- The page raises its interrupt: IRQ_STAT.EVENT. -/
def State.event (s : State) (page : Nat) : State := s.pi R.hdr_IRQ_STAT_EVENT page 1

/-- A staged value differs from the one in a map. -/
def Staged.changes (w : Staged) (m : NMap) : Bool := mapGet m w.fld w.idx != w.val

/-- A committed value takes effect on its page, which notes the change in IRQ_STAT.COMMIT (R380). -/
def State.commitField (s : State) (w : Staged) : State :=
  if w.changes s.regs then (s.pi w.fld w.idx w.val).pi R.hdr_IRQ_STAT_COMMIT w.page 1 else s

/-- An error counted in a page's ERR_COUNT, with CAUSE, WHAT and the index register's value (R381). -/
def State.errAt (s : State) (page cause what index : Nat) : State :=
  ((((s.inc R.hdr_ERR_COUNT_COUNT page 1).pi R.hdr_ERR_CAPT_CAUSE page cause).pi R.hdr_ERR_CAPT_WHAT page what).pi
    R.hdr_ERR_CAPT_INDEX page index).pi R.hdr_IRQ_STAT_ERR page 1

/-- Some enabled IRQ_STAT bit of the page is set (STAT.IRQ_PENDING). -/
def State.irqPending (s : State) (page : Nat) : Bool :=
  let st := s.gi R.hdr_IRQ_STAT_ERR page + 2 * s.gi R.hdr_IRQ_STAT_EVENT page + 4 * s.gi R.hdr_IRQ_STAT_COMMIT page
  (st &&& s.gi R.hdr_IRQ_EN_EN page) != 0

/-! ## The hub log (R399, R525) -/

/-- Bytes cut into pieces of 16, at least one. -/
def pieces16 (l : List Byte) : List (List Byte) :=
  if l.length ≤ 16 then [padTo 16 l]
  else (List.range ((l.length + 15) / 16)).map fun i => padTo 16 (slice l (16 * i) 16)

/-- The 32 bytes of an entry (R399). -/
def LogE.bytes (e : LogE) : List Byte :=
  le 6 e.orbit ++ le 2 e.slot ++ le 2 e.page ++ le 1 e.reg ++ le 1 e.bit ++ le 1 e.sev ++ le 1 e.part ++ le 2 e.seq
    ++ e.detail

/-- The entries of one event: the orbit and slot of now, PAGE, REG, BIT, SEVERITY and the DETAIL string (R399, R525). -/
def State.entries (s : State) (page reg bit sev : Nat) (detail : List Byte) : List LogE :=
  let ps := pieces16 detail
  let o := if s.trellis.everLocked then s.trellis.orbit else 0
  let sl := if s.trellis.everLocked then s.trellis.slot else 0
  (List.range ps.length).map fun i => ⟨o, sl, page, reg, bit, sev, i + 16 * (ps.length - 1), 0, ps.getD i []⟩

/-- Entries written to the hub log, each with the next number: into the ring and, while the hub streams, to furrow 0 (R399). -/
def State.writeLog (s : State) (es : List LogE) : State :=
  let es := (List.range es.length).zipWith (fun i (e : LogE) => { e with seq := (s.cpu.lseq + i) % 65536 }) es
  { s with
    cpu := { s.cpu with ring := (es.reverse ++ s.cpu.ring).take 8192, lseq := s.cpu.lseq + es.length }
    hubQ := if s.intake then s.hubQ ++ es.map (fun e => ⟨0, e.bytes⟩) else s.hubQ }

/-- One event for the hub log, which the tending pair writes: while it is halted, the entries wait for it (R393, R399). -/
def State.logAs (s : State) (page reg bit sev : Nat) (detail : List Byte) : State :=
  let es := s.entries page reg bit sev detail
  if s.on R.cpu_PAIR_STAT_TND_RUN 0 then s.writeLog es else { s with cpu := { s.cpu with waiting := s.cpu.waiting ++ es } }

/-- An entry whose SEVERITY is a free value: but for the warnings and errors it names, the manual assigns none (log entry 2). -/
def State.logRaw (s : State) (page reg bit : Nat) (detail : List Byte) : State :=
  (s.logAs page reg bit (s.freeNow % 4) detail).drew

/-- A warning that names the field that reports the condition. -/
def State.warn (s : State) (f : Fld) (page : Nat) (detail : List Byte) : State :=
  s.logAs page (f.addr % 4096 / 4) f.lsb 1 detail

/-- An error that names the field that reports the condition. -/
def State.error (s : State) (f : Fld) (page : Nat) (detail : List Byte) : State :=
  s.logAs page (f.addr % 4096 / 4) f.lsb 2 detail

/-- An entry that names the field that reports the condition, on the page of its instance.
DESIGN CHOICE, log entry 2. -/
def State.log (s : State) (f : Fld) (page : Nat) (detail : List Byte) : State :=
  s.logRaw page (f.addr % 4096 / 4) f.lsb detail

/-- An entry under an event code of R525. -/
def State.logCode (s : State) (code : Nat) (detail : List Byte) : State := s.logRaw 0xFFF code 0 detail

/-! ## Bytes of stream memory: one canonical form, addresses rising, no entry holding what it reads as unlisted (log
entry 3) -/

/-- What an unlisted byte reads as: in the descriptor table the reset value of a descriptor (R202, R221), 0 elsewhere.
DESIGN CHOICE, log entry 3. -/
def memDefault (a : Nat) : Byte :=
  if a < 0x400000 then
    match a % 64 with
    | 4 => 16
    | 6 => 1
    | 7 => 64
    | 12 => 0xFF
    | 13 => 0xFF
    | _ => 0
  else 0

/-- The byte at an address. DESIGN CHOICE, log entry 3. -/
def memGet : List Host.Cell → Nat → Byte
  | [], a => memDefault a
  | (k, v) :: m, a => if k = a then v else if a < k then memDefault a else memGet m a

/-- A byte written. DESIGN CHOICE, log entry 3. -/
def memPut : List Host.Cell → Nat → Byte → List Host.Cell
  | [], a, v => if v = memDefault a then [] else [(a, v)]
  | (k, x) :: m, a, v =>
    if k = a then (if v = memDefault a then m else (k, v) :: m)
    else if a < k then (if v = memDefault a then (k, x) :: m else (a, v) :: (k, x) :: m)
    else (k, x) :: memPut m a v

/-- Bytes read from an address up. -/
def memRead (m : List Host.Cell) (a n : Nat) : List Byte := (List.range n).map fun i => memGet m (a + i)

/-- Bytes written from an address up. -/
def memWrite (m : List Host.Cell) : Nat → List Byte → List Host.Cell
  | _, [] => m
  | a, b :: bs => memWrite (memPut m a b) (a + 1) bs

/-- The canonical form of a byte map: addresses strictly rising from `lo`, no byte equal to the default.
DESIGN CHOICE, log entry 3. -/
def memWf : Nat → List Host.Cell → Bool
  | _, [] => true
  | lo, (k, v) :: m => decide (lo ≤ k) && v != memDefault k && memWf (k + 1) m

/-- Stream memory is in its canonical form. -/
def Memory.wf (s : State) : Bool := memWf 0 s.mem.cells

/-- The invariant of every run: the register map and stream memory are in the form that makes equal contents equal data. -/
def State.Inv (s : State) : Prop := mwf 0 s.regs = true ∧ Memory.wf s = true

/-- Bytes of stream memory written; the granules they lie in are sound again (R224, R249).
DESIGN CHOICE, log entry 3. -/
def State.poke (s : State) (a : Nat) (l : List Byte) : State :=
  let bad := s.mem.bad.filter fun g => decide (256 * g + 256 ≤ a) || decide (a + l.length ≤ 256 * g)
  { s with mem := { s.mem with cells := memWrite s.mem.cells a l, bad := bad } }

/-- Bytes of stream memory read. DESIGN CHOICE, log entry 3. -/
def State.peek (s : State) (a n : Nat) : List Byte := memRead s.mem.cells a n

/-- The poison bit of the 4 KiB block at an address (R251). -/
def State.poisoned (s : State) (a : Nat) : Bool := (memGet s.mem.cells (0x400000 + a / 4096 / 8)).getLsbD (a / 4096 % 8)

/-- The poison bit of a block set or cleared (R252). -/
def State.setPoison (s : State) (a : Nat) (b : Bool) : State :=
  let at_ := 0x400000 + a / 4096 / 8
  let v := (memGet s.mem.cells at_).toNat
  let s := if b && !s.poisoned a then s.inc R.scrub_UE_ALL_POISONED 0 1 else s
  s.poke at_ [BitVec.ofNat 8 (putBit v (a / 4096 % 8) b)]

/-! ## Lists of parts -/

/-- Trellis updated. -/
def State.tr (s : State) (f : Trellis → Trellis) : State := { s with trellis := f s.trellis }

/-- An element taken out of use is recorded in tending (R73, R324). DESIGN CHOICE, log entry 123. -/
def State.tendEvent (s : State) (what index : Nat) : State :=
  { s with tend := { s.tend with events := s.tend.events ++ [⟨s.trellis.orbit, what, index⟩] } }

/-- Bed `b` updated. -/
def State.bed (s : State) (b : Nat) (f : Bed → Bed) : State := { s with beds := modAt s.beds b f }

/-- Bed `b`. -/
def State.bedOf (s : State) (b : Nat) : Bed := s.beds.getD b Bed.empty

/-- Tributary port `n`. -/
def State.portOf (s : State) (n : Nat) : Port := s.ports.getD n Port.empty

/-- Tributary port `n` updated. -/
def State.port (s : State) (n : Nat) (f : Port → Port) : State := { s with ports := modAt s.ports n f }

/-- A lane by its number on both pages: 0 to 31 T00 to T31, 32 to 47 H00 to H15. -/
def State.laneOf (s : State) (l : Nat) : Lane :=
  if l < 32 then s.lanesT.getD l Lane.empty else s.lanesH.getD (l - 32) Lane.empty

/-- A lane updated. -/
def State.lane (s : State) (l : Nat) (f : Lane → Lane) : State :=
  if l < 32 then { s with lanesT := modAt s.lanesT l f } else { s with lanesH := modAt s.lanesH (l - 32) f }

/-- The page of a lane's registers. -/
def lanePage (l : Nat) : Nat := if l < 32 then 0x030 else 0x031

/-- A furrow's pointers and segments. -/
def State.fur (s : State) (n : Nat) : Furrow := aget Furrow.empty s.furrows n

/-- A furrow updated. -/
def State.furrow (s : State) (n : Nat) (f : Furrow → Furrow) : State :=
  { s with furrows := aput s.furrows n (f (s.fur n)) }

/-- A channel's follower. -/
def State.foll (s : State) (ch : Nat) : Follower := aget Follower.empty s.followers ch

/-- A follower updated. -/
def State.follower (s : State) (ch : Nat) (f : Follower → Follower) : State :=
  { s with followers := aput s.followers ch (f (s.foll ch)) }

/-- A Harvest transmitter. -/
def State.txOf (s : State) (n : Nat) : Tx := s.harvest.tx.getD n Tx.empty

/-- A Harvest transmitter updated. -/
def State.tx (s : State) (n : Nat) (f : Tx → Tx) : State :=
  { s with harvest := { s.harvest with tx := modAt s.harvest.tx n f } }

/-- A memory port. -/
def State.mp (s : State) (m : Nat) : MPort := s.mem.ports.getD m MPort.empty

/-- A memory port updated. -/
def State.mport (s : State) (m : Nat) (f : MPort → MPort) : State :=
  { s with mem := { s.mem with ports := modAt s.mem.ports m f } }

/-- One slot passes: the trellis counts it, the sample phase returns to 0 (R28), and the clocks advance by its exact length, f_BC being BC_NOMINAL; while f_BC
is not stated no time passes (DESIGN CHOICE, log entry 1). -/
def State.slotPasses (s : State) : State :=
  let t := s.trellis.tick
  let f := s.fBC
  let s := { s with trellis := { s.trellis with tick := t + 1, phase := 0 } }
  if f = 0 then s
  else
    let at_ := fun (unit t : Nat) => t * unit / f
    let ns := at_ 1000000000 (t + 1) - at_ 1000000000 t
    let units := at_ (1000000000 * 2 ^ 48) (t + 1) - at_ (1000000000 * 2 ^ 48) t
    { s with nowNs := s.nowNs + ns, wall := s.wall.forward (units + Int.fdiv (units * s.rateNow) (2 ^ 40 : Nat)) }

/-- Steps over a list of indices, in order. -/
def forAll (l : List Nat) (s : State) (f : State → Nat → State) : State := l.foldl f s

/-- The slow modulators as a warm reset keeps them. -/
def SlowRot.afterReset (r : SlowRot) : SlowRot :=
  match r with
  | .out => .out
  | .calibrating m => .calibrating m
  | _ => .idle

end Sys2Proof.Machine
end

