-- ==== Sys2Proof/Machine/Operands.lean ====
section
/-! DEFINITION. Register addresses: the page map, the reachability of pages, and the instance a window register acts on. -/
namespace Sys2Proof.Machine

/-- The page of a register address (R376). -/
def pageOf (addr : Nat) : Nat := addr / 4096

/-- The byte offset of a register address in its page (R376). -/
def offOf (addr : Nat) : Nat := addr % 4096

/-- The pages of the page map (R378). -/
def pageList : List Nat :=
  (List.range 0x2D) ++ [0x030, 0x031, 0x032, 0x033, 0x034, 0x035, 0x038, 0x039, 0x03A, 0x03B, 0x040]
    ++ (List.range 8).map (0x041 + ·) ++ [0x049, 0x04A]

/-- A page of the page map (R378). -/
def pageExists (p : Nat) : Bool :=
  decide (p < 0x2D) || (decide (0x30 ≤ p) && decide (p < 0x36)) || (decide (0x38 ≤ p) && decide (p < 0x3C))
    || (decide (0x40 ≤ p) && decide (p < 0x4B))

/-- The first page of a page's kind, whose addresses the chapters' tables show. -/
def pageBase (p : Nat) : Nat :=
  if 0x10 ≤ p ∧ p < 0x28 then 0x10 else if 0x41 ≤ p ∧ p < 0x49 then 0x41 else if p = 0x31 then 0x30 else p

/-- The power domains of a page (R378). -/
def pageDomains (p : Nat) : List Nat :=
  if 0x10 ≤ p ∧ p < 0x28 then [4 + (p - 0x10) / 4]
  else if 0x41 ≤ p ∧ p < 0x49 then [18 + (p - 0x41) / 2]
  else match p with
    | 0x004 => [0]
    | 0x007 | 0x008 | 0x039 => [2]
    | 0x009 => [3]
    | 0x00E | 0x00F => [23]
    | 0x028 | 0x029 | 0x02A | 0x02B | 0x02C | 0x034 | 0x035 | 0x038 => [10]
    | 0x030 => [12, 13]
    | 0x031 => [14, 15, 16, 17]
    | 0x032 | 0x033 => [11]
    | 0x03A => [14]
    | 0x03B => [22]
    | 0x040 | 0x049 | 0x04A => [18]
    | _ => [1]

/-- A page is reachable: one of its domains at least is on (R378, R379). -/
def State.reachable (s : State) (p : Nat) : Bool := (pageDomains p).any s.pd

/-- The power domain of a lane (0 to 31 T00 to T31, 32 to 47 H00 to H15). -/
def laneDomain (l : Nat) : Nat := if l < 32 then 12 + l / 16 else 14 + (l - 32) / 4

/-- The instance of page-level fields of a page: bed × 64, port × 32, H lanes from 32. -/
def pageInst (p : Nat) : Nat :=
  if 0x10 ≤ p ∧ p < 0x28 then (p - 0x10) * 64 else if 0x41 ≤ p ∧ p < 0x49 then (p - 0x41) * 32
  else if p = 0x31 then 32 else 0

/-- An index below its instance count, none beyond it (R387). -/
def below (n i : Nat) : Option Nat := if i < n then some i else none

/-- The instance that a register at an offset of a page acts on now: none where its index lies beyond the last instance
and its table is silent or says that it reads as 0 (R386, R387). -/
def State.inst (s : State) (p off : Nat) : Option Nat :=
  if off < 0x40 then some p
  else match pageBase p with
    | 0x001 => if off = 0x08C then below 12 (s.g R.trellis_PAIR_INDEX_PAIR) else some 0
    | 0x002 => if off = 0x054 then some (s.g R.clocks_CD_INDEX_CD) else some 0
    | 0x003 => if off = 0x050 then some (s.g R.power_PHASE_INDEX_PHASE)
        else if off = 0x058 then below 12 (s.g R.power_RAIL_INDEX_RAIL) else some 0
    | 0x004 => if off = 0x054 then some (s.g R.coldframe_RET_INDEX_WORD) else some 0
    | 0x007 => if off = 0x050 then below 136 (s.g R.tending_MON_INDEX_MON) else some 0
    | 0x009 => if off = 0x04C ∨ off = 0x050 then below 544 (s.g R.nvm_SEC_INDEX_PHYS) else some 0
    | 0x00B => if off = 0x040 then some 0 else some (s.g R.eth_PORT_INDEX_PORT)
    | 0x00D => if 0x04C ≤ off ∧ off ≤ 0x064 then some (s.g R.hdg_NODE_INDEX_NODE) else some 0
    | 0x00E =>
        if off = 0x048 ∨ (0x078 ≤ off ∧ off ≤ 0x084) then below 96 (s.g R.slow_CH_INDEX_CH)
        else if off = 0x050 then
          if s.g R.slow_CH_INDEX_CH < 96 ∧ s.g R.slow_PARAM_INDEX_P < 3 then
            some (s.g R.slow_CH_INDEX_CH * 4 + s.g R.slow_PARAM_INDEX_P) else none
        else if off = 0x058 then some (s.g R.slow_IX_INDEX_IX)
        else if off = 0x074 then
          if s.g R.slow_FLAG_SEL_WORD < 3 then some (s.g R.slow_FLAG_SEL_KIND * 4 + s.g R.slow_FLAG_SEL_WORD) else none
        else some 0
    | 0x00F => if 0x044 ≤ off ∧ off ≤ 0x050 then some (s.g R.il_IL_INDEX_IL) else some 0
    | 0x010 =>
        let b := pageInst p
        if off = 0x044 then some (b + s.gi R.bed_AFE_INDEX_CH b)
        else if 0x060 ≤ off ∧ off ≤ 0x06C then (below 33 (s.gi R.bed_SLICE_INDEX_SLICE b)).map (b + ·)
        else some b
    | 0x028 => if 0x044 ≤ off ∧ off ≤ 0x064 then below 768 (s.g R.sieve_CH_INDEX_CH) else some 0
    | 0x029 =>
        if off = 0x044 ∨ off = 0x050 then some (s.g R.coef_BANK_INDEX_BANK)
        else if off = 0x04C then (below 40 (s.g R.coef_TAP_INDEX_TAP)).map (s.g R.coef_BANK_INDEX_BANK * 64 + ·)
        else some 0
    | 0x02A =>
        if off = 0x044 then below 24 (s.g R.rec_BED_INDEX_BED)
        else if off = 0x04C ∨ off = 0x05C then below 768 (s.g R.rec_CH_INDEX_CH)
        else if off = 0x054 then some (s.g R.rec_THR_INDEX_CLASS)
        else if 0x068 ≤ off ∧ off ≤ 0x07C then below 768 (s.g R.rec_MEAS_INDEX_CH)
        else some 0
    | 0x02B =>
        if 0x044 ≤ off ∧ off ≤ 0x04C ∨ off = 0x058 then some (s.g R.sent_SN_INDEX_SN)
        else if off = 0x054 then some (s.g R.sent_SN_INDEX_SN * 64 + s.g R.sent_MASK_INDEX_I)
        else some 0
    | 0x030 =>
        let b := pageInst p
        let l := s.gi R.lane_LANE_INDEX_LANE b
        if off = 0x040 then some b else if b = 32 ∧ 16 ≤ l then none else some (b + l)
    | 0x032 =>
        let q := s.g R.ing_PORT_INDEX_PORT
        if off = 0x044 ∨ (0x05C ≤ off ∧ off ≤ 0x07C) then some q
        else if 0x084 ≤ off ∧ off ≤ 0x08C then some (q * 16 + s.g R.ing_CLS_INDEX_CLASS)
        else some 0
    | 0x033 => if off = 0x044 then some (s.g R.cwin_CS_INDEX_PORT * 32768 + s.g R.cwin_CS_INDEX_WORD) else some 0
    | 0x034 => if 0x048 ≤ off ∧ off ≤ 0x050 then some (s.g R.dib_TRIG_INDEX_TRIG) else some 0
    | 0x035 =>
        if off = 0x048 ∨ off = 0x04C ∨ off = 0x058 ∨ off = 0x05C then some (s.g R.fsum_SUM_INDEX_SUM)
        else if off = 0x054 then some (s.g R.fsum_SUM_INDEX_SUM * 32 + s.g R.fsum_MEMBER_INDEX_MEMBER)
        else some 0
    | 0x038 => if off = 0x040 ∨ off = 0x058 ∨ off = 0x068 then some 0 else some (s.g R.fwin_F_INDEX_FURROW)
    | 0x039 => if off = 0x04C ∨ off = 0x050 then some (s.g R.bud_CHK_INDEX_CHECK) else some 0
    | 0x03B => if off = 0x048 ∨ off = 0x04C then below 36 (s.g R.comp_ENG_INDEX_ENG) else some 0
    | 0x041 =>
        let b := pageInst p
        if off = 0x054 then
          let sl := s.gi R.mport_WIN_INDEX_SLOT b
          if sl < 3 then some (b + sl * 8 + s.gi R.mport_WIN_INDEX_CH b) else none
        else some b
    | 0x04A =>
        if off = 0x044 then
          if s.g R.spare_SP_INDEX_SLOT < 3 then some (s.g R.spare_SP_INDEX_PORT * 4 + s.g R.spare_SP_INDEX_SLOT) else none
        else if off = 0x050 then some (s.g R.spare_SP_INDEX_PORT)
        else some 0
    | _ => some 0

/-- The fields of the register at an offset of a page, none at a reserved offset (R12, R377). -/
def fieldsAt (p off : Nat) : List Fld :=
  if off < 0x40 then hdrTable.filter (fun f => f.addr == off)
  else (tableOf (pageBase p)).filter (fun f => f.addr % 4096 == off)

/-- The windows of a page kind: the offsets of their first and last register, and that of the register that selects their
instance, the first one where two do (R386). DESIGN CHOICE, log entry 146. -/
def windowTable : List (Nat × Nat × Nat × Nat) :=
  [(0x001, 0x08C, 0x08C, 0x088), (0x002, 0x054, 0x054, 0x050), (0x003, 0x050, 0x050, 0x04C), (0x003, 0x058, 0x058, 0x054),
   (0x004, 0x054, 0x054, 0x050), (0x007, 0x050, 0x050, 0x04C), (0x009, 0x04C, 0x050, 0x048), (0x00B, 0x044, 0xFFC, 0x040),
   (0x00D, 0x04C, 0x064, 0x048), (0x00E, 0x048, 0x048, 0x044), (0x00E, 0x050, 0x050, 0x044), (0x00E, 0x058, 0x058, 0x054),
   (0x00E, 0x074, 0x074, 0x070), (0x00E, 0x078, 0x084, 0x044), (0x00F, 0x044, 0x050, 0x040), (0x010, 0x044, 0x044, 0x040),
   (0x010, 0x060, 0x06C, 0x05C), (0x028, 0x044, 0x064, 0x040), (0x029, 0x044, 0x050, 0x040), (0x02A, 0x044, 0x044, 0x040),
   (0x02A, 0x04C, 0x04C, 0x048), (0x02A, 0x054, 0x054, 0x050), (0x02A, 0x05C, 0x05C, 0x048), (0x02A, 0x068, 0x07C, 0x064),
   (0x02B, 0x044, 0x04C, 0x040), (0x02B, 0x054, 0x058, 0x040), (0x030, 0x044, 0xFFC, 0x040), (0x032, 0x044, 0x044, 0x040),
   (0x032, 0x05C, 0x07C, 0x040), (0x032, 0x084, 0x08C, 0x040), (0x033, 0x044, 0x044, 0x040), (0x034, 0x048, 0x050, 0x044),
   (0x035, 0x048, 0x04C, 0x044), (0x035, 0x054, 0x05C, 0x044), (0x038, 0x044, 0x054, 0x040), (0x038, 0x05C, 0x064, 0x040),
   (0x039, 0x04C, 0x050, 0x048), (0x03B, 0x048, 0x04C, 0x044), (0x041, 0x054, 0x054, 0x050), (0x04A, 0x044, 0x044, 0x040),
   (0x04A, 0x050, 0x050, 0x040)]

/-- The value of the index register that selects the register at an offset of a page, 0 where none does (R380).
DESIGN CHOICE, log entry 146. -/
def State.indexNow (s : State) (p off : Nat) : Nat :=
  match windowTable.find? fun w => w.1 == pageBase p && decide (w.2.1 ≤ off) && decide (off ≤ w.2.2.1) with
  | none => 0
  | some w => (fieldsAt p w.2.2.2).foldl (fun v f => v + s.gi f (pageInst p) * 2 ^ f.lsb) 0

/-- An error counted with the value of the index register that belongs to what it concerns (R380, R381). -/
def State.err (s : State) (page cause what : Nat) : State := s.errAt page cause what (s.indexNow page what)

/-- Windows whose index row says that values beyond the last instance read as 0 (R387). DEDUCED, log entry 142. -/
def readsZero (p off : Nat) : Bool :=
  [(0x003, 0x058), (0x00E, 0x074), (0x03B, 0x048), (0x03B, 0x04C), (0x041, 0x054), (0x04A, 0x044)].contains (pageBase p, off)

/-- An index register: RW, and written when an overlay is staged (R375, R386). -/
def isIndexReg (base off : Nat) : Bool :=
  [(0x001, 0x088), (0x002, 0x050), (0x003, 0x04C), (0x003, 0x054), (0x004, 0x050), (0x007, 0x04C), (0x009, 0x048),
   (0x00B, 0x040), (0x00D, 0x048), (0x00E, 0x044), (0x00E, 0x04C), (0x00E, 0x054), (0x00E, 0x070), (0x00F, 0x040),
   (0x010, 0x040), (0x010, 0x05C), (0x028, 0x040), (0x029, 0x040), (0x029, 0x048), (0x02A, 0x040), (0x02A, 0x048),
   (0x02A, 0x050), (0x02A, 0x064), (0x02B, 0x040), (0x02B, 0x050), (0x030, 0x040), (0x032, 0x040), (0x032, 0x080),
   (0x033, 0x040), (0x034, 0x044), (0x035, 0x044), (0x035, 0x050), (0x038, 0x040), (0x039, 0x048), (0x03B, 0x044),
   (0x041, 0x050), (0x04A, 0x040)].contains (base, off)

/-- The index registers of a page return to their reset values (R386). DEDUCED, log entry 110. -/
def State.indexReset (s : State) (p : Nat) : State :=
  ((tableOf (pageBase p)).filter fun f => isIndexReg (pageBase p) (f.addr % 4096)).foldl
    (fun s f => s.pi f (pageInst p) (f.resetOf (pageInst p))) s

/-- The pages that a domain's switching off leaves without a domain that is on. DEDUCED, log entry 110. -/
def State.pagesLost (s : State) (d : Nat) : List Nat :=
  pageList.filter fun p => (pageDomains p).contains d && !s.reachable p

end Sys2Proof.Machine
end

