-- ==== Sys2Proof/Machine/Flags.lean ====
section
/-! DEFINITION. The status words computed from other state: page status, interrupt summaries and the interrupt pin. -/
namespace Sys2Proof.Machine

/-- STAT.PARTIAL of a page: at least one of its domains is off (R379, R380). -/
def State.partialOn (s : State) (p : Nat) : Bool := !(pageDomains p).all s.pd

/-- STAT.STAGED: the page holds staged values (R380). -/
def State.stagedOn (s : State) (p : Nat) : Bool := s.zcs.staged.any (fun w => w.page == p)

/-- STAT.PENDING: a snapshot holding values of the page waits (R380). -/
def State.pendingOn (s : State) (p : Nat) : Bool :=
  match s.zcs.action with
  | some a => a.snap.any (fun w => w.page == p)
  | none => false

/-- The number of distinct register words among staged values of a page: (offset, instance) pairs. -/
def State.stagedWords (s : State) (p : Nat) : Nat :=
  ((s.zcs.staged.filter (fun w => w.page == p)).map (fun w => (w.fld.addr, w.idx))).eraseDups.length

/-- The 32 bits of IRQ_SUM word `n` (R390). A page whose domain is off reads 0. -/
def State.irqSum (s : State) (n : Nat) : Nat :=
  natOfBits ((List.range 32).map fun i =>
    let p := 32 * n + i
    pageExists p && s.reachable p && s.irqPending p)

/-- IRQ_N is asserted (low) (R390). -/
def State.irqPin (s : State) : Bool := s.on R.global_IRQ_CFG_PIN_EN 0 && (List.range 3).any (fun n => s.irqSum n != 0)

end Sys2Proof.Machine
end

