-- ==== Sys2Proof/Machine/Line.lean ====
section
/-! DEFINITION. What a lane sends: line coding, and the stream of 128-bit blocks of a Harvest transmitter (R127 to R132, R140,
R289 to R296). -/
namespace Sys2Proof.Machine

/-! ## Line coding (R127 to R131) -/

/-- The bits of a Gray index, first transmitted bit first (R128). -/
def grayBits (x : Nat) : List Bool := if x = 0 then [false, false] else if x = 1 then [false, true]
  else if x = 2 then [true, true] else [true, false]

/-- The Gray index of a bit pair (R128). -/
def grayIndex (a b : Bool) : Nat := if a then (if b then 2 else 3) else (if b then 1 else 0)

/-- Bits as Gray indices, pair by pair. -/
def toIndices : List Bool → List Nat
  | a :: b :: rest => grayIndex a b :: toIndices rest
  | _ => []

/-- A precoding transmitter's indices, from the last one sent (R129). -/
def precode : (last : Nat) → List Nat → List Nat × Nat
  | last, [] => ([], last)
  | last, x :: xs =>
    let y := (x + 4 - last % 4) % 4
    let (ys, l) := precode y xs
    (y :: ys, l)

/-- A precoding receiver's indices, from the last one received (R129). -/
def unprecode : (last : Nat) → List Nat → List Nat × Nat
  | last, [] => ([], last)
  | last, y :: ys =>
    let (xs, l) := unprecode (y % 4) ys
    ((y + last) % 4 :: xs, l)

/-- The next 58-bit history: bit i holds the scrambled bit i + 1 places back. -/
def scrNext (h : Nat) (bit : Bool) : Nat := (2 * h + b2n bit) % 2 ^ 58

/-- The scrambler of R130 over payload bits. -/
def scramble : (h : Nat) → List Bool → List Bool × Nat
  | h, [] => ([], h)
  | h, d :: ds =>
    let b := d != (bitAt h 38 != bitAt h 57)
    let (l, h') := scramble (scrNext h b) ds
    (b :: l, h')

/-- The descrambler of R130. -/
def descramble : (h : Nat) → List Bool → List Bool × Nat
  | h, [] => ([], h)
  | h, b :: bs =>
    let (l, h') := descramble (scrNext h b) bs
    ((b != (bitAt h 38 != bitAt h 57)) :: l, h')

/-- The symbols of a block a transmitter sends, as level indices, lowest level 0: scrambled payload, Gray mapping,
precoding and polarity (R127 to R131). -/
def State.sendBlock (s : State) (l : Nat) (header : List Bool) (payload : List Bool) : State × List Nat :=
  let x := s.laneOf l
  let (bits, h) := scramble x.scr payload
  let idx := toIndices (header ++ bits)
  let (out, last) := if s.on R.lane_LANE_CFG_TX_PRECODE l then precode x.lastOut idx else (idx, idx.getLastD x.lastOut)
  (s.lane l fun x => { x with scr := h, lastOut := last },
   if s.on R.lane_LANE_CFG_TX_INV l then out.map (3 - ·) else out)

/-- The weights of a transmitter's FFE in 1/64: pre-cursor, main, post-cursor (R140). -/
def State.ffe (s : State) (l : Nat) : List Int :=
  let pre : Int := (s.gi R.lane_LANE_CFG_FFE_PRE l : Nat)
  let post : Int := (s.gi R.lane_LANE_CFG_FFE_POST l : Nat)
  [-pre, 64 - (pre + post), -post]

/-! ## Blocks of a Harvest transmitter (R127, R132, R289) -/

/-- A 128-bit block before scrambling: whether it is a control block, and its 126 payload bits. -/
abbrev Block := Bool × List Bool

/-- A control block: type and bits [125:8] (R132). -/
def controlBlock (typ payload : Nat) : Block := (true, bitsOfNat 126 (typ + 2 ^ 8 * payload))

/-- The IDLE block. -/
def idleBlock : Block := controlBlock 0x01 0

/-- Blocks coded one after another: the state and their symbols. -/
def State.code (s : State) (n : Nat) : List Block → State × List (List Nat)
  | [] => (s, [])
  | (ctl, p) :: bs =>
    let (s, x) := s.sendBlock (32 + n) [ctl, !ctl] p
    let (s, xs) := s.code n bs
    (s, x :: xs)

/-- Blocks leave on Hn, and count towards its next LANE_MARK (R293). -/
def State.lineOut (s : State) (n : Nat) (bs : List Block) : State :=
  if bs.isEmpty then s
  else
    let (s, sy) := s.code n bs
    (s.tx n fun t => { t with blocks := t.blocks + bs.length }).emit (.line n sy (s.ffe (32 + n)))

/-- The same control block a number of times. -/
def State.sendControl (s : State) (n typ payload count : Nat) : State :=
  (s.lineOut n (List.replicate count (controlBlock typ payload))).emit (.control n typ payload count)

/-! ## The normal stream (R289, R291, R292) -/

/-- Bits cut into payloads of 126, a last shorter piece left out. -/
def payloads (l : List Bool) : List (List Bool) := (List.range (l.length / 126)).map fun i => (l.drop (126 * i)).take 126

/-- The data blocks of whole payloads. -/
def dataBlocks (l : List Bool) : List Block := (payloads l).map fun p => (false, p)

/-- The bits past the last whole payload. -/
def tailBits (l : List Bool) : List Bool := l.drop (126 * (l.length / 126))

/-- The bits of a packet that have not left. -/
def Held.bits (h : Held) : List Bool := (bitsOfBytes (h.packet.getD [])).drop h.out

/-- The first `n` bits of the packets of a list have left. -/
def useBits : (n : Nat) → List Held → List Held
  | _, [] => []
  | n, h :: hs => { h with out := h.out + min n h.bits.length } :: useBits (n - h.bits.length) hs

/-- Free bits: what follows W in a FILL (R292). DESIGN CHOICE, log entry 125. -/
def State.freeBits (s : State) (k : Nat) : List Bool :=
  (List.range k).map fun i => (Config.freeValue (s.freeCtr + i / 32)).getLsbD (i % 32)

/-- The data blocks that finish a partly used one: the packets that follow go on in it, and where they are too short FILL
runs to the end of the block in which its W ends (R292). Answers the blocks too, and how many bits of the packets they
took. -/
def State.finishBlock (s : State) (part : List Bool) (next : List Held) : State × List Block × Nat :=
  if part.isEmpty then (s, [], 0)
  else
    let bits := next.flatMap Held.bits
    let l := part ++ bits.take (126 - part.length)
    if l.length = 126 then (s, [(false, l)], 126 - part.length)
    else
      let l := l ++ bitsOfNat 16 0x0006
      let pad := (126 - l.length % 126) % 126
      ({ s with freeCtr := s.freeCtr + ceilDiv pad 32 }, dataBlocks (l ++ s.freeBits pad), bits.length)

/-- NEXT_OFF: the bits that the packet in progress still takes (R293). -/
def nextOff : List Held → Nat
  | [] => 0
  | h :: hs => if h.out = 0 then 0 else if h.bits.isEmpty then nextOff hs else h.bits.length

/-- A LANE_MARK leaves on Hn (R293). -/
def State.sendMark (s : State) (n : Nat) : State :=
  let payload := n + 2 ^ 8 * s.g R.global_HUB_ID_ID + 2 ^ 24 * (nextOff (s.txOf n).sending % 65536)
    + 2 ^ 40 * s.g R.harv_LIT_LIT
  (s.sendControl n 0x12 payload 1).tx n fun t => { t with blocks := 0 }

/-- The block positions of Hn before the one that takes the next LANE_MARK, the 1,024th since the last (R293). -/
def State.markRoom (s : State) (n : Nat) : Nat := 1023 - (s.txOf n).blocks

/-- The mark leaves where the next position is the one that takes it. -/
def State.markDue (s : State) (n : Nat) : State := if s.markRoom n = 0 then s.sendMark n else s

/-- IDLE blocks for a time the manual does not fix: fewer than would reach the next LANE_MARK, a free number (R132, R293;
DESIGN CHOICE, log entry 125). -/
def State.sendIdle (s : State) (n : Nat) : State :=
  let s := s.markDue n
  (s.lineOut n (List.replicate (s.freeNow % (s.markRoom n + 1)) idleBlock)).drew

/-- A packet is about to be released to Hn: a lane that has nothing to send has idled until then (R292). -/
def State.idleUntil (s : State) (n : Nat) : State :=
  if (s.txOf n).sending.isEmpty && (s.laneOf (32 + n)).tx == 0 then s.sendIdle n else s

/-- The packet in front on Hn goes on for a number of whole data blocks. -/
def State.goOn (s : State) (n k : Nat) : State :=
  match (s.txOf n).sending with
  | h :: hs =>
    (s.lineOut n (dataBlocks (h.bits.take (126 * k)))).tx n fun t => { t with sending := { h with out := h.out + 126 * k } :: hs }
  | [] => s

/-- The packet in front on Hn goes on for a number of blocks that is not stated, its last block and what lies beyond the next
LANE_MARK apart; where there is none IDLE blocks leave (R289, R292; DESIGN CHOICE, log entry 125). -/
def State.runLane (s : State) (n : Nat) : State :=
  match (s.txOf n).sending with
  | h :: _ =>
    let s := s.markDue n
    (s.goOn n (s.freeNow % (min ((h.bits.length - 1) / 126) (s.markRoom n) + 1))).drew
  | [] => s.sendIdle n

/-- The first packet released to Hn leaves to its last bit, in a block that the next one, or FILL, completes (R292), with the
LANE_MARK whose position lies within it (R293). DESIGN CHOICE, log entry 125. -/
def State.sendHead (s : State) (n : Nat) : State :=
  let bits := (((s.txOf n).sending.head?).map Held.bits).getD []
  let room := s.markRoom n
  let s := if 126 * room < bits.length then (s.goOn n room).sendMark n else s
  match (s.txOf n).sending with
  | [] => s
  | h :: hs =>
    let (s, last, used) := s.finishBlock (tailBits h.bits) hs
    (s.lineOut n (dataBlocks h.bits ++ last)).tx n fun t => { t with sending := useBits used hs }

/-- A priority packet leaves on Hn (R291): its first block holds its type, LEN and 106 bits, the rest takes the next
positions of the stream, and an interrupted normal packet goes on within the same data block. -/
def State.sendPriority (s : State) (n typ : Nat) (bytes : List Byte) : State :=
  let s := s.runLane n
  let l := bitsOfBytes bytes
  let first : Block := (true, bitsOfNat 8 typ ++ bitsOfNat 12 bytes.length ++ l.take 106 ++ List.replicate (106 - l.length) false)
  let rest := l.drop 106
  let hs := (s.txOf n).sending
  let (s, last, used) := s.finishBlock (tailBits rest) hs
  ((s.lineOut n (first :: dataBlocks rest ++ last)).tx n fun t => { t with sending := useBits used hs }).emit
    (.priority n typ bytes)

/-! ## ZCS responses on the uplink (R292, R296, R298, R305) -/

/-- A packet held for a lane is a ZCS response. -/
def Held.isZcs (h : Held) : Bool := h.furrow == 7

/-- The lane of ZCS responses: CFG.ZCS_LANE, or the other of H00 and H01 where that one is dropped (R305). -/
def State.zcsLane (s : State) : Nat :=
  let n := s.g R.harv_CFG_ZCS_LANE
  if (s.txOf n).dropped then 1 - n else n

/-- The ZCS responses in front on Hn leave. -/
def State.flushZcs : (fuel : Nat) → (n : Nat) → State → State
  | 0, _, s => s
  | fuel + 1, n, s =>
    match (s.txOf n).sending with
    | h :: _ =>
      if h.isZcs && (s.laneOf (32 + n)).tx == 0 then
        State.flushZcs fuel n ((s.sendHead n).emit (.zcs .rc n [(0, (h.packet.getD []).drop 4)]))
      else s
    | [] => s

/-- A response is placed on its lane, behind a packet in progress, and leaves where nothing is in front of it. -/
def State.placeZcs (s : State) (m : List Byte) : State :=
  let n := s.zcsLane
  let h : Held := ⟨7, 0, some (le 2 7 ++ le 2 m.length ++ m), 0, 0⟩
  let s := s.idleUntil n
  let s := s.tx n fun t => { t with
    sending := (t.sending.takeWhile fun x => x.isZcs || x.out != 0) ++ h :: t.sending.dropWhile fun x => x.isZcs || x.out != 0 }
  State.flushZcs 256 n s

/-- The responses that their 8 MB/s admit: a bucket of one packet of the greatest length and one slot's worth
(R296, R298; DESIGN CHOICE, log entry 126). -/
def State.admitZcs : (fuel : Nat) → State → State
  | 0, s => s
  | fuel + 1, s =>
    match s.harvest.zcsQ with
    | [] => s
    | m :: rest =>
      let spent := s.harvest.zcsSpent + (4 + m.length) * s.fBC
      if 4100 * s.fBC + 8000000 < spent then s
      else
        State.admitZcs fuel ({ s with harvest := { s.harvest with zcsQ := rest, zcsSpent := spent } }.placeZcs m)

/-- A ZCS response goes to the uplink, behind those that wait. DESIGN CHOICE, log entry 126. -/
def State.zcsOut (s : State) (m : List Byte) : State :=
  let s := { s with harvest := { s.harvest with zcsQ := s.harvest.zcsQ ++ [m] } }
  State.admitZcs s.harvest.zcsQ.length s

/-- One slot's worth of the bucket returns, and responses that wait go on. DESIGN CHOICE, log entry 126. -/
def State.zcsRefill (s : State) : State :=
  let s := { s with harvest := { s.harvest with zcsSpent := s.harvest.zcsSpent - 8000000 } }
  let s := State.admitZcs s.harvest.zcsQ.length s
  State.flushZcs 256 1 (State.flushZcs 256 0 s)

end Sys2Proof.Machine
end

