-- ==== Sys2Proof/Machine/Sessions.lean ====
section
/-! DEFINITION. ZCS messages: sessions, the response cache, execution at most once, responses and completions
(R352 to R363). -/
namespace Sys2Proof.Machine

/-- Status codes of R361. -/
def stOk : Nat := 0x0000
def stBusy : Nat := 0x0001
def stBadOpcode : Nat := 0x0002
def stBadLength : Nat := 0x0003
def stBadParam : Nat := 0x0004
def stDenied : Nat := 0x0005
def stBudget : Nat := 0x0006
def stPending : Nat := 0x0007
def stTrip : Nat := 0x0008
def stWorn : Nat := 0x0009
def stDuplicate : Nat := 0x000A
def stImage : Nat := 0x000B
def stDegraded : Nat := 0x000C

/-- How a command is answered: refused without entering the cache (R355, BUSY), executed, or answered when it ends.
DEDUCED, log entry 112. -/
inductive Reply where
  | bad (status : Nat)
  | done (status : Nat) (payload : List Byte)
  | long
  deriving DecidableEq, Repr

/-- A message: header and payload (R354). -/
def zcsMessage (h : Hdr) (opcode flags status : Nat) (payload : List Byte) : List Byte :=
  le 1 0x32 ++ le 1 flags ++ le 2 opcode ++ le 4 h.tag.toNat ++ le 4 h.session.toNat ++ le 2 (16 + payload.length)
    ++ le 2 status ++ payload

/-- The Harvest transmitters are dark: responses on the return channel are not sent (R352). -/
def State.dark (s : State) : Bool := s.g R.harv_LIT_LIT == 0

/-- Responses queue on the slave port, up to eight; a ninth displaces the oldest (R487). -/
def State.queueSlaveResponse (s : State) (m : List Byte) : State :=
  if s.xspi.resps.length < 8 then { s with xspi := { s.xspi with resps := s.xspi.resps ++ [m] } }
  else { s.inc R.xspi_SLV_CNT_RESP_LOST 0 1 with xspi := { s.xspi with resps := s.xspi.resps.drop 1 ++ [m] } }

/-- The hub's address on the port of a UDP request (R333). -/
def State.ownIp (s : State) (h : Hdr) : Nat :=
  match h.via with
  | .udp port _ _ => s.gi R.eth_IP_ADDR_ADDR port
  | _ => 0

/-- A UDP message in the fragments that a 1,500-byte MTU asks for, by the place of their bytes in it: 1,480 bytes each behind the IPv4
header, the first of which the UDP header takes eight (R333). -/
def mtuParts (m : List Byte) : List (Nat × List Byte) :=
  (List.range (max 1 (ceilDiv (m.length + 8) 1480))).map fun i =>
    (1480 * i - 8, slice m (1480 * i - 8) (if i = 0 then 1472 else 1480))

/-- A response leaves on the transport of its request (R352), by UDP from the address `src`. -/
def State.respondFrom (s : State) (src : Nat) (h : Hdr) (opcode flags status : Nat) (payload : List Byte) : State :=
  let m := zcsMessage h opcode flags status payload
  match h.via with
  | .rc => if s.dark then s.err 0x03A 5 opcode else s.zcsOut m
  | .xspi => s.queueSlaveResponse m
  | v => s.emit (.zcs v src (mtuParts m))

/-- A response leaves on the transport of its request, by UDP from the hub's address now. -/
def State.respond (s : State) (h : Hdr) (opcode flags status : Nat) (payload : List Byte) : State :=
  s.respondFrom (s.ownIp h) h opcode flags status payload

/-! ## Sessions -/

/-- The open session of a number. -/
def State.session (s : State) (id : BitVec 32) : Option Session := s.zcs.sessions.find? (fun x => x.id == id)

/-- A session updated. -/
def State.sess (s : State) (id : BitVec 32) (f : Session → Session) : State :=
  { s with zcs := { s.zcs with sessions := s.zcs.sessions.map (fun x => if x.id = id then f x else x) } }

/-- A message renews its session's lease (R356). -/
def State.renew (s : State) (id : BitVec 32) : State := s.sess id (fun x => { x with last := s.nowNs })

/-- A session opens with a lease of 10 s (R356). -/
def State.openSession (s : State) (id : BitVec 32) : State :=
  { s with zcs := { s.zcs with sessions := s.zcs.sessions ++ [⟨id, 10000000000, s.nowNs, [], []⟩] } }

/-- A response enters its session's cache, replacing the entry of its tag; 256 tags are kept (R357, R360).
DEDUCED, log entry 112. -/
def State.cacheReply (s : State) (h : Hdr) (flags status : Nat) (payload : List Byte) : State :=
  s.sess h.session fun x =>
    let old := x.cache.any (fun c => c.tag == h.tag)
    let entry : Cached := ⟨h.tag, flags, status, payload⟩
    { x with
      cache := if old then x.cache.map (fun c => if c.tag = h.tag then entry else c)
               else (entry :: x.cache).take 256 }

/-! ## Requests (R360, R364) -/

/-- A 32-bit word of a payload. -/
def wordAtByte (p : List Byte) (off : Nat) : Word := BitVec.ofNat 32 (leAt p off 4)

/-- Words of a payload from an offset. -/
def wordsFrom (p : List Byte) (off n : Nat) : List Word := (List.range n).map fun i => wordAtByte p (off + 4 * i)

/-- The command that a request's opcode and payload spell (R364). A STEP that the table does not give leaves a run of no words, which
is refused as such. -/
def requestOf (h : Hdr) (opcode : Nat) (p : List Byte) : Option Instr :=
  let n := fun (off len : Nat) => leAt p off len
  let addr := n 0 4 % 2 ^ 24
  let run := decide (n 6 1 ≤ 1)
  let named := bitAt (n 6 1) 0
  match opcode with
  | 0x0001 => some (.ping h p)
  | 0x0002 => some (.ident h (if p.isEmpty then none else some (n 0 2)))
  | 0x0010 => some (.regRead h addr (if run then n 4 2 else 0) (n 6 1 == 1))
  | 0x0011 => some (.regWrite h addr (n 6 1 == 1) (if run then wordsFrom p 8 (n 4 2) else []))
  | 0x0012 => some (.regModify h addr (wordAtByte p 4) (wordAtByte p 8))
  | 0x0020 => some (.imageLoad h (n 0 4) (n 4 4) (p.drop 8))
  | 0x0021 => some (.overlayStage h (n 0 1))
  | 0x0022 => some (.overlayCommit h (n 0 6) named)
  | 0x0023 => some (.overlayRevert h)
  | 0x0024 => some (.budgetCheck h)
  | 0x0030 => some (.streamStart h (n 0 6) named)
  | 0x0031 => some (.streamStop h (n 0 6) named)
  | 0x0032 => some (.lookback h (n 0 2) (n 2 1) (n 4 8) (n 12 8))
  | 0x0033 => some (.ackWindow h (n 0 4))
  | 0x0040 => some (.timeSet h (n 0 6) (n 6 4) (n 10 2))
  | 0x0041 => some (.phaseCalibrate h)
  | 0x0050 => some (.graftArm h (n 0 1) (n 2 2))
  | 0x0051 => some (.graftDrill h)
  | 0x0052 => some (.graftStatus h)
  | 0x0060 => some (.rankRetire h (n 0 1) (n 1 1))
  | 0x0061 => some (.memHealth h)
  | 0x0070 => some (.nvmRead h (n 0 1) (n 4 4) (n 8 2))
  | 0x0071 => some (.nvmWrite h (n 0 4) (p.drop 4))
  | 0x0072 => some (.logRead h (n 0 1) (n 2 2) (n 4 4))
  | 0x0080 => some (.tendingReport h)
  | 0x0081 => some (.marginApply h (n 0 1) (n 4 4))
  | 0x0090 => some (.slowConfig h (n 0 1) (wordAtByte p 4) (wordAtByte p 8) (wordAtByte p 12) (wordAtByte p 16))
  | 0x0091 => some (.tripClear h (bitAt (n 0 1) 0) (bitAt (n 0 1) 1))
  | 0x00A0 => some (.selftest h (wordAtByte p 0))
  | 0x00FF => some (.reset h (n 0 1))
  | _ => none

/-- A command may be executed: it is the one that the oldest message waiting spells, or none waits and its message comes now
(R360). DEDUCED, log entry 32. -/
def State.turn (s : State) (c : Instr) : Bool :=
  match s.zcs.queue with
  | [] => true
  | m :: _ => requestOf m.hdr m.opcode (m.bytes.drop 16) == some c

/-- The message of the command whose turn it is leaves the queue (R360); the slave port's request buffer empties with one of its own. A
message that comes now renews its session's lease (R356). -/
def State.takeMsg (s : State) (h : Hdr) : State :=
  match s.zcs.queue with
  | [] => s.renew h.session
  | _ :: rest =>
    { s with
      zcs := { s.zcs with queue := rest }
      xspi := if h.via = .xspi then { s.xspi with reqBuf := none } else s.xspi }

/-- SESSION 0 is accepted only for these opcodes (R356). -/
def session0Opcodes : List Nat := [0x0001, 0x0002, 0x0052, 0x0061, 0x0080]

/-- A reply sent from the address the hub had before the command (R333), and cached where the message has a session.
DEDUCED, log entry 112. -/
def State.reply (s : State) (src : Nat) (h : Hdr) (opcode : Nat) (r : Reply) : State :=
  match r with
  | .bad st => s.respondFrom src h opcode 1 st []
  | .done st payload =>
    let s := s.respondFrom src h opcode 1 st payload
    if h.session = 0 then s else s.cacheReply h 1 st payload
  | .long => if h.session = 0 then s else s.sess h.session (fun x => { x with running := h.tag :: x.running })

/-- A command `c` executed in its session, in order of arrival and at most once (R356 to R360), while the command pair runs (R393,
R490). `lenOk` is the payload check of R355. DEDUCED, log entry 32. -/
def State.zcsRun (s : State) (c : Instr) (h : Hdr) (opcode : Nat) (lenOk : Bool) (body : State → State × Reply) : State :=
  if !s.on R.cpu_PAIR_STAT_CMD_RUN 0 || !s.turn c then s
  else
  let s := s.takeMsg h
  let src := s.ownIp h
  if !lenOk then s.respond h opcode 1 stBadLength []
  else if h.session = 0 then
    if session0Opcodes.contains opcode then
      let (s, r) := body s
      s.reply src h opcode r
    else s.respond h opcode 1 stDenied []
  else
    match s.session h.session with
    | none =>
      if 4 ≤ s.zcs.sessions.length then s.respond h opcode 1 stBusy []
      else
        let (s, r) := body (s.openSession h.session)
        s.reply src h opcode r
    | some x =>
      if x.running.contains h.tag then s.respond h opcode 1 stBusy []
      else match x.cache.find? (fun c => c.tag == h.tag) with
        | some c => s.respond h opcode (c.flags % 16 + 16 * (c.status % 16)) stDuplicate c.payload
        | none =>
          let (s, r) := body s
          s.reply src h opcode r

/-- A long command or a boundary action ends: its final answer is sent and replaces the cached entry (R360), but for BUSY, which leaves
the tag free to be sent again (R357). `flags` is 1 for a first answer, 3 for a completion. -/
def State.finish (s : State) (h : Hdr) (opcode flags status : Nat) (payload : List Byte) : State :=
  let s := s.respond h opcode flags status payload
  if h.session = 0 then s
  else
    let s := s.sess h.session fun x => { x with running := x.running.erase h.tag }
    if status = stBusy then s.sess h.session fun x => { x with cache := x.cache.filter fun c => c.tag != h.tag }
    else s.cacheReply h flags status payload

/-- A completion where the action came from a command; nothing where it came from a register write. -/
def State.complete (s : State) (h : Option Hdr) (opcode status : Nat) (payload : List Byte) : State :=
  match h with
  | some h => s.finish h opcode 3 status payload
  | none => s

/-- The long command of an opcode ends and is answered (R360). -/
def State.endLong (s : State) (opcode status : Nat) (payload : List Byte) : State :=
  match s.zcs.long with
  | some (h, op) =>
    if op = opcode then { s with zcs := { s.zcs with long := none } }.finish h op 1 status payload else s
  | none => s

/-! ## Arrival (R355, R360) -/

/-- The payload lengths each opcode allows (R355, R364). -/
def lengthAllowed (opcode : Nat) (p : List Byte) : Bool :=
  let n := p.length
  match opcode with
  | 0x0001 => decide (n ≤ 64)
  | 0x0002 => n == 0 || n == 2
  | 0x0010 => n == 7 || n == 8
  | 0x0011 => n == 8 + 4 * leAt p 4 2
  | 0x0012 => n == 12
  | 0x0020 => decide (8 ≤ n) && decide (n ≤ 4080)
  | 0x0021 => n == 1 || n == 4
  | 0x0022 | 0x0030 | 0x0031 => n == 7 || n == 8
  | 0x0023 | 0x0024 | 0x0041 | 0x0051 | 0x0052 | 0x0061 | 0x0080 => n == 0
  | 0x0032 => n == 20
  | 0x0033 => n == 4
  | 0x0040 => n == 12
  | 0x0050 => n == 4
  | 0x0060 => n == 2 || n == 4
  | 0x0070 => n == 10 || n == 12
  | 0x0071 => decide (5 ≤ n) && decide (n ≤ 1028)
  | 0x0072 => n == 8
  | 0x0081 => n == 8
  | 0x0090 => n == 20
  | 0x0091 => n == 1 || n == 4
  | 0x00A0 => n == 4
  | 0x00FF => n == 1 || n == 4
  | _ => true

/-- The opcodes of R364. -/
def opcodes : List Nat :=
  [0x0001, 0x0002, 0x0010, 0x0011, 0x0012, 0x0020, 0x0021, 0x0022, 0x0023, 0x0024, 0x0030, 0x0031, 0x0032, 0x0033,
   0x0040, 0x0041, 0x0050, 0x0051, 0x0052, 0x0060, 0x0061, 0x0070, 0x0071, 0x0072, 0x0080, 0x0081, 0x0090, 0x0091,
   0x00A0, 0x00FF]

/-- The page of a transport (R355). -/
def viaPage : Via → Nat
  | .udp _ _ _ => 0x00B
  | .rc => 0x03A
  | .xspi => 0x00A

/-- A message arrives while the command pair runs (R355): its first failed check is answered; otherwise it waits for execution, up to 16
(R360). Whatever it is answered, it renews its session's lease (R356).
DEDUCED, log entry 32. -/
def State.arrive (s : State) (via : Via) (m : List Byte) : State :=
  if !s.on R.cpu_PAIR_STAT_CMD_RUN 0 then s
  else if m.length < 16 ∨ bitAt (leAt m 1 1) 0 then s.err (viaPage via) 6 0
  else
    let h : Hdr := ⟨via, BitVec.ofNat 32 (leAt m 8 4), BitVec.ofNat 32 (leAt m 4 4)⟩
    let op := leAt m 2 2
    let payload := m.drop 16
    let s := s.renew h.session
    if leAt m 12 2 ≠ m.length ∨ 4096 < m.length then s.respond h op 1 stBadLength []
    else if leAt m 0 1 ≠ 0x32 then s.respond h op 1 stBadParam []
    else if !opcodes.contains op then s.respond h op 1 stBadOpcode []
    else if !lengthAllowed op payload then s.respond h op 1 stBadLength []
    else if 16 ≤ s.zcs.queue.length then s.respond h op 1 stBusy []
    else { s with zcs := { s.zcs with queue := s.zcs.queue ++ [⟨h, op, m, s.nowNs⟩] } }

/-- A message of the slave port's request buffer reaches the command pair, which takes it when it runs; the buffer is
held until the command leaves the queue (R487). DEDUCED, log entry 32. -/
def State.arriveSlave (s : State) (m : List Byte) : State :=
  if !s.on R.cpu_PAIR_STAT_CMD_RUN 0 then { s with xspi := { s.xspi with reqBuf := some m } }
  else
    let t := s.arrive .xspi m
    { t with xspi := { t.xspi with reqBuf := if s.zcs.queue.length < t.zcs.queue.length then some m else none } }

end Sys2Proof.Machine
end

