-- ==== Sys2Proof/Machine/Furrows.lean ====
section
/-! DEFINITION. Furrows: descriptors, the open segment, closing, the ring, pointers and acknowledgement (R199 to R217). -/
namespace Sys2Proof.Machine

/-! ## Descriptors (R199 to R202) -/

/-- The furrows whose ENABLE is set, rising. -/
def State.enabledFurrows (s : State) : List Nat :=
  let base := R.fwin_D_CFG_ENABLE.addr * 32 + R.fwin_D_CFG_ENABLE.lsb
  s.regs.filterMap fun (k, v) => if k / 2 ^ 20 = base ∧ v = 1 then some (k % 2 ^ 20) else none

/-- The hub furrows that ignore WORST and LANES (R202). -/
def hubFurrow (f : Nat) : Bool := f < 6 && f != 2

/-- LANES of a furrow: 0xFFFF on the furrows that ignore it (R202). -/
def State.lanesOf (s : State) (f : Nat) : Nat := if hubFurrow f then 0xFFFF else s.gi R.fwin_D_LANES_LANES f

/-- Segments that a furrow's ring holds. -/
def State.ringSegs (s : State) (f : Nat) : Nat := 2 ^ (s.gi R.fwin_D_BASE_SIZE f - 12)

/-- The address of segment `seq` of a furrow (R203). -/
def State.segAddr (s : State) (f seq : Nat) : Nat :=
  s.gi R.fwin_D_BASE_BASE f * 65536 + 4096 * (seq % s.ringSegs f)

/-! ## SEQ arithmetic modulo 2^40 (R203) -/

/-- `b` is later than `a`. -/
def seqLater (a b : Nat) : Bool :=
  let d := (b + 2 ^ 40 - a % 2 ^ 40) % 2 ^ 40
  decide (0 < d) && decide (d < 2 ^ 39)

/-- The SEQ `n` further on. -/
def seqAdd (a n : Nat) : Nat := (a + n) % 2 ^ 40

/-- SEQ0 of R203 for a stream, or an enabling commit, whose first cycle is an orbit and slot. -/
def State.seq0 (s : State) (orbit slot : Nat) : Nat := 2 * (orbit * s.nSlot + slot) % 2 ^ 40

/-- The record class a hub furrow carries (R199). -/
def hubClass (f : Nat) : Nat :=
  match f with
  | 0 => 0x40
  | 1 => 0x31
  | 2 => 0x20
  | 3 => 0x41
  | 4 => 0x30
  | _ => 0x50

/-- Classes whose segments list marks (R204). -/
def listsMarks (cls : Nat) : Bool := 0x01 ≤ cls && cls ≤ 0x12

/-! ## Wall time of a slot (R339) -/

/-- The last reading of the wall clock at or before an orbit and slot; the oldest where none is, the clock now where none has
been taken. DEDUCED, log entry 13. -/
def State.anchorFor (s : State) (orbit slot : Nat) : Anchor :=
  match s.wall.anchors.find? (fun a => decide (a.orbit < orbit) || (a.orbit == orbit && decide (a.slot ≤ slot))) with
  | some a => a
  | none => s.wall.anchors.getLastD ⟨s.trellis.orbit, s.trellis.slot, s.wallUnits, s.rateNow⟩

/-- WALL_NS at the FINE = 0 instant of an orbit and slot, rounded down: the clock's reading in that slot, or the one before it
carried on at f_BC and its RATE (R206, R339; DEDUCED, log entry 13). -/
def State.wallNs (s : State) (orbit slot : Nat) : Nat :=
  match s.hist.find? (fun h => h.orbit == orbit && h.slot == slot) with
  | some h => h.wall % 2 ^ 32
  | none =>
    let f := max 1 s.fBC
    let a := s.anchorFor orbit slot
    let slots : Int := ((orbit * s.nSlot + slot : Nat) : Int) - ((a.orbit * s.nSlot + a.slot : Nat) : Int)
    let units : Int := (a.units * f * 2 ^ 40 : Nat) + slots * (1000000000 * 2 ^ 48 : Nat) * ((2 ^ 40 : Nat) + a.rate)
    (Int.fdiv units ((f * 2 ^ 88 : Nat) : Int) % (2 ^ 32 : Nat)).toNat

/-! ## The segment header and the descriptor (R202, R206, R207) -/

/-- The 32-byte header (R206). -/
def segHeader (furrow flags seq cls orbit slot plen check hub epoch marks wall : Nat) : List Byte :=
  le 2 furrow ++ le 2 flags ++ le 5 seq ++ le 1 cls ++ le 6 orbit ++ le 2 (slot % 2 ^ 14) ++ le 2 plen ++ le 4 check
    ++ le 2 hub ++ le 1 epoch ++ le 1 marks ++ le 4 wall

/-- TAIL_ORBIT: FIRST_ORBIT of the oldest segment retained, which may be the open one (R202). -/
def State.tailOrbit (s : State) (u : Furrow) : Nat :=
  match u.segs, u.cur.bind OpenSeg.first with
  | g :: _, _ => g.orbit
  | [], some x => x.1
  | [], none => s.trellis.orbit

/-- The 64 bytes of a furrow's descriptor (R202). -/
def State.descriptor (s : State) (f : Nat) : List Byte :=
  let u := s.fur f
  le 4 (s.gi R.fwin_D_BASE_BASE f) ++ le 1 (s.gi R.fwin_D_BASE_SIZE f) ++ le 1 (s.gi R.fwin_D_CFG_CLASS f)
    ++ le 1 (s.gi R.fwin_D_CFG_EFFORT f + 8 * s.gi R.fwin_D_CFG_PRIO f + 64 * s.gi R.fwin_D_CFG_ENABLE f)
    ++ le 1 (s.gi R.fwin_D_CFG_AGE f) ++ le 4 (s.gi R.fwin_D_WORST_WORST f) ++ le 2 (s.lanesOf f) ++ le 2 0
    ++ le 5 u.wr ++ le 5 u.rd ++ le 5 u.ack ++ le 5 u.tail ++ le 4 (s.gi R.fwin_D_RETAIN_RETAIN f)
    ++ le 6 (s.tailOrbit u) ++ le 2 u.overrun ++ le 4 u.ackLate ++ le 12 0

/-- Cached descriptors of the enabled furrows written back to memory (R202). DESIGN CHOICE, log entry 37. -/
def State.writeDescriptors (s : State) : State :=
  forAll s.enabledFurrows s fun s f => s.poke (64 * f) (s.descriptor f)

/-! ## Retention (R214, R217) -/

/-- TAIL_SEQ: the oldest segment retained, the open segment where there is none. -/
def Furrow.retail (u : Furrow) : Furrow :=
  { u with tail := match u.segs with
      | g :: _ => g.seq
      | [] => u.wr }

/-- A segment of the running stream that R214 no longer retains. -/
def State.releasable (s : State) (f : Nat) (u : Furrow) (g : Seg) : Bool :=
  !g.old && !seqLater u.ack g.seq && decide (g.orbit + s.gi R.fwin_D_RETAIN_RETAIN f < s.trellis.orbit)

/-- Segments released under R214; segments of an earlier stream stay until overwritten (R216, R217). -/
def State.release (s : State) (f : Nat) : State :=
  s.furrow f fun u => { u with segs := u.segs.filter (fun g => !s.releasable f u g) }.retail

/-- An orbit has begun: the segments whose RETAIN has run out are released (R214). -/
def State.releaseAll (s : State) : State := forAll (s.furrows.map (·.1)) s State.release

/-- Segments of an earlier stream whose ring position no longer holds a header with their own SEQ are no longer retained
(R217). -/
def State.checkOld (s : State) (f : Nat) : State :=
  let here := fun (g : Seg) => let h := s.peek g.addr 32; leAt h 0 2 == f && leAt h 4 5 == g.seq
  if (s.fur f).segs.any (fun g => g.old && !here g) then
    s.furrow f fun u => { u with segs := u.segs.filter (fun g => !g.old || here g) }.retail
  else s

/-! ## Opening and closing segments (R203 to R205, R215) -/

/-- The ring position of the segment about to open is taken: what it still held is no longer retained; an unacknowledged
segment is overwritten, counted and logged, and RD_SEQ skips one never sent (R215). -/
def State.overwrite (s : State) (f addr : Nat) : State :=
  forAll (((s.fur f).segs.filter (fun g => g.addr == addr)).map (·.seq)) s fun s q =>
    let u := s.fur f
    match u.segs.find? (fun g => g.seq == q) with
    | none => s
    | some g =>
      let lostSeg := if g.old then g.unacked else seqLater u.ack g.seq
      let s := s.furrow f fun u =>
        { u with
          segs := u.segs.filter (fun x => x.seq != q)
          rd := if lostSeg ∧ ¬ g.old ∧ ¬ g.handed ∧ ¬ seqLater q u.rd then seqAdd q 1 else u.rd }.retail
      if lostSeg then
        ((s.inc R.fwin_F_STAT_OVERRUN f 1).furrow f fun u => { u with overrun := cap 65535 (u.overrun + 1) }).log R.fwin_F_STAT_OVERRUN 0x038 (le 2 f ++ le 5 q ++ le 5 q)
      else s

/-- A segment opens at WR_SEQ; the poison bit of its block clears (R203, R252). DESIGN CHOICE, log entry 2. -/
def State.openSeg (s : State) (f cls : Nat) (late : Bool) : State :=
  let u := s.fur f
  let addr := s.segAddr f (u.wr + 2 ^ 40 - u.shift)
  let s := (s.overwrite f addr).setPoison addr false
  s.furrow f fun u =>
    let dup := u.wr != u.top && !seqLater u.top u.wr
    { u with cur := some ⟨u.wr, cls, none, s.trellis.tick, 0, [], [], false, late, [], dup, false⟩
             top := if dup then u.top else seqAdd u.wr 1 }

/-- No segment is open and the next one has the next SEQ, with what R415 adds to it. -/
def Furrow.next (u : Furrow) (seq : Nat) : Furrow :=
  { u with cur := none, wr := seqAdd seq (1 + u.bump), shift := seqAdd u.shift u.bump, bump := 0 }

/-- Uncompressed bytes of closed segments not yet handed to an engine (BACKLOG, R309). -/
def State.backlog (s : State) : Nat :=
  sumNat (s.furrows.map fun (_, u) => sumNat ((u.segs.filter (fun g => !g.handed && !g.old)).map (·.len)))

/-- BACKLOG_MAX follows BACKLOG (R309). -/
def State.backlogMax (s : State) : State := s.pmax R.harv_BACKLOG_MAX_BYTES 0 s.backlog

/-- The open segment closes: its header is written and the segment stored; it waits to be sent (R204 to R207), or counts as sent on a standby (R417). Where it
holds listings and no unit, the manual gives no FIRST_ORBIT, FIRST_SLOT and WALL_NS: free values (log entry 2). -/
def State.closeSeg (s : State) (f : Nat) : State :=
  match (s.fur f).cur with
  | none => s
  | some o =>
    if o.lost then s.furrow f fun u => (u.next o.seq).retail
    else
    let payload := o.bytes ++ o.marks.flatMap (le 2)
    let (orbit, slot, wall) := match o.first with
      | some (a, b) => (a, b, o.wall)
      | none => (s.freeNow, s.drew.freeNow % 2 ^ 14, s.drew.drew.freeNow)
    let s := match o.first with
      | some _ => s
      | none => s.drew.drew.drew
    let flags := (if o.marks.isEmpty then 0 else 4) + (if o.late then 8 else 0) + (if o.lossy then 16 else 0)
    let header := segHeader f flags o.seq o.cls orbit slot payload.length (crc32c payload).toNat
      (s.g R.global_HUB_ID_ID) (s.g R.graft_STAT_EPOCH) o.marks.length wall
    let addr := s.segAddr f (o.seq + 2 ^ 40 - (s.fur f).shift)
    let seg : Seg := ⟨o.seq, addr, 32 + payload.length, o.cls, flags, orbit, o.orbits, s.trellis.tick, s.standby, false, 0, false,
      false, false, false, false, o.dup⟩
    let u := { s.fur f with segs := (s.fur f).segs ++ [seg] }.next o.seq
    let u := if s.standby then { u with rd := u.wr, ack := if hubFurrow f then o.seq else u.ack } else u
    ((s.poke addr (header ++ payload)).furrow f fun _ => u.retail).backlogMax

/-- The bytes the open segment holds, listings included. -/
def OpenSeg.used (o : OpenSeg) : Nat := o.bytes.length + 2 * o.marks.length

/-- The furrow's open segment changed. -/
def State.curSeg (s : State) (f : Nat) (g : OpenSeg → OpenSeg) : State :=
  s.furrow f fun u => { u with cur := u.cur.map g }

/-- A unit on its way to a furrow: class, orbit and slot of R206, bytes, LOSSY_ZERO and LATE marks. -/
structure RecUnit where
  furrow : Nat
  cls : Nat
  orbit : Nat
  slot : Nat
  bytes : List Byte
  lossy : Bool
  late : Bool
  deriving DecidableEq, Repr

/-- The orbit by which an orbit range of R218 finds a unit: its own for the classes that rise with SEQ and for marks, the
orbit in which it entered the barrow otherwise. -/
def State.rangeOrbit (s : State) (x : RecUnit) : Nat :=
  if [0x01, 0x02, 0x03, 0x10, 0x11, 0x20].contains x.cls then x.orbit else s.trellis.orbit

/-- Classes whose units are bed groups or tributary groups (R200). -/
def groupClass (cls : Nat) : Bool := [0x01, 0x02, 0x03, 0x10, 0x11, 0x12].contains cls

/-- The furrow's open segment is one that a degraded step lost (R260). -/
def State.lostOpen (s : State) (f : Nat) : Bool :=
  match (s.fur f).cur with
  | some o => o.lost
  | none => false

/-- A unit is older than the last degraded step: its label or origin lies before slot q of the switch orbit (R264). -/
def State.beforeStep (s : State) (x : RecUnit) : Bool :=
  let o := s.g R.spare_DEG_ORBIT_LO_ORBIT_LO + 2 ^ 32 * s.g R.spare_DEG_ORBIT_HI_ORBIT_HI
  decide (x.orbit < o) || (x.orbit == o && decide (x.slot < s.trellis.qwFirst))

/-- A furrow that a commit has disabled still takes a unit: one labelled before the commit's slot q (R205). -/
def Furrow.stillTakes (u : Furrow) (x : RecUnit) : Bool :=
  u.drains.any fun q => decide (x.orbit < q.1) || (x.orbit == q.1 && decide (x.slot < q.2))

/-- A unit placed whole in its furrow's open segment (R204); a furrow that is not enabled takes none but those labelled before
the commit that disabled it (R205), and one disabled under R264 counts the groups it discards, but for those older than the
step. DEDUCED, log entry 143. -/
def State.place (s : State) (x : RecUnit) : State :=
  let f := x.furrow
  let shed := (s.fur f).shed
  if s.lostOpen f then s
  else if shed && !s.beforeStep x then (if groupClass x.cls then s.inc R.spare_SHED_COUNT 0 1 else s)
  else if !shed && !s.on R.fwin_D_CFG_ENABLE f && !(s.fur f).stillTakes x then s
  else
    let s := match (s.fur f).cur with
      | some o => if 4064 < o.used + x.bytes.length then s.closeSeg f else s
      | none => s
    let s := if (s.fur f).cur.isNone then s.openSeg f x.cls x.late else s
    s.curSeg f fun o =>
      { o with
        first := o.first.or (some (x.orbit, x.slot))
        wall := if o.first.isNone then s.wallNs x.orbit x.slot else o.wall
        bytes := o.bytes ++ x.bytes
        lossy := o.lossy || x.lossy
        orbits := let r := s.rangeOrbit x
                  if o.orbits.contains r then o.orbits else o.orbits ++ [r] }

/-- A mark listed in a furrow's open segment, in its next segment where it does not fit (R204). -/
def State.listMark (s : State) (mseq f : Nat) : State :=
  match (s.fur f).cur with
  | none => s
  | some o =>
    if !listsMarks o.cls || o.lost then s
    else if 4064 < o.used + 2 ∨ 255 ≤ o.marks.length then
      ((s.closeSeg f).openSeg f o.cls o.late).curSeg f fun o => { o with marks := [mseq] }
    else s.curSeg f fun o => { o with marks := o.marks ++ [mseq] }

/-- Every mark known in the cycle listed in every open segment of class 0x01 to 0x12, in MSEQ order (R204). -/
def State.listMarks (s : State) (mseqs : List Nat) : State :=
  forAll mseqs s fun s m => forAll (s.furrows.map (·.1)) s fun s f => s.listMark m f

/-- Every open segment closes. -/
def State.closeAll (s : State) : State := forAll (s.furrows.map (·.1)) s fun s f => s.closeSeg f

/-- A record of a hub furrow enters the barrow (R199); none enters while the hub does not stream (R526). -/
def State.hubRec (s : State) (f : Nat) (bytes : List Byte) : State :=
  if s.intake then { s with hubQ := s.hubQ ++ [⟨f, bytes⟩] } else s

/-- The ceiling of a hub furrow in bytes per second (R208); the mark furrow has none. -/
def allowanceCeiling (f : Nat) : Option Nat :=
  match f with
  | 0 => some 128000000
  | 1 => some 12000000
  | 3 => some 64000000
  | 4 => some 24000000
  | 5 => some 272000000
  | _ => none

/-- What a record draws on its furrow's ceiling, with the header of the segment it opens, in units of 1/f_BC byte. -/
def State.hubCost (s : State) (r : HubRec) : Nat :=
  let opens := match (s.fur r.furrow).cur with
    | some o => decide (4064 < o.used + r.bytes.length)
    | none => true
  (r.bytes.length + if opens then 32 else 0) * s.fBC

/-- A record fits under its furrow's ceiling: a bucket of one segment and one slot's worth. DESIGN CHOICE, log entry 127. -/
def State.hubRoom (s : State) (r : HubRec) : Bool :=
  match allowanceCeiling r.furrow with
  | some c => decide ((s.fur r.furrow).spent + s.hubCost r ≤ 4096 * s.fBC + c)
  | none => true

/-- A hub record enters the barrow in this cycle (R206). -/
def State.placeHubRec (s : State) (r : HubRec) : State :=
  let cost := s.hubCost r
  (s.furrow r.furrow fun u => { u with spent := u.spent + cost }).place
    ⟨r.furrow, hubClass r.furrow, s.trellis.orbit, s.trellis.slot, r.bytes, false, false⟩

/-- Hub records waiting are placed in order as far as the ceilings of R208 admit them; a record past its furrow's ceiling, and
those behind it, wait. DESIGN CHOICE, log entry 127. -/
def State.placeHubRecs (s : State) : State :=
  let q := s.hubQ
  let s := forAll [0, 1, 3, 4, 5] { s with hubQ := [] } fun s f =>
    s.furrow f fun u => { u with spent := u.spent - (allowanceCeiling f).getD 0 }
  let (s, held) := q.foldl (fun (x : State × List HubRec) r =>
    if x.2.any (fun h => h.furrow == r.furrow) || !x.1.hubRoom r then (x.1, x.2 ++ [r])
    else (x.1.placeHubRec r, x.2)) (s, [])
  { s with hubQ := held ++ s.hubQ }

/-- The hub records that the ceilings hold back enter at the end of a stream all the same, so that none is lost (R21, R219).
DESIGN CHOICE, log entry 127. -/
def State.placeHeld (s : State) : State := s.hubQ.foldl State.placeHubRec { s with hubQ := [] }

/-! ## Pointers at a start (R217) -/

/-- A furrow's pointers as a stream, or an enabling commit, starts: SEQ0 from an orbit and slot. -/
def State.startFurrow (s : State) (f orbit slot : Nat) : State :=
  let q := s.seq0 orbit slot
  let b := s.gi R.fwin_D_BASE_BASE f
  let z := s.gi R.fwin_D_BASE_SIZE f
  s.furrow f fun u =>
    let keep := if u.base = b ∧ u.size = z then u.segs.map (fun g =>
      { g with old := true, unacked := if g.old then g.unacked else seqLater u.ack g.seq }) else []
    { u with wr := q, rd := q, ack := seqAdd q (2 ^ 40 - 1), cur := none, segs := keep, shed := false, base := b
             size := z, shift := 0, bump := 0, top := q, drains := none, spent := 0 }.retail

/-! ## Acknowledgement (R212, R213) -/

/-- ACK_WINDOW in nanoseconds. -/
def State.ackWindowNs (s : State) : Nat := s.g R.bud_ACK_WIN_WINDOW * 1000

/-- An acknowledgement of SEQ `a` of a furrow (R212): it advances ACK_SEQ, or is counted stale or bad; the fast-sum furrow
takes none, nor do a standby's hub furrows (R417); one for a furrow that is not enabled is bad (R305). One that covers a segment whose last block left longer than ACK_WINDOW ago counts in ACK_LATE (R213). -/
def State.ackItem (s : State) (f a : Nat) : State :=
  let u := s.fur f
  if f = s.g R.fsum_CTRL_FURROW ∨ (s.standby ∧ hubFurrow f) then s
  else if !s.on R.fwin_D_CFG_ENABLE f then s.inc R.bud_ACK_ERR_BAD 0 1
  else if !seqLater u.ack a then s.inc R.bud_ACK_ERR_STALE 0 1
  else if !seqLater a u.rd then s.inc R.bud_ACK_ERR_BAD 0 1
  else
    let late := u.segs.any fun g =>
      seqLater u.ack g.seq && !seqLater a g.seq && g.sent && decide (g.sentNs + s.ackWindowNs < s.nowNs)
    ((s.inc R.fwin_F_STAT_ACK_LATE f (b2n late)).furrow f fun u =>
      { u with ack := a, ackLate := cap (2 ^ 32 - 1) (u.ackLate + b2n late) }).release f

/-- SEGMENT_AGE_CLOSE (R205): a segment that has been open for 64 × AGE collector cycles closes at the end of the last. -/
def State.ageClose (s : State) (f : Nat) : State :=
  match (s.fur f).cur with
  | some o =>
    if s.trellis.ran && decide (o.opened + 64 * s.gi R.fwin_D_CFG_AGE f ≤ s.trellis.tick + 1) then s.closeSeg f else s
  | none => s

/-- SEGMENT_AGE_CLOSE. -/
def execSegmentAgeClose (furrow : Nat) (s : State) : Host.Outcome State Fault Refusal := .next (s.ageClose furrow)

end Sys2Proof.Machine
end

