-- ==== Sys2Proof/Machine/Time.lean ====
section
/-! DEFINITION. Machine time: counters, lock, markers, loss and relock, clock domains, and the probe-echo loop
(R28 to R55, R392). -/
namespace Sys2Proof.Machine

/-- A TSTAT bit set or cleared. -/
def State.tstat (s : State) (f : Fld) (b : Bool) : State := s.p f (b2n b)

/-- The counters run: the orbit has locked, and no change of NSLOT or MARK_SLOT waits for its relock (R30, R31, R33).
DEDUCED, log entry 91. -/
def State.counting (s : State) : Bool := s.trellis.everLocked && s.trellis.renumber.isNone

/-- TSTAT.ORBIT_LOCK. -/
def State.locked (s : State) : Bool := s.on R.trellis_TSTAT_ORBIT_LOCK 0

/-- TSTAT.BC_LOCK. -/
def State.bcLock (s : State) : Bool := s.on R.trellis_TSTAT_BC_LOCK 0

/-- Block lock of a lane. -/
def State.blockLock (s : State) (l : Nat) : Bool := s.on R.lane_LANE_STAT_BLOCK_LOCK l

/-- The first slot of the quiet window in effect. -/
def State.qFirst (s : State) : Nat := s.trellis.qwFirst

/-- The current slot lies in this orbit's quiet window, which has started. -/
def State.inQuiet (s : State) : Bool :=
  s.trellis.inWindow && decide (s.trellis.slot < s.trellis.qwFirst + s.trellis.qwLen)

/-! ## Faults that release a graft token (R420) -/

/-- A release fault of the active hub: the token goes at once, or at the next orbit boundary, where it goes before a drill
that is pending (R420). -/
def State.releaseFault (s : State) (cause : Nat) (atOnce : Bool) : State :=
  if s.role ≠ 1 then s
  else if s.graft.releaseCause ≠ 0 ∧ s.graft.releaseCause ≠ 7 ∧ ¬ atOnce then s
  else { s with graft := { s.graft with
      releaseCause := cause
      releaseOrbit := some (if atOnce then s.trellis.orbit else s.trellis.orbit + 1) } }

/-! ## Rotation stops (R74) -/

/-- Where a bed's rotation stands changes. -/
def State.setPhase (s : State) (b : Nat) (ph : RotPhase) : State := s.bed b (fun x => { x with phase := ph })

/-- Rotation of a bed stops: comparisons and the resolution of R73 are cancelled, and the spare sits idle on the channel it
was next to take over (R74). -/
def State.stopRotation (s : State) (b : Nat) : State :=
  match (s.bedOf b).phase with
  | .out => s
  | _ => (s.setPhase b .stopped).pi R.bed_ROT_STAT_NEXT_CH (b * 64) (s.bedOf b).chan

/-! ## Loss and relock (R35, R36) -/

/-- Machine timing is lost (R35): flags, holdover, a log entry, rotation stops, an active hub's release fault. A further
loss while it is lost takes back a relock that waits for its boundary. -/
def State.loseTiming (s : State) : State :=
  if s.lost then s.tr fun t => { t with clearDue := false, restartDue := false }
  else
    let s := (s.tstat R.trellis_TSTAT_TIMING_LOST true).tstat R.trellis_TSTAT_HOLDOVER true
    let s := s.log R.trellis_TSTAT_TIMING_LOST 0x001 []
    let s := forAll (List.range 24) s State.stopRotation
    (s.tr fun t => { t with clearDue := false, restartDue := false }).releaseFault 5 false

/-- Relock in agreement: TIMING_LOST and HOLDOVER clear at the next orbit boundary, once clock and orbit are locked. -/
def State.relocked (s : State) : State :=
  if s.lost && s.locked && s.bcLock then s.tr fun t => { t with clearDue := true } else s

/-! ## Orbit-time records (R338) -/

/-- The 32 bytes of an ORBIT_TIME record of the current orbit (R338). -/
def State.orbitTimeBytes (s : State) (discont : Bool) : List Byte :=
  let w := s.wall
  let flags := s.g R.ptp_STAT_SYNC + 2 * s.g R.ptp_STAT_HOLDOVER + 4 * b2n w.stepped
    + 8 * s.g R.ptp_STAT_TIME_VALID + 16 * b2n discont + 32 * b2n s.lost
  le 6 s.trellis.orbit ++ le 6 w.sec ++ le 4 w.ns ++ le 2 (w.frac / 2 ^ 32) ++ le 1 flags ++ le 1 0
    ++ le 4 (s.g R.ptp_RATE_RATE) ++ le 4 (s.g R.ptp_OFFSET_OFFSET) ++ le 4 0

/-- The wall clock is latched at slot 0 of an orbit: a record every OT_CFG.EVERY orbits and after a restart, which one
record serves for both (R338). -/
def State.orbitTime (s : State) : State :=
  let s := { s with wall := { s.wall with every := s.g R.ptp_OT_CFG_EVERY } }
  if s.trellis.discont || s.trellis.orbit % s.wall.every == 0 then
    let s := if s.intake then
        { s with
          hubQ := s.hubQ ++ [⟨1, s.orbitTimeBytes s.trellis.discont⟩]
          wall := { s.wall with stepped := false } }
      else s
    s.tr fun t => { t with discont := false, timeDue := false }
  else s.tr fun t => { t with timeDue := false }

/-- The orbit-time record of an orbit whose slot 0 is now: with a load armed for this slot's marker it waits for the number
the marker brings, or for the slot's end (R30, R338). -/
def State.orbitTimeAt0 (s : State) : State :=
  if s.trellis.loadArmed && !s.embedded && !s.standby && s.g R.trellis_ORBIT_CFG_MARK_SLOT == 0 then
    s.tr fun t => { t with timeDue := true }
  else s.orbitTime

/-- A record that waits is written where the slot ends without a load. -/
def State.orbitTimeHeld (s : State) : State := if s.trellis.timeDue then s.orbitTime else s

/-- M in effect and whether a frame starts, for an orbit whose number becomes `o`: a frame starts where an orbit whose
number is a multiple of the committed M starts, that is in slot 0 (R41, R42). -/
def Trellis.frameAt (t : Trellis) (m o : Nat) : Trellis :=
  let starts := m != 0 && o % m == 0
  { t with mNow := if starts then m else t.mNow, frameDue := if t.slot = 0 then starts else t.frameDue }

/-- The counters take MARK_SLOT of orbit `o` at a marker, an orbit they were not in before: what an orbit boundary brings
is due, and its quiet window and M are the committed ones (R30, R36, R40 to R42). DEDUCED, log entry 120. -/
def State.enterOrbit (s : State) (o : Nat) : State :=
  let m := s.g R.trellis_MFRAME_MF_ORBITS
  (s.tr fun t =>
    { t with
      orbit := o, slot := s.g R.trellis_ORBIT_CFG_MARK_SLOT, inWindow := false
      qwFirst := s.g R.trellis_QUIET_QW_FIRST, qwLen := s.g R.trellis_QUIET_QW_LEN
      marked := true, missed := false, orbitBad := false, edgeDue := true
      h00Full := s.blockLock 32 : Trellis }.frameAt m o) |>.anchor

/-- The counters restart at the marker in disagreement with the flywheel (R36): open segments end, the numbering follows
the return channel or the flywheel, and an orbit-time record with DISCONT is due. A slot whose cycle has run keeps its
samples under its new name. -/
def State.restartTime (s : State) : State :=
  let ms := s.g R.trellis_ORBIT_CFG_MARK_SLOT
  let s := s.closeAll
  let o := if s.embedded then s.trellis.embOrbit.getD s.trellis.orbit
    else if s.trellis.loadTick = some s.trellis.tick ∨ s.trellis.slot < ms then s.trellis.orbit else s.trellis.orbit + 1
  let stays := if s.embedded then o == s.trellis.orbit else decide (s.trellis.slot < ms)
  let s := if stays then (s.tr fun t => { t with slot := ms, marked := true }).anchor else s.enterOrbit o
  let s := { s with hist := if s.trellis.ran then modAt s.hist 0 (fun h => { h with orbit := o, slot := ms }) else s.hist }
  let s := s.tr fun t => { t with discont := true, restartOrbit := some o }
  if ms = 0 then s.orbitTime else s

/-- The orbit number in ORBIT_LOAD. -/
def State.loadValue (s : State) : Nat :=
  s.g R.trellis_ORBIT_LOAD_LO_ORBIT_LO + 2 ^ 32 * s.g R.trellis_ORBIT_LOAD_HI_ORBIT_HI

/-- An armed load takes effect at a marker of the running counters, with the orbit-time record that waits for it; EMBEDDED
mode ignores it, and a standby takes its number from GRAFT_SYNC in its place (R30, R338, R414). DEDUCED, log entry 120. -/
def State.loadAtMarker (s : State) : State :=
  if s.trellis.loadArmed && s.counting && !s.embedded && !s.standby then
    let o := s.loadValue
    let m := s.g R.trellis_MFRAME_MF_ORBITS
    let s := (s.tr fun t =>
      ({ t with orbit := o, loadArmed := false, loadTick := some t.tick } : Trellis).frameAt m o).anchor
    s.orbitTimeHeld
  else s

/-- The flywheel's slot and orbit are those of the marker seen now (R36). DEDUCED, log entry 120. -/
def State.phaseNow (s : State) : Bool :=
  s.trellis.slot == s.g R.trellis_ORBIT_CFG_MARK_SLOT
    && (!s.embedded || s.trellis.embOrbit == none || s.trellis.embOrbit == some s.trellis.orbit)

/-! ## Markers (R29 to R31) -/

/-- A marker of the locked orbit: it confirms its slot, or is counted and otherwise ignored (R31). An orbit with a slip
counts as bad although another marker confirms it. DESIGN CHOICE, log entry 135. -/
def State.checkMarker (s : State) : State :=
  if s.trellis.slot = s.g R.trellis_ORBIT_CFG_MARK_SLOT then (s.tr fun t => { t with marked := true }).loadAtMarker
  else (s.inc R.trellis_ORBIT_SLIP_COUNT 0 1).tr fun t => { t with orbitBad := true }

/-- The marker by which a relocked clock's orbit phase is decided (R36). DEDUCED, log entry 120. -/
def State.relockMarker (s : State) : State :=
  let s := s.tr fun t => { t with restartDue := false }
  if s.phaseNow then s.checkMarker.relocked else s.loadAtMarker.restartTime.relocked

/-- An orbit marker is seen in the current slot (R30, R31, R36). -/
def State.marker (s : State) : State :=
  let t := s.trellis
  let run := match t.lastMark with
    | some m => if t.tick = m + s.nSlot then t.markRun + 1 else 1
    | none => 1
  let s := s.tr fun t => { t with lastMark := some t.tick, markRun := run }
  if !s.locked then s.loadAtMarker
  else if s.trellis.restartDue then s.relockMarker
  else s.checkMarker

/-- ORBIT_MARKER: a marker on ORBIT_P/N (PIN mode); in EMBEDDED mode markers come with return frames. -/
def State.orbitMarker (s : State) : State := if s.embedded then s else s.marker

/-- ORBIT_MARKER_MISS: the marker slot of a locked orbit has passed without its marker (R31). -/
def State.orbitMiss (s : State) : State :=
  let ms := s.g R.trellis_ORBIT_CFG_MARK_SLOT
  if s.locked && s.counting && decide (ms ≤ s.trellis.slot) && !s.trellis.marked && !s.trellis.missed then
    (s.inc R.trellis_ORBIT_MISS_COUNT 0 1).tr fun t => { t with missed := true, orbitBad := true }
  else s

/-- The counters begin at the marker: an armed load's number, the return channel's in EMBEDDED mode, or `d` (R30); a standby
takes no load (R414). -/
def State.numberFrom (s : State) (d : Nat) : State :=
  let o := if s.embedded then s.trellis.embOrbit.getD d else if s.trellis.loadArmed && !s.standby then s.loadValue else d
  let s := (s.enterOrbit o).tr fun t => { t with loadArmed := if s.embedded || s.standby then t.loadArmed else false }
  if s.g R.trellis_ORBIT_CFG_MARK_SLOT = 0 then s.orbitTime else s

/-- The anti-alias filters are tuned from CD03, to k × f_BC (R59). While BC_NOMINAL is 0 the f_BC at which CD03 runs is a
free value. DESIGN CHOICE, log entry 136. -/
def State.tuneNow (s : State) : State :=
  let u := s.tr fun t => { t with filter := some (s.k, if s.fBC = 0 then s.freeNow else s.fBC) }
  if s.fBC = 0 then u.drew else u

/-- The anti-alias filters are tuned when machine time first locks, clock and orbit (R59). -/
def State.firstTune (s : State) : State :=
  if s.trellis.filter.isNone && s.locked && s.bcLock then s.tuneNow else s

/-- The orbit locks at the marker seen now: the first lock, a renumbering, or a relock (R30, R31, R36). In disagreement too
TIMING_LOST and HOLDOVER clear at the next orbit boundary. DESIGN CHOICE, log entry 135. -/
def State.lockOrbit (s : State) : State :=
  let s := (s.tstat R.trellis_TSTAT_ORBIT_LOCK true).tr fun t =>
    { t with badRun := 0, missed := false, orbitBad := false, marked := true, restartDue := false }
  let s := { s with graft := { s.graft with orbitLoaded := false } }
  if !s.trellis.everLocked then
    (s.tr fun t => { t with mNow := s.g R.trellis_MFRAME_MF_ORBITS, everLocked := true, lockTick := some t.tick }).numberFrom 0 |>.relocked
  else match s.trellis.renumber with
    | some last => ((s.tr fun t => { t with renumber := none }).numberFrom (last + 1)).relocked
    | none => if s.phaseNow then s.relocked else s.restartTime.relocked

/-- ORBIT_LOCK_ACQUIRE: the fourth consecutive marker spaced N_slot locks the orbit in its slot (R30, R31, R36). -/
def State.orbitLockAcquire (s : State) : State :=
  let t := s.trellis
  if s.locked || decide (t.markRun < 4) || t.lastMark != some t.tick then s else s.lockOrbit.firstTune

/-- ORBIT_LOCK_LOSS: after four consecutive bad orbits ORBIT_LOCK clears and machine timing is lost (R31, R35). Markers
seen before count towards the four of the relock. DESIGN CHOICE, log entry 135. -/
def State.orbitLockLoss (s : State) : State :=
  if s.locked && decide (4 ≤ s.trellis.badRun) then
    ((s.tstat R.trellis_TSTAT_ORBIT_LOCK false).tr fun t => { t with badRun := 0 }).loseTiming
  else s

/-! ## Clock domains (R43, R392) -/

/-- The power domain that feeds a clock domain (R43). -/
def cdDomain (n : Nat) : Nat :=
  if n = 0 then 0
  else if n = 3 then 4
  else if 4 ≤ n ∧ n ≤ 15 then 4 + (n - 4) / 2
  else if 16 ≤ n ∧ n ≤ 47 then 12 + (n - 16) / 16
  else if n = 48 then 12
  else if n = 50 ∨ n = 51 then 14
  else if n = 52 then 18
  else if 53 ≤ n ∧ n ≤ 60 then 18 + (n - 53) / 2
  else if n = 61 then 10
  else if n = 62 then 2
  else 1

/-- Power reaches a clock domain: CD48 lies in PD12 and PD13 (R43). -/
def State.cdPower (s : State) (n : Nat) : Bool := if n = 48 then s.pd 12 || s.pd 13 else s.pd (cdDomain n)

/-- A clock domain has power and has not been reported stopped. -/
def State.cdUp (s : State) (n : Nat) : Bool := s.cdPower n && !s.trellis.stopped.contains n

/-- The recovered clock CD50 or CD51 of the return channel. -/
def State.returnClock (s : State) (n : Nat) : Bool := s.blockLock (n - 18) && s.cdUp n

/-- A clock domain runs and, where derived from a PLL or a recovered clock, is locked, with every domain it is derived from
(R43, R392). DESIGN CHOICE, log entry 100. -/
def State.cdRuns (s : State) (n : Nat) : Bool :=
  let bunch := (if s.embedded then s.returnClock 50 || s.returnClock 51 else s.trellis.bclk) && s.cdUp 2
  let master := s.bcLock && s.cdUp 3
  let href := s.on R.clocks_REF_STAT_HREF 0 && s.cdUp 49
  let src :=
    if n ≤ 1 then true
    else if n = 2 ∨ n = 48 then bunch
    else if n ≤ 15 then master
    else if n ≤ 47 then s.blockLock (n - 16)
    else if n = 50 ∨ n = 51 then s.returnClock n
    else if 53 ≤ n ∧ n ≤ 60 then href && s.cdUp 52
    else href
  src && s.cdUp n

/-- A clock domain stops or loses lock: LOSS and the page interrupt; a domain whose power domain is off is not counted. -/
def State.cdLost (s : State) (n : Nat) : State :=
  if !s.cdPower n then s
  else
    let s := if n < 32 then s.pbit R.clocks_LOSS_LO_CD 0 n true else s.pbit R.clocks_LOSS_HI_CD 0 (n - 32) true
    s.event 0x002

/-- The domain named and whatever else ran in `old` and no longer runs show as lost (R43, R392). -/
def State.lostSince (s old : State) : State :=
  forAll ((List.range 64).filter fun n => old.cdRuns n && !s.cdRuns n) s State.cdLost

/-- The PLL holds its last control word: BC_LOCK clears, and CD03 with the domains derived from it lose lock (R35, R392). -/
def State.pllHold (s : State) : State := (s.tstat R.trellis_TSTAT_BC_LOCK false).lostSince s

/-- BCLK_FAULT: in PIN mode BCLK stops, or departs by more than 500 ppm from BC_NOMINAL as checked against CD49. -/
def State.bclkFault (s : State) (stopped : Bool) (hz : Nat) : State :=
  if s.embedded then s
  else
    let nom := s.fBC
    let off := nom ≠ 0 ∧ s.on R.clocks_REF_STAT_HREF 0 ∧ (if hz < nom then nom - hz else hz - nom) * 1000000 > 500 * nom
    if stopped then (((s.tr fun t => { t with bclk := false }).pllHold.cdLost 2).lostSince s).loseTiming
    else if off then s.pllHold.loseTiming
    else s

/-- BC_PLL_LOCK: the PLL locks to the bunch clock (R45); with the orbit locked, the next marker shows the relocked phase, and
timing relocks there (R36). DEDUCED, log entry 120. -/
def State.bcPllLock (s : State) : State :=
  let clock := !s.embedded || s.blockLock 32 || s.blockLock 33
  if s.bcLock || !clock then s
  else
    let s := (s.tr fun t => { t with bclk := true, stopped := t.stopped.filter (fun n => 15 < n && n != 48 || n < 2) }).tstat
      R.trellis_TSTAT_BC_LOCK true
    s.firstTune.tr fun t => { t with restartDue := s.lost && s.locked }

/-- CLOCK_DOMAIN_LOSS: a domain that runs stops or loses lock, and with it those derived from it (R43, R392); CD02 in PIN
mode is the bunch clock (R35). -/
def State.clockDomainLoss (s : State) (n : Nat) : State :=
  if !decide (n < 64) || !s.cdRuns n then s
  else if n = 2 ∧ !s.embedded then s.bclkFault true 0
  else
    let t := (s.cdLost n).tr fun t => { t with stopped := n :: t.stopped }
    let t := if n = 2 ∨ n = 3 then t.pllHold
      else if n = 0 then t.p R.clocks_REF_STAT_XTAL32 0
      else if n = 49 then ((t.p R.clocks_REF_STAT_HREF 0).p R.clocks_REF_STAT_ON_CD01 1).anchor
      else t
    t.lostSince s

/-- CD49 or CD62 becomes present: the management blocks move off CD01 (R43). -/
def State.referencePresent (s : State) (cd : Nat) : State :=
  if cd = 49 then
    ((s.p R.clocks_REF_STAT_HREF 1).p R.clocks_REF_STAT_ON_CD01 0).anchor.tr fun t =>
      { t with stopped := t.stopped.filter (fun n => !(n == 49 || 52 ≤ n)) }
  else if cd = 62 then s.tr fun t => { t with stopped := t.stopped.erase 62 }
  else s

/-! ## The bunch-clock source (R34) -/

/-- H00 loses block lock in EMBEDDED mode: the source moves to H01 where that keeps lock, else timing is lost (R34, R35);
H01 loses lock while it is the source, likewise. -/
def State.sourceLockLost (s : State) (lane : Nat) : State :=
  if !s.embedded then s
  else if lane = 32 then
    let s := s.tr fun t => { t with h00Orbits := 0, h00Full := false }
    if s.blockLock 33 then s.tstat R.trellis_TSTAT_SRC_H01 true
    else s.pllHold.loseTiming
  else if lane = 33 then
    if s.blockLock 32 then s.tstat R.trellis_TSTAT_SRC_H01 false else s.pllHold.loseTiming
  else s

/-- H00 or H01 regains block lock in EMBEDDED mode: where the other has none, it is the bunch-clock source (R34, R36). -/
def State.sourceLockGained (s : State) (lane : Nat) : State :=
  if !s.embedded then s
  else if lane = 33 && !s.blockLock 32 then s.tstat R.trellis_TSTAT_SRC_H01 true
  else if lane = 32 && !s.blockLock 33 then s.tstat R.trellis_TSTAT_SRC_H01 false
  else s

/-- SRC_RETURN_H00: at a quiet window, after H00 has held block lock for 1,024 orbits (R34). -/
def State.srcReturn (s : State) : State :=
  if s.on R.trellis_TSTAT_SRC_H01 0 && s.blockLock 32 && decide (1024 ≤ s.trellis.h00Orbits) && s.inQuiet then
    s.tstat R.trellis_TSTAT_SRC_H01 false
  else s

/-! ## The orbit boundary of the trellis (R28, R36, R40, R42) -/

/-- The last slot passes and the counters wrap to the next orbit: what the trellis itself does there. A frame starts at a
multiple of the committed M: a frame in progress at the commit of another M ends there, and at no multiple of the old M
before (R42, DEDUCED, log entry 65). -/
def State.trellisBoundary (s : State) : State :=
  let s := s.slotPasses
  let s := s.tr fun t =>
    { t with
      slot := 0, orbit := t.orbit + 1, ran := false, inWindow := false
      qwFirst := s.g R.trellis_QUIET_QW_FIRST, qwLen := s.g R.trellis_QUIET_QW_LEN
      badRun := if t.orbitBad then t.badRun + 1 else 0
      marked := false, missed := false, orbitBad := false
      h00Orbits := if !s.blockLock 32 then 0 else if t.h00Full then t.h00Orbits + 1 else t.h00Orbits
      h00Full := s.blockLock 32 : Trellis }.frameAt (s.g R.trellis_MFRAME_MF_ORBITS) (t.orbit + 1)
  let s := s.anchor
  if s.trellis.clearDue then
    ((s.tstat R.trellis_TSTAT_TIMING_LOST false).tstat R.trellis_TSTAT_HOLDOVER false).tr
      fun t => { t with clearDue := false }
  else s

/-- Records of now carry the quality flag for machine time (R35, R36). -/
def State.timeQual (s : State) (orbit : Nat) : Bool := s.lost || s.trellis.restartOrbit == some orbit

/-- A commit changed NSLOT or MARK_SLOT (R33): the orbit unlocks, the counters wait for the relock. -/
def State.structureChange (s : State) : State :=
  let s := s.tstat R.trellis_TSTAT_ORBIT_LOCK false
  let s := s.tr fun t =>
    { t with renumber := if t.everLocked then some (t.renumber.getD t.orbit) else none, markRun := 0, lastMark := none
             badRun := 0 }
  if s.embedded then
    (s.tstat R.trellis_TSTAT_ALIGN_VALID false).tr fun t => { t with probe := { t.probe with calib := some [], calibApply := none } }
  else s

/-- A commit changed KSEL (R33): the PLL relocks, and every powered bed is due for start calibration (R68). -/
def State.kselChange (s : State) : State :=
  forAll (List.range 24) s.pllHold fun s b =>
    if s.pd (4 + b / 4) then s.bed b (fun x => { x with uncal := true }) else s

/-! ## The probe-echo loop (R46 to R52) -/

/-- Probe part updated. -/
def State.probe (s : State) (f : Probe → Probe) : State := s.tr fun t => { t with probe := f t.probe }

/-- Orbits in a probe interval: the smallest whole multiple of M that lasts at least 1 ms (R47).
DEDUCED, log entry 65. With BC_NOMINAL 0 no f_BC is stated: the interval is then M orbits. DESIGN CHOICE, log entry 121. -/
def State.probeInterval (s : State) : Nat :=
  let m := max 1 (s.g R.trellis_MFRAME_MF_ORBITS)
  m * max 1 (ceilDiv s.fBC (1000 * m * max 1 s.nSlot))

/-- The delay of R50 in rotator steps (samples × 4,096 + steps), ties towards +∞ (log entry 14), from an estimate of
d_down in 1/(2^33 × 10^9) slot as a sum over a count. DEDUCED, log entry 14. -/
def State.delaySteps (s : State) (sum : Int) (n : Nat) : Int :=
  let unit : Nat := 2 ^ 33 * 1000000000
  let d : Int := (s.g R.trellis_ALIGN_TARGET_D_TARGET : Int) - (Config.lInt.toNat : Int)
  roundDiv (((s.k * 4096 : Nat) : Int) * (d * ((unit / 65536 * n : Nat) : Int) - sum)) (unit * max 1 n)

/-- A delay inside the range of R46. -/
def delayInRange (d : Int) : Bool := 0 ≤ d && d < (2 ^ 32 : Nat)

/-- DDOWN published for an estimate; its rounding to 1/65,536 slot is not stated. -/
def State.publishDdown (s : State) (sum : Int) (n : Nat) : State :=
  s.p R.trellis_DDOWN_D_DOWN ((freeQuot sum (2 ^ 17 * 1000000000 * max 1 n) % (2 ^ 28 : Nat)).toNat)

/-- The target the loop moves towards, published in ALIGN_APPLIED (R50). DEDUCED, log entry 94. -/
def State.setTarget (s : State) (steps : Nat) : State :=
  ((s.probe fun p => { p with target := steps }).p R.trellis_ALIGN_APPLIED_STEPS (steps % 4096)).p
    R.trellis_ALIGN_APPLIED_SAMPLES (steps / 4096)

/-- A report used: the estimate is the mean of the last eight; the target follows unless the delay is held (R50, R51). A
delay outside the range of R46 leaves the target as it was. DESIGN CHOICE, log entry 121. -/
def State.useReport (s : State) (d : Int) : State :=
  let downs := (d :: s.trellis.probe.downs).take 8
  let sum := sumInt downs
  let s := (s.probe fun p => { p with downs := downs, estSum := sum, estN := downs.length }).publishDdown sum downs.length
  let t := s.delaySteps sum downs.length
  if s.on R.trellis_TSTAT_ALIGN_LOST 0 || !delayInRange t then s else s.setTarget t.toNat

/-- An echo report arrives (R48, R50, R51): accepted, used, collected, or an outlier. With BC_NOMINAL 0 no f_BC is stated:
PROBE_ASYM and the 250 ps then count as 0 slots. A report with VALID clear is not accepted. DESIGN CHOICE, log entry 121. -/
def State.echoReport (s : State) (hub seq flags orbit slot frac : Nat) : State :=
  let p := s.trellis.probe
  let id := s.g R.global_HUB_ID_ID
  if id = 0 ∨ hub ≠ id ∨ ¬ p.waiting ∨ seq ≠ p.seq ∨ ¬ bitAt flags 0 then s
  else
    let slots : Int := ((orbit * s.nSlot + slot : Nat) : Int) - ((p.orbit * s.nSlot + p.slot : Nat) : Int)
    let rtt32 : Int := slots * (2 ^ 32 : Nat) + (frac : Int) - (p.frac : Int)
    let a := sext 32 (s.g R.trellis_PROBE_ASYM_A)
    let d : Int := rtt32 * 1000000000 - a * ((s.fBC * 65536 : Nat) : Int)
    let s := s.tstat R.trellis_TSTAT_ALIGN_HOLD false
    match p.calib with
    | some l =>
      s.probe fun p => { p with waiting := false, missRun := 0, calib := some (if l.length < 16 then d :: l else l) }
    | none =>
      let dev : Int := d * (p.estN : Int) - p.estSum
      if p.estN ≠ 0 ∧ 4 * dev.natAbs > p.estN * s.fBC * 2 ^ 33 then
        (s.inc R.trellis_PROBE_CNT_OUTLIER 0 1).probe fun p =>
          { p with waiting := false, missRun := 0, outlierRun := p.outlierRun + 1 }
      else (s.probe fun p => { p with waiting := false, missRun := 0, outlierRun := 0 }).useReport d

/-- The payload of a probe (R47). -/
def State.probeBytes (s : State) (seq slot frac : Nat) : List Byte :=
  le 2 (s.g R.global_HUB_ID_ID) ++ le 1 seq ++ le 1 (s.g R.trellis_TSTAT_SRC_H01) ++ le 6 s.trellis.orbit
    ++ le 2 (slot % 2 ^ 14) ++ le 4 frac

/-- PROBE_LAUNCH: once per probe interval, at slot 0 of its first orbit before the fast-sum segment of that slot, a probe leaves on
H00 (R47, R295), in the shallow state too on a standby (R416); one without an accepted report is counted as missed (R50).
HUB_ID 0 launches none (R391). PROBE_SEQ of the first is 1. DESIGN CHOICE, log entry 121. -/
def State.probeLaunch (s : State) (slot frac : Nat) : State :=
  let p := s.trellis.probe
  if !s.embedded || s.g R.global_HUB_ID_ID == 0 || !s.counting || s.trellis.orbit % s.probeInterval != 0
      || s.trellis.slot != 0 || s.trellis.ran || !((s.laneOf 32).tx == 0 || s.standby && (s.laneOf 32).tx == 1) then s
  else if p.lastOrbit = some s.trellis.orbit then s
  else
    let s := if p.waiting then
        (s.inc R.trellis_PROBE_CNT_MISS 0 1).probe fun p => { p with missRun := p.missRun + 1 }
      else s
    let seq := (p.seq + 1) % 256
    let s := s.probe fun p => { p with seq := seq, waiting := true, lastOrbit := some s.trellis.orbit
                                       orbit := s.trellis.orbit, slot := slot % 2 ^ 14
                                       frac := frac % 2 ^ 32 }
    s.sendPriority 0 0x11 (s.probeBytes seq (slot % 2 ^ 14) (frac % 2 ^ 32))

/-- ALIGN_LOST: four consecutive outliers (R51). -/
def State.alignLost (s : State) : State :=
  if 4 ≤ s.trellis.probe.outlierRun then s.tstat R.trellis_TSTAT_ALIGN_LOST true else s

/-- ALIGN_HOLD: 16 consecutive probes without an accepted report (R51). -/
def State.alignHold (s : State) : State :=
  if 16 ≤ s.trellis.probe.missRun then s.tstat R.trellis_TSTAT_ALIGN_HOLD true else s

/-- The rotator moves in a quiet window: in EMBEDDED mode by up to 16 steps towards the target (R46), held under R51; in
PIN mode by the whole of PIN_OFFSET (R54). DEDUCED, log entry 94. -/
def State.rotatorStep (s : State) : State :=
  if !s.embedded then s.probe fun p => { p with pin := sext 16 (s.g R.trellis_PIN_OFFSET_OFFSET) }
  else if s.on R.trellis_TSTAT_ALIGN_LOST 0 || s.on R.trellis_TSTAT_ALIGN_HOLD 0 then s
  else s.probe fun p =>
    { p with applied := if p.applied < p.target then min p.target (p.applied + 16) else max p.target (p.applied - 16) }

/-- A calibrated delay applies at the quiet window: in full while not streaming, in steps of R46 while streaming; then
ALIGN_VALID sets, ALIGN_LOST clears and the command completes (R52). -/
def State.calibrateApply (s : State) : State :=
  let p := s.trellis.probe
  match p.calibApply with
  | none => s
  | some t =>
    let s := s.probe fun p => { p with calibApply := none, calibHdr := none, applied := if s.streaming then p.applied else t }
    let s := (s.tstat R.trellis_TSTAT_ALIGN_VALID true).tstat R.trellis_TSTAT_ALIGN_LOST false
    s.complete p.calibHdr 0x0041 stOk (le 4 t)

/-- PHASE_CALIBRATE starts collecting 16 accepted reports (R52); BUSY while the delay of one before it waits for its window. In PIN mode, where no probe leaves, it waits for the mode
to change. DESIGN CHOICE, log entry 121. -/
def State.phaseCalibrate (s : State) (h : Hdr) : State × Reply :=
  if s.zcs.long.isSome ∨ s.trellis.probe.calibApply.isSome then (s, .bad stBusy)
  else
    let s := s.probe fun p => { p with calib := some [], calibHdr := some h }
    ({ s with zcs := { s.zcs with long := some (h, 0x0041) } }, .long)

/-- The answer to the PHASE_CALIBRATE command, if one runs. -/
def State.calibrateAnswer (s : State) (status : Nat) (payload : List Byte) : State :=
  s.endLong 0x0041 status payload

/-- PHASE_CALIBRATE_DONE: the sixteenth report is in; the new delay is checked and applied at the next quiet window (R52). -/
def State.phaseCalibrateDone (s : State) : State :=
  match s.trellis.probe.calib with
  | none => s
  | some l =>
    if l.length < 16 then s
    else
      let t := s.delaySteps (sumInt l) l.length
      let stop := s.probe fun p => { p with calib := none, calibHdr := none }
      if !delayInRange t then stop.calibrateAnswer stBadParam []
      else if s.streaming && decide (4096 ≤ (t - (s.trellis.probe.applied : Int)).natAbs) then
        stop.calibrateAnswer stDenied []
      else
        let s := s.probe fun p => { p with calib := none, calibApply := some t.toNat, downs := l.take 8, estSum := sumInt l
                                           estN := l.length, outlierRun := 0 }
        let s := (s.publishDdown (sumInt l) l.length).setTarget t.toNat
        s.calibrateAnswer stPending (le 4 t.toNat)

/-! ## Meanings -/

/-- ORBIT_LOAD_ARM: a write of ORBIT_LOAD_HI; LOAD arms a load at the next marker, which EMBEDDED mode ignores (R30). -/
def State.orbitLoadArm (s : State) (w : Word) : State :=
  let lo := aget (s.g R.trellis_ORBIT_LOAD_LO_ORBIT_LO) s.held 0x001050
  let s := ((s.p R.trellis_ORBIT_LOAD_LO_ORBIT_LO lo).p R.trellis_ORBIT_LOAD_HI_ORBIT_HI (bitsAt w.toNat 0 16))
  let s := { s with held := s.held.filter (fun x => x.1 != 0x001050) }
  if bitAt w.toNat 31 && !s.embedded then s.tr fun t => { t with loadArmed := true } else s

/-- ORBIT_LOAD_ARM. -/
def execOrbitLoadArm (w : Word) (s : State) : Host.Outcome State Fault Refusal := .next (s.orbitLoadArm w)

/-- ORBIT_MARKER. -/
def execOrbitMarker (s : State) : Host.Outcome State Fault Refusal := .next s.orbitMarker

/-- ORBIT_MARKER_MISS. -/
def execOrbitMarkerMiss (s : State) : Host.Outcome State Fault Refusal := .next s.orbitMiss

/-- ORBIT_LOCK_ACQUIRE. -/
def execOrbitLockAcquire (s : State) : Host.Outcome State Fault Refusal := .next s.orbitLockAcquire

/-- ORBIT_LOCK_LOSS. -/
def execOrbitLockLoss (s : State) : Host.Outcome State Fault Refusal := .next s.orbitLockLoss

/-- BCLK_FAULT. -/
def execBclkFault (stopped : Bool) (hz : Nat) (s : State) : Host.Outcome State Fault Refusal :=
  .next (s.bclkFault stopped hz)

/-- BC_PLL_LOCK. -/
def execBcPllLock (s : State) : Host.Outcome State Fault Refusal := .next s.bcPllLock

/-- SRC_RETURN_H00. -/
def execSrcReturnH00 (s : State) : Host.Outcome State Fault Refusal := .next s.srcReturn

/-- PROBE_LAUNCH. -/
def execProbeLaunch (slot frac : Nat) (s : State) : Host.Outcome State Fault Refusal := .next (s.probeLaunch slot frac)

/-- ALIGN_LOST. -/
def execAlignLost (s : State) : Host.Outcome State Fault Refusal := .next s.alignLost

/-- ALIGN_HOLD. -/
def execAlignHold (s : State) : Host.Outcome State Fault Refusal := .next s.alignHold

/-- PHASE_CALIBRATE. -/
def execPhaseCalibrate (h : Hdr) (s : State) : Host.Outcome State Fault Refusal :=
  .next (s.zcsRun (.phaseCalibrate h) h 0x0041 true (fun s => s.phaseCalibrate h))

/-- PHASE_CALIBRATE_DONE. -/
def execPhaseCalibrateDone (s : State) : Host.Outcome State Fault Refusal := .next s.phaseCalibrateDone

end Sys2Proof.Machine
end

