-- ==== Sys2Proof/Machine/Beds.lean ====
section
/-! DEFINITION. The direct inputs: raw samples, clamps and terminations, the rotation of the slices, line checks
(R57 to R79). -/
namespace Sys2Proof.Machine

/-- The register page of a bed. -/
def bedPage (b : Nat) : Nat := 0x10 + b

/-- The instance of a channel's AFE_CFG. -/
def afeIdx (ch : Nat) : Nat := ch / 32 * 64 + ch % 32

/-- A bed's power domain is on. -/
def State.bedOn (s : State) (b : Nat) : Bool := s.pd (4 + b / 4)

/-- GRAFT_ARM is in effect: direct inputs at high impedance, no line checks (R77). -/
def State.armed (s : State) : Bool := s.on R.graft_CFG_ARMED 0

/-- A channel is in 100 Ω mode (R57, R77). -/
def State.terminated (s : State) (ch : Nat) : Bool := s.gi R.bed_AFE_CFG_TERM (afeIdx ch) == 0 && !s.armed

/-! ## Samples (R60, R64, R65) -/

/-- Full scale of a GAIN in µV: the differential input at code +8,191.5 (R58). -/
def fullScale (gain : Nat) : Nat := 1000000 / 2 ^ gain

/-- The over-range threshold of a GAIN in µV, 1.02 of full scale (R58, R64). Its tolerance of ±0.5% is left out.
DESIGN CHOICE, log entry 122. -/
def overRange (gain : Nat) : Nat := 1020000 / 2 ^ gain

/-- The code and OR bit of a conversion at a GAIN (R58, R64). DESIGN CHOICE, log entry 122. -/
def Conv.samp (gain : Nat) (c : Conv) : Samp :=
  let v := c.uV
  if (fullScale gain : Int) ≤ v then ⟨8191, decide ((overRange gain : Int) ≤ v), c.clamp⟩
  else if v ≤ -(fullScale gain : Int) then ⟨-8192, decide (v ≤ -(overRange gain : Int)), c.clamp⟩
  else ⟨sext 14 c.code.toNat, false, c.clamp⟩

/-- A sample that converts 0. -/
def Samp.zero : Samp := ⟨0, false, false⟩

/-- The k samples of a channel's slot; a conversion not listed converts 0. -/
def State.chSamples (s : State) (c : ChIn) : List Samp :=
  (c.convs.map (Conv.samp (s.gi R.bed_AFE_CFG_GAIN (afeIdx c.ch))) ++ List.replicate s.k Samp.zero).take s.k

/-- The channels whose samples of the current slot carry the quality flag for themselves: a disconnected input or
termination, a line check, a bed whose domain is off (R61, R76, R79, R460). A termination that is open when TERM changes to high impedance, or when
GRAFT_ARM takes effect, counts as open until it reconnects. DESIGN CHOICE, log entry 122. -/
def State.qualChannels (s : State) : List Nat :=
  (List.range 24).flatMap fun b =>
    let x := s.bedOf b
    (List.range 32).filterMap fun i =>
      let line := match x.lineMark with
        | some (c, upTo) => c == i && decide (upTo < s.trellis.tick + 15) && decide (s.trellis.tick ≤ upTo)
        | none => false
      if !s.bedOn b || bitAt x.opened i || !s.on R.bed_AFE_CFG_ENABLE (b * 64 + i) || line then some (b * 32 + i) else none

/-- The beds all of whose samples carry it: start calibration, an uncovered trim reload (R68, R447). -/
def State.qualBedMask (s : State) : Nat :=
  natOfBits ((List.range 24).map fun b =>
    let x := s.bedOf b
    x.uncal || (match x.disturbed with
      | some (lo, hi) => decide (lo ≤ s.trellis.tick) && decide (s.trellis.tick ≤ hi)
      | none => false))

/-- The channels withheld from the follower: settling after TERM or GAIN, a line check, an uncovered reload (R63, R76,
R447). -/
def State.withheldChannels (s : State) : List Nat :=
  (List.range 24).flatMap fun b =>
    let x := s.bedOf b
    let dist := match x.disturbed with
      | some (lo, hi) => decide (lo ≤ s.trellis.tick) && decide (s.trellis.tick ≤ hi)
      | none => false
    (List.range 32).filterMap fun i =>
      let line := match x.lineMark with
        | some (c, upTo) => c == i && decide (upTo < s.trellis.tick + 15) && decide (s.trellis.tick ≤ upTo)
        | none => false
      let settle := x.settling.any fun p => p.1 == i && decide (s.trellis.tick < p.2)
      if dist || line || settle then some (b * 32 + i) else none

/-- Sticky bits a channel's samples set (R60, R65). -/
def State.stickySamples (s : State) (ch : Nat) (l : List Samp) : State :=
  let b := ch / 32
  let s := if l.any (·.clamp) then s.pbit R.bed_CLAMP_CH (b * 64) (ch % 32) true else s
  if l.any (·.ovr) then s.pbit R.bed_OR_STICKY_CH (b * 64) (ch % 32) true else s

/-- The slots of history kept. -/
def histLen : Nat := 160

/-- The samples of the current slot enter the history. DEDUCED, log entry 13. -/
def State.takeSamples (s : State) (c : CycleIn) : State :=
  let live := c.samples.filter fun x => decide (x.ch < 768) && s.bedOn (x.ch / 32)
  let l := live.map fun x => (x.ch, s.chSamples x)
  let h : SlotHist := ⟨s.trellis.tick, s.trellis.orbit, s.trellis.slot, l, s.qualChannels, s.qualBedMask,
    s.timeQual s.trellis.orbit, s.withheldChannels, s.streaming, s.wallUnits / 2 ^ 48⟩
  let s := l.foldl (fun s p => s.stickySamples p.1 p.2) s
  { s with hist := (h :: s.hist).take histLen, trellis := { s.trellis with phase := s.k - 1 } }

/-! ## Clamps and terminations (R60, R61, R63) -/

/-- CLAMP_CONDUCT: the channel's CLAMP bit sets (R60). -/
def State.clampConduct (s : State) (ch : Nat) : State :=
  if ch < 768 ∧ s.bedOn (ch / 32) then s.pbit R.bed_CLAMP_CH (ch / 32 * 64) (ch % 32) true else s

/-- TERM_DISCONNECT: in 100 Ω mode an overvoltage disconnects the termination (R61). -/
def State.termDisconnect (s : State) (ch : Nat) : State :=
  if ch < 768 ∧ s.bedOn (ch / 32) ∧ s.terminated ch then
    (s.bed (ch / 32) fun x => { x with opened := setBit x.opened (ch % 32) }).pbit R.bed_TERM_OPEN_CH (ch / 32 * 64)
      (ch % 32) true
  else s

/-- TERM_RECONNECT: at an orbit boundary the termination reconnects (R61). -/
def State.termReconnect (s : State) (ch : Nat) : State :=
  if ch < 768 ∧ s.trellis.slot = 0 then s.bed (ch / 32) fun x => { x with opened := clrBit x.opened (ch % 32) } else s

/-- Values to be staged without the writes of AFE_CFG that select 100 Ω on a hub in a graft pair: each is ignored whole and
counted (R77). -/
def State.keepHighZ (s : State) (l : List Staged) : State × List Staged :=
  if !s.armed then (s, l)
  else
    let bad := l.filter fun w => w.fld == R.bed_AFE_CFG_TERM && w.val == 0
    (bad.foldl (fun s w => s.errAt w.page 2 0x044 (w.idx % 64)) s,
     l.filter fun w => !([R.bed_AFE_CFG_TERM, R.bed_AFE_CFG_GAIN, R.bed_AFE_CFG_ENABLE].contains w.fld
       && bad.any fun v => v.idx == w.idx))

/-! ## The anti-alias filter (R59) -/

/-- The −3 dB corner in Hz of filters tuned for k and f_BC, 0.42 of the sample rate (R59). Its tolerance of ±5% is left out.
DESIGN CHOICE, log entry 122. -/
def filterCorner (t : Nat × Nat) : Nat := 42 * t.1 * t.2 / 100

/-- In a quiet window with CD03 locked the filters are tuned to the k and f_BC then in effect, which is a re-tuning where
either has changed or where tending calls for one (R59). -/
def State.tuneFilter (s : State) : State :=
  if s.trellis.filter.isSome && s.bcLock then s.tuneNow else s

/-- A committed change of TERM or GAIN of a channel settles within 20 sample periods, whose slots are withheld (R63). -/
def State.settleChannel (s : State) (ch : Nat) : State :=
  s.bed (ch / 32) fun x =>
    { x with settling := (x.settling.filter (fun p => decide (s.trellis.tick < p.2) && p.1 != ch % 32))
        ++ [(ch % 32, s.trellis.tick + ceilDiv 20 s.k)] }

/-! ## Start calibration (R68) -/

/-- The results of a calibration of one slice published. -/
def State.setCal (s : State) (b slice : Nat) (c : CalIn) : State :=
  ((s.pi R.bed_SLICE_OFFSET_OFFSET (b * 64 + slice) c.offset.toNat).pi R.bed_SLICE_GAIN_GAIN (b * 64 + slice)
    c.gain.toNat).pi R.bed_SLICE_SKEW_SKEW (b * 64 + slice) c.skew.toNat

/-- BED_POWER_UP_CAL: a started bed calibrates its 33 slices with the inputs off. -/
def State.bedPowerUpCal (s : State) (b : Nat) : State :=
  if b < 24 ∧ s.bedOn b ∧ (s.bedOf b).uncal then s.bed b fun x => { x with calRun := true } else s

/-- BED_CAL_DONE: the calibration completes and the working slices connect. -/
def State.bedCalDone (s : State) (b : Nat) (cals : List CalIn) : State :=
  if (s.bedOf b).calRun then
    let s := forAll (List.range (min 33 cals.length)) s fun s i => s.setCal b i (cals.getD i ⟨0, 0x4000, 32⟩)
    s.bed b fun x => { x with uncal := false, calRun := false }
  else s

/-! ## Rotation (R69 to R74) -/

/-- The slice that serves a channel. -/
def State.sliceOf (s : State) (b ch : Nat) : Option Nat :=
  (List.range 33).find? fun i => s.gi R.bed_SLICE_MAP_CH (b * 64 + i) == ch

/-- The slice now spare, none when it reads 63. -/
def State.spareOf (s : State) (b : Nat) : Option Nat :=
  let v := s.gi R.bed_ROT_STAT_SPARE (b * 64)
  if v < 33 then some v else none

/-- The spare on channel `c` (ROT_STAT.NEXT_CH). -/
def State.spareOn (s : State) (b c : Nat) : State := s.pi R.bed_ROT_STAT_NEXT_CH (b * 64) c

/-- The spare takes over channel `c`; the slice released from it goes to `fate`: 32 the new spare, 63 out of use. -/
def State.takeOver (s : State) (b c fate : Nat) : State :=
  match s.spareOf b, s.sliceOf b c with
  | some sp, some w =>
    let s := (s.pi R.bed_SLICE_MAP_CH (b * 64 + sp) c).pi R.bed_SLICE_MAP_CH (b * 64 + w) fate
    let s := s.pi R.bed_ROT_STAT_SPARE (b * 64) (if fate = 32 then w else 63)
    s.incW R.bed_HANDOVERS_COUNT (b * 64) 1
  | _, _ => s

/-- The spare, as it stands now, calibrated in slots q + 1 to q + 56 (R70). Its results show from slot q on.
DESIGN CHOICE, log entry 122. -/
def State.calSpare (s : State) (b : Nat) (r : Option RotIn) : State :=
  let s := s.bed b fun x => { x with calNow := true }
  match s.spareOf b, r with
  | some sp, some r => s.setCal b sp r.cal
  | _, _ => s

/-- A code at an end of the range, left out of comparisons (R72). -/
def endCode (c : BitVec 14) : Bool := c == 0x1FFF#14 || c == 0x2000#14

/-- The differences of the code pairs that a comparison takes (R72). -/
def rotDiffs (r : RotIn) : List Int :=
  (r.pairs.filter fun p => !endCode p.1 && !endCode p.2).map fun p => p.1.toInt - p.2.toInt

/-- A comparison's outcome (R72): none where fewer than 1,024 pairs are left. -/
def State.judge (s : State) (b : Nat) (r : Option RotIn) : Option Bool :=
  match r with
  | none => none
  | some r =>
    let d := rotDiffs r
    if d.length < 1024 then none
    else
      let mt := s.gi R.bed_ROT_CTRL_MEAN_TOL (b * 64)
      let rt := s.gi R.bed_ROT_CTRL_RMS_TOL (b * 64)
      some (decide ((sumInt d).natAbs ≤ mt * d.length)
        && decide (sumNat (d.map fun x => x.natAbs * x.natAbs) ≤ rt * rt * d.length))

/-- The end of rotation in a bed without a spare: log entry, record in tending and page interrupt (R73). -/
def State.rotationOut (s : State) (b : Nat) (f : Fld) (what : Nat) : State :=
  ((((s.setPhase b .out).pi f (b * 64) 1).log f (bedPage b) []).tendEvent what b).event (bedPage b)

/-- A mismatch counted (ROT_STAT.MISMATCH), one of a cross-check among them. DESIGN CHOICE, log entry 122. -/
def State.mismatch (s : State) (b : Nat) : State := s.inc R.bed_ROT_STAT_MISMATCH (b * 64) 1

/-- Step 4 of R25 for a bed at slot q: handover, recalibration, cross-check, takeover, stop or resumption (R69 to R74). A
comparison with too few samples is repeated without a recalibration. DESIGN CHOICE, log entry 122.
DESIGN CHOICE, log entry 135. -/
def State.rotateBed (s : State) (rot : List RotIn) (b : Nat) : State :=
  let s := s.bed b fun x => { x with calNow := false }
  let x := s.bedOf b
  let r := rot.find? (fun r => r.bed == b)
  let c := x.chan
  let next := (c + 1) % 32
  if !s.bedOn b then s
  else if !(s.on R.bed_ROT_CTRL_ENABLE (b * 64) && s.locked && !s.lost && !x.uncal) then s.stopRotation b
  else match x.phase with
    | .out => s
    | .stopped => ((s.setPhase b (.comparing 0)).spareOn b c).calSpare b r
    | .comparing m =>
      match s.judge b r with
      | none => s
      | some true =>
        let s := (s.takeOver b c 32).bed b fun x => { x with chan := next, phase := .comparing 0 }
        (s.spareOn b next).calSpare b r
      | some false =>
        if m = 0 then ((s.mismatch b).setPhase b (.comparing 1)).calSpare b r
        else ((s.mismatch b).setPhase b .crossing).spareOn b next
    | .crossing =>
      match s.judge b r with
      | none => s
      | some true => ((s.setPhase b .returning).spareOn b c).calSpare b r
      | some false =>
        let s := s.mismatch b
        let s := match s.spareOf b with
          | some sp => (s.pi R.bed_SLICE_MAP_CH (b * 64 + sp) 63).pi R.bed_ROT_STAT_SPARE (b * 64) 63
          | none => s
        s.rotationOut b R.bed_ROT_STAT_SPARE_FAULT 1
    | .returning => (s.takeOver b c 63).rotationOut b R.bed_ROT_STAT_SLICE_FAULT 0

/-- ROT_STAT.STATE as it reads now: calibrating in slots q + 1 to q + 56 of a window that calibrates the spare (R69, R79);
comparing in slot q, in q + 57 to q + 63 and beside a faulty slice. DESIGN CHOICE, log entry 122. -/
def State.rotState (s : State) (b : Nat) : Nat :=
  let d := (s.trellis.slot + s.nSlot - s.qFirst % max 1 s.nSlot) % max 1 s.nSlot
  match (s.bedOf b).phase with
  | .stopped => 0
  | .out => 0
  | .crossing => 3
  | _ => if 1 ≤ d ∧ d ≤ 56 ∧ s.trellis.inWindow ∧ (s.bedOf b).calNow then 1 else 2

/-! ## Line checks (R76, R77) -/

/-- The line class of a measured voltage in µV (R76). -/
def lineClass (uV : Nat) : Nat := if uV < 500 then 1 else if uV ≤ 40000 then 2 else 3

/-- A write of LINECHK: START requests a check at the next quiet window (R76, R77). -/
def State.lineCheckStart (s : State) (b : Nat) (w : Word) : State :=
  if 24 ≤ b ∨ ¬ s.bedOn b then s
  else
    let ch := bitsAt w.toNat 0 5
    let s := s.pi R.bed_LINECHK_CH (b * 64) ch
    if !bitAt w.toNat 7 then s
    else if s.armed then s.err (bedPage b) 2 0x074
    else if (s.bedOf b).lineReq.isSome then s.err (bedPage b) 3 0x074
    else s.bed b fun x => { x with lineReq := some ch }

/-- The line check of a bed runs in the quiet window (R76); it waits while the bed's uncovered trim reload lasts (R447), and
one that waits when GRAFT_ARM takes effect is dropped (R77). LINE_STAT takes its class, and the next START is accepted,
from slot q on. DESIGN CHOICE, log entry 122. -/
def State.lineCheckRun (s : State) (line : List (Nat × Nat)) (b : Nat) : State :=
  if s.armed then s.bed b fun x => { x with lineReq := none }
  else if (match (s.bedOf b).reload with
      | .uncovered _ _ => true
      | _ => false) then s else
  match (s.bedOf b).lineReq, line.find? (fun x => x.1 == b) with
  | some ch, some (_, uV) =>
    let f := if ch < 16 then R.bed_LINE_STAT_LO_CH else R.bed_LINE_STAT_HI_CH
    let v := s.gi f (b * 64)
    let sh := 2 ^ (2 * (ch % 16))
    let s := s.pi f (b * 64) (v - v / sh % 4 * sh + lineClass uV * sh)
    s.bed b fun x => { x with lineReq := none, lineMark := some (ch, s.trellis.tick + 15) }
  | _, _ => s

/-! ## Meanings -/

/-- LINE_CHECK_START. -/
def execLineCheckStart (bed : Nat) (w : Word) (s : State) : Host.Outcome State Fault Refusal :=
  .next (s.lineCheckStart bed w)

/-- CLAMP_CONDUCT. -/
def execClampConduct (ch : Nat) (s : State) : Host.Outcome State Fault Refusal := .next (s.clampConduct ch)

/-- TERM_DISCONNECT. -/
def execTermDisconnect (ch : Nat) (s : State) : Host.Outcome State Fault Refusal := .next (s.termDisconnect ch)

/-- TERM_RECONNECT. -/
def execTermReconnect (ch : Nat) (s : State) : Host.Outcome State Fault Refusal := .next (s.termReconnect ch)

/-- BED_POWER_UP_CAL. -/
def execBedPowerUpCal (bed : Nat) (s : State) : Host.Outcome State Fault Refusal := .next (s.bedPowerUpCal bed)

/-- BED_CAL_DONE. -/
def execBedCalDone (bed : Nat) (cals : List CalIn) (s : State) : Host.Outcome State Fault Refusal :=
  .next (s.bedCalDone bed cals)

end Sys2Proof.Machine
end

