-- ==== Sys2Proof/Machine/Sieve.lean ====
section
/-! DEFINITION. The sieve: the five stages, group delay and labels, settings changes, flags, and the fast path
(R80 to R100). A slot is named by its slot index: the hub's count of slots, which runs on at a restart. -/
namespace Sys2Proof.Machine

/-- A value in the chain with its flags (R96); `own` where its stage saturated. -/
structure Val where
  v : Int
  ovr : Bool
  sat : Bool
  clamp : Bool
  qual : Bool
  own : Bool
  deriving DecidableEq, Repr

/-- The value 0 without flags. -/
def Val.zero : Val := ⟨0, false, false, false, false, false⟩

/-- A stage's output: its result after shift and saturation, with the flags of its span (R81, R96). -/
def stageOut (w shift : Nat) (acc : Int) (span : List Val) : Val :=
  let (v, sat) := satS w (roundShift acc shift)
  ⟨v, span.any (·.ovr), sat || span.any (·.sat), span.any (·.clamp), span.any (·.qual), sat⟩

/-- The first `n` results of a function over a list and its tails. -/
def slide {α β : Type} (f : List α → β) : Nat → List α → List β
  | 0, _ => []
  | n + 1, l => f l :: slide f n l.tail

/-- A list cut into pieces of `k`. -/
def chunks {α : Type} (k : Nat) : Nat → List α → List (List α)
  | 0, _ => []
  | n + 1, l => l.take k :: chunks k n (l.drop k)

/-- The sum of products of coefficients and values. -/
def dot (h : List Int) (l : List Val) : Int := sumInt (List.zipWith (fun a x => a * x.v) h l)

/-! ## Settings (R82 to R90) -/

/-- What one channel's chain runs with. -/
structure Chain where
  k : Nat
  d : Int
  s0 : Nat
  s1 : Nat
  g : Nat
  ped : Int
  h2 : List Int
  h4 : List Int
  s2 : Nat
  s3 : Nat
  s4 : Nat
  sum : Bool
  phase : Nat
  deriving DecidableEq, Repr

/-- A bank's coefficients from a tap up. -/
def bankTaps (m : NMap) (bank from_ n : Nat) : List Int :=
  (List.range n).map fun j => sext 16 (mapGet m R.coef_COEF_VALUE (bank * 64 + from_ + j))

/-- A channel's chain in a register map, with the follower's pedestal beside it (R84). -/
def chainOf (m : NMap) (k ch : Nat) (p0 : Int) : Chain :=
  let bank := mapGet m R.sieve_CH_CFG_BANK ch
  { k := k
    d := sext 14 (mapGet m R.sieve_FD_DELAY_D ch)
    s0 := mapGet m R.sieve_CH_CFG_S0 ch
    s1 := mapGet m R.sieve_CH_CFG_S1 ch
    g := mapGet m R.sieve_GAIN_G ch
    ped := if mapGet m R.sieve_CH_CFG_PED_SRC ch = 0 then sext 18 (mapGet m R.sieve_PED_PED ch) else p0
    h2 := bankTaps m bank 0 (mapGet m R.coef_BANK_CFG_N2 bank)
    h4 := bankTaps m bank 32 (mapGet m R.coef_BANK_CFG_N4 bank)
    s2 := mapGet m R.coef_BANK_CFG_S2 bank
    s3 := mapGet m R.coef_BANK_CFG_S3 bank
    s4 := mapGet m R.coef_BANK_CFG_S4 bank
    sum := mapGet m R.coef_BANK_CFG_DEC_MODE bank == 1
    phase := mapGet m R.coef_BANK_CFG_DEC_PHASE bank }

/-! ## Group delay and labels (R91 to R93) -/

/-- Σ j·h[j]² and Σ h[j]². -/
def delayTerm (h : List Int) : Nat × Nat :=
  let sq := h.map (fun x => (x * x).natAbs)
  (sumNat (List.zipWith (· * ·) (List.range h.length) sq), max 1 (sumNat sq))

/-- The stage-2 and stage-4 delays of a bank as fractions (R91). MIN32's are those R94 gives: its coefficients are the
ROM's. -/
def bankDelay (m : NMap) (bank : Nat) : (Nat × Nat) × (Nat × Nat) :=
  let rom := (List.range 40).all fun t => mapGet m R.coef_COEF_VALUE (bank * 64 + t) == stdCoef 3 t
  if bank = 3 ∧ rom ∧ mapGet m R.coef_BANK_CFG_N2 3 = 32 ∧ mapGet m R.coef_BANK_CFG_N4 3 = 8 then ((9, 4), (1, 2))
  else
    (delayTerm (bankTaps m bank 0 (mapGet m R.coef_BANK_CFG_N2 bank)),
     delayTerm (bankTaps m bank 32 (mapGet m R.coef_BANK_CFG_N4 bank)))

/-- A channel's group delay in sample periods as a fraction (R91). -/
def groupDelay (m : NMap) (k ch : Nat) : Int × Nat :=
  let bank := mapGet m R.sieve_CH_CFG_BANK ch
  let ((n2, d2), (n4, d4)) := bankDelay m bank
  let t0 : Int := 10240 + sext 14 (mapGet m R.sieve_FD_DELAY_D ch)
  let p3 : Nat := if mapGet m R.coef_BANK_CFG_DEC_MODE bank = 1 then k - 1
    else 2 * (k - 1 - mapGet m R.coef_BANK_CFG_DEC_PHASE bank)
  let den := 2048 * d2 * d4
  (2 * t0 * (d2 : Int) * (d4 : Int) + ((2048 * n2 * d4 + 1024 * p3 * d2 * d4 + 2048 * n4 * k * d2 : Nat) : Int), den)

/-- LBL_NEED: max(0, ⌈(GD − (k − 1)) / k⌉) (R92). -/
def lblNeed (m : NMap) (k ch : Nat) : Nat :=
  let (n, d) := groupDelay m k ch
  (- Int.fdiv (-(n - ((k - 1) * d : Nat))) ((k * d : Nat) : Int)).toNat

/-- SIEVE.GD.GD in 1/256 sample; its rounding is not stated. -/
def gdField (m : NMap) (k ch : Nat) : Nat :=
  let (n, d) := groupDelay m k ch
  (freeQuot (256 * n) d).toNat % 65536

/-- SIEVE.GD.RESID in 1/256 sample (R92). -/
def residField (m : NMap) (k ch : Nat) : Nat :=
  let (n, d) := groupDelay m k ch
  (freeQuot (256 * (((lblNeed m k ch * k + (k - 1)) * d : Nat) - n)) d).toNat % 1024

/-- SIEVE_COEF.BANK_GD: the stage-2 term and the stage-4 term (R91). -/
def bankGdFields (m : NMap) (bank : Nat) : Nat × Nat :=
  let ((n2, d2), (n4, d4)) := bankDelay m bank
  ((freeQuot ((256 * n2 : Nat) : Int) d2).toNat % 65536, (freeQuot ((256 * n4 : Nat) : Int) d4).toNat % 65536)

/-- The bank rules of R89, for a bank. -/
def bankOk (m : NMap) (k bank : Nat) : Bool :=
  let n2 := mapGet m R.coef_BANK_CFG_N2 bank
  let n4 := mapGet m R.coef_BANK_CFG_N4 bank
  let h2 := bankTaps m bank 0 n2
  let h4 := bankTaps m bank 32 n4
  decide (1 ≤ n2) && decide (n2 ≤ 32) && decide (1 ≤ n4) && decide (n4 ≤ 8)
    && (mapGet m R.coef_BANK_CFG_KIND bank == 1 || (h2 == h2.reverse && h4 == h4.reverse))
    && h4.all (fun x => decide (-8191 ≤ x) && decide (x ≤ 8191))
    && h2.any (· != 0) && h4.any (· != 0)
    && (mapGet m R.coef_BANK_CFG_DEC_MODE bank == 1 || decide (mapGet m R.coef_BANK_CFG_DEC_PHASE bank < k))

/-- The banks that enabled channels use, each once. -/
def banksUsed (m : NMap) : List Nat :=
  ((List.range 768).filterMap fun ch =>
    if mapGet m R.bed_AFE_CFG_ENABLE (afeIdx ch) = 1 then some (mapGet m R.sieve_CH_CFG_BANK ch) else none).eraseDups

/-- R89 for every bank an enabled channel uses. -/
def banksOk (m : NMap) (k : Nat) : Bool := (banksUsed m).all (bankOk m k)

/-! ## The chain over the history (R80 to R87) -/

/-- A Farrow weight in units of 2^-16 at fraction µ/1,024 for the code `i - 2` samples beyond the whole delay (R82).
DESIGN CHOICE, log entry 5. -/
def farrowWeight (mu i : Nat) : Int :=
  let others := (List.range 5).filter (· != i)
  let num : Int := others.foldl (fun (a : Int) (j : Nat) => a * ((mu : Int) - 1024 * ((j : Int) - 2))) 65536
  let den : Int := others.foldl (fun (a : Int) (j : Nat) => a * (1024 * ((i : Int) - (j : Int)))) 1
  let (num, den) := if den < 0 then (-num, -den) else (num, den)
  if mu = 0 then (if i = 2 then 65536 else 0)
  else Int.fdiv num den + (if num % den = 0 then 0 else if Config.farrowRoundsUp mu i then 1 else 0)

/-- Stage 0 at the newest of a list of codes (R82). -/
def stage0 (c : Chain) (l : List Val) : Val :=
  let t := (10240 + c.d).toNat
  let span := (l.drop (t / 1024 - 2)).take 5
  stageOut 18 c.s0 (dot ((List.range 5).map (farrowWeight (t % 1024))) span) span

/-- Stage 1 (R83). -/
def stage1 (c : Chain) (x : Val) : Val := stageOut 18 c.s1 ((x.v - c.ped) * (c.g : Int)) [x]

/-- Stage 2 at the newest of a list of stage-1 values (R85). -/
def stage2 (c : Chain) (l : List Val) : Val := stageOut 24 c.s2 (dot c.h2 l) (l.take c.h2.length)

/-- Stage 3 over the stage-2 outputs of one slot, newest first (R86). -/
def stage3 (c : Chain) (slot : List Val) : Val :=
  if c.sum then stageOut 24 c.s3 (sumInt (slot.map (·.v))) slot
  else
    let x := slot.getD (c.k - 1 - c.phase) Val.zero
    stageOut 24 c.s3 x.v [x]

/-- Stage 4 at the newest of a list of per-slot values (R87). -/
def stage4 (c : Chain) (l : List Val) : Val := stageOut 20 c.s4 (dot c.h4 l) (l.take c.h4.length)

/-- The codes of a channel from a slot index backwards over `n` slots, newest first, with their flags. A slot that the
history does not hold reads 0 without flags (DESIGN CHOICE, log entry 15). -/
def State.codes (s : State) (ch v n : Nat) : List Val :=
  (List.range n).flatMap fun i =>
    let age := s.trellis.tick + i - v
    match (if v ≤ s.trellis.tick + i then s.hist[age]? else none) with
    | some h =>
      let q := h.qualAll || h.qual.contains ch || bitAt h.qualBeds (ch / 32)
      ((aget (List.replicate s.k Samp.zero) h.samples ch).map fun x =>
        (⟨x.code, x.ovr, false, x.clamp, q, false⟩ : Val)).reverse
    | none => List.replicate s.k Val.zero

/-- What a chain forms in one slot: stage outputs of the newest slot and y4. -/
structure Formed where
  y0 : List Val
  y1 : List Val
  y2 : List Val
  y3 : Val
  y4 : Val
  deriving DecidableEq, Repr

/-- The chain's values in the slot whose codes come first in a list of codes, newest first. -/
def runChain (c : Chain) (codes : List Val) : Formed :=
  let nY2 := c.k * c.h4.length
  let y0 := slide (stage0 c) (nY2 + c.h2.length) codes
  let y1 := y0.map (stage1 c)
  let y2 := slide (stage2 c) nY2 y1
  let y3 := (chunks c.k c.h4.length y2).map (stage3 c)
  ⟨y0.take c.k, y1.take c.k, y2.take c.k, y3.headD Val.zero, stage4 c y3⟩

/-- The settings in effect for a label or an origin (R95, R105, R170). -/
def State.mapFor (s : State) (label : Nat) : NMap :=
  if label < s.switchTick then ((s.olderRegs.filter fun x => decide (label < x.1)).getLast?.map (·.2)).getD s.prevRegs
  else s.regs

/-- A follower's values for a label: those in effect before the first of the windows that follow it (R95, R109). -/
def Follower.at_ (f : Follower) (label : Nat) : PastPed :=
  ((f.past.filter fun x => decide (label < x.tick)).getLast?).getD ⟨0, f.p0Now, f.b4Now, f.seedNow⟩

/-- The chain that values labelled with a slot index run through, and its LBL_NEED: the settings before the first quiet-window
change that follows the label (R95, R109). -/
def State.chainFor (s : State) (ch label : Nat) : Chain × Nat :=
  let m := s.mapFor label
  (chainOf m s.k ch ((s.foll ch).at_ label).p0, lblNeed m s.k ch)

/-- The values formed for the label of a slot index (R92). -/
def State.formed (s : State) (ch label : Nat) : Formed :=
  let (c, need) := s.chainFor ch label
  runChain c (s.codes ch (label + need) 64)

/-- y4 labelled with a slot index. -/
def State.y4 (s : State) (ch label : Nat) : Val := (s.formed ch label).y4

/-- The fast value F of a slot index: x[n] − x[n − 2] with n the last sample of the slot (R98). FP_INV is that of the
settings in effect for the slot. -/
def State.fast (s : State) (ch slot : Nat) : Val :=
  let l := s.codes ch slot 3
  let a := l.getD 0 Val.zero
  let b := l.getD 2 Val.zero
  let m := s.mapFor slot
  let f := a.v - b.v
  ⟨if mapGet m R.sieve_CH_CFG_FP_INV ch = 1 then -f else f, a.ovr || b.ovr, false, false, a.qual || b.qual, false⟩

/-! ## Saturation and pedestal registers (R97, R84) -/

/-- The labels whose values a channel forms in this slot: under each of the settings in effect for labels that the chain still
reaches, the one that has waited its LBL_NEED (R92, R95). -/
def State.labelsNow (s : State) (ch : Nat) : List Nat :=
  let t := s.trellis.tick
  let maps := [s.regs, s.prevRegs] ++ (s.olderRegs.filter fun x => decide (t ≤ x.1 + 64)).map (·.2)
  ((maps.map fun m => lblNeed m s.k ch).eraseDups.filter fun n =>
    decide (n ≤ t) && lblNeed (s.mapFor (t - n)) s.k ch == n).map (t - ·)

/-- Saturations of the slot a channel forms now, counted and marked once for each delivered label (R97). In PICK mode stage 2
computes the picked output alone (R86), so no other one's saturation counts. DESIGN CHOICE, log entry 124. -/
def State.countSat (s : State) (ch : Nat) : State :=
  forAll (s.labelsNow ch) s fun s label =>
    let (c, _) := s.chainFor ch label
    let x := s.formed ch label
    let y2 := if c.sum ∨ c.k = 1 then x.y2 else [x.y2.getD (c.k - 1 - c.phase) Val.zero]
    let outs := [x.y0, x.y1, y2, [x.y3], [x.y4]]
    let n := sumNat (outs.map fun l => (l.filter (·.own)).length)
    let mask := natOfBits (outs.map fun l => l.any (·.own))
    if n = 0 then s
    else (s.inc R.sieve_SAT_COUNT_COUNT 0 n).pi R.sieve_SAT_STICKY_STAGE ch (s.gi R.sieve_SAT_STICKY_STAGE ch ||| mask)

/-- SIEVE.PED_NOW: the pedestal in use. -/
def State.pedNow (s : State) (ch : Nat) : Nat := toField 18 (chainOf s.regs s.k ch (s.foll ch).p0Now).ped

/-- Whether a change of the register map changes a channel's settings under R95. DEDUCED, log entry 84. -/
def sieveChanged (a b : NMap) (k ch : Nat) : Bool := chainOf a k ch 0 != chainOf b k ch 0
    || mapGet a R.sieve_CH_CFG_PED_SRC ch != mapGet b R.sieve_CH_CFG_PED_SRC ch
    || mapGet a R.sieve_CH_CFG_BANK ch != mapGet b R.sieve_CH_CFG_BANK ch

end Sys2Proof.Machine
end

