-- ==== Sys2Proof/Machine/Shears.lean ====
section
/-! DEFINITION. The shears: records, thresholds, measurements, lossy zeroing, the pedestal follower (R101 to R114). -/
namespace Sys2Proof.Machine

/-- B4 in effect for a label, and whether the channel is seeded there (R109). -/
def State.b4For (s : State) (ch label : Nat) : Int × Bool :=
  let f := (s.foll ch).at_ label
  (f.b4, f.seeded)

/-- L_MAX + 8, the latency to the collector; before the first stream the largest it can be (R106, R123; DESIGN CHOICE, log entry 16). -/
def State.shearLag (s : State) : Nat :=
  if s.g R.rec_LAT_PIN_TO_COLL = 0 then 71 else s.g R.rec_LAT_PIN_TO_COLL

/-! ## Thresholds (R110, R111) -/

/-- A slot's values for the thresholds, with the settings of its label: v at the label before, at it and after it, and
THR_OFF. v[s − 1] does not exist for the first label after the bed's domain started. -/
structure Levels where
  prev : Option Int
  cur : Int
  next : Int
  thr : Int
  deriving DecidableEq, Repr

/-- The levels of a channel at a label. DEDUCED, log entry 93. -/
def State.levels (s : State) (ch label : Nat) : Levels :=
  let m := s.mapFor label
  let b4 := (s.b4For ch label).1
  let neg := mapGet m R.rec_CH_CFG_POL ch == 1
  let v := fun (l : Nat) => let y := (s.y4 ch l).v; if neg then b4 - y else y - b4
  let since := (s.bedOf (ch / 32)).since
  ⟨if since < label then some (v (label - 1)) else none, v label, v (label + 1),
   mapGet m R.rec_THR_OFF_OFFSET (mapGet m R.rec_CH_CFG_CLASS ch)⟩

/-- OVER (R110). -/
def Levels.ovr (l : Levels) : Bool := decide (l.thr ≤ l.cur)

/-- RISE: over threshold here and not at the label before, by this label's settings; a value that does not exist is not
over threshold (R110). -/
def Levels.rise (l : Levels) : Bool :=
  l.ovr && match l.prev with
    | some p => decide (p < l.thr)
    | none => true

/-- PEAK (R110): not set where v[s − 1] does not exist. -/
def Levels.peak (l : Levels) : Bool :=
  match l.prev with
  | some p => l.ovr && decide (p ≤ l.cur) && decide (l.next < l.cur)
  | none => false

/-- OVER of a channel at a label; a value that does not exist is not over threshold. -/
def State.overAt (s : State) (ch label : Nat) : Bool :=
  if label < (s.bedOf (ch / 32)).since then false else (s.levels ch label).ovr

/-- FTIME of a PEAK slot: the parabola through three values (R111). -/
def Levels.peakTime (l : Levels) : Nat :=
  let a := l.prev.getD 0
  let den := 2 * (a - 2 * l.cur + l.next)
  let num := (a - l.next) * 1024 + 512 * den
  let (num, den) := if den < 0 then (-num, -den) else (num, den)
  if den = 0 then 512 else (clampTo 0 1023 (roundDiv num den.toNat)).toNat

/-- FTIME of a RISE slot: linear interpolation; 0 where v[s − 1] does not exist (R111). -/
def Levels.riseTime (l : Levels) : Nat :=
  match l.prev with
  | none => 0
  | some p =>
    let num := (l.thr - p) * 1024
    let den := l.cur - p
    let (num, den) := if den < 0 then (-num, -den) else (num, den)
    if den = 0 then 0 else (clampTo 0 1023 (roundDiv num den.toNat)).toNat

/-! ## Records (R101 to R104, R113) -/

/-- LOSSY_ZERO replaces VALUE of the record of a label (R113). -/
def State.zeroed (s : State) (ch label : Nat) : Bool :=
  let m := s.mapFor label
  let b := ch / 32
  let y := s.y4 ch label
  let pre := mapGet m R.rec_BED_CFG_LZ_PRE b
  let post := mapGet m R.rec_BED_CFG_LZ_POST b
  let shiftSat := (satS 14 (roundShift y.v (mapGet m R.rec_BED_CFG_VSHIFT b))).2
  mapGet m R.rec_BED_CFG_LZ_EN b == 1 && (s.b4For ch label).2 && !y.ovr && !y.sat && !shiftSat
    && (List.range (pre + post + 1)).all fun i => decide (label + i < post) || !s.overAt ch (label + i - post)

/-- The BASE16 record of a label, zeroed or not (R102); `bad` is a parity error of its transfer (R122). -/
def State.base16 (s : State) (ch label : Nat) (zero bad : Bool) : Nat :=
  let y := s.y4 ch label
  let (v, sat) := satS 14 (roundShift y.v (mapGet (s.mapFor label) R.rec_BED_CFG_VSHIFT (ch / 32)))
  4 * (if zero then 0 else toField 14 v) + 2 * b2n (y.ovr || y.sat || sat) + b2n (y.qual || y.clamp || bad)

/-- The PAIR32 record of a label (R103). -/
def State.pair32 (s : State) (ch label : Nat) (zero bad : Bool) : Nat :=
  let y := s.y4 ch label
  let l := s.levels ch label
  let rise := l.rise
  let peak := l.peak
  let ft := if peak then l.peakTime else if rise then l.riseTime else 0
  let sat := (satS 14 (roundShift y.v (mapGet (s.mapFor label) R.rec_BED_CFG_VSHIFT (ch / 32)))).2
  s.base16 ch label zero bad + 2 ^ 16 * ft + 2 ^ 26 * b2n l.ovr + 2 ^ 27 * b2n rise + 2 ^ 28 * b2n peak
    + 2 ^ 29 * b2n y.ovr + 2 ^ 30 * b2n (y.sat || sat) + 2 ^ 31 * b2n zero

/-- The RAW record of a label: the slot's raw codes, with CLAMP and QUAL of those codes (R96, R104).
DESIGN CHOICE, log entry 124. -/
def State.rawRecord (s : State) (ch label : Nat) (bad : Bool) : Nat :=
  let l := (s.codes ch label 1).reverse
  let code := fun (p : Nat) => toField 14 (l.getD p Val.zero).v
  let orv := fun (p : Nat) => b2n (l.getD p Val.zero).ovr
  let cl := b2n (l.any (·.clamp))
  let q := b2n (l.any (·.qual) || bad)
  if s.k = 4 then
    code 0 + 2 ^ 14 * code 1 + 2 ^ 28 * code 2 + 2 ^ 42 * code 3 + 2 ^ 56 * orv 0 + 2 ^ 57 * orv 1 + 2 ^ 58 * orv 2
      + 2 ^ 59 * orv 3 + 2 ^ 60 * cl + 2 ^ 61 * q
  else if s.k = 2 then code 0 + 2 ^ 14 * code 1 + 2 ^ 28 * orv 0 + 2 ^ 29 * orv 1 + 2 ^ 30 * cl + 2 ^ 31 * q
  else code 0 + 2 ^ 14 * orv 0 + 2 ^ 15 * cl + 2 ^ 16 * q

/-- The bed group of a label: 32 records of the bed's mode in channel order; none for a bed that is OFF (R101). A bed whose
domain has failed goes on as one whose channels are disabled (R460). -/
def State.bedGroup (s : State) (b label : Nat) (bad : Bool) : Option RecUnit :=
  let m := s.mapFor label
  let mode := mapGet m R.rec_BED_CFG_MODE b
  if mode = 0 then none
  else
    match s.hist[s.trellis.tick - label]? with
    | none => none
    | some h =>
      let bytes := (List.range 32).flatMap fun i =>
        let ch := b * 32 + i
        match mode with
        | 1 => le 2 (s.base16 ch label (s.zeroed ch label) bad)
        | 2 => le 4 (s.pair32 ch label (s.zeroed ch label) bad)
        | _ => le (if s.k = 4 then 8 else 4) (s.rawRecord ch label bad)
      some ⟨mapGet m R.rec_BED_CFG_FURROW b, mode, h.orbit, h.slot, bytes,
        mode != 3 && mapGet m R.rec_BED_CFG_LZ_EN b == 1, false⟩

/-! ## Measurements (R112) -/

/-- A PEAK latches amplitude and peak time. -/
def State.latchPeak (s : State) (ch : Nat) (l : Levels) (slot : Nat) : State :=
  ((s.pi R.rec_MEAS_AMP_AMP ch (toField 21 l.cur)).pi R.rec_MEAS_PEAK_FTIME ch l.peakTime).pi R.rec_MEAS_PEAK_SLOT ch slot

/-- A RISE ends a period and starts the next; one that carries QUAL ends it without latching. -/
def State.latchRise (s : State) (ch label : Nat) (l : Levels) (qual : Bool) : State :=
  let t := (label - 1) * 1024 + l.riseTime
  if qual then { s with rises := s.rises.filter (fun x => x.1 != ch) }
  else
    let last := (s.rises.find? (fun x => x.1 == ch)).map (·.2)
    let s := { s with rises := aput s.rises ch t }
    match last with
    | none => s
    | some t0 =>
      let p := cap (2 ^ 32 - 1) (t - t0)
      let s := (s.pi R.rec_MEAS_PERIOD_PERIOD ch p).inc R.rec_MEAS_PCOUNT_COUNT ch 1
      (if p < s.gi R.rec_MEAS_PMIN_PMIN ch then s.pi R.rec_MEAS_PMIN_PMIN ch p else s).pmax R.rec_MEAS_PMAX_PMAX ch p

/-- A read of MEAS_PCOUNT: the count and the extremes reset (R112). -/
def State.pcountRead (s : State) (ch : Nat) : State :=
  ((s.pi R.rec_MEAS_PCOUNT_COUNT ch 0).pi R.rec_MEAS_PMIN_PMIN ch 0xFFFFFFFF).pi R.rec_MEAS_PMAX_PMAX ch 0

/-! ## The pedestal follower (R107 to R109) -/

/-- The y0 values that represent the sample instants of a slot: stage 0 delivers each its whole delay later (R107; DEDUCED, log
entry 17). -/
def State.y0Of (s : State) (ch label : Nat) : List Val :=
  let (c, _) := s.chainFor ch label
  let w := (10240 + c.d).toNat / 1024
  let ahead := ceilDiv w c.k
  let l := s.codes ch (label + ahead) (ahead + 22)
  slide (stage0 c) c.k (l.drop (ahead * c.k - w))

/-- A label's values enter the sums of the window they lie in (R107). DEDUCED, log entry 17. -/
def State.followLabel (s : State) (ch label : Nat) : State :=
  let t := s.trellis
  let guard := s.g R.rec_PF_CFG_GUARD
  let within := fun (w : Nat × Nat) => decide (64 ≤ w.2) && decide (w.1 + guard ≤ label) && decide (label < w.1 + w.2)
  if !(within (t.winTick, t.winLen) || t.prevWin.any within) then s
  else
    let held := match s.hist[t.tick - label]? with
      | some h => h.withheld.contains ch
      | none => true
    let ok := fun (x : Val) => !(x.ovr || x.sat || x.clamp || x.qual) && !held
    let y4 := [s.y4 ch label].filter ok
    let y0 := (s.y0Of ch label).filter ok
    s.follower ch fun f =>
      { f with n4 := f.n4 + y4.length, s4 := f.s4 + sumInt (y4.map (·.v))
               n0 := f.n0 + y0.length, s0 := f.s0 + sumInt (y0.map (·.v)) }

/-- A channel's follower takes the means of a window (R108). -/
def State.followUpdate (s : State) (ch : Nat) : State :=
  let f := s.foll ch
  let clear := fun (f : Follower) => { f with n4 := 0, s4 := 0, n0 := 0, s0 := 0 }
  if f.n4 < 32 then (s.follower ch clear).inc R.rec_PF_STAT_SKIP 0 1
  else
    let m4 := roundDiv f.s4 f.n4
    let m0 := roundDiv f.s0 (max 1 f.n0)
    let jump := s.g R.rec_PF_CFG_JUMP
    let tau := s.g R.rec_PF_CFG_TAU
    if !f.seeded then s.follower ch fun f => clear { f with p0 := m0, b4 := m4, seeded := true }
    else if jump < (m4 - f.b4).natAbs then
      let s := s.inc R.rec_PF_STAT_JUMPS 0 1
      if f.run + 1 = 8 then
        (s.follower ch fun f => clear { f with p0 := m0, b4 := m4, run := 0 }).logCode 0x05 (le 2 ch)
      else s.follower ch fun f => clear { f with run := f.run + 1 }
    else
      s.follower ch fun f =>
        clear { f with p0 := f.p0 + roundShift (m0 - f.p0) tau, b4 := f.b4 + roundShift (m4 - f.b4) tau, run := 0 }

/-- The channels whose chains run: those of the powered beds and of beds that deliver records without their domain (R460). -/
def State.liveChannels (s : State) : List Nat :=
  if !s.pd 10 then [] else (List.range 768).filter fun ch => s.bedOn (ch / 32) || s.on R.rec_BED_CFG_MODE (ch / 32)

/-- Every channel's labels below a slot index have been formed. -/
def State.passed (s : State) (upTo : Nat) : Bool := decide (upTo ≤ s.shearTick + 1) && s.behind.all fun x => decide (upTo ≤ x.2 + 1)

/-- The update of a window that another has followed, for the channels that have not had it. -/
def State.prevUpdate (s : State) : State :=
  (forAll (s.liveChannels.filter fun ch => !s.trellis.prevDone.contains ch) s State.followUpdate).tr fun t =>
    { t with prevWin := none, prevDone := [] }

/-- A channel takes the update of a window that another has followed before its first label of the later one (R107). -/
def State.prevUpdateOf (s : State) (label ch : Nat) : State :=
  if s.trellis.prevWin.isSome && decide (s.trellis.winTick ≤ label) && !s.trellis.prevDone.contains ch then
    (s.followUpdate ch).tr fun t => { t with prevDone := ch :: t.prevDone }
  else s

/-- PEDESTAL_FOLLOWER_UPDATE: a window has ended and its last label has passed; means, update, discard or seed. A window
that another has followed comes first. -/
def State.pedestalUpdate (s : State) : State :=
  let t := s.trellis
  match t.prevWin with
  | some w => if s.passed (w.1 + w.2) then s.prevUpdate else s
  | none =>
    if t.pfDone || decide (t.winLen < 64) || !s.passed (t.winTick + t.winLen) then s
    else (forAll s.liveChannels s State.followUpdate).tr fun t => { t with pfDone := true }

/-- At a quiet window each follower value formed applies to labels from q on (R109): TRANSITIONS counts a channel whose
stage-1 pedestal changes with it (R84, R95). DEDUCED, log entry 85. -/
def State.followerApply (s : State) : State :=
  forAll (s.followers.map (·.1)) s fun s ch =>
    let f := s.foll ch
    let s := if f.p0 ≠ f.p0Now ∧ s.gi R.sieve_CH_CFG_PED_SRC ch = 1 then s.inc R.sieve_TRANSITIONS_COUNT 0 1 else s
    s.follower ch fun f => { f with p0Now := f.p0, b4Now := if f.seeded then f.b4 else 0, seedNow := f.seeded }

/-- The values in effect before a quiet window are kept for labels before q, as long as the sample history goes back. -/
def State.followerKeep (s : State) : State :=
  forAll (s.followers.map (·.1)) s fun s ch =>
    s.follower ch fun f =>
      { f with past := ⟨s.trellis.tick, f.p0Now, f.b4Now, f.seedNow⟩
                 :: f.past.filter fun x => decide (s.trellis.tick ≤ x.tick + histLen) }

/-- SEEDED clears (R108): an update not yet applied is dropped. -/
def State.unseed (s : State) (ch : Nat) : State :=
  s.follower ch fun f => { f with seeded := false, p0 := f.p0Now, b4 := 0, n4 := 0, s4 := 0, n0 := 0, s0 := 0 }

/-! ## Meanings -/

/-- PEDESTAL_FOLLOWER_UPDATE. -/
def execPedestalFollowerUpdate (s : State) : Host.Outcome State Fault Refusal := .next s.pedestalUpdate

end Sys2Proof.Machine
end

