-- ==== Sys2Proof/Machine/Marks.lean ====
section
/-! DEFINITION. Trigger marks: sources, the ration, numbering and writing (R179 to R188). -/
namespace Sys2Proof.Machine

/-- The dibber updated. -/
def State.dib (s : State) (f : Dibber → Dibber) : State := { s with dibber := f s.dibber }

/-- Capacity and refill interval of a bucket: 0 to 7 trigger inputs, 8 self-triggers, 9 accepts (R183). -/
def bucketOf (b : Nat) : Nat × Nat := if b < 8 then (16, 128) else if b = 8 then (64, 64) else (64, 32)

/-- A bucket. -/
def State.bucket (s : State) (b : Nat) : Bucket := s.dibber.buckets.getD b Bucket.empty

/-- A bucket updated. -/
def State.setBucket (s : State) (b : Nat) (f : Bucket → Bucket) : State :=
  s.dib fun d => { d with buckets := modAt d.buckets b f }

/-- The buckets at STREAM_START: full, their periods counted from there; MSEQ 0 (R183, R186). -/
def State.startMarks (s : State) : State :=
  s.dib fun d =>
    { d with buckets := (List.range 10).map fun b => ⟨(bucketOf b).1, s.trellis.tick, false⟩
             mseq := 0, waiting := [], toWrite := [] }

/-- A token taken: none left counts a drop and marks the bucket; the next mark carries DROPS_BEFORE. -/
def State.takeToken (s : State) (b : Nat) (f : Fld) : State × Option Bool :=
  let x := s.bucket b
  if x.tokens = 0 then ((s.inc f 0 1).setBucket b (fun x => { x with drops := true }), none)
  else (s.setBucket b (fun x => { x with tokens := x.tokens - 1, drops := false }), some x.drops)

/-- MARK_BUCKET_REFILL: at the end of a refill interval a bucket that is not full gains a token (R183). -/
def State.refill (s : State) (b : Nat) : State :=
  let (capacity, every) := bucketOf b
  if b < 10 ∧ (s.bucket b).last + every ≤ s.trellis.tick then
    s.setBucket b fun x => { x with tokens := min capacity (x.tokens + 1), last := x.last + every }
  else s

/-- The place of a source among marks of one known slot (R186). -/
def sourceRank (src : Nat) : Nat := if src = 3 then 2 else if src = 2 then 3 else src

/-- The order of R186; accepts keep their order of arrival. -/
def markBefore (a b : Mark) : Bool :=
  let key := fun (m : Mark) => [m.known, sourceRank m.source, m.sid, if m.source = 0 then m.typ else 0]
  decide (key a < key b)

/-- A mark waits for its known slot; none forms while the hub does not stream (R526). -/
def State.addMark (s : State) (m : Mark) : State :=
  if s.intake then s.dib fun d => { d with waiting := d.waiting ++ [m] } else s

/-- The 16 bytes of a mark (R185). -/
def Mark.bytes (m : Mark) : List Byte :=
  le 6 m.orbit ++ le 2 (m.slot % 2 ^ 14) ++ le 2 m.fine ++ le 1 m.source ++ le 1 m.sid ++ le 1 m.typ
    ++ le 1 (b2n m.qual + 2 * b2n m.drops + 4 * b2n m.past) ++ le 2 m.seq

/-- A known mark forms: it takes its token, its number, and its place in the queue to the barrow. Self-triggers took
their token when they fired (R191); sentinels need none. -/
def State.formMark (s : State) (m : Mark) : State × Option Nat :=
  let (s, drops) := match m.source with
    | 0 => s.takeToken m.sid R.dib_DROP_TRIG_RATION
    | 2 => s.takeToken 9 R.dib_DROP_ACC_RATION
    | _ => (s, some m.drops)
  match drops with
  | none => (s, none)
  | some d =>
    let q := s.dibber.mseq
    let m := { m with drops := d, qual := s.lost, past := decide (m.orbit < s.trellis.orbit), seq := q }
    let s := s.dib fun x => { x with mseq := (q + 1) % 65536, toWrite := x.toWrite ++ [m] }
    (if m.source = 0 then s.inc R.dib_TRIG_COUNT_COUNT m.sid 1 else s, some q)

/-- The marks known in the current cycle form in the order of R186: the state and their numbers, for the listings. -/
def State.formMarks (s : State) : State × List Nat :=
  let due := sortBy markBefore (s.dibber.waiting.filter (fun m => decide (m.known ≤ s.trellis.tick)))
  let s := s.dib fun d => { d with waiting := d.waiting.filter (fun m => decide (s.trellis.tick < m.known)) }
  due.foldl (fun (p : State × List Nat) m =>
    match p.1.formMark m with
    | (s, some q) => (s, p.2 ++ [q])
    | (s, none) => (s, p.2)) (s, [])

/-- Up to four marks go to the mark furrow (R184, R187). -/
def State.writeMarks (s : State) : State :=
  let now := s.dibber.toWrite.take 4
  let s := s.dib fun d => { d with toWrite := d.toWrite.drop 4 }
  now.foldl (fun s m => s.place ⟨2, 0x20, m.orbit, m.slot, m.bytes, false, false⟩) s

/-- Every mark formed goes to the mark furrow at the end of a stream, and those not known yet form no more (R21, R216).
DESIGN CHOICE, log entry 127. -/
def State.endMarks (s : State) : State :=
  let all := s.dibber.toWrite
  let s := s.dib fun d => { d with waiting := [], toWrite := [] }
  all.foldl (fun s m => s.place ⟨2, 0x20, m.orbit, m.slot, m.bytes, false, false⟩) s

/-- The marks known by now form, and every open segment lists them (R186, R187, R204). -/
def State.knowMarks (s : State) : State :=
  let (s, seqs) := s.formMarks
  s.listMarks seqs

/-- An accept item for the dibber (R180); its known slot is the current one, at the end of whose cycle it is listed
(R187; DEDUCED, log entry 91): a slot not below N_slot is counted and refused. Answers whether it was refused. -/
def State.acceptMark (s : State) (orbit slot typ : Nat) : State × Bool :=
  if s.nSlot ≤ slot then (s.inc R.dib_DROP_ACC_BAD 0 1, true)
  else if s.on R.dib_SRC_EN_ACC 0 && s.pd 10 then
    let s := s.addMark ⟨s.trellis.tick, orbit, slot, 0, 2, 0, typ, false, false, false, 0⟩
    (if s.trellis.ran then s.knowMarks else s, false)
  else (s, false)

/-- MARK_BUCKET_REFILL. -/
def execMarkBucketRefill (bucket : Nat) (s : State) : Host.Outcome State Fault Refusal := .next (s.refill bucket)

end Sys2Proof.Machine
end

