-- ==== Sys2Proof/Machine/Sentinels.lean ====
section
/-! DEFINITION. Sentinels: rings, windows, violations, freezes and re-arming (R115 to R119), and trigger edges, which
they and the dibber take (R181, R182). Sample number n is k × slot index + phase. -/
namespace Sys2Proof.Machine

/-- A sentinel. -/
def State.sn (s : State) (n : Nat) : Sentinel := s.sentinels.getD n Sentinel.empty

/-- A sentinel updated. -/
def State.sentinel (s : State) (n : Nat) (f : Sentinel → Sentinel) : State :=
  { s with sentinels := modAt s.sentinels n f }

/-- A sentinel's state, published in SN_STAT. -/
def State.snState (s : State) (n st : Nat) : State :=
  (s.sentinel n fun x => { x with state := st }).pi R.sent_SN_STAT_STATE n st

/-- A sentinel is enabled. -/
def State.snOn (s : State) (n : Nat) : Bool := s.on R.sent_SN_CFG_ENABLE n && s.pd 10

/-- The ring word of a sample (R115). -/
def ringWord (x : Val) : Nat := 4 * toField 14 x.v + 2 * b2n x.ovr + b2n x.clamp

/-- The newest sample number. -/
def State.newest (s : State) : Nat := s.trellis.tick * s.k + (s.k - 1)

/-- The slot's codes enter the ring of an enabled sentinel that is not frozen; another channel starts a new ring. -/
def State.snWrite (s : State) (n : Nat) : State :=
  let x := s.sn n
  if !s.snOn n && x.state = 0 then s.sentinel n fun x => { x with ring := [] }
  else if x.state = 3 then s
  else
    let ch := if x.state = 0 then s.gi R.sent_SN_CFG_CH n else x.chan
    let words := (s.codes ch s.trellis.tick 1).map ringWord
    s.sentinel n fun x =>
      { x with ring := (words ++ (if ch = x.chan then x.ring else [])).take 9216, chan := ch }

/-- A reference event at a sample number opens a window, or is skipped; the ring of another channel starts anew (R115,
R116). -/
def State.snReference (s : State) (n : Nat) (nRef : Int) : State :=
  if !s.snOn n then s
  else if (s.sn n).state ≠ 0 then s.inc R.sent_REF_SKIP_COUNT 0 1
  else
    let mask := fun (f : Fld) => (List.range 64).map fun i => sext 14 (s.gi f (n * 64 + i))
    (s.sentinel n fun x =>
      { x with ring := if s.gi R.sent_SN_CFG_CH n = x.chan then x.ring else []
               base := nRef + sext 8 (s.gi R.sent_SN_ALIGN_ALIGN n), next := 0, upper := mask R.sent_MASK_UPPER
               lower := mask R.sent_MASK_LOWER, orViol := s.on R.sent_SN_CFG_OR_VIOL n
               post := s.gi R.sent_SN_POST_POST n, chan := s.gi R.sent_SN_CFG_CH n }).snState n 1

/-- The first violating index of a window from an index on, among the samples the ring holds, up to a number of indices;
and the next index left to compare. -/
def firstViolation (x : Sentinel) (newest : Nat) : (left i : Nat) → Option Nat × Nat
  | 0, i => (none, i)
  | left + 1, i =>
    let n := x.base + i
    if (newest : Int) < n then (none, i)
    else
      let w := x.ring[((newest : Int) - n).toNat]?
      match w with
      | none => firstViolation x newest left (i + 1)
      | some w =>
        let code := sext 14 (w / 4)
        if x.upper.getD i 0 < code ∨ code < x.lower.getD i 0 ∨ (x.orViol ∧ bitAt w 1) then (some i, i + 1)
        else firstViolation x newest left (i + 1)

/-- A sentinel's window compares the samples it can (R116, R117). -/
def State.snCompare (s : State) (n : Nat) : State :=
  let x := s.sn n
  if x.state ≠ 1 then s
  else
    let (v, next) := firstViolation x s.newest (64 - x.next) x.next
    match v with
    | none => if 64 ≤ next then s.snState n 0 else s.sentinel n fun x => { x with next := next }
    | some i =>
      let smp := (x.base + i).toNat
      let slotIdx := smp / s.k
      let h := s.hist.getD (s.trellis.tick - slotIdx) ⟨0, 0, 0, [], [], 0, false, [], false, 0⟩
      let fine := smp % s.k * 65536 / s.k
      let s := (s.sentinel n fun x => { x with vSample := smp, vOrbit := h.orbit, vSlot := h.slot }).snState n 2
      let s := ((s.pi R.sent_SN_STAT_VIOL_I n i).pbit R.sent_ALARM_SN 0 n true).event 0x02B
      let s := s.addMark ⟨max s.trellis.tick (slotIdx + 2), h.orbit, h.slot, fine, 3, n, 0, false, false, false, 0⟩
      s.log R.sent_ALARM_SN 0x02B []

/-- A snapshot record (R118). DESIGN CHOICE, log entry 15. -/
def snapshotRecord (sn chunk ch orbit slot phase viol snap : Nat) (words : List Nat) : List Byte :=
  le 1 sn ++ le 1 chunk ++ le 2 ch ++ le 6 orbit ++ le 2 (slot + 2 ^ 14 * phase) ++ le 2 viol ++ le 2 snap
    ++ words.flatMap (le 2)

/-- SENTINEL_FREEZE: SN_POST samples after the violation have been written; the ring freezes and its snapshot leaves as
eight records (R117, R118). Words the ring never took read 0 (log entry 15). The orbit and slot of a chunk count back
from the violating sample's. DESIGN CHOICE, log entry 15. -/
def State.snFreeze (s : State) (n : Nat) : State :=
  let x := s.sn n
  if x.state ≠ 2 ∨ s.newest < x.vSample + x.post then s
  else
    let kept := (x.ring.drop (s.newest - (x.vSample + x.post))).take 8192
    let words := List.replicate (8192 - kept.length) 0 ++ kept.reverse
    let snap := (s.gi R.sent_SN_STAT_SNAP n + 1) % 65536
    let viol := 8191 - x.post
    let s := (s.sentinel n fun x => { x with ring := kept, frozenTick := s.trellis.tick, rearm := false }).snState n 3
    let s := s.pi R.sent_SN_STAT_SNAP n snap
    forAll (List.range 8) s fun s c =>
      let smp : Int := (((x.vOrbit * s.nSlot + x.vSlot) * s.k + x.vSample % s.k : Nat) : Int) - (viol : Int) + 1024 * c
      let m := (smp % ((2 ^ 48 * s.nSlot * s.k : Nat) : Int)).toNat
      s.hubRec 5 (snapshotRecord n c x.chan (m / s.k / max 1 s.nSlot) (m / s.k % max 1 s.nSlot) (m % s.k) viol snap
        (slice' words (1024 * c) 1024))
where
  /-- A piece of a list of words. -/
  slice' (l : List Nat) (a n : Nat) : List Nat := (l.drop a).take n

/-- No record of a sentinel's snapshot waits for the barrow or lies in the open segment of furrow 0x0005 (R119). -/
def State.snapshotWritten (s : State) (n : Nat) : Bool :=
  !(s.hubQ.any fun r => r.furrow == 5 && leAt r.bytes 0 1 == n)
    && match (s.fur 5).cur with
      | some o => leAt o.bytes 0 1 != n
      | none => true

/-- SENTINEL_REARM at a management-frame boundary (R119): the ring fills afresh, so that no window compares samples from
before the freeze. -/
def State.snRearm (s : State) (n : Nat) : State :=
  let x := s.sn n
  if x.state = 3 ∧ 1000000 ≤ s.slotsNs (s.trellis.tick - x.frozenTick) ∧ s.snapshotWritten n
      ∧ (s.on R.sent_SN_CFG_AUTO_REARM n ∨ x.rearm) then
    (s.sentinel n fun x => { x with rearm := false, ring := [] }).snState n 0
  else s

/-- SENTINEL_REARM_REQUEST: a write of REARM marks the frozen sentinels named (R119). -/
def State.rearmRequest (s : State) (w : Word) : State :=
  forAll (bitsSet 16 w.toNat) s fun s n => s.sentinel n fun x => { x with rearm := x.rearm || x.state == 3 }

/-- The reference events of slot counts and of a channel's RISE (REF_SRC 2 and 0, R115). -/
def State.snSlotRefs (s : State) : State :=
  forAll (List.range 16) s fun s n =>
    if s.gi R.sent_SN_CFG_REF_SRC n = 2 ∧ s.counting ∧ s.trellis.slot = s.gi R.sent_SN_ALIGN_REF_SLOT n then
      s.snReference n ((s.trellis.tick * s.k : Nat) : Int)
    else s

/-- A RISE of a channel at a label: the first sample at or after the crossing instant (R111, R115). -/
def State.snRise (s : State) (ch label : Nat) (l : Levels) : State :=
  forAll (List.range 16) s fun s n =>
    if s.gi R.sent_SN_CFG_REF_SRC n = 0 ∧ s.gi R.sent_SN_CFG_CH n = ch then
      let (gn, gd) := groupDelay (s.mapFor label) s.k ch
      let need := lblNeed (s.mapFor label) s.k ch
      let resid : Int := ((need * s.k + (s.k - 1)) * gd : Nat) - gn
      let num : Int := ((s.k * ((label - 1) * 1024 + l.riseTime) * gd : Nat) : Int) + 1024 * resid
      s.snReference n (- Int.fdiv (-num) ((1024 * gd : Nat) : Int))
    else s

/-! ## Trigger edges (R181, R182) -/

/-- TRIG_EDGE: an edge at an input in the current slot, at a TDC value; it becomes known three slots later (R180).
DEDUCED, log entry 92. -/
def State.trigEdge (s : State) (input : Nat) (rising : Bool) (tdc : Nat) : State :=
  if 8 ≤ input ∨ ¬ s.pd 10 ∨ ¬ s.counting then s
  else s.dib fun d => { d with edges := d.edges ++ [⟨s.trellis.tick, s.pos, input, rising, tdc % 4096⟩] }

/-- An edge in its known slot, under the settings of that slot (R188). An accepted edge is a reference event, and a mark
where SRC_EN and the ration let it form one. DEDUCED, log entry 92. -/
def State.knowEdge (s : State) (e : Edge) : State :=
  let input := e.input
  let rising := e.rising
  let sel := s.gi R.dib_TRIG_CFG_EDGE input
  if ¬ s.pd 10 ∨ ¬ (sel = 2 ∨ (sel = 0 ∧ rising) ∨ (sel = 1 ∧ ¬ rising)) then s
  else
    let now := e.tick * 4096 + e.tdc
    if now < s.dibber.dead.getD input 0 then s.inc R.dib_DROP_TRIG_DEAD 0 1
    else
      let s := s.dib fun d =>
        { d with dead := setAt d.dead input (now + 4096 * s.gi R.dib_TRIG_CFG_DEAD input) }
      let adj : Int := (e.tdc : Int) - (Config.tdcLatency.toNat : Int) + sext 16 (s.gi R.dib_TRIG_OFFSET_OFFSET input)
      let t : Int := ((e.pos * 4096 : Nat) : Int) + adj
      let m := (t % ((2 ^ 48 * s.nSlot * 4096 : Nat) : Int)).toNat
      let edge : Int := ((e.tick * 4096 : Nat) : Int) + adj
      let nRef := - Int.fdiv (-((s.k : Int) * edge)) 4096
      let s := forAll (List.range 16) s fun s n =>
        if s.gi R.sent_SN_CFG_REF_SRC n = 1 ∧ s.gi R.sent_SN_CFG_TRIG n = input then s.snReference n nRef else s
      if bitAt (s.g R.dib_SRC_EN_TRIG) input then
        s.addMark ⟨e.tick + 3, m / 4096 / max 1 s.nSlot, m / 4096 % max 1 s.nSlot, m % 4096 * 16, 0, input,
          b2n (!rising), false, false, false, 0⟩
      else s

/-- The edges that become known in this slot. -/
def State.knowEdges (s : State) : State :=
  let due := s.dibber.edges.filter fun e => decide (e.tick + 3 ≤ s.trellis.tick)
  due.foldl State.knowEdge (s.dib fun d => { d with edges := d.edges.filter fun e => decide (s.trellis.tick < e.tick + 3) })

/-! ## Meanings -/

/-- SENTINEL_FREEZE. -/
def execSentinelFreeze (sn : Nat) (s : State) : Host.Outcome State Fault Refusal := .next (s.snFreeze sn)

/-- SENTINEL_REARM_REQUEST. -/
def execSentinelRearmRequest (w : Word) (s : State) : Host.Outcome State Fault Refusal := .next (s.rearmRequest w)

/-- TRIG_EDGE. -/
def execTrigEdge (input : Nat) (rising : Bool) (tdc : Nat) (s : State) : Host.Outcome State Fault Refusal :=
  .next (s.trigEdge input rising tdc)

end Sys2Proof.Machine
end

