-- ==== Sys2Proof/Machine/FastSum.lean ====
section
/-! DEFINITION. Fast sums, self-triggers and fast-sum segments (R189 to R196). -/
namespace Sys2Proof.Machine

/-- A fast sum. -/
def State.sumOf (s : State) (j : Nat) : Sum := aget Sum.empty s.sums j

/-- A fast sum updated. -/
def State.setSum (s : State) (j : Nat) (f : Sum → Sum) : State := { s with sums := aput s.sums j (f (s.sumOf j)) }

/-- The members in use of a sum: channel and signed weight (R189). -/
def sumMembers (m : NMap) (j : Nat) : List (Nat × Int) :=
  ((List.range 32).map fun i =>
    (mapGet m R.fsum_MEMBER_CH (j * 32 + i), sext 4 (mapGet m R.fsum_MEMBER_W (j * 32 + i)))).filter (fun x => x.2 != 0)

/-- The enabled sums, ascending. -/
def enabledSums (m : NMap) : List Nat := (List.range 64).filter fun j => mapGet m R.fsum_SUM_CFG_ENABLE j == 1

/-- The bytes that the fast sums charge the uplink per slot (R196). -/
def fsumBytes (m : NMap) : Nat :=
  let n := (enabledSums m).length
  if mapGet m R.fsum_CTRL_SEND 0 = 1 ∧ 1 ≤ n then 32 + 3 * ceilDiv n 2 else 0

/-- The members of a sum are powered for a slot: their beds are on and were on in it. -/
def State.sumPowered (s : State) (l : List (Nat × Int)) (slot : Nat) : Bool :=
  l.all fun x => s.bedOn (x.1 / 32) && decide ((s.bedOf (x.1 / 32)).since ≤ slot)

/-- A self-trigger of sum `j` in a slot: counted, and a mark where the hub streams and the ration allows it; a refused
one does not start the hold-off (R183, R191). -/
def State.selfTrigger (s : State) (j slot orbit inOrbit : Nat) : State :=
  let s := s.inc R.fsum_SELF_COUNT_COUNT j 1
  if !s.intake then s.setSum j fun x => { x with trig := some slot }
  else
    match s.takeToken 8 R.dib_DROP_SELF_COUNT with
    | (s, none) => s
    | (s, some drops) =>
      (s.setSum j fun x => { x with trig := some slot }).addMark
        ⟨slot + 2, orbit, inOrbit, (s.k - 1) * 65536 / s.k, 1, j, 0, false, drops, false, 0⟩

/-- One sum of a slot: val and FLAG published, the self-trigger tested (R189, R191). -/
def State.formSum (s : State) (m : NMap) (slot orbit inOrbit j : Nat) : State :=
  let l := sumMembers m j
  if !s.sumPowered l slot then s
  else
    let fs := l.map fun x => (x.2, s.fast x.1 slot)
    let acc := sumInt (fs.map fun x => x.1 * x.2.v)
    let (v, sat) := satS 11 (roundShift acc (mapGet m R.fsum_SUM_CFG_SHIFT j))
    let qual := fs.any (·.2.qual)
    let flag := sat || qual || fs.any (·.2.ovr)
    let x := s.sumOf j
    let s := (s.pi R.fsum_SUM_NOW_VAL j (toField 11 v)).pi R.fsum_SUM_NOW_FLAG j (b2n flag)
    let s := s.setSum j fun x => { x with last := some (slot, v) }
    let thr := sext 11 (mapGet m R.fsum_SUM_CFG_THR j)
    let before := match x.last with
      | some (at_, w) => at_ + 1 == slot && decide (w < thr)
      | none => false
    let held := match x.trig with
      | some at_ => decide (slot < at_ + mapGet m R.fsum_SUM_HOLD_HOLDOFF j)
      | none => false
    if mapGet m R.fsum_SUM_CFG_TRIG_EN j = 1 ∧ thr ≤ v ∧ before = true ∧ qual = false ∧ held = false then
      s.selfTrigger j slot orbit inOrbit
    else s

/-- The 12-bit entries of the enabled sums packed in pairs (R193). -/
def packEntries : List Nat → List Byte
  | [] => []
  | [a] => le 3 a
  | a :: b :: rest => le 3 (a + 4096 * b) ++ packEntries rest

/-- The segment of a slot in which the hub streamed or not (R192, R193), to leave in slot s + 9 (R195); a hub that took a graft token
forms them from the slot of its takeover on (R423). -/
def State.formFseg (s : State) (m : NMap) (stream : Bool) (slot orbit inOrbit : Nat) : State :=
  let js := enabledSums m
  if mapGet m R.fsum_CTRL_SEND 0 = 0 ∨ js = [] ∨ ¬ stream ∨ slot < s.intakeFrom ∨ slot < s.graft.fromTick ∨ s.standby then s
  else
    let payload := packEntries (js.map fun j => s.gi R.fsum_SUM_NOW_VAL j + 2048 * s.gi R.fsum_SUM_NOW_FLAG j)
    let header := segHeader (mapGet m R.fsum_CTRL_FURROW 0) 0 ((orbit * s.nSlot + inOrbit) % 2 ^ 40) 0x61 orbit inOrbit
      payload.length (crc32c payload).toNat (s.g R.global_HUB_ID_ID) (s.g R.graft_STAT_EPOCH) 0 (s.wallNs orbit inOrbit)
    { s with fsegs := s.fsegs ++ [⟨slot + 9, mapGet m R.fsum_CTRL_LANE 0, header ++ payload⟩] }

/-- The sums of slot s are formed in slot s + 2, and its segment follows (R189, R192). -/
def State.formSums (s : State) : State :=
  let slot := s.trellis.tick - 2
  match s.hist[2]? with
  | none => s
  | some h =>
    let m := s.mapFor slot
    if mapGet m R.fsum_CTRL_ENABLE 0 = 0 ∨ ¬ s.pd 10 then s
    else (forAll (enabledSums m) s fun s j => s.formSum m slot h.orbit h.slot j).formFseg m h.stream slot h.orbit h.slot

/-- Segments due now leave as priority packets, or are lost where their lane is not active or out of lock at the back end, or
the hub does not stream (R195, R295). -/
def State.sendFsegs (s : State) : State :=
  let due := s.fsegs.filter (fun x => decide (x.due ≤ s.trellis.tick))
  let s := { s with fsegs := s.fsegs.filter (fun x => decide (s.trellis.tick < x.due)) }
  due.foldl (fun s x =>
    if (s.txOf x.lane).dropped || (s.laneOf (32 + x.lane)).tx != 0 || !s.streaming then s.inc R.fsum_SEG_LOST_COUNT 0 1
    else
      let s := { s with harvest := { s.harvest with bytesOrbit := s.harvest.bytesOrbit + x.bytes.length } }
      (s.sendPriority x.lane 0x10 x.bytes).incW R.fsum_SEG_COUNT_COUNT 0 1) s

/-! ## The checks of R190 and R194 -/

/-- Every enabled sum's members have a bed that is not OFF and is powered. -/
def State.sumsOk (s : State) (m : NMap) : Bool :=
  (enabledSums m).all fun j => (sumMembers m j).all fun x =>
    mapGet m R.rec_BED_CFG_MODE (x.1 / 32) != 0 && s.bedOn (x.1 / 32)

end Sys2Proof.Machine
end

