-- ==== Sys2Proof/Machine/Lanes.lean ====
section
/-! DEFINITION. Serial lanes: line coding, block lock, frame alignment, power states and the wake ration, retraining
pauses and the eye monitor (R126 to R148). -/
namespace Sys2Proof.Machine

/-! ## The receivers -/

/-- The lanes whose receivers can be active (R126). -/
def receives (l : Nat) : Bool := l < 34

/-- The receivers that can be active, in the order of R141. -/
def receivers : List Nat := List.range 34

/-- Every lane. -/
def allLanes : List Nat := List.range 48

/-- FRAME_LOCK of a lane. -/
def State.frameLock (s : State) (l : Nat) : Bool := s.on R.lane_LANE_STAT_FRAME_LOCK l

/-- A receiver delivers frames: it is active and has frame lock (R137, R142). -/
def State.delivers (s : State) (l : Nat) : Bool := s.frameLock l && (s.laneOf l).rx == 0

/-- The frame that a delivering receiver's last four blocks brought, not yet taken: its header errors and its bits (R137,
R302). -/
def State.lastFrame (s : State) (l : Nat) : Option (Nat × Nat) := if s.delivers l then (s.laneOf l).up else none

/-- That frame is taken. -/
def State.takeFrame (s : State) (l : Nat) : State := s.lane l fun x => { x with up := none }

/-- Frame lock ends: the frame in progress is discarded; the next frame of a tributary port carries RELOCK (R137, R176). -/
def State.dropFrameLock (s : State) (l : Nat) (count : Bool) : State :=
  let was := s.frameLock l
  let s := (s.pi R.lane_LANE_STAT_FRAME_LOCK l 0).lane l fun x =>
    { x with sync := false, pos := 0, good := 0, bad := 0, frameErr := false, acc := 0, herr := 0, skip := false }
  if !was then s
  else
    let s := if count then s.inc R.lane_LOCK_LOSS_FRAME l 1 else s
    if l < 32 then s.port l fun p => { p with relock := true } else s

/-- An eye scan ends without completing (R147). -/
def State.cutScan (s : State) (l : Nat) : State :=
  if (s.laneOf l).scan then
    (s.lane l fun x => { x with scan := false }).pi R.lane_EYE_RESULT_VALID l 0
  else s

/-- Block lock ends. -/
def State.dropBlockLock (s : State) (l : Nat) (count : Bool) : State :=
  let was := s.blockLock l
  let s := (s.dropFrameLock l count).lane l fun x => { x with blk := 0, valid := 0, recent := [] }
  let s := s.pi R.lane_LANE_STAT_BLOCK_LOCK l 0
  if !was then s
  else
    let s := if count then (s.inc R.lane_LOCK_LOSS_BLOCK l 1).cdLost (if l < 32 then 16 + l else 18 + l) else s
    s.sourceLockLost l

/-- A block adapts the equaliser of a LOCKED receiver (R138). Where adaptation would drive a setting depends on the line and is a
free value (DESIGN CHOICE, log entry 2); a setting driven past its bound stays there and sets BOUND_HIT.
DESIGN CHOICE, log entry 49. -/
def State.adapt (s : State) (l : Nat) : State :=
  let v := fun (i : Nat) => (Config.freeValue (s.freeCtr + i)).toNat
  let raw := fun (i : Nat) => sext 8 (v i)
  let lo := s.gi R.lane_CTLE_BOUND_MIN l
  let hi := s.gi R.lane_CTLE_BOUND_MAX l
  let h : Int := (s.gi R.lane_DFE_BOUND_H1_MAX l : Nat)
  let hn : Int := (s.gi R.lane_DFE_BOUND_HN_MAX l : Nat)
  let c := (clampTo lo hi (v 0 % 256 : Nat)).toNat
  let t := clampTo (-h) h (raw 1)
  let drives := (List.range 11).map fun i => raw (2 + i)
  let taps := drives.map (clampTo (-hn) hn)
  let hit := c != v 0 % 256 || t != raw 1 || taps != drives
  let s := ({ s with freeCtr := s.freeCtr + 13 }.pi R.lane_EQ_NOW_CTLE l c).pi R.lane_EQ_NOW_H1 l (toField 7 t)
  let s := (if hit then s.pi R.lane_LANE_STAT_BOUND_HIT l 1 else s).lane l fun x => { x with taps := taps }
  let (least, most, first, others) := aget (c, c, 0, 0) s.tend.eq l
  { s with tend := { s.tend with
      eq := aput s.tend.eq l (min least c, max most c, max first t.natAbs, max others (maxNat (taps.map Int.natAbs))) } }

/-- A block in the LOCKED state at its place in the bunch frame (R136, R137). `bfs` is a control header. -/
def State.lockedBlock (s : State) (l : Nat) (valid bfs : Bool) (bits : List Bool) : State :=
  let s := s.lane l fun x => { x with recent := (valid :: x.recent).take 64 }
  let s := if valid then s else s.inc R.lane_HDR_ERR_COUNT l 1
  let x := s.laneOf l
  if s.frameLock l then
    let wrong := if x.pos = 0 then !bfs else bfs
    let s := if wrong && valid then s.inc R.lane_HDR_ERR_COUNT l 1 else s
    let err := (x.pos != 0 && x.frameErr) || wrong
    let acc := (if x.pos = 0 then 0 else x.acc) + natOfBits bits * 2 ^ (126 * x.pos)
    let herr := (if x.pos = 0 then 0 else x.herr) + b2n (wrong || !valid) * 2 ^ x.pos
    s.lane l fun x =>
      { x with
        pos := (x.pos + 1) % 4, frameErr := err, acc := acc, herr := herr
        skip := x.skip && x.pos != 3
        bad := if x.pos = 3 then (if err then x.bad + 1 else 0) else x.bad
        up := if x.pos = 3 && !x.skip then some (herr, acc) else x.up }
  else
    s.lane l fun x =>
      if bfs then
        if x.sync && x.pos == 0 then { x with pos := 1 } else { x with sync := true, pos := 1, good := 0 }
      else if !x.sync then x
      else if x.pos = 0 then { x with sync := false, good := 0 }
      else if x.pos = 3 then { x with pos := 0, good := x.good + 1 }
      else { x with pos := x.pos + 1 }

/-- A lane's retraining pause is in progress: it starts at slot q + 2 (R141). -/
def State.inPause (s : State) (l : Nat) : Bool :=
  let x := s.laneOf l
  x.pausing && decide (x.pauseAt ≤ s.trellis.tick)

/-- A block that a receiver does not deliver goes by: the frame position moves on, and the rest of its frame is partial (R142,
R143). -/
def Lane.passBlock (x : Lane) : Lane :=
  { x with discard := false, pos := (x.pos + 1) % 4, skip := x.pos != 3, frameErr := false, herr := 0 }

/-- The symbols of a block and the one that came before them on the line (R129): the last of the block before; after a slip
the symbol skipped, and after a deep exit the one before the first block, leads a list of 65, and a list of 64 leaves it free. DESIGN CHOICE, log entry 137. -/
def Lane.onLine (x : Lane) (free : Nat) (symbols : List Nat) : List Nat :=
  if symbols.length = 65 then symbols
  else (if x.slipped then free else x.lastIn) % 4 :: symbols

/-- RX_BLOCK: a receiver takes the 64 symbols of a block at its candidate position (R135, R136), after a slip with the one it
skipped. In the shallow state, and on its way out of it, the flywheel counts the blocks that pass (R142).
DESIGN CHOICE, log entry 137. -/
def State.rxBlock (s : State) (l : Nat) (symbols : List Nat) : State :=
  let x := s.laneOf l
  let whole := symbols.length == 64 || (x.slipped && symbols.length == 65)
  if !receives l || !s.pd (laneDomain l) || !whole then s
  else if x.rx != 0 then (if x.blk = 2 then s.lane l Lane.passBlock else s)
  else
    let inv := s.on R.lane_LANE_CFG_RX_INV l
    let flip := fun (l : List Nat) => if inv then l.map (3 - ·) else l
    let line := x.onLine s.freeNow (flip (symbols.map (· % 4)))
    let s := if x.slipped && symbols.length == 64 then s.drew else s
    let idx := line.tail
    let (idx, last) := if s.on R.lane_LANE_CFG_RX_PRECODE l then unprecode (line.headD 0) idx else (idx, idx.getLastD 0)
    let bits := idx.flatMap grayBits
    let a := bits.headD false
    let b := (bits.drop 1).headD false
    let valid := a != b
    let (payload, h) := descramble x.descr (bits.drop 2)
    let s := s.lane l fun x => { x with lastIn := last, descr := h, slipped := false }
    if x.discard then s.lane l Lane.passBlock
    else if x.blk = 0 then
      s.lane l fun x => if valid then { x with blk := 1, valid := 1 } else { x with slip := (x.slip + 1) % 64, slipped := true }
    else if x.blk = 1 then
      s.lane l fun x =>
        if valid then { x with valid := x.valid + 1 } else { x with blk := 0, valid := 0, slip := (x.slip + 1) % 64, slipped := true }
    else (if s.inPause l then s else s.adapt l).lockedBlock l valid (valid && a) payload

/-- BLOCK_LOCK_ACQUIRE: 64 consecutive valid headers (R135). -/
def State.blockLockAcquire (s : State) (l : Nat) : State :=
  let x := s.laneOf l
  if x.blk = 1 ∧ 64 ≤ x.valid then
    let s := (s.lane l fun x => { x with blk := 2, recent := [] }).pi R.lane_LANE_STAT_BLOCK_LOCK l 1
    (s.tr fun t => { t with stopped := t.stopped.erase (if l < 32 then 16 + l else 18 + l) }).sourceLockGained l
  else s

/-- BLOCK_LOCK_LOSS: 16 invalid headers within 64 consecutive blocks (R135); on H00 and H01 the bunch-clock source may
move (R34, R35). -/
def State.blockLockLoss (s : State) (l : Nat) : State :=
  let x := s.laneOf l
  if x.blk = 2 ∧ 16 ≤ (x.recent.filter (! ·)).length then s.dropBlockLock l true else s

/-- FRAME_LOCK_ACQUIRE: 16 consecutive frames with their BFS in place (R137). -/
def State.frameLockAcquire (s : State) (l : Nat) : State :=
  let x := s.laneOf l
  if receives l && x.blk == 2 && decide (16 ≤ x.good) && !s.frameLock l then
    (s.pi R.lane_LANE_STAT_FRAME_LOCK l 1).lane l fun x =>
      { x with bad := 0, frameErr := false, acc := 0, herr := 0, skip := x.pos != 0 }
  else s

/-- FRAME_LOCK_LOSS: four consecutive frames in error, or block lock gone (R137). -/
def State.frameLockLoss (s : State) (l : Nat) : State :=
  let x := s.laneOf l
  if s.frameLock l && (decide (4 ≤ x.bad) || x.blk != 2) then s.dropFrameLock l true else s

/-! ## Power states and the wake ration (R142 to R146) -/

/-- Waiting deep exits in the order of R145: lane, and whether its transmitter. -/
def wakeOrder : List (Nat × Bool) :=
  (List.range 16).map (fun n => (32 + n, true)) ++ [(32, false), (33, false)]
    ++ (List.range 32).flatMap fun p => [(p, true), (p, false)]

/-- Fewer than two deep exits began in the last 10 µs (R145). -/
def State.wakeRoom (s : State) : Bool :=
  decide ((s.power.wakes.filter (fun t => decide (s.nowNs < t + 10000))).length < 2)

/-- LANE_DEEP_EXIT_START: the first waiting deep exit begins where the ration allows. -/
def State.deepExitStart (s : State) : State :=
  if !s.wakeRoom then s
  else
    match wakeOrder.find? (fun x => if x.2 then (s.laneOf x.1).txWait else (s.laneOf x.1).rxWait) with
    | none => s
    | some (l, tx) =>
      let s := s.lane l fun x => if tx then { x with txWait := false } else { x with rxWait := false }
      { s with power := { s.power with
          wakes := s.nowNs :: s.power.wakes.filter (fun t => decide (s.nowNs < t + 10000)) } }

/-- Waiting exits begin as the ration allows at once: no more than two. -/
def State.startExits (s : State) : State := s.deepExitStart.deepExitStart

/-- A transmitter is asked for a state: 0 active, 1 shallow, 2 deep (R142 to R145). LIT of a Harvest lane follows the
request (R300). A deep exit of an unpowered lane does not begin. -/
def State.askTx (s : State) (l dest : Nat) : State :=
  let x := s.laneOf l
  let aim := if x.tx = 3 then x.txTo else x.tx
  if aim = dest ∨ ¬ s.pd (laneDomain l) then s
  else
    let s := if 32 ≤ l then s.pbit R.harv_LIT_LIT 0 (l - 32) (dest == 0) else s
    if x.tx = 0 then
      let s := if 32 ≤ l then s.sendControl (l - 32) 0x02 dest 8 else s
      s.lane l fun x => { x with tx := dest, txTo := dest }
    else if x.tx = 1 then
      s.lane l fun x => if dest = 0 then { x with tx := 3, txTo := 0, reqNs := s.nowNs } else { x with tx := 2, txTo := 2 }
    else if x.tx = 2 then
      let s := s.lane l fun x => { x with tx := 3, txTo := dest, txWait := true, reqNs := s.nowNs, lastOut := 0 }
      if 32 ≤ l then s.tx (l - 32) fun t => { t with blocks := 0, sending := t.sending.map fun h => { h with out := 0 } } else s
    else
      s.lane l fun x => if dest = 2 then { x with tx := 2, txTo := 2, txWait := false } else { x with txTo := dest }

/-- A receiver is asked for a state; in the deep state it gives up its lock without counting (R143). -/
def State.askRx (s : State) (l dest : Nat) : State :=
  let x := s.laneOf l
  let aim := if x.rx = 3 then x.rxTo else x.rx
  if aim = dest ∨ ¬ s.pd (laneDomain l) ∨ ¬ receives l then s
  else
    let s := if dest = 0 then s else (s.cutScan l).lane l fun x => { x with pausing := false }
    let s := if dest = 2 then s.dropBlockLock l false else s
    if x.rx = 0 then s.lane l fun x => { x with rx := dest, rxTo := dest }
    else if x.rx = 1 then
      s.lane l fun x => if dest = 0 then { x with rx := 3, rxTo := 0 } else { x with rx := 2, rxTo := 2 }
    else if x.rx = 2 then
      s.lane l fun x => { x with rx := 3, rxTo := dest, rxWait := true, blk := 0, valid := 0, slipped := true }
    else
      s.lane l fun x => if dest = 2 then { x with rx := 2, rxTo := 2, rxWait := false } else { x with rxTo := dest }

/-- LANE_EXIT_COMPLETE: a direction that changes and does not wait reaches its state. A receiver out of the shallow state
discards the first block (R143); a Harvest transmitter has sent IDLE meanwhile (R144) and becomes usable, and LIGHT_MAX takes the time since its request
(R297, R301). -/
def State.exitComplete (s : State) (l : Nat) (tx : Bool) : State :=
  let x := s.laneOf l
  if tx then
    if x.tx ≠ 3 ∨ x.txWait then s
    else
      let s := s.lane l fun x => { x with tx := x.txTo, upNs := s.nowNs }
      let s := if 32 ≤ l then s.sendIdle (l - 32) else s
      if 32 ≤ l ∧ x.txTo = 0 then
        (s.tx (l - 32) fun t => { t with locked := false, goodRun := 0 }).pmax R.harv_LIGHT_MAX_US 0
          (ceilDiv (s.nowNs - x.reqNs) 1000)
      else s
  else if x.rx ≠ 3 ∨ x.rxWait then s
  else s.lane l fun x => { x with rx := x.rxTo, discard := x.blk == 2 }

/-- SHALLOW_IDLE_BURST: a Harvest transmitter in the shallow state sends 64 IDLE blocks (R144). -/
def State.shallowBurst (s : State) (l : Nat) : State :=
  if 32 ≤ l ∧ l < 48 ∧ (s.laneOf l).tx = 1 then s.sendControl (l - 32) 0x01 0 64 else s

/-- A port is in use: enabled, or draining (R146, R149). -/
def State.portInUse (s : State) (n : Nat) : Bool := s.on R.ing_PORT_CFG_ENABLE n || (s.portOf n).drain.isSome

/-- A lane that stays active while the hub streams (R146). -/
def State.laneInUse (s : State) (l : Nat) : Bool :=
  s.streaming && (if l < 32 then s.portInUse l else l < 34)

/-- The state in which a direction of a lane is kept, whatever is asked of it: a standby's transmitters shallow or deep (R416),
a lane in use active (R146). -/
def State.keptIn (s : State) (l : Nat) (tx : Bool) : Option Nat :=
  if tx && decide (32 ≤ l) && s.standby then some (if l < 34 then 1 else 2)
  else if s.laneInUse l then some 0
  else none

/-- PWR_REQ of a lane takes effect; a direction that is kept in a state follows no other request (R146, R416). -/
def State.applyPower (s : State) (l : Nat) : State :=
  let x := s.laneOf l
  let ok := fun (tx : Bool) (dest : Nat) => match s.keptIn l tx with
    | some h => dest == h
    | none => true
  let tx := s.gi R.lane_PWR_REQ_TX_REQ l
  let rx := s.gi R.lane_PWR_REQ_RX_REQ l
  let rxOk := ok false rx
  let s := if x.txDue && ok true tx then s.askTx l tx else s
  let s := if x.rxDue && rxOk then s.askRx l rx else s
  s.lane l fun x => { x with txDue := false, rxDue := false }

/-- Requested lane states take effect at an orbit boundary (R146). -/
def State.lanesBoundary (s : State) : State := (forAll allLanes s State.applyPower).startExits

/-- The CAUSE under which one direction of a PWR_REQ write is ignored; none where it is not (R146, R148, R416). -/
def State.requestFault (s : State) (l : Nat) (tx : Bool) (dest : Nat) : Option Nat :=
  if dest = 3 then some 1
  else if !tx && !receives l then if dest = 2 then none else some 1
  else if (match s.keptIn l tx with
      | some h => dest != h
      | none => false) || (s.streaming && decide (34 ≤ l)) then some 2
  else none

/-- One direction of a PWR_REQ write stored for its boundary, unless it is ignored (R146, R148). -/
def State.requestState (s : State) (l : Nat) (tx : Bool) (dest : Nat) : State :=
  if (s.requestFault l tx dest).isSome || (!tx && !receives l) then s
  else if tx then (s.pi R.lane_PWR_REQ_TX_REQ l dest).lane l fun x => { x with txDue := true }
  else (s.pi R.lane_PWR_REQ_RX_REQ l dest).lane l fun x => { x with rxDue := true }

/-- A write of PWR_REQ of a lane: a direction that is ignored is counted, once for the write; what is stored takes effect at
once while the orbit has never locked (R146). -/
def State.lanePwrReq (s : State) (l : Nat) (w : Word) : State :=
  let tx := bitsAt w.toNat 0 2
  let rx := bitsAt w.toNat 2 2
  let t := (s.requestState l true tx).requestState l false rx
  let t := match (s.requestFault l true tx).orElse (fun _ => s.requestFault l false rx) with
    | some cause => t.err (lanePage l) cause 0x048
    | none => t
  if t.trellis.everLocked then t else (t.applyPower l).startExits

/-- Both directions of a lane that comes into use are requested active in that slot, and PWR_REQ reads 0 for both (R146).
DEDUCED, log entry 128. -/
def State.activatePort (s : State) (n : Nat) : State :=
  let s := ((s.pi R.lane_PWR_REQ_TX_REQ n 0).pi R.lane_PWR_REQ_RX_REQ n 0).lane n fun x =>
    { x with txDue := false, rxDue := false }
  ((s.askTx n 0).askRx n 0).startExits

/-- The receiver alone of a lane is requested active, and its RX_REQ reads 0. DEDUCED, log entry 128. -/
def State.activateRx (s : State) (n : Nat) : State :=
  (((s.pi R.lane_PWR_REQ_RX_REQ n 0).lane n fun x => { x with rxDue := false }).askRx n 0).startExits

/-- H00 and H01 are active while the hub streams (R146); the transmitters of a standby stay shallow (R416).
DEDUCED, log entry 128. -/
def State.activateUplink (s : State) : State :=
  forAll [32, 33] s fun s n => if s.standby then s.activateRx n else s.activatePort n

/-! ## Retraining pauses and the eye monitor (R141, R147) -/

/-- At a management frame every receiver comes a frame closer to its pause, and tending starts a scan on each. -/
def State.lanesFrame (s : State) : State :=
  forAll receivers s fun s l =>
    s.lane l fun x => { x with due := x.due + 1, scan := x.scan || (x.rx == 0 && s.pd (laneDomain l) && s.pd 2) }

/-- In a quiet window up to four receivers that are due are placed a pause, which starts at slot q + 2 (R141). -/
def State.retrainStart (s : State) : State :=
  let due := (receivers.filter fun l =>
    let x := s.laneOf l
    decide (s.gi R.lane_RETRAIN_INTERVAL l ≤ x.due) && x.rx == 0 && !x.pausing && s.pd (laneDomain l)).take 4
  forAll due s fun s l => s.lane l fun x => { x with due := 0, pausing := true, pauseAt := s.trellis.tick + 2 }

/-- The pauses that start in this slot cut the eye scans of their lanes (R141, R147). -/
def State.lanePauses (s : State) : State :=
  forAll (receivers.filter fun l => (s.laneOf l).pausing && (s.laneOf l).pauseAt == s.trellis.tick) s State.cutScan

/-- LANE_RETRAIN_END: a pause in progress ends and the slicer banks have exchanged roles (R141). -/
def State.retrainEnd (s : State) (l : Nat) : State :=
  if s.inPause l then
    let s := ((s.cutScan l).lane l fun x => { x with pausing := false, bank := !x.bank }).incW R.lane_RETRAIN_COUNT l 1
    { s with tend := { s.tend with pauses := s.tend.pauses ++ [l] } }
  else s

/-- EYE_SCAN_START: a write of EYE_CTRL of a lane (R147, R148). -/
def State.eyeCtrl (s : State) (l : Nat) (w : Word) : State :=
  if !receives l then s
  else
    let d := bitsAt w.toNat 1 5
    let s := if 10 ≤ d ∧ d ≤ 24 then s.pi R.lane_EYE_CTRL_DWELL l d else s.err (lanePage l) 1 0x064
    if !bitAt w.toNat 0 then s
    else
      let x := s.laneOf l
      if x.scan then s.err (lanePage l) 3 0x064
      else if s.inPause l || x.rx != 0 then s.pi R.lane_EYE_RESULT_VALID l 0
      else s.lane l fun x => { x with scan := true }

/-- The longest run of open points, a point being open where no more than 2^(DWELL − 12) decisions differ (R147). -/
def openRun (dwell : Nat) (counts : List Nat) : Nat :=
  (counts.foldl (fun (x : Nat × Nat) n =>
    let run := if n * 2 ^ 12 ≤ 2 ^ dwell then x.1 + 1 else 0
    (run, max x.2 run)) (0, 0)).2

/-- Width and height of an eye: its 64 phase positions, and its voltage offsets (R147). -/
def eyeSize (x : EyeIn) (dwell : Nat) : Nat × Nat := (openRun dwell (x.phases.take 64), openRun dwell x.volts)

/-- Of two eyes with their numbers the worse one, the first where they are alike: the narrower, or as narrow and lower.
DESIGN CHOICE, log entry 129. -/
def worseEye (x y : Nat × Nat × Nat) : Nat × Nat × Nat :=
  if y.2.1 < x.2.1 ∨ (y.2.1 = x.2.1 ∧ y.2.2 < x.2.2) then y else x

/-- The worst of three eyes: its number, width and height (R147). DESIGN CHOICE, log entry 129. -/
def eyeWorst (dwell : Nat) (low mid high : EyeIn) : Nat × Nat × Nat :=
  worseEye (worseEye (0, eyeSize low dwell) (1, eyeSize mid dwell)) (2, eyeSize high dwell)

/-- EYE_SCAN_DONE: a scan ends (R147); one that a pause has cut leaves no result. -/
def State.eyeScanDone (s : State) (l : Nat) (low mid high : EyeIn) (complete : Bool) : State :=
  if !(s.laneOf l).scan then s
  else
    let s := s.lane l fun x => { x with scan := false }
    if complete && !s.inPause l then
      let worst := eyeWorst (s.gi R.lane_EYE_CTRL_DWELL l) low mid high
      let s := (((s.pi R.lane_EYE_RESULT_WIDTH l (cap 127 worst.2.1)).pi R.lane_EYE_RESULT_HEIGHT l (cap 255 worst.2.2)).pi
        R.lane_EYE_RESULT_WORST l worst.1).pi R.lane_EYE_RESULT_VALID l 1
      { s with tend := { s.tend with eyes := s.tend.eyes ++ [l] } }
    else s.pi R.lane_EYE_RESULT_VALID l 0

/-- A power domain of lanes goes off: every lane of it is deep and unlocked. -/
def State.lanesOff (s : State) (pd : Nat) : State :=
  forAll (allLanes.filter (fun l => laneDomain l == pd)) s fun s l =>
    let s := (s.cutScan l).dropBlockLock l false
    let s := if 32 ≤ l then s.pbit R.harv_LIT_LIT 0 (l - 32) false else s
    s.lane l fun x =>
      { x with tx := 2, rx := 2, txTo := 2, rxTo := 2, txWait := false, rxWait := false, pausing := false, discard := false }

/-! ## Meanings -/

/-- RX_BLOCK. -/
def execRxBlock (lane : Nat) (symbols : List Nat) (s : State) : Host.Outcome State Fault Refusal :=
  .next (s.rxBlock lane symbols)

/-- BLOCK_LOCK_ACQUIRE. -/
def execBlockLockAcquire (lane : Nat) (s : State) : Host.Outcome State Fault Refusal := .next (s.blockLockAcquire lane)

/-- BLOCK_LOCK_LOSS. -/
def execBlockLockLoss (lane : Nat) (s : State) : Host.Outcome State Fault Refusal := .next (s.blockLockLoss lane)

/-- FRAME_LOCK_ACQUIRE. -/
def execFrameLockAcquire (lane : Nat) (s : State) : Host.Outcome State Fault Refusal := .next (s.frameLockAcquire lane)

/-- FRAME_LOCK_LOSS. -/
def execFrameLockLoss (lane : Nat) (s : State) : Host.Outcome State Fault Refusal := .next (s.frameLockLoss lane)

/-- LANE_RETRAIN_END. -/
def execLaneRetrainEnd (lane : Nat) (s : State) : Host.Outcome State Fault Refusal := .next (s.retrainEnd lane)

/-- LANE_DEEP_EXIT_START. -/
def execLaneDeepExitStart (s : State) : Host.Outcome State Fault Refusal := .next s.deepExitStart

/-- LANE_EXIT_COMPLETE. -/
def execLaneExitComplete (lane : Nat) (tx : Bool) (s : State) : Host.Outcome State Fault Refusal :=
  .next (s.exitComplete lane tx)

/-- SHALLOW_IDLE_BURST. -/
def execShallowIdleBurst (lane : Nat) (s : State) : Host.Outcome State Fault Refusal := .next (s.shallowBurst lane)

/-- EYE_SCAN_DONE. -/
def execEyeScanDone (lane : Nat) (low mid high : EyeIn) (complete : Bool) (s : State) : Host.Outcome State Fault Refusal :=
  .next (s.eyeScanDone lane low mid high complete)

end Sys2Proof.Machine
end

