-- ==== Sys2Proof/Machine/Tributary.lean ====
section
/-! DEFINITION. Tributary ports: the downlink block, fast and slow control, the common timeline, the class store,
clustering and the output group (R149 to R178, R527, R528). -/
namespace Sys2Proof.Machine

/-- The ports. -/
def allPorts : List Nat := List.range 32

/-! ## The downlink (R153 to R159) -/

/-- Slow-control entries of one block: up to four, FIRST only on the first of them and LAST only on the last (R155). -/
def scTake : (n : Nat) → (any : Bool) → List Nat → List Nat
  | 0, _, _ => []
  | _, _, [] => []
  | n + 1, any, e :: q =>
    if any && bitAt e 8 then [] else if bitAt e 9 then [e] else e :: scTake n true q

/-- The SC field of the entries of a block (R155). -/
def scField (es : List Nat) : Nat :=
  fromLe (es.map (BitVec.ofNat 8)) + 2 ^ 32 * es.length + 2 ^ 35 * b2n (bitAt (es.headD 0) 8)
    + 2 ^ 36 * b2n (bitAt (es.getLastD 0) 9)

/-- The 62 payload bits of a block (R153, R154). -/
def downlinkPayload (code : Nat) (active : Bool) (slot sc : Nat) : Nat :=
  let body := code + 128 * b2n active + 256 * (slot % 64) + 2 ^ 14 * sc
  body + 2 ^ 54 * natOfBits (crcBits (crc8 (bitsOfNat 54 body)))

/-- The fast command of a port's block of this slot: its code, the port after it, and the accept it carries (R157, R158). -/
def State.fastCommand (s : State) (p : Port) : Nat × Port × Option (Nat × Nat) :=
  let t := s.trellis
  let every := s.g R.ing_FC_CAL_CAL_EVERY
  if t.slot = s.g R.ing_FC_SCHED_OM_SLOT then (0x01, p, none)
  else if every ≠ 0 ∧ t.orbit % every = 0 ∧ t.slot = s.g R.ing_FC_SCHED_CAL_SLOT then (0x03, p, none)
  else match p.accepts with
    | a :: rest => (0x02, { p with accepts := rest }, some a)
    | [] => match p.reqs with
      | (c, true) :: rest => (c, { p with reqs := rest }, none)
      | _ => (0x00, p, none)

/-- The current slot began after the first lock of the orbit (R156). -/
def State.sinceLock (s : State) : Bool := s.trellis.lockTick.any (· < s.trellis.tick)

/-- When a port's downlink block starts, in 1/64 slot after the start of its slot: TX_LEAD of 2 slots and TX_PHASE (R156). -/
def State.downlinkStart (s : State) (n : Nat) : Nat := 128 + s.gi R.ing_PORT_CFG_TX_PHASE n

/-- DOWNLINK_BLOCK: the block of this slot of one port, if its transmitter is active and the slot began after the first lock. It
starts 2 slots and TX_PHASE/64 slot after the slot's start (R156). -/
def State.sendDownlink (s : State) (n : Nat) : State :=
  if (s.laneOf n).tx ≠ 0 ∨ ¬ s.pd (laneDomain n) ∨ ¬ s.pd 11 ∨ ¬ s.sinceLock then s
  else
    let start := s.downlinkStart n
    let (code, p, acc) := s.fastCommand (s.portOf n)
    let es := scTake 4 false p.txq
    let (sc, p) := match acc with
      | some (o, sl) => (sl % 2 ^ 14 + 2 ^ 16 * (o % 2 ^ 16), p)
      | none => (scField es, { p with txq := p.txq.drop es.length })
    let w := downlinkPayload code (!s.standby) s.trellis.slot sc
    let (s, sy) := (s.port n fun _ => p).sendBlock n [true, false] (bitsOfNat 62 w)
    s.emit (.downlink n start w sy (s.ffe n))

/-- The blocks of this slot. -/
def State.sendDownlinks (s : State) : State := forAll allPorts s State.sendDownlink

/-- An accept forwarded to the front ends whose port has TA_FWD set; 64 wait at most (R157, R158). -/
def State.forwardAccept (s : State) (orbit slot : Nat) : State :=
  forAll allPorts s fun s n =>
    if !s.on R.ing_PORT_CFG_TA_FWD n then s
    else if 64 ≤ (s.portOf n).accepts.length then s.inc R.ing_CNT_CMD_ACC n 1
    else s.port n fun p => { p with accepts := p.accepts ++ [(orbit, slot)] }

/-- A fast command queued at one port; 16 wait at most (R158). -/
def State.queueRequest (s : State) (code n : Nat) : State :=
  if 16 ≤ (s.portOf n).reqs.length then s.inc R.ing_CNT_CMD_REQ n 1
  else s.port n fun p => { p with reqs := p.reqs ++ [(code, false)] }

/-- FC_REQ_WRITE (R158, R177). -/
def State.fcReq (s : State) (w : Word) : State :=
  let code := bitsAt w.toNat 0 7
  if !(code == 4 || code == 5 || decide (0x10 ≤ code ∧ code ≤ 0x1F)) then s.err 0x032 1 0x058
  else
    let dests := if bitAt w.toNat 7 then allPorts.filter (fun n => s.on R.ing_PORT_CFG_ENABLE n)
      else [s.g R.ing_PORT_INDEX_PORT]
    forAll dests s fun s n => s.queueRequest code n

/-- At an orbit boundary every waiting request may go (R158). -/
def State.requestsBoundary (s : State) : State :=
  { s with ports := s.ports.map fun p => { p with reqs := p.reqs.map fun r => (r.1, true) } }

/-- SC_TX_WRITE: a byte queued for the indexed port; 256 wait at most (R155, R177). -/
def State.scTx (s : State) (w : Word) : State :=
  let n := s.g R.ing_PORT_INDEX_PORT
  if 256 ≤ (s.portOf n).txq.length then s.err 0x032 3 0x05C
  else s.port n fun p => { p with txq := p.txq ++ [bitsAt w.toNat 0 10] }

/-- SC_RX_READ: the oldest reply byte of the indexed port leaves its queue (R160, R177): the state and the word read. -/
def State.scRx (s : State) : State × Nat :=
  let n := s.g R.ing_PORT_INDEX_PORT
  match (s.portOf n).rxq with
  | [] => (s, 0)
  | e :: rest => (s.port n fun p => { p with rxq := rest }, e + 2 ^ 10)

/-! ## Frames (R150, R151, R160) -/

/-- ORIGIN, NHIT, STATUS and the valid hit words of a frame. -/
def frameOrigin (f : BitVec 504) : Nat := bitsAt f.toNat 0 14
/-- NHIT. -/
def frameNhit (f : BitVec 504) : Nat := bitsAt f.toNat 14 4
/-- STATUS. -/
def frameStatus (f : BitVec 504) : Nat := bitsAt f.toNat 18 6
/-- Hit words below NHIT. -/
def frameHits (f : BitVec 504) : List Nat := (List.range (frameNhit f)).map fun h => bitsAt f.toNat (24 + 32 * h) 32

/-- Reply words are removed and their bytes queued; 256 wait at most (R160). -/
def State.takeReplies (s : State) (n : Nat) (words : List Nat) : State × List Nat :=
  if !s.on R.ing_PORT_CFG_SC_REPLY_EN n then (s, words)
  else
    let reply := fun (w : Nat) => w / 2 ^ 14 == 0x3FFFF
    ((words.filter reply).foldl (fun s w =>
        if 256 ≤ (s.portOf n).rxq.length then s.inc R.ing_CNT_MISC_SC_OVF n 1
        else s.port n fun p =>
          { p with rxq := p.rxq ++ [bitsAt w 6 8 + 256 * bitsAt w 5 1 + 512 * bitsAt w 4 1] }) s,
     words.filter (fun w => !reply w))

/-! ## The class store, calibration and clustering (R166 to R171) -/

/-- A hit after its class: its word, whether it is offered to clustering, and the clamps that acted. -/
structure Hit where
  word : Nat
  hold : Bool
  vsat : Bool
  fsat : Bool
  deriving DecidableEq, Repr

/-- CH of a hit word. -/
def hitCh (w : Nat) : Nat := w / 2 ^ 14
/-- VALUE of a hit word. -/
def hitValue (w : Nat) : Nat := bitsAt w 4 10
/-- FT of a hit word. -/
def hitFt (w : Nat) : Nat := w % 16

/-- The class of a channel of a port under settings `m` (R166). -/
def classOf (m : NMap) (n ch : Nat) : Nat :=
  bitsAt (mapGet m R.cwin_CS_DATA_CLASSES (n * 32768 + ch / 8)) (4 * (ch % 8)) 4

/-- Calibration (R168): VALUE', FT', VSAT, FSAT. -/
def calibrate (value ft : Nat) (offset : Int) (gain : Nat) (fto : Int) : Nat × Nat × Bool × Bool :=
  let v := Int.fdiv (((value : Int) - offset) * gain + 2048) 4096
  let f := (ft : Int) + fto
  let v' := clampTo 0 1023 v
  let f' := clampTo 0 15 f
  (v'.toNat, f'.toNat, v' != v, f' != f)

/-- A hit under its class: none where it is dropped (R167). -/
def classHit (m : NMap) (n : Nat) (cluster : Bool) (w : Nat) : Option Hit :=
  let i := n * 16 + classOf m n (hitCh w)
  let action := mapGet m R.ing_CLS_CFG_ACTION i
  if action = 3 then none
  else if action = 0 then some ⟨w, false, false, false⟩
  else
    let (v, f, vs, fs) := calibrate (hitValue w) (hitFt w) (sext 10 (mapGet m R.ing_CLS_CFG_OFFSET i))
      (mapGet m R.ing_CLS_GAIN_GAIN i) (sext 5 (mapGet m R.ing_CLS_CFG_FTO i))
    some ⟨hitCh w * 2 ^ 14 + v * 16 + f, action == 2 && cluster, vs, fs⟩

/-- The runs of R171 over hits in channel order, each a position in the frame and a word. A hit that repeats the channel
before it ends the run and is a run of its own that nothing joins. -/
def clusterRuns (hits : List (Nat × Nat)) : List (List (Nat × Nat)) :=
  let step := fun (st : List (List (Nat × Nat)) × List (Nat × Nat) × Option Nat) (w : Nat × Nat) =>
    let (runs, cur, prev) := st
    let ch := hitCh w.2
    if prev = some ch then (runs ++ [cur, [w]], [], some ch)
    else match cur.getLast? with
      | some l => if ch = hitCh l.2 + 1 then (runs, cur ++ [w], some ch) else (runs ++ [cur], [w], some ch)
      | none => (runs, [w], some ch)
  let (runs, cur, _) := hits.foldl step ([], [], none)
  (runs ++ [cur]).filter (fun r => !r.isEmpty)

/-- The two words of a cluster record (R173). -/
def clusterWords (run : List Nat) : List Nat :=
  let best := run.foldl (fun b w => if hitValue b < hitValue w then w else b) (run.headD 0)
  let first := hitCh (run.headD 0)
  [first * 2 ^ 14 + hitValue best * 16 + hitFt best,
   run.length * 2 ^ 28 + sumNat (run.map hitValue) * 2 ^ 14 + (hitCh best - first) * 2 ^ 10]

/-! ## The output group (R172, R173) -/

/-- How a frame was classified (R161). -/
structure FrameKind where
  late : Bool
  dup : Bool
  bado : Bool
  herr : Bool
  deriving DecidableEq, Repr

/-- The group of a frame under settings `m`: DROP_COUNT, CNT_HERR and RELOCK act with it. -/
def State.formGroup (s : State) (m : NMap) (n origin status orbit : Nat) (words : List Nat) (k : FrameKind) :
    State × List Byte :=
  let cluster := mapGet m R.ing_PORT_CFG_CLUSTER_EN n == 1
  let classed := words.zipIdx.map fun (w, i) => (i, w, classHit m n cluster w)
  let dropped := (classed.filter (fun x => x.2.2.isNone)).map (·.2.1)
  let hits := classed.filterMap fun x => x.2.2.map fun h => (x.1, h)
  let held := (hits.filter (·.2.hold)).map fun x => (x.1, x.2.word)
  let runs := clusterRuns (sortBy (fun a b => decide (hitCh a.2 < hitCh b.2)) held)
  let clusters := (runs.filter (fun r => decide (2 ≤ r.length))).map fun r => r.map (·.2)
  let lone := (runs.filter (fun r => decide (r.length < 2))).flatten
  let free := (hits.filter (fun x => !x.2.hold)).map fun x => (x.1, x.2.word)
  let plain := (sortBy (fun a b => decide (a.1 < b.1)) (free ++ lone)).map (·.2)
  let relock := (s.portOf n).relock
  let s := dropped.foldl (fun s w => s.inc R.ing_DROP_COUNT_COUNT (n * 16 + classOf m n (hitCh w)) 1) s
  let s := if k.herr then s.inc R.ing_CNT_HERR_HERR n 1 else s
  let s := s.port n fun p => { p with relock := false }
  let head := origin % 2 ^ 14 + 2 ^ 14 * n + 2 ^ 19 * plain.length + 2 ^ 23 * clusters.length + 2 ^ 26 * status
    + 2 ^ 32 * b2n k.late + 2 ^ 33 * b2n k.dup + 2 ^ 34 * b2n k.bado + 2 ^ 35 * b2n k.herr + 2 ^ 36 * b2n relock
    + 2 ^ 37 * b2n (hits.any (·.2.vsat)) + 2 ^ 38 * b2n (hits.any (·.2.fsat)) + 2 ^ 40 * cap 15 dropped.length
    + 2 ^ 48 * (orbit % 2 ^ 16)
  (s, le 8 head ++ (plain ++ clusters.flatMap clusterWords).flatMap (le 4))

/-- A group enters the late queue; it is eligible 4 slots after its frame arrived (R163). -/
def State.queueGroup (s : State) (n orbit slot : Nat) (bytes : List Byte) : State :=
  s.port n fun p => { p with late := p.late ++ [⟨orbit, slot, s.trellis.tick + 4, bytes⟩] }

/-- A frame of an origin of the port's timeline (R161). -/
def State.classifyFrame (s : State) (n herr : Nat) (f : BitVec 504) (words : List Nat) : State :=
  let t := s.trellis
  let p := s.portOf n
  let lat := s.g R.ing_ALIGN_LAT
  let origin := frameOrigin f
  let receiving := match p.drain with
    | some q => decide (t.tick < q + lat + 4)
    | none => true
  if p.first.isNone || !s.intake then s
  else if s.nSlot ≤ origin then
    if !receiving then s
    else
      let (s, g) := (s.inc R.ing_CNT_MISC_BADO n 1).formGroup s.regs n origin (frameStatus f) t.orbit words
        ⟨false, false, true, herr != 0⟩
      s.queueGroup n t.orbit origin g
  else
    let a := (t.slot + s.nSlot - origin) % max 1 s.nSlot
    let at_ : Int := (t.tick : Int) - a
    let orbit := if origin ≤ t.slot then t.orbit else t.orbit - 1
    let inStream := match p.first with
      | some q => decide ((q : Int) ≤ at_)
      | none => false
    let drained := match p.drain with
      | some q => decide ((q : Int) ≤ at_)
      | none => false
    if !inStream || drained || !receiving then s
    else
      let onTime := decide (a + 4 ≤ lat)
      let dup := p.onTime.any (fun g => g.at_ == t.tick - a + lat)
      if onTime && !dup then
        let (s, g) := s.formGroup (s.mapFor (t.tick - a)) n origin (frameStatus f) orbit words ⟨false, false, false, herr != 0⟩
        s.port n fun p => { p with onTime := p.onTime ++ [⟨orbit, origin, t.tick - a + lat, g⟩] }
      else
        let s := if onTime then s.inc R.ing_CNT_LATE_DUP n 1 else s.inc R.ing_CNT_LATE_LATE n 1
        let (s, g) := s.formGroup s.regs n origin (frameStatus f) orbit words ⟨!onTime, onTime, false, herr != 0⟩
        s.queueGroup n orbit origin g

/-- TRIB_FRAME: the frame that the lane's four blocks have brought in this slot; bit j of `herr` marks a header error of block j
(R161, R527). -/
def State.tribFrame (s : State) (n herr : Nat) (f : BitVec 504) : State :=
  if !s.portInUse n || !s.pd 11 || s.lastFrame n != some (herr, f.toNat) then s
  else
    let s := (s.takeFrame n).inc R.ing_CNT_FRAMES_FRAMES n 1
    if bitAt herr 0 then s.inc R.ing_CNT_HERR_HERR n 1
    else
      let s := s.pi R.ing_PORT_STAT_STATUS n (frameStatus f)
      if frameOrigin f = 0x3FFF then s.inc R.ing_CNT_FRAMES_FILLER n 1
      else
        let (s, words) := s.takeReplies n (frameHits f)
        s.classifyFrame n (herr % 16) f words

/-! ## Delivery (R163, R165, R174) -/

/-- What a port delivers in this slot. -/
def State.deliverPort (s : State) (n : Nat) : State × Option RecUnit :=
  let t := s.trellis
  let p := s.portOf n
  match p.first with
  | none => (s, none)
  | some q =>
    if !s.portInUse n || !s.pd 11 then (s, none)
    else
      let lat := s.g R.ing_ALIGN_LAT
      let m := s.mapFor (t.tick - lat)
      match p.onTime.find? (fun g => g.at_ == t.tick) with
      | some g =>
        (s.port n fun p => { p with onTime := p.onTime.filter (fun x => x.at_ != t.tick) },
         some ⟨mapGet m R.ing_PORT_CFG_FURROW n, if mapGet m R.ing_PORT_CFG_CLUSTER_EN n = 1 then 0x11 else 0x10,
           g.orbit, g.slot, g.bytes, false, false⟩)
      | none =>
        let open_ := match p.drain with
          | some d => decide (t.tick < d + lat)
          | none => true
        let s := if q + lat ≤ t.tick && open_ then s.inc R.ing_CNT_GAP_GAP n 1 else s
        match p.late with
        | g :: rest =>
          if g.at_ ≤ t.tick then
            (s.port n fun p => { p with late := rest },
             some ⟨s.g R.ing_LATE_FURROW_FURROW, 0x12, g.orbit, g.slot, g.bytes, false, true⟩)
          else (s, none)
        | [] => (s, none)

/-- CPAR set in a group's header (R122, R172). -/
def markCpar (bytes : List Byte) : List Byte := modAt bytes 4 (fun b => b ||| 0x80#8)

/-- The tributary output of a cycle, in port order: groups lie end to end in transfers 12 to 16 (R120), and a parity error
marks every group its transfer carries in part (R122). -/
def State.tribOutput (s : State) (parity : List Nat) : State × List RecUnit :=
  let (s, units, _) := allPorts.foldl (fun (x : State × List RecUnit × Nat) n =>
    let (s, us, off) := x
    match s.deliverPort n with
    | (s, none) => (s, us, off)
    | (s, some u) =>
      let hit := parity.any fun t => decide (12 + off / 512 ≤ t ∧ t ≤ 12 + (off + u.bytes.length - 1) / 512)
      (s, us ++ [if hit then { u with bytes := markCpar u.bytes } else u], off + u.bytes.length)) (s, [], 0)
  (s, units)

/-! ## The timeline of a port (R527, R528) -/

/-- A port's aligner emptied. -/
def Port.clear (p : Port) : Port := { p with onTime := [], late := [] }

/-- At STREAM_START the timelines of the enabled ports start at this slot. -/
def State.startPorts (s : State) : State :=
  forAll allPorts s fun s n =>
    let en := s.on R.ing_PORT_CFG_ENABLE n
    let s := s.port n fun p => { p.clear with first := if en then some s.trellis.tick else none, drain := none }
    if en then s.activatePort n else s

/-- Record intake has ended: no port has a timeline. -/
def State.stopPorts (s : State) : State :=
  { s with ports := s.ports.map fun p => { p.clear with first := none, drain := none } }

/-- A commit changed ENABLE of a port while the hub streams, at this slot: its timeline starts, or it drains. -/
def State.portEnableChanged (s : State) (n : Nat) : State :=
  if s.on R.ing_PORT_CFG_ENABLE n then
    (s.port n fun p => { (if p.drain.isSome then p else p.clear) with first := some s.trellis.tick, drain := none }).activatePort n
  else s.port n fun p => if p.first.isSome then { p with drain := some s.trellis.tick } else p

/-- PORT_DRAIN_END: a draining port's last deadline has passed and its late queue is empty (R528). -/
def State.portDrainEnd (s : State) (n : Nat) : State :=
  let p := s.portOf n
  match p.drain with
  | some q =>
    if q + s.g R.ing_ALIGN_LAT + 4 ≤ s.trellis.tick ∧ p.late = [] then
      s.port n fun p => { p.clear with first := none, drain := none }
    else s
  | none => s

/-! ## Meanings -/

/-- TRIB_FRAME. -/
def execTribFrame (port herr : Nat) (bits : BitVec 504) (s : State) : Host.Outcome State Fault Refusal :=
  .next (s.tribFrame port herr bits)

/-- PORT_DRAIN_END. -/
def execPortDrainEnd (port : Nat) (s : State) : Host.Outcome State Fault Refusal := .next (s.portDrainEnd port)

end Sys2Proof.Machine
end

