-- ==== Sys2Proof/Machine/Budget.lean ====
section
/-! DEFINITION. The stream budget: routing rules, charges, the four checks, the rings and the report; look-back requests
(R199 to R202, R208 to R214, R218). Everything is read from a register map, the one in effect or the one a commit
would produce. -/
namespace Sys2Proof.Machine

/-! ## Exact fractions -/

/-- A non-negative fraction. -/
structure Q where
  n : Nat
  d : Nat
  deriving DecidableEq, Repr

/-- A fraction from a numerator and a denominator, reduced. -/
def Q.mk' (n d : Nat) : Q := let g := Nat.gcd n d; if g = 0 then ⟨0, 1⟩ else ⟨n / g, d / g⟩

/-- A whole number. -/
def Q.nat (n : Nat) : Q := ⟨n, 1⟩

/-- Sum. -/
def Q.plus (a b : Q) : Q := Q.mk' (a.n * b.d + b.n * a.d) (a.d * b.d)

/-- Product. -/
def Q.times (a b : Q) : Q := Q.mk' (a.n * b.n) (a.d * b.d)

/-- Strictly less. -/
def Q.lt (a b : Q) : Bool := decide (a.n * b.d < b.n * a.d)

/-- The least whole number not below. -/
def Q.ceil (a : Q) : Nat := ceilDiv a.n a.d

/-- Sum of a list. -/
def Q.sum (l : List Q) : Q := l.foldl Q.plus (Q.nat 0)

/-- A figure of the report: whole, its rounding not stated (R211; log entry 4). -/
def Q.figure (a : Q) : Nat := cap (2 ^ 32 - 1) (freeQuot a.n a.d).toNat

/-! ## The configuration a map holds -/

/-- Instances of a one-bit field that are set in a map, rising, where the field resets to 0. -/
def setInstances (m : NMap) (f : Fld) : List Nat :=
  m.filterMap fun (k, v) => if k / 2 ^ 20 = f.addr * 32 + f.lsb ∧ v = 1 then some (k % 2 ^ 20) else none

/-- The enabled furrows of a map. -/
def enabledIn (m : NMap) : List Nat := setInstances m R.fwin_D_CFG_ENABLE

/-- k of a map. -/
def kOf (m : NMap) : Nat := 2 ^ min 2 (mapGet m R.trellis_TIMING_KSEL 0)

/-- N_slot of a map. -/
def nSlotOf (m : NMap) : Nat := max 1 (mapGet m R.trellis_TIMING_NSLOT 0)

/-- f_BC of a map. -/
def fBCOf (m : NMap) : Nat := mapGet m R.trellis_BC_NOMINAL_FREQ 0

/-- h and P_min of a class (R200). -/
def classFigures (m : NMap) (cls : Nat) : Q × Nat :=
  match cls with
  | 0x02 => (⟨10082, 10000⟩, 3938)
  | 0x03 => if kOf m = 4 then (⟨10084, 10000⟩, 3810) else (⟨10082, 10000⟩, 3938)
  | 0x10 | 0x11 | 0x12 => (⟨10081, 10000⟩, 3998)
  | 0x20 => (⟨10080, 10000⟩, 4064)
  | _ => (⟨10080, 10000⟩, 4002)

/-- Worst-case bytes of a bed group in a mode (R201). -/
def groupBytes (m : NMap) (mode : Nat) : Nat :=
  if mode = 1 then 64 else if mode = 2 then 128 else if kOf m = 4 then 256 else 128

/-- A source of records: its furrow, the class it produces and its worst case per slot (R201). -/
structure Source where
  furrow : Nat
  cls : Nat
  bytes : Nat
  deriving DecidableEq, Repr

/-- The enabled ports. -/
def portsIn (m : NMap) : List Nat := allPorts.filter fun p => mapGet m R.ing_PORT_CFG_ENABLE p == 1

/-- The late furrow. -/
def lateFurrow (m : NMap) : Nat := mapGet m R.ing_LATE_FURROW_FURROW 0

/-- The sources of beds and ports (R101, R174). -/
def sources (m : NMap) : List Source :=
  let ports := portsIn m
  ((List.range 24).filterMap fun b =>
      let mode := mapGet m R.rec_BED_CFG_MODE b
      if mode = 0 then none else some ⟨mapGet m R.rec_BED_CFG_FURROW b, mode, groupBytes m mode⟩)
    ++ ports.map (fun p =>
      ⟨mapGet m R.ing_PORT_CFG_FURROW p, if mapGet m R.ing_PORT_CFG_CLUSTER_EN p = 1 then 0x11 else 0x10, 68⟩)
    ++ (if ports = [] then [] else [⟨lateFurrow m, 0x12, 68 * ports.length⟩])

/-- CLASS of a furrow. -/
def furrowClass (m : NMap) (f : Nat) : Nat := mapGet m R.fwin_D_CFG_CLASS f

/-- LANES of a furrow (R202). -/
def lanesIn (m : NMap) (f : Nat) : Nat := if hubFurrow f then 0xFFFF else mapGet m R.fwin_D_LANES_LANES f

/-! ## In-service memory, as MEMCTL and SPARE report it -/

/-- In-service bytes. -/
def capacityBytes (m : NMap) : Nat := mapGet m R.memctl_CAPACITY_GIB 0 * 2 ^ 30

/-- The first address a ring may hold: 1 GiB, or the 22 MiB of R251 in a degraded step (R202, R260). -/
def ringFloor (m : NMap) : Nat := if mapGet m R.spare_DEGRADE_STEP 0 = 0 then 2 ^ 30 else 0x01600000

/-! ## The rules of R199, R201, R202 and R208 on descriptors and routing -/

/-- A furrow that may be enabled, its AGE, SIZE and LANES in the ranges of R201: this holds for an image too (R199, R201). -/
def descriptorSound (m : NMap) (f : Nat) : Bool :=
  let size := mapGet m R.fwin_D_BASE_SIZE f
  (decide (f ≤ 5) || decide (0x100 ≤ f)) && decide (1 ≤ mapGet m R.fwin_D_CFG_AGE f) && decide (16 ≤ size ∧ size ≤ 35) && lanesIn m f != 0

/-- One enabled descriptor. -/
def descriptorOk (m : NMap) (f : Nat) : Bool :=
  let cls := furrowClass m f
  let size := mapGet m R.fwin_D_BASE_SIZE f
  let base := mapGet m R.fwin_D_BASE_BASE f * 65536
  (if f ≤ 5 then cls == hubClass f else decide (0x100 ≤ f) && groupClass cls)
    && descriptorSound m f
    && (!hubFurrow f || decide (mapGet m R.fwin_D_CFG_EFFORT f ≤ 3))
    && base % 2 ^ size == 0 && decide (ringFloor m ≤ base) && decide (base + 2 ^ size ≤ capacityBytes m)

/-- The enabled rings lie apart (R202). -/
def ringsApart (m : NMap) : Bool :=
  let rings := sortBy (fun a b => decide (a.1 < b.1))
    ((enabledIn m).map fun f => (mapGet m R.fwin_D_BASE_BASE f * 65536, 2 ^ mapGet m R.fwin_D_BASE_SIZE f))
  (List.zip rings (rings.drop 1)).all fun (a, b) => decide (a.1 + a.2 ≤ b.1)

/-- The routing into one furrow, enabled or not (R174, R175, R201). DEDUCED, log entry 143. -/
def routeOk (m : NMap) (srcs : List Source) (f : Nat) : Bool :=
  let here := srcs.filter (fun x => x.furrow == f)
  let total := sumNat (here.map (·.bytes))
  let worst := mapGet m R.fwin_D_WORST_WORST f
  decide (total ≤ 4000) && here.all (fun x => x.cls == furrowClass m f)
    && (if furrowClass m f = 0x12 then worst == 0 else decide (total * nSlotOf m ≤ worst))

/-- The rules a commit, or STREAM_START, is held to; `streaming` where the hub streams or is about to.
DEDUCED, log entry 143. -/
def furrowRules (m : NMap) (streaming : Bool) : Bool :=
  let en := enabledIn m
  let srcs := sources m
  decide (en.length ≤ 1024) && en.all (descriptorOk m) && ringsApart m
    && (!streaming || (List.range 6).all fun f => mapGet m R.fwin_D_CFG_ENABLE f == 1)
    && (srcs.map (·.furrow)).eraseDups.all (routeOk m srcs)
    && (mapGet m R.fwin_D_CFG_ENABLE (lateFurrow m) == 0 || furrowClass m (lateFurrow m) != 0x12
        || mapGet m R.fwin_D_WORST_WORST (lateFurrow m) == 0)

/-- The fast-sum furrow number (R194). -/
def fsumFurrowOk (m : NMap) : Bool :=
  let f := mapGet m R.fsum_CTRL_FURROW 0
  decide (0x100 ≤ f) && !(enabledIn m).contains f

/-! ## Charges (R208) -/

/-- D_f in bytes per slot. -/
def declared (m : NMap) (f : Nat) : Q :=
  if f = 2 then Q.nat 2 else Q.mk' (mapGet m R.fwin_D_WORST_WORST f) (nSlotOf m)

/-- 1 / (64 × AGE). -/
def ageTerm (m : NMap) (f : Nat) : Q := ⟨1, 64 * max 1 (mapGet m R.fwin_D_CFG_AGE f)⟩

/-- W_f in bytes per second. -/
def charge (m : NMap) (f : Nat) : Q :=
  let cls := furrowClass m f
  let c := ((declared m f).times (classFigures m cls).1).plus ((Q.nat 32).times (ageTerm m f))
  (Q.nat (fBCOf m)).times (if 1 ≤ cls ∧ cls ≤ 0x12 then c.plus ⟨235, 1000⟩ else c)

/-- H in bytes per second. -/
def hubAllowance : Nat := 500000000

/-- LB in bytes per second. -/
def lookReserve (m : NMap) : Nat := mapGet m R.bud_RESERVE_LB 0 * 500000000

/-- S in bytes per second. -/
def scrubRate (m : NMap) : Q := Q.mk' (64 * 2 ^ 30) (max 1 (mapGet m R.scrub_CFG_PERIOD 0))

/-- MIG in bytes per second. -/
def migRate : Nat := 24000000000

/-- FS in bytes per second. -/
def fastRate (m : NMap) : Nat := fBCOf m * fsumBytes m

/-- The guaranteed engine throughput of a level in bytes per second (R209). -/
def throughput (level : Nat) : Nat :=
  match level with
  | 4 => 4000000000
  | 5 => 3000000000
  | 6 => 2000000000
  | 7 => 1000000000
  | _ => 6000000000

/-- Payload bytes per second of one lane. -/
def laneRate : Nat := 12862500000

/-! ## The checks (R209) and the report (R211) -/

/-- An item: furrow, KIND, CHECK, the share, and its weight in the order of items. -/
structure Item where
  furrow : Nat
  kind : Nat
  check : Nat
  amount : Q
  weight : Q
  deriving DecidableEq, Repr

/-- A report: RESULT, four demands and capacities in their units, items in order. -/
structure Report where
  result : Nat
  demand : List Nat
  capacity : List Nat
  items : List Item
  deriving DecidableEq, Repr

/-- The parts of a demand: furrow, KIND and bytes per second (engines for B3). -/
abbrev Parts := List (Nat × Nat × Q)

/-- The furrows the budget charges by c_f: user-assigned furrows and marks. -/
def chargedFurrows (m : NMap) : List Nat := (enabledIn m).filter (fun f => !hubFurrow f)

/-- The level a furrow is charged at in B3: a port furrow at the slower of its own and the late furrow's (R209). -/
def levelOf (m : NMap) (f : Nat) : Nat :=
  let own := mapGet m R.fwin_D_CFG_EFFORT f
  let cls := furrowClass m f
  if cls = 0x10 ∨ cls = 0x11 then
    let late := lateFurrow m
    if mapGet m R.fwin_D_CFG_ENABLE late = 1 then max own (mapGet m R.fwin_D_CFG_EFFORT late) else own
  else own

/-- T_min (R209). -/
def slowest (m : NMap) : Nat :=
  (enabledIn m).foldl (fun t f => min t (throughput (mapGet m R.fwin_D_CFG_EFFORT f))) 6000000000

/-- The parts of the four demands. -/
def demandParts (m : NMap) : List Parts :=
  let fs := (chargedFurrows m).map fun f => (f, charge m f)
  let w : Parts := fs.map fun x => (x.1, 0, x.2)
  let hub := fun (n : Nat) => ((0xFFFF, 1, Q.nat n) : Nat × Nat × Q)
  let lb := lookReserve m
  [w ++ [hub hubAllowance],
   w.map (fun x => (x.1, x.2.1, x.2.2.times (Q.nat 2))) ++ [hub (2 * hubAllowance), (0xFFFF, 2, Q.nat lb),
     (0xFFFF, 4, scrubRate m), (0xFFFF, 5, Q.nat migRate)],
   fs.map (fun x => (x.1, 0, x.2.times ⟨1, throughput (levelOf m x.1)⟩))
     ++ [(0xFFFF, 1, ⟨hubAllowance, 6000000000⟩), (0xFFFF, 2, ⟨lb, slowest m⟩)],
   w ++ [hub hubAllowance, (0xFFFF, 2, Q.nat lb), (0xFFFF, 3, Q.nat (fastRate m))]]

/-- The four capacities, in bytes per second and engines; B2 on eight ports or on seven. -/
def capacities (m : NMap) : List Nat :=
  [240000000000, if popcount 8 (mapGet m R.memctl_CAPACITY_PORTS 0) = 8 then 436900000000 else 382300000000, 36,
   205800000000]

/-- The lanes condition of B4 for a mask. -/
def maskOk (m : NMap) (mask : Nat) : Bool :=
  let here := ((chargedFurrows m).filter fun f => (lanesIn m f &&& mask) == lanesIn m f).map (charge m)
  let fs := if bitAt mask (mapGet m R.fsum_CTRL_LANE 0) then fastRate m else 0
  !(Q.nat (laneRate * popcount 16 mask)).lt (Q.sum (Q.nat fs :: here))

/-- W in bytes per second (R208). -/
def demandW (m : NMap) : Q := (Q.sum ((chargedFurrows m).map (charge m))).plus (Q.nat hubAllowance)

/-- The re-send rate after a takeover, in whole bytes per second; none where it is 0 (R426). -/
def resendRate (m : NMap) : Option Nat :=
  let used := (demandW m).ceil + fastRate m
  let r := min (migRate + lookReserve m) (205800000000 - used)
  if r = 0 then none else some r

/-- The time a ring covers beyond RETAIN, in µs: ACK_WINDOW + T_lit, or T_pair of an armed hub (R214, R426). -/
def ringWindow (m : NMap) : Q :=
  let base := Q.nat (mapGet m R.bud_ACK_WIN_WINDOW 0 + 130)
  if mapGet m R.graft_CFG_ARMED 0 = 0 then base
  else
    let un := base.plus (Q.mk' (3 * nSlotOf m * 1000000) (max 1 (fBCOf m)))
    let w := demandW m
    let used := w.plus (Q.nat (fastRate m))
    let room := Q.mk' (205800000000 * used.d - used.n) used.d
    let r := if room.lt (Q.nat (migRate + lookReserve m)) then room else Q.nat (migRate + lookReserve m)
    un.plus (un.times (w.times ⟨r.d, max 1 r.n⟩))

/-- Segments a ring must hold (R214, R426). -/
def segsNeeded (m : NMap) (f : Nat) : Nat :=
  let fbc := fBCOf m
  let slots := ((Q.nat fbc).times ((ringWindow m).times ⟨1, 1000000⟩)).plus
    (Q.nat (mapGet m R.fwin_D_RETAIN_RETAIN f * nSlotOf m))
  let per := match allowanceCeiling f with
    | some c => Q.mk' (2 * c) (4096 * max 1 fbc)
    | none =>
      let d := if f = lateFurrow m ∧ furrowClass m f = 0x12 then Q.nat (68 * (portsIn m).length) else declared m f
      ((d.plus ⟨235, 1000⟩).times ⟨1, (classFigures m (furrowClass m f)).2⟩).plus (ageTerm m f)
  (per.times slots).ceil + 4

/-- Rings too small, with the segments missing; 0xFFFF where the rings and the table area exceed the memory (R214). -/
def ringShort (m : NMap) : List (Nat × Nat × Nat) :=
  let en := enabledIn m
  let small := en.filterMap fun f =>
    let have_ := 2 ^ (mapGet m R.fwin_D_BASE_SIZE f - 12)
    let need := segsNeeded m f
    if have_ < need then some (f, need - have_, need) else none
  let total := ringFloor m + sumNat (en.map fun f => 2 ^ mapGet m R.fwin_D_BASE_SIZE f)
  let room := capacityBytes m
  let noRate := mapGet m R.graft_CFG_ARMED 0 == 1 && (resendRate m).isNone && !en.isEmpty
  small ++ (if noRate && small.isEmpty then [(0xFFFF, 0, 1)] else []) ++ (if room < total then [(0xFFFF, ceilDiv (total - room) 4096, total / 4096)] else [])

/-- The report of a configuration whose BC_NOMINAL is not 0. -/
def report (m : NMap) : Report :=
  let parts := demandParts m
  let demands := parts.map fun p => Q.sum (p.map (·.2.2))
  let caps := capacities m
  let masksOk := ((enabledIn m).map (lanesIn m)).eraseDups.all (maskOk m)
  let failed := (List.range 4).map fun i =>
    (Q.nat (caps.getD i 0)).lt (demands.getD i (Q.nat 0)) || (i == 3 && !masksOk)
  let unit := fun (i : Nat) (a : Q) => if i = 2 then a.times (Q.nat 1000) else a.times ⟨1, 1000000⟩
  let short := ringShort m
  let items := ((List.range 4).flatMap fun i =>
      if failed.getD i false then
        let d := demands.getD i (Q.nat 1)
        ((parts.getD i []).filter (fun x => x.2.2.n != 0)).map fun x =>
          (⟨x.1, x.2.1, i + 1, unit i x.2.2, x.2.2.times ⟨d.d, d.n⟩⟩ : Item)
      else [])
    ++ short.map fun x => ⟨x.1, 6, 5, Q.nat x.2.1, Q.mk' x.2.1 x.2.2⟩
  ⟨natOfBits failed + 16 * b2n (!short.isEmpty),
   (List.range 4).map fun i => (unit i (demands.getD i (Q.nat 0))).figure,
   (List.range 4).map fun i => (unit i (Q.nat (caps.getD i 0))).figure,
   (sortBy (fun a b => b.weight.lt a.weight) items).take 64⟩

/-- The 8 bytes of an item. -/
def Item.bytes (i : Item) : List Byte := le 2 i.furrow ++ le 1 i.kind ++ le 1 i.check ++ le 4 i.amount.figure

/-- The bytes before the items. -/
def Report.head (r : Report) : List Byte :=
  le 1 r.result ++ le 1 r.items.length ++ le 2 0
    ++ (List.range 4).flatMap fun i => le 4 (r.demand.getD i 0) ++ le 4 (r.capacity.getD i 0)

/-- The report as a response carries it. -/
def Report.bytes (r : Report) : List Byte := r.head ++ r.items.flatMap Item.bytes

/-- A check that has run is recorded in BUDGET and in the hub log, with one event more for each item (R210, R525). -/
def State.recordReport (s : State) (r : Report) : State :=
  let s := forAll (List.range 4) s fun s i =>
    (s.pi R.bud_DEMAND_DEMAND i (r.demand.getD i 0)).pi R.bud_CAPACITY_CAPACITY i (r.capacity.getD i 0)
  let s := (((s.p R.bud_BSTAT_FAIL (r.result % 16)).p R.bud_BSTAT_RING (r.result / 16)).p R.bud_BSTAT_VALID 1).p
    R.bud_BSTAT_ITEMS r.items.length
  r.items.foldl (fun s i => s.log R.bud_BSTAT_FAIL 0x039 i.bytes) (s.log R.bud_BSTAT_FAIL 0x039 r.head)

/-- The status of a failed check: BUDGET_EXCEEDED, or BAD_PARAM where only a ring fails (R210, R211). -/
def Report.status (r : Report) : Nat := if r.result % 16 ≠ 0 then stBudget else if r.result ≠ 0 then stBadParam else stOk

/-- The checks on a configuration; none run while BC_NOMINAL is 0 (R210). -/
def State.runBudget (s : State) (m : NMap) : State × Option Report :=
  if fBCOf m = 0 then (s, none) else let r := report m; (s.recordReport r, some r)

/-- The checks cannot run: the tending pair, which makes them, is halted (R393, R395). DESIGN CHOICE, log entry 141. -/
def State.budgetHeld (s : State) : Bool := s.fBC != 0 && !s.on R.cpu_PAIR_STAT_TND_RUN 0

/-- The ring check alone, on folded rings (R260). -/
def State.ringCheckOnly (s : State) : State :=
  if s.fBC = 0 then s
  else
    let short := ringShort s.regs
    let s := s.p R.bud_BSTAT_RING (b2n (!short.isEmpty))
    short.foldl (fun s x => s.log R.bud_BSTAT_RING 0x039 (le 2 x.1 ++ le 4 x.2.1)) s

/-- A register map with staged values applied in order (R367). -/
def applyStaged (m : NMap) (l : List Staged) : NMap := l.foldl (fun m x => mapSet m x.fld x.idx x.val) m

/-- BUDGET_CHECK: the state a commit would produce is checked and nothing applied (R210, R364); a failing ring alone is
answered with BAD_PARAM (R210), and BUSY while the checks cannot run (log entry 141). DEDUCED, log entry 18.
DESIGN CHOICE, log entry 141. -/
def State.budgetCheck (s : State) : State × Reply :=
  if s.budgetHeld then (s, .bad stBusy)
  else match s.runBudget (applyStaged s.regs s.zcs.staged) with
  | (s, none) => (s, .done stBadParam [])
  | (s, some r) => (s, .done r.status r.bytes)

/-! ## Look-back requests (R218) -/

/-- A SEQ of a range, modulo 2^40. -/
def seqIn (first last q : Nat) : Bool := !seqLater q first && !seqLater last q

/-- The segments that LOOKBACK selects: retained, before RD_SEQ as those of an earlier stream all are (R203), in the range, and
of no repeated SEQ (R415). -/
def Furrow.select (u : Furrow) (kind first last : Nat) : List Seg :=
  u.segs.filter fun g =>
    !g.dup && (g.old || seqLater g.seq u.rd)
      && (if kind = 0 then !seqLater last first && seqIn first last g.seq else g.orbits.any fun o => decide (first ≤ o ∧ o ≤ last))

/-- The count of segments not retained: from FIRST up to LAST or RD_SEQ - 1, whichever comes first; up to LAST where the range
holds segments of an earlier stream (R218). -/
def State.lookGone (s : State) (u : Furrow) (kind first last : Nat) : Nat :=
  if kind = 0 then
    let early := u.segs.any fun g => g.old && seqIn first last g.seq
    let end_ := if early || seqLater last u.rd then last else seqAdd u.rd (2 ^ 40 - 1)
    if seqLater end_ first || seqLater last first then 0
    else
      let span := (end_ + 2 ^ 40 - first) % 2 ^ 40 + 1
      cap (2 ^ 32 - 1) (span - (u.segs.filter (fun g => seqIn first end_ g.seq)).length)
  else if s.tailOrbit u ≤ first then 0 else 0xFFFFFFFF

/-- LOOKBACK. A range whose FIRST lies later than its LAST selects no segment. -/
def State.lookback (s : State) (f kind first last : Nat) : State × Reply :=
  if s.standby then (s, .done stDenied [])
  else if 2 ≤ kind ∨ 65536 ≤ f ∨ (if kind = 0 then 2 ^ 40 ≤ first ∨ 2 ^ 40 ≤ last else 2 ^ 48 ≤ first ∨ 2 ^ 48 ≤ last) then
    (s, .done stBadParam [])
  else if f = s.g R.fsum_CTRL_FURROW ∨ s.g R.bud_RESERVE_LB = 0 then (s, .done stDenied [])
  else if 16 ≤ s.looks.length then (s, .bad stBusy)
  else
    let s := s.checkOld f
    let u := s.fur f
    let seqs := (u.select kind first last).map (·.seq)
    let gone := s.lookGone u kind first last
    let answer := fun (a b : Nat) => le 5 a ++ le 5 b ++ le 4 gone
    if seqs = [] then (s, .done stOk (answer u.rd (seqAdd u.rd (2 ^ 40 - 1))))
    else ({ s with looks := s.looks ++ [⟨f, seqs⟩] }, .done stOk (answer (seqs.headD 0) (seqs.getLastD 0)))

/-! ## Meanings -/

/-- BUDGET_CHECK. -/
def execBudgetCheck (h : Hdr) (s : State) : Host.Outcome State Fault Refusal :=
  .next (s.zcsRun (.budgetCheck h) h 0x0024 true State.budgetCheck)

/-- LOOKBACK. -/
def execLookback (h : Hdr) (furrow kind first last : Nat) (s : State) : Host.Outcome State Fault Refusal :=
  .next (s.zcsRun (.lookback h furrow kind first last) h 0x0032 true (fun s => s.lookback furrow kind first last))

end Sys2Proof.Machine
end

