-- ==== Sys2Proof/Machine/Curves.lean ====
section
/-! DEFINITION. Exact quantities and binary32 numbers: what the curve unit and the interlock outputs compute (R312, R320,
R326). -/
namespace Sys2Proof.Machine

/-! ## Fractions -/

/-- A rational number. -/
structure Frac where
  n : Int
  d : Nat
  deriving DecidableEq, Repr

/-- A fraction in lowest terms. -/
def Frac.low (x : Frac) : Frac :=
  let g := max 1 (Nat.gcd x.n.natAbs x.d)
  ⟨x.n / (g : Int), x.d / g⟩

/-- A whole number. -/
def Frac.whole (n : Int) : Frac := ⟨n, 1⟩

/-- The sum. -/
def Frac.plus (x y : Frac) : Frac := Frac.low ⟨x.n * y.d + y.n * x.d, x.d * y.d⟩

/-- The product. -/
def Frac.times (x y : Frac) : Frac := Frac.low ⟨x.n * y.n, x.d * y.d⟩

/-- The quotient; none by 0. -/
def Frac.over (x y : Frac) : Option Frac :=
  if y.n = 0 then none else some (Frac.low ⟨x.n * y.d * y.n.sign, x.d * y.n.natAbs⟩)

/-- x < y. -/
def Frac.less (x y : Frac) : Bool := decide (x.n * y.d < y.n * x.d)

/-! ## Binary32 -/

/-- The number that a finite binary32 stands for. -/
def b32 (w : Word) : Option Frac :=
  let e := bitsAt w.toNat 23 8
  let m := bitsAt w.toNat 0 23
  let a : Frac := if e = 0 then ⟨m, 2 ^ 149⟩ else if e < 150 then ⟨m + 2 ^ 23, 2 ^ (150 - e)⟩ else ⟨(m + 2 ^ 23) * 2 ^ (e - 150), 1⟩
  if e = 255 then none else some (Frac.low (if w.getLsbD 31 then ⟨-a.n, a.d⟩ else a))

/-- The magnitude bits of a binary32 next to n / d, n not 0: below it, or above where the quotient's free rounding says so.
DESIGN CHOICE, log entry 4. -/
def b32Bits (n d : Nat) : Nat :=
  let e0 : Int := (n.log2 : Int) - (d.log2 : Int)
  let reached := if 0 ≤ e0 then decide (d * 2 ^ e0.toNat ≤ n) else decide (d ≤ n * 2 ^ (-e0).toNat)
  let e := max (if reached then e0 else e0 - 1) (-126)
  let k := 23 - e
  let m := (if 0 ≤ k then freeQuot (n * 2 ^ k.toNat : Nat) d else freeQuot (n : Nat) (d * 2 ^ (-k).toNat)).toNat
  min 0x7F800000 (m + (e + 126).toNat * 2 ^ 23)

/-- A rational number as binary32 (R320). DESIGN CHOICE, log entry 4. -/
def toB32 (x : Frac) : Word :=
  if x.n = 0 then 0#32 else BitVec.ofNat 32 (b32Bits x.n.natAbs x.d + (if x.n < 0 then 2 ^ 31 else 0))

/-- A binary32 limited to a range of whole numbers, and whether it lay outside; what is no number counts by its sign. -/
def limitB32 (w : Word) (lo hi : Int) : Word × Bool :=
  match b32 w with
  | some x =>
    if x.less (Frac.whole lo) then (toB32 (Frac.whole lo), true)
    else if (Frac.whole hi).less x then (toB32 (Frac.whole hi), true)
    else (w, false)
  | none => (toB32 (Frac.whole (if w.getLsbD 31 then lo else hi)), true)

end Sys2Proof.Machine
end

