-- ==== Sys2Proof/Machine/Slow.lean ====
section
/-! DEFINITION. The slow sensor front end, the interlock outputs and SAFE_N (R310 to R331). -/
namespace Sys2Proof.Machine

/-- The slow front end updated. -/
def State.sl (s : State) (f : Slow → Slow) : State := { s with slow := f s.slow }

/-- Group `g`'s scan updated. -/
def State.scan (s : State) (g : Nat) (f : Scan → Scan) : State := s.sl fun x => { x with scans := modAt x.scans g f }

/-- Group `g`'s scan. -/
def State.scanOf (s : State) (g : Nat) : Scan := s.slow.scans.getD g Scan.empty

/-! ## Settings (R312, R314 to R320) -/

/-- The settings of a channel, in the order of `Scan.set`. -/
def State.chSet (s : State) (c : Nat) : List Nat :=
  [R.slow_CH_CFG_DIFF, R.slow_CH_CFG_GAIN, R.slow_CH_CFG_REF, R.slow_CH_CFG_ODR, R.slow_CH_CFG_BURN,
   R.slow_CH_CFG_COARSE_EN, R.slow_CH_CFG_CURVE, R.slow_CH_CFG_AUX_CH, R.slow_CH_CFG_DISCH].map (fun f => s.gi f c)
    ++ (List.range 3).map fun i => s.gi R.slow_PARAM_VALUE (c * 4 + i)

/-- DIFF of a channel's settings. -/
def setDiff (l : List Nat) : Bool := l.getD 0 0 == 1

/-- BURN of a channel's settings. -/
def setBurn (l : List Nat) : Nat := l.getD 4 0

/-- CURVE of a channel's settings. -/
def setCurve (l : List Nat) : Nat := l.getD 6 0

/-- A result that depends on VEXC (R317): REF = VEXC or curve 11 or 12. -/
def setVexc (l : List Nat) : Bool := l.getD 2 0 == 1 || setCurve l == 11 || setCurve l == 12

/-- The pins of a channel (R310). -/
def pinsOf (c : Nat) (l : List Nat) : List Nat := if setDiff l then [c, c + 1] else [c]

/-- A configuration of SLOW and INTERLOCK that a commit, or STREAM_START, accepts (R310, R315, R320, R330, R331). -/
def slowOk (m : NMap) : Bool :=
  (List.range 96).all (fun c =>
    let g := fun (f : Fld) => mapGet m f c
    let pair := g R.slow_CH_CFG_DIFF == 1
    let curve := g R.slow_CH_CFG_CURVE
    decide (g R.slow_CH_CFG_ODR ≤ 10) && g R.slow_CH_CFG_BURN != 3 && decide (curve ≤ 13) && !(pair && c % 2 == 1)
      && !(pair && g R.slow_CH_CFG_EN == 1 && mapGet m R.slow_CH_CFG_EN (c + 1) == 1)
      && !((curve == 11 || curve == 12) && g R.slow_CH_CFG_REF == 0))
    && (List.range 8).all (fun i => decide (mapGet m R.slow_IX_CFG_LEVEL i ≤ 100) && decide (mapGet m R.slow_IX_CFG_PIN i < 96)
      && mapGet m R.il_IL_CFG_STALE i != 0 && decide (mapGet m R.il_IL_CFG_SRC i < 96))
    && decide (1 ≤ mapGet m R.slow_ROT_CFG_ROT_FRAMES 0) && decide (mapGet m R.slow_ROT_CFG_ROT_FRAMES 0 ≤ 1024)
    && mapGet m R.slow_ROT_CFG_ROT_TOL 0 != 0

/-! ## Excitation (R317, R318) -/

/-- Excitation, sources and burn-out are driven. -/
def State.driven (s : State) : Bool := !s.slow.safe && !s.slow.roleOff && s.pd 23

/-- VEXC is on. -/
def State.vexcOn (s : State) : Bool := s.driven && s.on R.slow_CTRL_VEXC_EN 0 && !s.slow.vexcHold

/-- What is driven: VEXC and its level, and each source's current and pin. -/
def State.excitation (s : State) : Nat × List (Nat × Nat) :=
  (if s.vexcOn then 1 + s.g R.slow_CTRL_VEXC_SEL else 0,
   (List.range 8).map fun i => (if s.driven then s.gi R.slow_IX_CFG_LEVEL i else 0, s.gi R.slow_IX_CFG_PIN i))

/-- The sum of the sources steered to a pin, in 10 µA (R318, R320). -/
def State.currentAt (s : State) (pin : Nat) : Nat :=
  sumNat (s.excitation.2.map fun x => if x.2 = pin then x.1 else 0)

/-- A conversion in progress meets flags at a time. -/
def Scan.meet (k : Scan) (flags ns : Nat) : Scan :=
  if k.chan.isNone then k else { k with flags := k.flags ||| flags, seen := (flags, ns) :: k.seen }

/-- After a change of excitation from `old`: conversions it overlaps carry QUAL, those of any channel where VEXC has changed (R319),
and a source that has changed is no longer beyond compliance. -/
def State.exciteFrom (s : State) (old : Nat × List (Nat × Nat)) : State :=
  let new := s.excitation
  let moved := (List.range 8).filter fun i => old.2.getD i (0, 0) != new.2.getD i (0, 0)
  let pins := moved.flatMap fun i => [(old.2.getD i (0, 0)).2, (new.2.getD i (0, 0)).2]
  let s := forAll moved s fun s i => s.pbit R.slow_IX_STAT_COMPLY 0 i false
  s.sl fun x => { x with
    vexcBad := x.vexcBad && old.1 == new.1
    scans := x.scans.map fun k =>
      let c := k.chan.getD 0
      if old.1 ≠ new.1 ∨ (pinsOf c k.set).any (fun p => pins.contains p) then k.meet 64 s.nowNs else k }

/-- A reading that depends on excitation that the graft role withholds (R428). -/
def State.usesDriven (s : State) (c : Nat) (l : List Nat) : Bool :=
  setVexc l || setBurn l != 0 || [1, 2, 3, 9, 11, 12].contains (setCurve l)
    || (List.range 8).any fun i => s.on R.slow_IX_CFG_LEVEL i && (pinsOf c l).contains (s.gi R.slow_IX_CFG_PIN i)

/-- Flags that hold now for a conversion of a channel: SAFE, DEAD, and QUAL for VEXC off or a source beyond compliance
(R317, R318, R321, R428). -/
def State.flagsNow (s : State) (c : Nat) (l : List Nat) : Nat :=
  let comply := (List.range 8).any fun i =>
    bitAt (s.g R.slow_IX_STAT_COMPLY) i && (pinsOf c l).contains (s.gi R.slow_IX_CFG_PIN i)
  16 * b2n s.slow.safe + 32 * b2n (s.slow.roleOff && s.usesDriven c l) + 64 * b2n ((setVexc l && !s.vexcOn) || comply)

/-- The conversions in progress meet the flags that hold now. -/
def State.meetNow (s : State) : State :=
  s.sl fun x => { x with scans := x.scans.map fun k => k.meet (s.flagsNow (k.chan.getD 0) k.set) s.nowNs }

/-! ## Scanning (R311, R314) -/

/-- Conversions run: the domain is on, CD62 is present and scanning is enabled. -/
def State.slowRuns (s : State) : Bool := s.pd 23 && s.cdRuns 62 && s.on R.slow_CTRL_ENABLE 0

/-- The next enabled channel of a group above a channel, wrapping to the lowest; none where none is enabled. -/
def State.nextSlow (s : State) (g : Nat) (after : Option Nat) : Option Nat :=
  let en := ((List.range 24).map (24 * g + ·)).filter fun c => s.on R.slow_CH_CFG_EN c
  match after with
  | none => en.head?
  | some a => (en.find? (fun c => decide (a < c))).or en.head?

/-- The spare waits for this group's switch: it connects beside the working modulator (R323), or takes over. -/
def State.spareAtSwitch (s : State) (g : Nat) : State :=
  match s.slow.rot with
  | .waiting h => if h = g then s.sl fun x => { x with rot := .comparing g 0 } else s
  | .crossWait h => if (h + 1) % 4 = g then s.sl fun x => { x with rot := .cross h } else s
  | _ => s

/-- A group's switch: it takes up the settings now in effect (R319) and goes to its next enabled channel. -/
def State.switchGroup (s : State) (g : Nat) : State :=
  let k := s.scanOf g
  let next := if s.slowRuns then s.nextSlow g k.chan else none
  let wraps := match k.chan, next with
    | some a, some b => decide (b ≤ a)
    | none, some _ => true
    | _, none => false
  let s := s.scan g fun k =>
    { k with
      chan := next
      set := (match next with
        | some c => s.chSet c
        | none => [])
      coarse := false
      flags := (match next with
        | some c => s.flagsNow c (s.chSet c)
        | none => 0)
      seen := []
      scanUs := if wraps && k.chan.isSome then (s.nowNs - k.scanNs) / 1000 else k.scanUs
      scanNs := if wraps then s.nowNs else k.scanNs }
  s.spareAtSwitch g

/-- Groups that stand still start where conversions run and a channel is enabled, all of them where conversions start. -/
def State.startScans (s : State) : State :=
  let s := forAll (List.range 4) s fun s g =>
    if (s.scanOf g).chan.isNone ∨ (s.slowRuns ∧ !s.slow.scanning) then s.switchGroup g else s
  s.sl fun x => { x with scanning := s.slowRuns }

/-! ## Linearisation (R320) -/

/-- Binary32 zero. -/
def word0 : Word := 0#32

/-- The latest fine value of a channel. -/
def State.fineOf (s : State) (c : Nat) : Option Fine := (s.slow.fine.find? (fun x => x.1 == c)).map (·.2)

/-- The cold junction of a thermocouple cannot be used (R320). -/
def State.cjBad (s : State) (aux : Nat) : Bool :=
  if 96 ≤ aux then true
  else if !([1, 2, 3, 9, 13].contains (s.gi R.slow_CH_CFG_CURVE aux)) then true
  else match s.fineOf aux with
    | none => true
    | some f => decide (f.ns + 1000000000 < s.nowNs) || (f.flags &&& (2 + 4 + 8 + 64 + 128)) != 0

/-- The reference of a channel, in volts: 2.5 V, or VEXC at its setting (R312). -/
def State.vRef (s : State) (ref : Nat) : Frac := if ref = 1 ∧ s.on R.slow_CTRL_VEXC_SEL 0 then ⟨5, 1⟩ else ⟨5, 2⟩

/-- The full scale of a channel, V_REF / G, in volts (R312). -/
def State.fullScale (s : State) (gain ref : Nat) : Frac := (s.vRef ref).times ⟨1, 2 ^ gain⟩

/-- The code of an input in pV: its share of the full scale, saturating; the rounding is free (R312).
DESIGN CHOICE, log entry 4. -/
def State.codeOf (s : State) (l : List Nat) (pv : Int) : BitVec 24 :=
  let fs := s.fullScale (l.getD 1 0) (l.getD 2 0)
  let v := freeQuot (pv * fs.d * 2 ^ 23) (fs.n.toNat * 10 ^ 12)
  BitVec.ofInt 24 (if v < -(2 ^ 23) then -(2 ^ 23) else if 2 ^ 23 - 1 < v then 2 ^ 23 - 1 else v)

/-- The input exceeds 1.02 of the full scale (R312). -/
def State.overRange (s : State) (l : List Nat) (pv : Int) : Bool :=
  let fs := s.fullScale (l.getD 1 0) (l.getD 2 0)
  decide (102 * fs.n * 10 ^ 12 < 100 * fs.d * pv.natAbs)

/-- The input-referred voltage of a code (R312, R320). -/
def State.volts (s : State) (gain ref : Nat) (code : BitVec 24) : Frac :=
  (s.fullScale gain ref).times (Frac.low ⟨code.toInt, 2 ^ 23⟩)

/-- What the curve unit works on: curve, code, gain, reference, VEXC level, parameters, current, and the auxiliary
channel's latest fine code, gain, reference and value. -/
def State.curveArgs (s : State) (c : Nat) (l : List Nat) (code : BitVec 24) : List Nat :=
  let aux := l.getD 7 127
  let auxPart := match s.fineOf aux with
    | some f => [f.code.toNat, s.gi R.slow_CH_CFG_GAIN aux, s.gi R.slow_CH_CFG_REF aux, f.value.toNat]
    | none => []
  [setCurve l, code.toNat, l.getD 1 0, l.getD 2 0, s.g R.slow_CTRL_VEXC_SEL, l.getD 9 0, l.getD 10 0, l.getD 11 0,
   s.currentAt c] ++ auxPart

/-- A parameter of a channel's settings as binary32. -/
def setParam (l : List Nat) (i : Nat) : Word := BitVec.ofNat 32 (l.getD (9 + i) 0)

/-- The resistance on a channel in ohms: by its current, or against the reference resistor on AUX_CH (R320). -/
def State.resistance (s : State) (c : Nat) (l : List Nat) (v : Frac) : Option Frac :=
  let aux := l.getD 7 127
  if [1, 2, 3].contains (setCurve l) ∧ aux < 96 then
    match s.fineOf aux, b32 (setParam l 0) with
    | some f, some p => (p.times v).over (s.volts (s.gi R.slow_CH_CFG_GAIN aux) (s.gi R.slow_CH_CFG_REF aux) f.code)
    | _, _ => none
  else v.over ⟨s.currentAt c, 100000⟩

/-- P0 × x + P1. -/
def linear (l : List Nat) (x : Frac) : Option Frac :=
  match b32 (setParam l 0), b32 (setParam l 1) with
  | some p, some q => some ((p.times x).plus q)
  | _, _ => none

/-- The strain of a quarter bridge, in microstrain: -4r / (P0 (1 + 2r)) × 10^6 with r = V / VEXC − P1 (R320). -/
def bridge (l : List Nat) (x : Frac) : Option Frac :=
  match b32 (setParam l 0), b32 (setParam l 1) with
  | some p, some q =>
    let r := x.plus (q.times ⟨-1, 1⟩)
    (r.times ⟨-4000000, 1⟩).over (p.times ((r.times ⟨2, 1⟩).plus ⟨1, 1⟩))
  | _, _ => none

/-- VALUE by the formula of a channel's curve, before it is limited; none where the formula has no result (R320).
DESIGN CHOICE, log entry 10. -/
def State.curveExact (s : State) (c : Nat) (l : List Nat) (code : BitVec 24) : Option Word :=
  let v := s.volts (l.getD 1 0) (l.getD 2 0) code
  let share := v.over (s.vRef 1)
  match setCurve l with
  | 0 => some (toB32 v)
  | 9 => (s.resistance c l v).map fun r => Config.ntcTemp r.n r.d (setParam l 0) (setParam l 1) (setParam l 2)
  | 11 => (share.bind (bridge l)).map toB32
  | 12 => (share.bind (linear l)).map toB32
  | curve =>
    if curve < 4 then (s.resistance c l v).map fun r => Config.rtdTemp curve r.n r.d
    else if curve < 9 then
      let aux := l.getD 7 127
      let junction := if s.cjBad aux then word0 else ((s.fineOf aux).map (·.value)).getD word0
      some (Config.thermoTemp curve v.n v.d junction)
    else (linear l v).map toB32

/-- The range of a curve in °C, where it has one (R320). -/
def curveEdges (curve : Nat) : Option (Int × Int) :=
  if curve = 1 ∨ curve = 2 then some (-200, 850)
  else if curve = 3 then some (-60, 180)
  else if 4 ≤ curve ∧ curve ≤ 8 then some (Config.thermoEdge curve false, Config.thermoEdge curve true)
  else none

/-- VALUE of a result, limited to its curve's range, with RANGE and CJ_BAD (R320). DESIGN CHOICE, log entry 10. -/
def State.curve (s : State) (c : Nat) (l : List Nat) (code : BitVec 24) : Word × Bool × Bool :=
  let curve := setCurve l
  let value := (s.curveExact c l code).getD (Config.curveValue (s.curveArgs c l code))
  let cj := decide (4 ≤ curve) && decide (curve ≤ 8) && s.cjBad (l.getD 7 127)
  match curveEdges curve with
  | some (lo, hi) => let (value, range) := limitB32 value lo hi; (value, range, cj)
  | none => (value, false, cj)

/-! ## Records (R321, R322) -/

/-- The modulator that serves a group. -/
def State.modOf (s : State) (g : Nat) : Nat := bitsAt (s.g R.slow_GROUP_MAP_MOD) (3 * g) 3

/-- The FLAGS of a result but RANGE and CJ_BAD. -/
def State.resultFlags (s : State) (fine : Bool) (c : Nat) (k : Scan) (r : SlowIn) : Nat :=
  let saturated := r.overload || s.overRange k.set r.pv
  let open_ := saturated && decide (0 ≤ r.pv) && setBurn k.set != 0 && s.driven
  b2n fine + 2 * b2n saturated + 4 * b2n (r.clamp || bitAt k.flags 2) + 8 * b2n open_
    + ((k.flags &&& 0x70) ||| (s.flagsNow c k.set) ||| 64 * b2n (r.changed || s.lost || (setVexc k.set && decide (5000 < r.vexcDev))))

/-- A sticky bit of FLAG_BITS: kind 0 CLAMP, 1 OPEN, 2 OR. -/
def State.stickySlow (s : State) (kind c : Nat) : State := s.pbit R.slow_FLAG_BITS_CH (kind * 4 + c / 32) (c % 32) true

/-- A record waits for its collector cycle. -/
def State.slowRecord (s : State) (c : Nat) (k : Scan) (g flags : Nat) (code : BitVec 24) (value : Word) : State :=
  let bytes := le 1 c ++ le 1 (setCurve k.set) ++ le 2 flags ++ le 3 code.toNat ++ le 1 (s.modOf g) ++ le 4 value.toNat
  s.sl fun x => { x with recs := x.recs ++ [(c, s.trellis.tick, bytes)] }

/-- The result of a working modulator: its flags, its value, its record. -/
def State.slowResult (s : State) (fine : Bool) (c : Nat) (k : Scan) (r : SlowIn) : State × Fine :=
  let base := s.resultFlags fine c k r
  let code := s.codeOf k.set r.pv
  let (value, range, cj) := s.curve c k.set code
  let flags := base + 128 * b2n range + 256 * b2n cj
  let s := if bitAt flags 2 then s.stickySlow 0 c else s
  let s := if bitAt flags 3 then s.stickySlow 1 c else s
  let s := if bitAt flags 1 then s.stickySlow 2 c else s
  (s.slowRecord c k r.group flags code value, ⟨code, value, flags, s.nowNs⟩)

/-- The records waiting enter the barrow with the collector cycle, in channel order, at most four (R121, R322); `bad` is a
parity error of their transfer, which sets QUAL (R122). -/
def State.slowTransfer (s : State) (bad : Bool) : State :=
  let l := sortBy (fun a b => decide (a.1 < b.1)) s.slow.recs
  let s := s.sl fun x => { x with recs := l.drop 4 }
  (l.take 4).foldl (fun s r =>
    let bytes := if bad then modAt r.2.2 2 (fun b => b ||| 0x40#8) else r.2.2
    if s.intake then
      { s with hubQ := s.hubQ ++ [⟨4, bytes ++ le 2 s.trellis.slot ++ le 2 (s.trellis.orbit % 65536)⟩] }
    else s) s

/-- What a result tells of VEXC: out of regulation by more than 0.5%, and its load (R317, R330). -/
def State.vexcMeasured (s : State) (r : SlowIn) : State :=
  if s.vexcOn then s.sl fun x => { x with vexcBad := decide (5000 < r.vexcDev), vexcLoad := cap 255 r.vexcLoad } else s

/-- SLOW_COARSE_RESULT (R314). -/
def State.coarseResult (s : State) (r : SlowIn) : State :=
  let k := s.scanOf r.group
  match k.chan with
  | none => s
  | some c =>
    if k.coarse ∨ !s.slowRuns ∨ !s.slow.scanning then s
    else
      let s := (s.scan r.group fun k => { k with coarse := true }).vexcMeasured r
      if k.set.getD 5 0 = 1 then (s.slowResult false c k r).1 else s

/-! ## Spare rotation (R323, R324) -/

/-- GROUP_MAP with a group's modulator replaced. -/
def State.setMod (s : State) (g m : Nat) : State :=
  let v := s.g R.slow_GROUP_MAP_MOD
  s.p R.slow_GROUP_MAP_MOD (v - bitsAt v (3 * g) 3 * 2 ^ (3 * g) + m * 2 ^ (3 * g))

/-- The two fine codes match within ROT_TOL ppm of full scale. -/
def State.slowMatch (s : State) (a b : BitVec 24) : Bool :=
  let d := (sext 24 a.toNat - sext 24 b.toNat).natAbs
  decide (d * 1000000 ≤ s.g R.slow_ROT_CFG_ROT_TOL * 2 ^ 23)

/-- A modulator is taken out of use and rotation stops. -/
def State.modFault (s : State) (m : Nat) : State :=
  (((((s.p R.slow_ROT_STAT_MOD_FAULT 1).p R.slow_ROT_STAT_FAULT_MOD m).p R.slow_GROUP_MAP_SPARE 7).log
    R.slow_ROT_STAT_MOD_FAULT 0x00E []).tendEvent 2 m).sl fun x => { x with rot := .out }

/-- A fine value with the spare's beside it: handover, another comparison, or the verdict. -/
def State.slowCompare (s : State) (g : Nat) (a : BitVec 24) (spare : Option (BitVec 24)) : State :=
  match spare with
  | none => s
  | some b =>
    let same := s.slowMatch a b
    let s := match s.slow.rot with
      | .comparing h _ => if h = g ∧ !same then s.inc R.slow_ROT_STAT_MISMATCH 0 1 else s
      | .cross h => if (h + 1) % 4 = g ∧ !same then s.inc R.slow_ROT_STAT_MISMATCH 0 1 else s
      | _ => s
    match s.slow.rot with
    | .comparing h n =>
      if h ≠ g then s
      else if same then
        let old := s.modOf g
        let s := ((s.setMod g (s.g R.slow_GROUP_MAP_SPARE)).p R.slow_GROUP_MAP_SPARE 7).p R.slow_ROT_STAT_NEXT_GROUP
          ((g + 1) % 4)
        s.sl fun x => { x with rot := .calibrating old }
      else s.sl fun x => { x with rot := if n = 0 then .comparing g 1 else .crossWait g }
    | .cross h =>
      if (h + 1) % 4 ≠ g then s
      else if same then s.sl fun x => { x with rot := .replace h }
      else s.modFault (s.g R.slow_GROUP_MAP_SPARE)
    | _ => s

/-- The spare takes the place of a faulty modulator at its group's switch (R324). -/
def State.slowReplace (s : State) (g : Nat) : State :=
  match s.slow.rot with
  | .replace h =>
    if h ≠ g then s
    else
      let old := s.modOf g
      (s.setMod g (s.g R.slow_GROUP_MAP_SPARE)).modFault old
  | _ => s

/-- SLOW_MOD_CAL_DONE: the released modulator becomes the spare. -/
def State.modCalDone (s : State) (m : Nat) : State :=
  match s.slow.rot with
  | .calibrating x => if x = m ∧ s.pd 23 then (s.p R.slow_GROUP_MAP_SPARE m).sl fun y => { y with rot := .idle } else s
  | _ => s

/-- A management frame of the rotation: a handover starts every ROT_FRAMES frames. -/
def State.slowRotFrame (s : State) : State :=
  let s := s.sl fun x => { x with rotFrames := x.rotFrames + 1 }
  if !s.on R.slow_CTRL_ROT_EN 0 then
    s.sl fun x => { x with rot := (match x.rot with
      | .waiting _ | .comparing _ _ | .crossWait _ | .cross _ => .idle
      | r => r) }
  else if s.slow.rot = .idle ∧ s.g R.slow_ROT_CFG_ROT_FRAMES ≤ s.slow.rotFrames ∧ s.slowRuns then
    s.sl fun x => { x with rot := .waiting (s.g R.slow_ROT_STAT_NEXT_GROUP), rotFrames := 0 }
  else s

/-! ## Interlock outputs (R326, R327) -/

/-- An output's state. -/
def State.ilOf (s : State) (i : Nat) : Il := s.slow.ils.getD i ⟨false, false⟩

/-- An output updated. -/
def State.setIl (s : State) (i : Nat) (f : Il → Il) : State := s.sl fun x => { x with ils := modAt x.ils i f }

/-- The flags that keep an output at its fault code: every one but FINE. -/
def faultFlags (flags : Nat) : Bool := flags / 2 % 256 != 0

/-- Why an output sends its fault code; 0 where it need not (R327). -/
def State.ilCause (s : State) (i : Nat) : Nat :=
  if s.standby ∨ s.slow.roleOff ∧ s.role = 2 ∨ !s.pd 23 then 5
  else if !s.on R.il_IL_CFG_EN i then 1
  else if s.on R.il_SAFE_STAT_LATCH 0 then 2
  else match s.fineOf (s.gi R.il_IL_CFG_SRC i) with
    | none => 3
    | some f => if (s.ilOf i).stale then 3 else if faultFlags f.flags then 4 else 0

/-- The fault code sent: 0 Hz, a duty of 2.5%, or an undriven line. DEDUCED, log entry 45. -/
def State.ilFault (s : State) (i cause : Nat) : State :=
  let code := if cause ≠ 5 ∧ s.on R.il_IL_CFG_MODE i then 250 else 0
  let s := (((s.pi R.il_IL_STAT_FAULT i 1).pi R.il_IL_STAT_CAUSE i cause).pi R.il_IL_STAT_LIMIT i 0).pi R.il_IL_STAT_OUT i code
  if cause ≠ 3 ∧ cause ≠ 4 then s.setIl i fun x => { x with good := false } else s

/-- A + B × VALUE in Hz or %, times 10 or 100, of an output (R326). -/
def State.ilQuantity (s : State) (i : Nat) (value : Word) : Option Frac :=
  match b32 (BitVec.ofNat 32 (s.gi R.il_IL_A_A i)), b32 (BitVec.ofNat 32 (s.gi R.il_IL_B_B i)), b32 value with
  | some a, some b, some v => some ((a.plus (b.times v)).times ⟨if s.on R.il_IL_CFG_MODE i then 100 else 10, 1⟩)
  | _, _, _ => none

/-- IL_PERIOD_END: the output takes its source's latest fine value, or its fault code.
DESIGN CHOICE, log entry 11. DEDUCED, log entry 45. -/
def State.ilPeriod (s : State) (i : Nat) : State :=
  let cause := s.ilCause i
  let was := s.on R.il_IL_STAT_FAULT i
  if cause ≠ 0 then
    let s := if was then s else s.setIl i fun x => { x with good := false }
    s.ilFault i cause
  else if was ∧ !(s.ilOf i).good then s
  else
    let pwm := s.on R.il_IL_CFG_MODE i
    let value := ((s.fineOf (s.gi R.il_IL_CFG_SRC i)).map (·.value)).getD word0
    let x := match s.ilQuantity i value with
      | some x => x
      | none => Frac.whole (Config.interlockValue pwm (BitVec.ofNat 32 (s.gi R.il_IL_A_A i)) (BitVec.ofNat 32 (s.gi R.il_IL_B_B i))
          value).toInt
    let lo : Int := if pwm then 1000 else 10000
    let hi : Int := if pwm then 9000 else 1000000
    let low := x.less (Frac.whole lo)
    let high := (Frac.whole hi).less x
    let out := if low then lo else if high then hi else freeQuot x.n x.d
    (((s.pi R.il_IL_STAT_FAULT i 0).pi R.il_IL_STAT_CAUSE i 0).pi R.il_IL_STAT_LIMIT i (b2n (low || high))).pi
      R.il_IL_STAT_OUT i out.toNat

/-- IL_STALE: the source of an output has formed no fine value for STALE ms; the fault code follows at the period's end. -/
def State.ilGrowsStale (s : State) (i : Nat) : State :=
  let fresh := match s.fineOf (s.gi R.il_IL_CFG_SRC i) with
    | some f => decide (s.nowNs < f.ns + s.gi R.il_IL_CFG_STALE i * 1000000)
    | none => false
  if fresh then s else s.setIl i fun x => { x with stale := true }

/-- A fine value arrives at the outputs it feeds. -/
def State.feedOutputs (s : State) (c flags : Nat) : State :=
  forAll (List.range 8) s fun s i =>
    if s.gi R.il_IL_CFG_SRC i = c then s.setIl i fun _ => ⟨false, !faultFlags flags⟩ else s

/-- The outputs go to their fault codes at once (R328, R423), or to high impedance with the role or PD23 (R327, R421). -/
def State.ilAllFault (s : State) : State := forAll (List.range 8) s fun s i => s.ilFault i (s.ilCause i)

/-- Conversions stop with PD23 (R311): the scans and the fine values are lost, the outputs go to high impedance (R327); a
calibration waits for the domain. -/
def State.slowOff (s : State) : State :=
  (s.sl fun x => { x with
    scans := List.replicate 4 Scan.empty, fine := [], recs := [], rot := x.rot.afterReset, scanning := false
    ils := List.replicate 8 ⟨false, false⟩ }).ilAllFault

/-- The period T of a channel's settings in ns (R314, R315). -/
def setPeriod (l : List Nat) : Nat :=
  1000000000 / ([10, 20, 50, 100, 200, 500, 1000, 2000, 4000, 8000, 16000].getD (l.getD 3 0) 10)

/-- SLOW_FINE_RESULT (R314): the record, the latest fine value, the rotation, the outputs, and the switch. A group of one
channel whose settings stand does not switch: its next value, T later, meets what came in the last 2T (R314).
DEDUCED, log entry 45. -/
def State.fineResult (s : State) (r : SlowIn) : State :=
  let k := s.scanOf r.group
  match k.chan with
  | none => s
  | some c =>
    if !s.slowRuns ∨ !s.slow.scanning then s
    else
      let (s, f) := (s.vexcMeasured r).slowResult true c k r
      let s := s.sl fun x => { x with fine := aput x.fine c f }
      let s := (s.feedOutputs c f.flags).slowCompare r.group f.code (r.spare.map (s.codeOf k.set))
      let s := s.slowReplace r.group
      let alone := s.nextSlow r.group (some c) == some c && s.chSet c == k.set && s.on R.slow_CTRL_ENABLE 0
      if alone then
        let t := setPeriod k.set
        (s.scan r.group fun k =>
          { k with
            coarse := true
            seen := k.seen.filter fun x => decide (s.nowNs < x.2 + 3 * t)
            flags := (k.seen.filter fun x => decide (s.nowNs < x.2 + 2 * t)).foldl (fun v x => v ||| x.1) (s.flagsNow c k.set)
            scanUs := (s.nowNs - k.scanNs) / 1000
            scanNs := s.nowNs }).spareAtSwitch r.group
      else s.switchGroup r.group

/-! ## Clamps, overloads, compliance (R313, R317, R318) -/

/-- SLOW_CLAMP: a pin's clamp conducts: the channel's sticky bit, and the conversion it overlaps. -/
def State.slowClamp (s : State) (pin : Nat) : State :=
  if 96 ≤ pin ∨ !s.pd 23 then s
  else
    let even := pin - pin % 2
    let c := if s.on R.slow_CH_CFG_DIFF even then even else pin
    let s := s.stickySlow 0 c
    s.sl fun x => { x with
      scans := x.scans.map fun k => if (pinsOf (k.chan.getD 0) k.set).contains pin then k.meet 4 s.nowNs else k }

/-- VEXC_OVERLOAD_TRIP: VEXC goes off and EXC_FAULT is set (R317). -/
def State.vexcTrip (s : State) (load : Nat) : State :=
  if !s.vexcOn then s
  else
    let old := s.excitation
    ((s.p R.slow_VEXC_STAT_EXC_FAULT 1).sl fun x => { x with vexcHold := true, vexcLoad := cap 255 load }).exciteFrom old

/-- IX_COMPLIANCE: a source's pin rises beyond 4.5 V (R318). DEDUCED, log entry 44. -/
def State.ixComply (s : State) (i : Nat) : State :=
  if 8 ≤ i ∨ !s.driven ∨ !s.on R.slow_IX_CFG_LEVEL i then s
  else
    let pin := s.gi R.slow_IX_CFG_PIN i
    (s.pbit R.slow_IX_STAT_COMPLY 0 i true).sl fun x => { x with
      scans := x.scans.map fun k => if (pinsOf (k.chan.getD 0) k.set).contains pin then k.meet 64 s.nowNs else k }

/-! ## SAFE_N (R328, R329) -/

/-- The SAFE latch is set: excitation, sources and burn-out off, the outputs at their fault codes. -/
def State.setSafe (s : State) : State :=
  let old := s.excitation
  let s := (s.p R.il_SAFE_STAT_LATCH 1).sl fun x => { x with
    safe := true, scans := x.scans.map fun k => k.meet 16 s.nowNs }
  ((((s.exciteFrom old).ilAllFault).log R.il_SAFE_STAT_LATCH 0x00F []).event 0x00F)

/-- SAFE_N_ASSERT: a low of 1.0 µs acts, one under 0.5 µs does not; between them the manual promises neither, a free
value. DESIGN CHOICE, log entry 43. -/
def State.safeAssert (s : State) (lowNs : Nat) : State :=
  let acts := decide (1000 ≤ lowNs) || (decide (500 ≤ lowNs) && s.freeNow % 2 == 1)
  let s := if 500 ≤ lowNs ∧ lowNs < 1000 then s.drew else s
  let s := s.p R.il_SAFE_STAT_PIN 0
  if acts then
    ((s.inc R.il_SAFE_STAT_EDGES 0 1).sl fun x => { x with safeLow := some s.nowNs }).setSafe
  else s

/-- SAFE_N_RELEASE: the pin reads high; the latch stays (R329). -/
def State.safeRelease (s : State) : State :=
  if s.on R.il_SAFE_STAT_PIN 0 then s
  else (s.p R.il_SAFE_STAT_PIN 1).sl fun x => { x with safeHigh := s.nowNs }

/-- A write of SAFE_CTRL.FORCE (R328). -/
def State.safeForced (s : State) (w : Word) : State := if w.getLsbD 0 then s.setSafe else s

/-- The conditions of R329 for clearing the latch, for a command that arrived at `at_`. -/
def State.safeMayClear (s : State) (at_ : Nat) : Bool :=
  s.on R.il_SAFE_STAT_PIN 0 && decide (s.slow.safeHigh + 1000 ≤ s.nowNs) &&
    (match s.slow.safeLow with
     | some t => decide (t < at_)
     | none => true)

/-! ## Frame boundaries (R317, R319, R329, R423) -/

/-- Committed values of SLOW and INTERLOCK take effect, and excitation returns after a clear, a takeover or an overload. -/
def State.slowFrame (s : State) : State :=
  let old := s.excitation
  let s := s.slow.due.foldl State.commitField s.meetNow
  let latch := s.on R.il_SAFE_STAT_LATCH 0
  let s := s.sl fun x => { x with
    due := []
    safe := x.safe && latch
    roleOff := if s.role = 2 then true else x.roleOff && (s.graft.releaseOrbit.isSome || latch)
    vexcHold := x.vexcHold && s.on R.slow_VEXC_STAT_EXC_FAULT 0 }
  ((s.exciteFrom old).startScans).slowRotFrame

/-! ## Meanings -/

/-- SLOW_COARSE_RESULT. -/
def execSlowCoarseResult (r : SlowIn) (s : State) : Host.Outcome State Fault Refusal := .next (s.coarseResult r)

/-- SLOW_FINE_RESULT. -/
def execSlowFineResult (r : SlowIn) (s : State) : Host.Outcome State Fault Refusal := .next (s.fineResult r)

/-- SLOW_CLAMP. -/
def execSlowClamp (pin : Nat) (s : State) : Host.Outcome State Fault Refusal := .next (s.slowClamp pin)

/-- VEXC_OVERLOAD_TRIP. -/
def execVexcOverloadTrip (load : Nat) (s : State) : Host.Outcome State Fault Refusal := .next (s.vexcTrip load)

/-- IX_COMPLIANCE. -/
def execIxCompliance (ix : Nat) (s : State) : Host.Outcome State Fault Refusal := .next (s.ixComply ix)

/-- IL_PERIOD_END. -/
def execIlPeriodEnd (il : Nat) (s : State) : Host.Outcome State Fault Refusal := .next (s.ilPeriod il)

/-- IL_STALE. -/
def execIlStale (il : Nat) (s : State) : Host.Outcome State Fault Refusal := .next (s.ilGrowsStale il)

/-- SAFE_N_ASSERT. -/
def execSafeNAssert (lowNs : Nat) (s : State) : Host.Outcome State Fault Refusal := .next (s.safeAssert lowNs)

/-- SAFE_N_RELEASE. -/
def execSafeNRelease (s : State) : Host.Outcome State Fault Refusal := .next s.safeRelease

end Sys2Proof.Machine
end

