-- ==== Sys2Proof/Machine/Loam.lean ====
section
/-! DEFINITION. The Loam format's decoder (R280 to R285). -/
namespace Sys2Proof.Machine

/-- A block decoded whole: its output, the offset of its end token, its header's FLAGS and LEVEL, and its length. -/
structure LoamBlock where
  out : List Byte
  endAt : Nat
  flags : Nat
  level : Nat
  len : Nat
  deriving DecidableEq, Repr

/-- A decoder error: the code and offset of R285. -/
structure LoamErr where
  code : Nat
  off : Nat
  deriving DecidableEq, Repr

/-- A match of length n and distance d on output held newest first, one byte at a time (R283). -/
def loamCopy (d : Nat) : (n : Nat) → (rev : List Byte) → List Byte
  | 0, rev => rev
  | n + 1, rev => loamCopy d n (rev.getD (d - 1) 0 :: rev)

/-- A token read: literal bytes, a match with its distance where the token names one, or the end; and its length. -/
inductive LoamTok where
  | lit (bytes : List Byte) (n : Nat)
  | mat (n d : Nat)
  | last (n : Nat)
  | done
  | illegal
  | short
  deriving DecidableEq, Repr

/-- Literal bytes taken from the token bytes, where they are all there. -/
def loamLit (t : List Byte) (n skip : Nat) : LoamTok × Nat :=
  let l := (t.drop skip).take n
  if l.length < n then (.short, 0) else (.lit l n, 1 + skip + n)

/-- The token at the head of the token bytes, and its length (R282). -/
def loamToken (c : Byte) (t : List Byte) : LoamTok × Nat :=
  let c := c.toNat
  if c < 0x40 then loamLit t (c + 1) 0
  else if c < 0x80 then
    match t with
    | b :: _ => (.mat (c / 8 % 8 + 3) (c % 8 * 256 + b.toNat + 1), 2)
    | _ => (.short, 0)
  else if c < 0xC0 then
    match t with
    | a :: b :: _ => (.mat (c % 64 + 4) (a.toNat + 256 * b.toNat + 1), 3)
    | _ => (.short, 0)
  else if c = 0xC0 then (.done, 1)
  else if c = 0xC1 then
    match t with
    | a :: b :: _ => loamLit t (a.toNat + 256 * b.toNat + 1) 2
    | _ => (.short, 0)
  else if c = 0xC2 then
    match t with
    | a :: b :: x :: y :: _ => (.mat (a.toNat + 256 * b.toNat + 68) (x.toNat + 256 * y.toNat + 1), 5)
    | _ => (.short, 0)
  else if c = 0xC3 then
    match t with
    | a :: _ => (.last (a.toNat + 3), 2)
    | _ => (.short, 0)
  else (.illegal, 0)

/-- The tokens of a block up to its end token (R283, R285): `rest` are the token bytes received within COMP_LEN from
offset `q`, `rev` the output newest first, `p` its length. The output and the end token's offset. -/
def loamTokens (orig : Nat) : (fuel : Nat) → (rest : List Byte) → (q : Nat) → (rev : List Byte) → (p : Nat) →
    (last : Option Nat) → Except LoamErr (List Byte × Nat)
  | 0, _, q, _, _, _ => .error ⟨4, q⟩
  | fuel + 1, rest, q, rev, p, last =>
    match rest with
    | [] => .error ⟨4, q⟩
    | c :: t =>
      let (tok, n) := loamToken c t
      let go := fun (len d : Nat) =>
        if p < d then Except.error ⟨2, q⟩
        else if orig < p + len then .error ⟨3, q⟩
        else loamTokens orig fuel (rest.drop n) (q + n) (loamCopy d len rev) (p + len) (some d)
      match tok with
      | .illegal => .error ⟨1, q⟩
      | .short => .error ⟨if c = 0xC3#8 ∧ last = none then 1 else 4, q⟩
      | .done => if p < orig then .error ⟨4, q⟩ else .ok (rev.reverse, q)
      | .lit l k =>
        if orig < p + k then .error ⟨3, q⟩
        else loamTokens orig fuel (rest.drop n) (q + n) (l.reverse ++ rev) (p + k) last
      | .mat len d => go len d
      | .last len =>
        match last with
        | none => .error ⟨1, q⟩
        | some d => go len d

/-- The first header field that an end inside the header cuts short (R285). -/
def loamHeaderCut (n : Nat) : Nat := if n < 2 then 0 else if n < 4 then 2 else if n < 6 then n else 6

/-- One block decoded from the bytes received (R281 to R285). -/
def loamDecode (l : List Byte) : Except LoamErr LoamBlock :=
  if l.length < 8 then .error ⟨4, loamHeaderCut l.length⟩
  else
    let orig := leAt l 0 2
    let comp := leAt l 2 2
    let flags := leAt l 4 1
    let level := leAt l 5 1
    if orig = 0 then .error ⟨1, 0⟩
    else if comp = 0 then .error ⟨1, 2⟩
    else if 4 ≤ flags then .error ⟨1, 4⟩
    else if level = 0 ∨ 7 < level then .error ⟨1, 5⟩
    else if leAt l 6 2 ≠ 0 then .error ⟨1, 6⟩
    else
      match loamTokens orig (comp + 1) (slice l 8 comp) 8 [] 0 none with
      | .error e => .error e
      | .ok (out, q) =>
        if q + 1 < 8 + comp then .error ⟨if q + 1 < l.length then 1 else 4, q + 1⟩
        else .ok ⟨out, q, flags, level, 8 + comp⟩

/-- One block decoded and its output compared with an expected CRC-32C (R285, code 5). -/
def loamCheck (l : List Byte) (check : Nat) : Except LoamErr LoamBlock :=
  match loamDecode l with
  | .error e => .error e
  | .ok b => if (crc32c b.out).toNat = check then .ok b else .error ⟨5, b.endAt⟩

end Sys2Proof.Machine
end

