-- ==== Sys2Proof/Machine/ImageFormat.lean ====
section
/-! DEFINITION. The configuration image as R372 to R375 lay it out. -/
namespace Sys2Proof.Machine

/-- A run of register words (R374, KIND 0x01). -/
structure Run where
  addr : Nat
  fixed : Bool
  words : List Nat
  deriving DecidableEq, Repr

/-- The address of word `i` of a run. -/
def Run.at_ (r : Run) (i : Nat) : Nat := if r.fixed then r.addr else r.addr + 4 * i

/-- An overlay: its mode, the fallback, the budget declarations and the deltas (R375). -/
structure Overlay where
  mode : Nat
  fallback : Nat
  decls : List (Nat × Nat)
  deltas : List Run
  deriving DecidableEq, Repr

/-- A section, decoded (R374). -/
inductive Sect where
  | runs (l : List Run)
  | classes (port word : Nat) (words : List Nat)
  | bank (n : Nat) (bytes : List Byte)
  | descs (first : Nat) (l : List (List Byte))
  | overlay (o : Overlay)
  deriving DecidableEq, Repr

/-- Why an image is refused: a status, and the word of COMPRESS.LOAM_ERR for a decoder error (R364, R371). -/
structure Bad where
  status : Nat
  word : Nat
  deriving DecidableEq, Repr

/-- IMAGE_INVALID with no decoder error. -/
def invalid : Bad := ⟨0x000B, 0⟩

/-- A delta may aim at a register: it has an RWS field or is an index register (R375). -/
def deltaTarget (addr : Nat) : Bool :=
  isIndexReg (pageBase (pageOf addr)) (offOf addr) || (fieldsAt (pageOf addr) (offOf addr)).any (fun f => f.acc == .rws)

/-- A run that R365 and R376 allow by its address: aligned, on a page of the map, not crossing its end. -/
def Run.placed (r : Run) : Bool :=
  r.addr % 4 == 0 && pageExists (pageOf r.addr) && (pageOf (r.at_ (r.words.length - 1)) == pageOf r.addr)

/-- The words little-endian bytes spell. -/
def wordsOf (l : List Byte) : List Nat := (List.range (l.length / 4)).map fun i => leAt l (4 * i) 4

/-- The runs that words spell (R374). -/
def parseRuns : (fuel : Nat) → List Nat → Option (List Run)
  | _, [] => some []
  | 0, _ => none
  | fuel + 1, w :: ws =>
    let n := bitsAt w 24 7
    if n = 0 ∨ ws.length < n then none
    else
      let r : Run := ⟨bitsAt w 0 24, bitAt w 31, ws.take n⟩
      if r.placed then (parseRuns fuel (ws.drop n)).map (r :: ·) else none

/-- The runs of a body. -/
def runsOf (l : List Byte) : Option (List Run) := if l.length % 4 = 0 then parseRuns l.length (wordsOf l) else none

/-- A label: printable ASCII, padded with zeros (R372, R375). -/
def labelOk (name : List Byte) : Bool :=
  let text := name.takeWhile (fun b => b != 0)
  text.all (fun b => decide (0x20 ≤ b.toNat) && decide (b.toNat ≤ 0x7E)) && (name.drop text.length).all (· == 0)

/-- An overlay body (R375). -/
def overlayOf (l : List Byte) : Option Overlay :=
  if l.length < 24 then none
  else
    let mode := leAt l 0 1
    let dlen := leAt l 2 2
    let n := leAt l 20 1
    if 31 < mode ∨ 4096 < dlen ∨ 64 < n ∨ l.length ≠ 24 + 8 * n + dlen then none
    else if !labelOk (slice l 4 16) then none
    else
      match runsOf (l.drop (24 + 8 * n)) with
      | none => none
      | some rs =>
        if rs.all (fun r => (List.range r.words.length).all fun i => deltaTarget (r.at_ i)) then
          some ⟨mode, leAt l 1 1, (List.range n).map (fun i => (leAt l (24 + 8 * i) 2, leAt l (28 + 8 * i) 4)), rs⟩
        else none

/-- A descriptor of an image that is enabled is no reserved furrow's (R199) and keeps R201: AGE 1 to 255, SIZE 16 to 35, and LANES not 0 but for the hub
furrows that ignore it (R202). -/
def descOk (furrow : Nat) (d : List Byte) : Bool :=
  !bitAt (leAt d 6 1) 6 ||
    ((decide (furrow ≤ 5) || decide (0x100 ≤ furrow)) && leAt d 7 1 != 0 && 16 ≤ leAt d 4 1 && leAt d 4 1 ≤ 35 &&
      ([0x0000, 0x0001, 0x0003, 0x0004, 0x0005].contains furrow || leAt d 12 2 != 0))

/-- A decoded body in the form of its KIND (R374). -/
def sectOf (kind param : Nat) (l : List Byte) : Option Sect :=
  match kind with
  | 1 => if param = 0 then (runsOf l).map .runs else none
  | 2 =>
    let port := bitsAt param 15 5
    let word := bitsAt param 0 15
    if l.length % 4 = 0 ∧ port * 32768 + word + l.length / 4 ≤ 32 * 32768 then some (.classes port word (wordsOf l)) else none
  | 3 => if l.length = 84 then some (.bank (bitsAt param 0 4) l) else none
  | 4 =>
    let first := bitsAt param 0 16
    let n := l.length / 64
    let ds := (List.range n).map fun i => slice l (64 * i) 64
    if l.length % 64 = 0 ∧ first + n ≤ 65536 ∧ (List.range n).all (fun i => descOk (first + i) (ds.getD i [])) then
      some (.descs first ds)
    else none
  | 5 => if param = 0 then (overlayOf l).map .overlay else none
  | _ => none

/-- A compressed body: Loam blocks, each after the CRC-32C of its decoded bytes, up to the block with FINAL (R280, R373);
`at_` is the body's place from the image start. -/
def unpack : (fuel : Nat) → (at_ : Nat) → (l acc : List Byte) → Except Bad (List Byte)
  | 0, _, _, _ => .error invalid
  | fuel + 1, at_, l, acc =>
    if l.length < 4 then .error invalid
    else
      match loamCheck (l.drop 4) (leAt l 0 4) with
      | .error e => .error ⟨0x000B, e.code + 256 * (at_ + 4 + e.off) % 2 ^ 32⟩
      | .ok b =>
        let rest := l.drop (4 + b.len)
        if bitAt b.flags 0 then (if rest = [] then .ok (acc ++ b.out) else .error invalid)
        else unpack fuel (at_ + 4 + b.len) rest (acc ++ b.out)

/-- The sections from a place of the image on (R373). -/
def parseSects : (n : Nat) → (at_ : Nat) → (l : List Byte) → Except Bad (List Sect)
  | 0, _, l => if l = [] then .ok [] else .error invalid
  | n + 1, at_, l =>
    if l.length < 16 then .error invalid
    else
      let kind := leAt l 0 1
      let packed := bitAt (leAt l 1 1) 0
      let stored := leAt l 4 4
      let raw := leAt l 8 4
      let param := leAt l 12 4
      let padded := (stored + 3) / 4 * 4
      if l.length < 16 + padded ∨ kind = 0 ∨ 5 < kind ∨ (slice l (16 + stored) (padded - stored)).any (· != 0) then .error invalid
      else
        let body := slice l 16 stored
        let plain := if packed then unpack (stored + 1) (at_ + 16) body [] else .ok body
        match plain with
        | .error e => .error e
        | .ok p =>
          if p.length ≠ raw then .error invalid
          else
            match sectOf kind param p with
            | none => .error invalid
            | some x =>
              match parseSects n (at_ + 16 + padded) (l.drop (16 + padded)) with
              | .error e => .error e
              | .ok xs => .ok (x :: xs)

/-- The overlays of an image's sections. -/
def overlaysOf (l : List Sect) : List Overlay :=
  l.filterMap fun x => match x with
    | .overlay o => some o
    | _ => none

/-- The runs of the base. -/
def baseRuns (l : List Sect) : List Run :=
  l.flatMap fun x => match x with
    | .runs r => r
    | _ => []

/-- HUB_ID 0xFFFF set by a run (R391). -/
def Run.broadcastId (r : Run) : Bool :=
  (List.range r.words.length).any fun i => r.at_ i == 0x000040 && r.words.getD i 0 % 65536 == 0xFFFF

/-- An image checked by everything but the state of the hub (R371 to R375, R391). -/
def parseImage (l : List Byte) : Except Bad (List Sect) :=
  let n := leAt l 6 2
  if l.length < 64 ∨ 16777216 < l.length then .error invalid
  else if leAt l 0 4 ≠ 0x4D49474C ∨ leAt l 4 2 ≠ 1 ∨ n = 0 ∨ 1024 < n ∨ leAt l 8 4 ≠ l.length then .error invalid
  else if (crc32c (l.drop 16)).toNat ≠ leAt l 12 4 then .error invalid
  else if leAt l 16 1 ≠ 0xC0 ∨ leAt l 17 1 ≠ 0x32 ∨ !labelOk (slice l 20 16) then .error invalid
  else
    match parseSects n 64 (l.drop 64) with
    | .error e => .error e
    | .ok ss =>
      let os := overlaysOf ss
      let ids := os.map (·.mode)
      if ids.eraseDups.length ≠ ids.length then .error invalid
      else if os.any (fun o => o.fallback != 0xFF && !ids.contains o.fallback) then .error invalid
      else if (baseRuns ss ++ os.flatMap (·.deltas)).any Run.broadcastId then .error ⟨0x0004, 0⟩
      else .ok ss

/-- Every run of an image aims at a reachable page (R365, R371). DEDUCED, log entry 61. -/
def State.runsReachable (s : State) (ss : List Sect) : Bool :=
  (baseRuns ss ++ (overlaysOf ss).flatMap (·.deltas)).all fun r => s.reachable (pageOf r.addr)

/-- The descriptors of an image: furrow and bytes. -/
def descsOf (l : List Sect) : List (Nat × List Byte) :=
  l.flatMap fun x => match x with
    | .descs first ds => (List.range ds.length).map fun i => (first + i, ds.getD i [])
    | _ => []

/-- The last descriptor that an image gives a furrow. -/
def imageDesc (ss : List Sect) (f : Nat) : Option (List Byte) :=
  match (descsOf ss).reverse.find? (fun d => d.1 == f) with
  | some d => some d.2
  | none => none

end Sys2Proof.Machine
end

