-- ==== Sys2Proof/Machine/Memory.lean ====
section
/-! DEFINITION. Stream memory: address maps, row-disturbance protection, refresh, retraining, error correction,
scrubbing, retirement, migration, degraded steps and coherence (R223 to R268). -/
namespace Sys2Proof.Machine

/-! ## Address maps (R226, R228, R261, R262) -/

/-- Where a granule of the in-service memory lies. -/
structure Place where
  port : Nat
  rank : Nat
  bank : Nat
  row : Nat
  col : Nat
  deriving DecidableEq, Repr

/-- The in-service capacity in bytes. -/
def State.memBytes (s : State) : Nat := s.g R.memctl_CAPACITY_GIB * 2 ^ 30

/-- The ports in service, rising. -/
def State.memPorts (s : State) : List Nat := bitsSet 8 (s.g R.memctl_CAPACITY_PORTS)

/-- The place of an address under the order in effect and the degraded step; the loss of a second port (R265) leaves the
layout of step 2 as it is. -/
def State.locate (s : State) (a : Nat) : Place :=
  let rank := if s.g R.memctl_CAPACITY_GIB = 64 then bitsAt a 35 1 else 0
  if s.memPorts.length < 8 then
    let q := a / 256 / 7
    let seven := (List.range 8).filter (· != s.g R.spare_DEGRADE_LOST_PORT)
    ⟨seven.getD (a / 256 % 7) 0, 0, bitsAt q 5 4, bitsAt q 9 15, bitsAt q 0 5⟩
  else match s.g R.memctl_MAP_MAP_NOW with
    | 1 => ⟨bitsAt a 8 3, rank, bitsAt a 11 4, bitsAt a 20 15, bitsAt a 15 5⟩
    | 2 => ⟨bitsAt a 13 3, rank, bitsAt a 16 4, bitsAt a 20 15, bitsAt a 8 5⟩
    | _ => ⟨bitsAt a 8 3, rank, bitsAt a 16 4, bitsAt a 20 15, bitsAt a 11 5⟩

/-- The instance of a port's registers. -/
def mInst (m : Nat) : Nat := m * 32

/-- The rank slot of a logical rank, 3 for none (R225). -/
def State.slotOf (s : State) (m rank : Nat) : Nat :=
  s.gi (if rank = 0 then R.mport_RANK_MAP_LR0 else R.mport_RANK_MAP_LR1) (mInst m)

/-- A port's spare slot, 3 for none. -/
def State.spareSlot (s : State) (m : Nat) : Nat := s.gi R.mport_RANK_MAP_SPARE (mInst m)

/-- The SLOT_STAT field of a slot. -/
def slotStatFld (slot : Nat) : Fld :=
  match slot with
  | 0 => R.mport_SLOT_STAT_A
  | 1 => R.mport_SLOT_STAT_B
  | _ => R.mport_SLOT_STAT_C

/-- SLOT_STAT: 0 in service, 1 spare, 2 migrating, 3 retired. -/
def State.slotStat (s : State) (m slot : Nat) : Nat := s.gi (slotStatFld slot) (mInst m)

/-- SLOT_STAT set. -/
def State.setSlotStat (s : State) (m slot v : Nat) : State :=
  if slot < 3 then s.pi (slotStatFld slot) (mInst m) v else s

/-- A slot holds data: in service or the source of a migration. -/
def State.inService (s : State) (m slot : Nat) : Bool :=
  decide (slot < 3) && (s.slotOf m 0 == slot || s.slotOf m 1 == slot)

/-- The instance of SLOT_HEALTH. -/
def hInst (m slot : Nat) : Nat := m * 4 + slot

/-- The memory domain of a port is on. -/
def State.memUp (s : State) (m : Nat) : Bool := s.pd (18 + m / 2)

/-! ## Row-disturbance protection (R236) -/

/-- The rank slot's state. -/
def State.rank (s : State) (m slot : Nat) : Rank := s.mem.ranks.getD (m * 3 + slot) Rank.empty

/-- The rank slot's state changed. -/
def State.setRank (s : State) (m slot : Nat) (f : Rank → Rank) : State :=
  { s with mem := { s.mem with ranks := modAt s.mem.ranks (m * 3 + slot) f } }

/-- The entry of the lowest count, of the lowest row on a tie, in a table of rising rows. -/
def lowestEntry : List (Nat × Nat) → Option (Nat × Nat)
  | [] => none
  | (r, c) :: t =>
    match lowestEntry t with
    | none => some (r, c)
    | some (r', c') => if c' < c then some (r', c') else some (r, c)

/-- An activate of a row entered in its bank's table by space saving: the table and the row's count. -/
def countActivate (t : List (Nat × Nat)) (r : Nat) : List (Nat × Nat) × Nat :=
  match t.find? (fun x => x.1 == r) with
  | some x => (aput t r (x.2 + 1), x.2 + 1)
  | none =>
    if t.length < 16 then (aput t r 1, 1)
    else
      match lowestEntry t with
      | none => (aput t r 1, 1)
      | some (r', c) => (aput (t.filter (fun x => x.1 != r')) r (c + 1), c + 1)

/-- The open row of a bank of a slot. DEDUCED, log entry 39. -/
def MPort.openRow (p : MPort) (slot bank : Nat) : Option Nat :=
  (p.rows.find? (fun x => x.1 == slot * 16 + bank)).map (·.2)

/-- An access opens its row, which is an activate unless the row stands open (R229, R236). DEDUCED, log entry 39. -/
def State.touchRow (s : State) (m slot bank row : Nat) : State :=
  if (s.mp m).openRow slot bank = some row then s
  else
    let s := s.mport m fun p => { p with rows := aput p.rows (slot * 16 + bank) row }
    let r := (Config.physicalRow m slot row).toNat
    let (t, c) := countActivate (aget [] (s.rank m slot).table bank) r
    let s := s.setRank m slot fun k => { k with table := aput k.table bank t }
    if c % 1024 = 0 then
      ((s.inc R.mport_RD_TRIG_COUNT (mInst m) 1).inc R.memctl_RD_TRIG_COUNT 0 1).mport m fun p =>
        { p with rows := p.rows.filter (fun x => x.1 != slot * 16 + bank) }
    else s

/-- RD_TABLE_CLEAR (R236). -/
def State.rdTableClear (s : State) : State :=
  { s with mem := { s.mem with ranks := s.mem.ranks.map fun k => { k with table := [] } } }

/-! ## When a slot takes commands -/

/-- The port is in a retraining pause and accepts no command (R241). -/
def State.paused (s : State) (m : Nat) : Bool := (s.mp m).pause != 0 && decide ((s.mp m).pauseAt ≤ s.trellis.tick)

/-- A slot takes commands: its domain is on, it is not in self-refresh (R239) and its port does not pause (R241).
DESIGN CHOICE, log entry 130. -/
def State.takes (s : State) (m slot : Nat) : Bool := s.memUp m && !(s.rank m slot).selfRef && !s.paused m

/-! ## Retirement (R256 to R258) -/

/-- The registers of a port's migration. -/
def State.setMig (s : State) (m : Nat) (active fast : Bool) : State :=
  (s.pbit R.spare_MIG_STAT_ACTIVE 0 m active).pbit R.spare_MIG_STAT_FAST 0 m fast

/-- Another spare of the port in place of the one named (two stand by after step 1, R261). -/
def State.nextSpare (s : State) (m : Nat) : State :=
  let other := (List.range 3).find? fun x => s.slotStat m x == 1
  s.pi R.mport_RANK_MAP_SPARE (mInst m) (other.getD 3)

/-- A rank slot is retired (R256 to R258): what follows depends on the slot and the state of its port.
DEDUCED, log entry 40. -/
def State.retire (s : State) (m slot cause : Nat) : State :=
  if 3 ≤ slot ∨ s.gi R.spare_SLOT_HEALTH_CAUSE (hInst m slot) ≠ 0 then s
  else
    let s := ((s.pi R.spare_SLOT_HEALTH_CAUSE (hInst m slot) cause).log R.spare_SLOT_HEALTH_CAUSE 0x04A []).pi
      R.spare_SLOT_HEALTH_PAIR_SUSPECT (hInst (if m % 2 = 0 then m + 1 else m - 1) slot) 1
    let p := s.mp m
    if s.inService m slot then
      if p.mig ≠ 0 then s.mport m fun p => { p with degrade := p.degrade ++ [slot] }
      else if s.spareSlot m < 3 then s.mport m fun p => { p with mig := 1, src := slot }
      else s.mport m fun p => { p with degrade := p.degrade ++ [slot] }
    else
      let target := p.mig != 0 && s.spareSlot m == slot
      let s := s.setSlotStat m slot 3
      if target then
        let src := p.src
        (((s.mport m fun p => { p with mig := 0, degrade := src :: p.degrade }).setMig m false false).setSlotStat m src 0).nextSpare m
      else if s.spareSlot m = slot then s.nextSpare m else s

/-- The parity check of a command and address (R248): whether the command was taken. DEDUCED, log entry 42. -/
def State.caCheck (s : State) (m slot : Nat) (c : CaOutcome) : State × Bool :=
  match c with
  | .ok => (s, true)
  | .failure => (s.retire m slot 3, false)
  | .error =>
    let s := s.inc R.spare_SLOT_HEALTH_CA (hInst m slot) 1
    (if 8 < s.gi R.spare_SLOT_HEALTH_CA (hInst m slot) then s.retire m slot 3 else s, true)

/-! ## Refresh and MR4 (R232 to R235) -/

/-- The banks of a pair close for their refresh, whose command passes the parity check (R229, R232, R248). -/
def State.refreshPair (s : State) (m slot pair : Nat) (ca : CaOutcome) : State :=
  let (s, taken) := s.caCheck m slot ca
  if taken then s.mport m fun p => { p with rows := p.rows.filter (fun x => x.1 / 2 != slot * 8 + pair) } else s

/-- The spare that a running migration fills: out of power-down, it takes the writes of its source (R259). -/
def State.target (s : State) (m slot : Nat) : Bool := decide (2 ≤ (s.mp m).mig) && decide (slot < 3) && s.spareSlot m == slot

/-- REFRESH_COMMAND: a spare in power-down is not refreshed (R225), nor a slot in self-refresh; up to 7 commands of a slot are
postponed during a pause (R235). -/
def State.refresh (s : State) (m slot pair : Nat) (ca : CaOutcome) : State :=
  if !(s.inService m slot || s.target m slot) || !s.memUp m || (s.rank m slot).selfRef then s
  else if s.paused m then
    if (s.rank m slot).postponed.length < 7 then s.setRank m slot fun k => { k with postponed := k.postponed ++ [(pair, ca)] } else s
  else s.refreshPair m slot pair ca

/-- A pause has ended: the refresh commands it postponed are issued before any other (R235). -/
def State.refreshPostponed (s : State) (m : Nat) : State :=
  forAll (List.range 3) s fun s slot =>
    ((s.rank m slot).postponed.foldl (fun s x => s.refreshPair m slot x.1 x.2) s).setRank m slot fun k => { k with postponed := [] }

/-- MR4_POLL: the hottest channel decides the slot's refresh rate (R233, R234); temperatures in °C. A port in a pause or a slot
in self-refresh is not read, nor one whose command fails its parity check (R248). DESIGN CHOICE, log entry 130. -/
def State.mr4 (s : State) (m slot : Nat) (temps : List Int) (field : Nat) (ca : CaOutcome) : State :=
  if !s.inService m slot || !s.takes m slot || temps.isEmpty then s
  else
    let (s, taken) := s.caCheck m slot ca
    if !taken then s
    else
    let i := mInst m
    let hot := temps.foldl max (-273)
    let s := (s.pi R.mport_TEMP_MR4 i field).setRank m slot fun k =>
      { k with cool := if hot < 80 then k.cool + 1 else 0, calm := if hot ≤ 105 then k.calm + 1 else 0 }
    let k := s.rank m slot
    if 105 < hot then
      let s := (s.log R.mport_TEMP_OVER (0x041 + m) []).event (0x041 + m)
      ((s.pbit R.mport_TEMP_HOT i slot true).pbit R.mport_TEMP_OVER i slot true).setRank m slot
        fun k => { k with rate := 2 }
    else if k.rate = 2 then
      if 2 ≤ k.calm then
        (s.pbit R.mport_TEMP_OVER i slot false).setRank m slot fun k => { k with rate := 1, cool := 0 }
      else s
    else if 85 < hot then (s.pbit R.mport_TEMP_HOT i slot true).setRank m slot fun k => { k with rate := 1 }
    else if k.rate = 1 ∧ 2 ≤ k.cool then
      (s.pbit R.mport_TEMP_HOT i slot false).setRank m slot fun k => { k with rate := 0 }
    else s

/-! ## Error correction and regions (R249 to R253) -/

/-- The furrow and SEQ of the segment that lies at a block, and whether it has been wholly sent. -/
def State.segmentAt (s : State) (block : Nat) : Option (Nat × Nat × Bool) :=
  s.furrows.findSome? fun (f, u) =>
    match u.segs.find? (fun g => g.addr == block) with
    | some g => some (f, g.seq, g.sent)
    | none =>
      match u.cur with
      | some o => if s.segAddr f (o.seq + 2 ^ 40 - u.shift) = block ∧ !o.lost then some (f, o.seq, false) else none
      | none => none

/-- The region of an address (R253, UE_CAPT_HI.REGION). -/
def State.regionOf (s : State) (a : Nat) : Nat :=
  if a < 0x400000 then 0
  else if a < 0x600000 then 1
  else if a < 0x1600000 then 2
  else match s.segmentAt (a / 4096 * 4096) with
    | some (_, _, sent) => if sent then 4 else 3
    | none => 5

/-- The reset value of a descriptor (R221). -/
def resetDescriptor : List Byte :=
  let d := fun (f : Fld) => f.rst
  le 4 (d R.fwin_D_BASE_BASE) ++ le 1 (d R.fwin_D_BASE_SIZE) ++ le 1 (d R.fwin_D_CFG_CLASS)
    ++ le 1 (d R.fwin_D_CFG_EFFORT + 8 * d R.fwin_D_CFG_PRIO + 64 * d R.fwin_D_CFG_ENABLE) ++ le 1 (d R.fwin_D_CFG_AGE)
    ++ le 4 (d R.fwin_D_WORST_WORST) ++ le 2 (d R.fwin_D_LANES_LANES) ++ le 2 0 ++ le 20 0
    ++ le 4 (d R.fwin_D_RETAIN_RETAIN) ++ le 24 0

/-- The descriptor that the image copy gives a furrow that is not enabled, or its reset value (R253): ENABLE stays clear,
and the bytes that an image does not give are 0. -/
def State.copyDescriptor (s : State) (f : Nat) : List Byte :=
  if s.on R.spare_DEGRADE_IMAGE_LOST 0 then resetDescriptor
  else match s.image.copy with
    | none => resetDescriptor
    | some l =>
      match parseImage l with
      | .error _ => resetDescriptor
      | .ok ss =>
        match imageDesc ss f with
        | none => resetDescriptor
        | some d => modAt (d.take 16 ++ le 20 0 ++ slice d 36 4 ++ le 12 0 ++ d.drop 52) 6 (fun b => b &&& 0xBF#8)

/-- A furrow's descriptor written to memory again (R253). -/
def State.rewriteDescriptor (s : State) (f : Nat) : State :=
  s.poke (64 * f) (if s.on R.fwin_D_CFG_ENABLE f then s.descriptor f else s.copyDescriptor f)

/-- The configuration registers of a furrow that is not enabled return to its rewritten descriptor (R253, R260). -/
def State.restoreDescriptor (s : State) (f : Nat) : State :=
  if s.on R.fwin_D_CFG_ENABLE f then s
  else
    let d := s.copyDescriptor f
    let c := leAt d 6 1
    ((((((s.pi R.fwin_D_BASE_BASE f (leAt d 0 4)).pi R.fwin_D_BASE_SIZE f (leAt d 4 1)).pi R.fwin_D_CFG_CLASS f (leAt d 5 1)).pi
      R.fwin_D_CFG_EFFORT f (bitsAt c 0 3)).pi R.fwin_D_CFG_PRIO f (bitsAt c 3 3)).pi R.fwin_D_CFG_AGE f (leAt d 7 1)).pi
      R.fwin_D_WORST_WORST f (leAt d 8 4) |>.pi R.fwin_D_LANES_LANES f (leAt d 12 2) |>.pi R.fwin_D_RETAIN_RETAIN f (leAt d 36 4)

/-- A write to a granule waits in its port's buffer: a read that comes after it takes its data, and it overwrites what stands in
the array (R230). -/
def State.writeWaits (s : State) (granule : Nat) : Bool :=
  s.mem.ports.any fun p => p.writes.any fun r => r.req.addr / 256 == granule

/-- A granule as read whose errors exceed the code: free values in the bytes of the channels in error (R224, R247, R249).
DESIGN CHOICE, log entry 2. DESIGN CHOICE, log entry 41. -/
def State.scramble (s : State) (granule : Nat) (errs : List Nat) : State :=
  if s.writeWaits granule then s
  else
    let bytes := fun c => (List.range 16).flatMap fun i => le 4 (Config.freeValue (s.freeCtr + 16 * c + i)).toNat
    let s := forAll ((List.range 4).filter errs.contains) s fun s c => s.poke (256 * granule + 64 * c) (bytes c)
    { s with freeCtr := s.freeCtr + 64 }

/-- A granule found uncorrectable reads as it was read. DESIGN CHOICE, log entry 41. DESIGN CHOICE, log entry 2. -/
def State.garble (s : State) (granule : Nat) (errs : List Nat) : State :=
  if s.writeWaits granule then s
  else
    let s := s.scramble granule errs
    { s with mem := { s.mem with bad := s.mem.bad ++ [granule] } }

/-- A fetch that restores the image copy starts: the prefetch lines are invalid and the continuous-read mode is left (R253,
R260, R478, R479). DESIGN CHOICE, log entry 37. -/
def State.refetchImage (s : State) : State :=
  let s := s.p R.xspi_MST_STAT_CONT_ACTIVE 0
  { s with xspi := { s.xspi with lines := [], abandoned := false }, image := { s.image with refetch := true } }

/-- A granule whose errors lie in the channels named is uncorrectable: counted, and handled by its region (R253).
DESIGN CHOICE, log entry 37. DESIGN CHOICE, log entry 41. -/
def State.uncorrectable (s : State) (a : Nat) (errs : List Nat) : State :=
  let g := a / 256
  let a := 256 * g
  let region := s.regionOf a
  let p := s.locate a
  let slot := s.slotOf p.port p.rank
  let s := ((((s.inc R.scrub_UE_ALL_COUNT 0 1).p R.scrub_UE_CAPT_LO_ADDR_LO (a % 2 ^ 32)).p R.scrub_UE_CAPT_HI_ADDR_HI
    (a / 2 ^ 32)).p R.scrub_UE_CAPT_HI_REGION region).inc R.spare_SLOT_HEALTH_UE (hInst p.port slot) 1
  let s := if s.mem.bad.contains g ∨ region < 3 then s else s.garble g errs
  let s :=
    match region with
    | 0 => forAll ((List.range 4).map (a / 64 + ·)) s fun s f => (s.restoreDescriptor f).rewriteDescriptor f
    | 1 => (s.inc R.scrub_UE_ALL_POISONED 0 (2048 - popcount 2048 (leAt (s.peek a 256) 0 256))).poke a (List.replicate 256 0xFF#8)
    | 2 => if s.image.fromFlash then s.refetchImage else s.p R.spare_DEGRADE_IMAGE_LOST 1
    | 3 | 4 => s.setPoison (a / 4096 * 4096) true
    | _ => s
  s.retire p.port slot 1

/-- A corrected granule is counted, and retires its slot beyond the limit (R249, R255, R256). -/
def State.corrected (s : State) (m slot : Nat) : State :=
  let n := s.gi R.spare_SLOT_HEALTH_CE (hInst m slot) + 1
  let s := (s.inc R.scrub_CE_ALL_COUNT 0 1).inc R.spare_SLOT_HEALTH_CE (hInst m slot) 1
  if s.g R.spare_CE_LIMIT_LIMIT < n then s.retire m slot 2 else s

/-- The outcome of a granule read with errors in the channels named (R247, R249): none clean, one corrected, two detected and
uncorrectable. With more the code guarantees nothing: a free value takes one of uncorrectable, undetected, and corrected to
other data, in a channel that may be any. DESIGN CHOICE, log entry 41. -/
def State.readOutcome (s : State) (a : Nat) (errs : List Nat) : State :=
  let p := s.locate a
  let slot := s.slotOf p.port p.rank
  match (errs.filter (· < 5)).eraseDups.length with
  | 0 => s
  | 1 => s.corrected p.port slot
  | 2 => s.uncorrectable a errs
  | _ =>
    match s.freeNow % 3 with
    | 0 => s.drew.uncorrectable a errs
    | 1 => s.drew.scramble (a / 256) errs
    | _ => (s.drew.corrected p.port slot).scramble (a / 256) (List.range 4)

/-! ## Chunks (R275) -/

/-- The number of free chunks published, with the lowest since the last read. -/
def State.setChunks (s : State) (n : Nat) : State :=
  let s := { s with harvest := { s.harvest with chunks := n } }
  let s := s.p R.comp_CHUNK_FREE_FREE n
  if n < s.g R.comp_CHUNK_LOW_LOW then s.p R.comp_CHUNK_LOW_LOW n else s

/-! ## The port's queues (R230, R231, R248) -/

/-- A running migration has begun its copy: writes go to both slots (R259). -/
def State.copying (s : State) (m slot : Nat) : Bool := ((s.mp m).mig == 2 || (s.mp m).mig == 3) && (s.mp m).src == slot

/-- A request, a read or a write, is issued to its slot, a write of a migrating slot with the chip selects of both (R229, R231, R248,
R249, R259). The bytes of a write have stood in memory since its receipt: no read can tell. DESIGN CHOICE, log entry 131. -/
def State.issue (s : State) (x : MemIn) (read : Bool) : State :=
  let a := x.addr / 256 * 256
  let p := s.locate a
  let slot := s.slotOf p.port p.rank
  if 3 ≤ slot then s
  else
    let s := (s.pmax R.mport_LAT_MAX_NS (mInst p.port) x.ns).touchRow p.port slot p.bank p.row
    let s :=
      if !read && s.copying p.port slot then
        let spare := s.spareSlot p.port
        ((s.touchRow p.port spare p.bank p.row).caCheck p.port spare x.caTarget).1
      else s
    let (s, taken) := s.caCheck p.port slot x.ca
    if taken && read then s.readOutcome a x.errs else s

/-- The bank of a slot and the row that a request lies in. -/
def State.bankRow (s : State) (x : MemIn) : Nat × Nat :=
  let p := s.locate (x.addr / 256 * 256)
  (s.slotOf p.port p.rank * 16 + p.bank, p.row)

/-- How many older requests of one bank the first request to its open row may pass, none past 32 times (R230). -/
def State.passes (s : State) (m bank : Nat) : List MemReq → Option Nat
  | [] => none
  | r :: rs =>
    let (b, row) := s.bankRow r.req
    if b ≠ bank then none
    else if (s.mp m).openRow (b / 16) (b % 16) = some row then some 0
    else if 32 ≤ r.passed then none
    else (State.passes s m bank rs).map (· + 1)

/-- The place in a queue of the request served next: first-ready, first-come (R230). -/
def State.nextServed (s : State) (m : Nat) (q : List MemReq) : Nat :=
  match q with
  | [] => 0
  | r :: _ => (s.passes m (s.bankRow r.req).1 q).getD 0

/-- A queue without the request at a place, each one before it passed once more. -/
def passBy (q : List MemReq) (i : Nat) : List MemReq :=
  (q.take i).map (fun r => { r with passed := r.passed + 1 }) ++ q.drop (i + 1)

/-- The next waiting write is issued. DESIGN CHOICE, log entry 131. -/
def State.issueWrite (s : State) (m : Nat) : State :=
  let q := (s.mp m).writes
  let i := s.nextServed m q
  match q[i]? with
  | some r => (s.mport m fun p => { p with writes := passBy q i }).issue r.req false
  | none => s

/-- The next waiting read is served. DESIGN CHOICE, log entry 131. -/
def State.issueRead (s : State) (m : Nat) : State :=
  let q := (s.mp m).reads
  let i := s.nextServed m q
  match q[i]? with
  | some r => (s.mport m fun p => { p with reads := passBy q i }).issue r.req true
  | none => s

/-- Every waiting write of a port is issued. -/
def State.completeWrites (s : State) (m : Nat) : State := forAll (List.range (s.mp m).writes.length) s fun s _ => s.issueWrite m

/-- Waiting reads are served; waiting writes are issued once there are 16 of them (R230).
DESIGN CHOICE, log entry 131. -/
def State.serveQueues (s : State) (m : Nat) : State :=
  let s := forAll (List.range (s.mp m).reads.length) s fun s _ => s.issueRead m
  if 16 ≤ (s.mp m).writes.length then s.completeWrites m else s

/-- MEMORY_ACCESS: a port receives a granule request (R224, R230, R231). A write waits in the write buffer for its batch; a read
of a granule that a waiting write changes is forwarded from there; a request received in a pause waits for its end. The rule
bounds the buffer and the queue and says that budgeted operation never fills them: a request past the bound waits like the
others. DESIGN CHOICE, log entry 131. -/
def State.memServe (s : State) (x : MemIn) : State :=
  let a := x.addr / 256 * 256
  let p := s.locate a
  let slot := s.slotOf p.port p.rank
  if 3 ≤ slot ∨ !s.memUp p.port ∨ (s.rank p.port slot).selfRef then s
  else match x.data with
    | some l =>
      let s := if x.ca = .failure then s else s.poke a (padTo 256 (l.take 256))
      let s := s.mport p.port fun q => { q with writes := q.writes ++ [⟨x, 0⟩] }
      if s.paused p.port then s else s.serveQueues p.port
    | none =>
      if (s.mp p.port).writes.any (fun r => r.req.addr / 256 == x.addr / 256) then
        s.pmax R.mport_LAT_MAX_NS (mInst p.port) x.ns
      else
        let s := s.mport p.port fun q => { q with reads := q.reads ++ [⟨x, 0⟩] }
        if s.paused p.port then s else s.serveQueues p.port

/-! ## Degraded steps (R260 to R265) -/

/-- The places at which every open segment of the given furrows closes for units labelled below the slot that starts
now: a bed's after L_MAX + 8 slots, a port's after its delay, the others at once (R205). The routing before and after
the window counts. -/
def State.scheduleCloses (s : State) (fs : List Nat) : State :=
  let beds := [s.regs, s.prevRegs].flatMap fun m => (List.range 24).map fun b => mapGet m R.rec_BED_CFG_FURROW b
  let ports := [s.regs, s.prevRegs].flatMap fun m =>
    mapGet m R.ing_LATE_FURROW_FURROW 0 :: (List.range 32).map fun n => mapGet m R.ing_PORT_CFG_FURROW n
  let at_ := fun (f : Nat) =>
    if beds.contains f then s.trellis.tick + s.g R.rec_LAT_L_MAX + 8
    else if ports.contains f then s.trellis.tick + s.g R.ing_ALIGN_LAT
    else s.trellis.tick
  { s with closes := s.closes ++ fs.map fun f => (f, at_ f) }

/-- One furrow's segments are released, those never sent are named in the log, and its open segment is lost; the ring of an
enabled one folds (R260, R263). -/
def State.foldFurrow (s : State) (f : Nat) : State :=
  let u := s.fur f
  let unsent := (u.segs.filter (fun g => !g.sent && !g.old)).map (·.seq) ++ (match u.cur with
    | some o => [o.seq]
    | none => [])
  let s := match unsent with
    | [] => s
    | q :: _ => s.logCode 0x07 (le 2 f ++ le 5 q ++ le 5 (unsent.getLast?.getD q))
  let on := s.on R.fwin_D_CFG_ENABLE f
  let base := if on then s.gi R.fwin_D_BASE_BASE f / 2 else u.base
  let size := if on then s.gi R.fwin_D_BASE_SIZE f - 1 else u.size
  let s := if on then (s.pi R.fwin_D_BASE_BASE f base).pi R.fwin_D_BASE_SIZE f size else s
  s.furrow f fun u =>
    { u with
      segs := []
      cur := u.cur.map fun (o : OpenSeg) => { o with lost := true }
      rd := (match u.cur with
        | some o => seqAdd o.seq 1
        | none => u.wr)
      base := base
      size := size }.retail

/-- The furrows whose descriptor is not at its reset value, here or in the image copy. -/
def State.describedFurrows (s : State) : List Nat :=
  let here := s.regs.filterMap fun (k, _) =>
    if k / 2 ^ 20 / 32 / 4096 = 0x038 ∧ 0x38044 ≤ k / 2 ^ 25 then some (k % 2 ^ 20) else none
  let image := match s.image.copy.map parseImage with
    | some (.ok ss) => (descsOf ss).map (·.1)
    | _ => []
  (here ++ image).eraseDups

/-- The table area is written again in a space where its granules have moved (R260): the descriptors, those of furrows that are
not enabled from the image copy; the history index is 0, the image copy is fetched again from flash, and is lost where it did
not come from there. -/
def State.rewriteTables (s : State) : State :=
  let s := if s.image.copy.isNone then s else if s.image.fromFlash then s.refetchImage else s.p R.spare_DEGRADE_IMAGE_LOST 1
  let s := { s with mem := { s.mem with cells := s.mem.cells.filter fun c => decide (0x400000 ≤ c.1) } }
  forAll s.describedFurrows s fun s f => (s.restoreDescriptor f).rewriteDescriptor f

/-- Every enabled ring folds, every segment in memory is released, and everything on its way to a lane is dropped (R260). -/
def State.foldRings (s : State) (moved : Bool) : State :=
  let fs := (s.enabledFurrows ++ s.furrows.map (·.1)).eraseDups
  let s := forAll fs s State.foldFurrow
  let cap_ := s.memBytes
  let s := { s with
    looks := []
    engines := s.engines.map fun _ => Engine.empty
    harvest := { s.harvest with
      tx := s.harvest.tx.map (fun (t : Tx) => { t with waiting := [], sending := t.sending.filter Held.isZcs }) }
    mem := { s.mem with
      cells := s.mem.cells.filter fun c => decide (c.1 < cap_) && (decide (c.1 < 0x400000) || decide (0x600000 ≤ c.1))
      bad := s.mem.bad.filter fun g => decide (256 * g < 0x1600000) && !moved }}
  let s := (s.setChunks 1536).scheduleCloses fs
  let s := if moved then s.rewriteTables else s.writeDescriptors
  let s := if s.g R.scrub_POS_GRANULE * 256 < cap_ then s else s.p R.scrub_POS_GRANULE 0
  ((s.p R.spare_DEG_ORBIT_LO_ORBIT_LO (s.trellis.orbit % 2 ^ 32)).p R.spare_DEG_ORBIT_HI_ORBIT_HI
    (s.trellis.orbit / 2 ^ 32)).ringCheckOnly

/-- A slot leaves service: retired, its rows closed. -/
def State.dropSlot (s : State) (m slot : Nat) : State :=
  (s.setSlotStat m slot 3).mport m fun p => { p with rows := p.rows.filter (fun x => x.1 / 16 != slot) }

/-- A port's part of step 1 (R261): the slot it goes on with becomes logical rank 0, and one that still works beside it
a spare. -/
def State.shrinkPort (s : State) (m : Nat) : State :=
  let p := s.mp m
  let i := mInst m
  let a := s.slotOf m 0
  let b := s.slotOf m 1
  if b = 3 then s
  else
    let s := s.pi R.mport_RANK_MAP_LR1 i 3
    let bBad := p.degrade.contains b || (p.mig != 0 && p.src == b)
    let aBad := p.degrade.contains a
    let s := if p.mig ≠ 0 ∧ p.src = b then
        (s.mport m fun p => { p with mig := 0 }).setMig m false false
      else s
    if aBad ∧ !bBad then
      ((s.dropSlot m a).pi R.mport_RANK_MAP_LR0 i b).mport m fun p => { p with degrade := p.degrade.filter (· != a) }
    else
      let s := s.mport m fun p => { p with degrade := p.degrade.filter (· != b) }
      if bBad then s.dropSlot m b
      else
        let s := s.setSlotStat m b 1
        if s.spareSlot m = 3 then s.pi R.mport_RANK_MAP_SPARE i b else s

/-- Step 1: one rank per port (R261). -/
def State.step1 (s : State) : State :=
  let moved := (List.range 8).any fun m => (s.mp m).degrade.contains (s.slotOf m 0) && (s.mp m).mig == 0
  let s := forAll (List.range 8) s State.shrinkPort
  ((s.p R.memctl_CAPACITY_GIB 32).p R.spare_DEGRADE_STEP 1).foldRings moved

/-- A lost port holds nothing and has no pause. -/
def MPort.lose (p : MPort) : MPort :=
  { p with degrade := [], due := none, pause := 0, half := false, ahead := false, reads := [], writes := [] }

/-- Step 2: seven ports (R262); the budget and a fallback overlay follow at step 3 of R25. -/
def State.step2 (s : State) (m : Nat) : State :=
  let s := (s.dropSlot m (s.slotOf m 0)).pi R.mport_RANK_MAP_LR0 (mInst m) 3
  let s := s.mport m MPort.lose
  let s := ((s.pbit R.memctl_CAPACITY_PORTS 0 m false).p R.memctl_CAPACITY_GIB 28).p R.spare_DEGRADE_LOST_PORT m
  let s := (s.p R.spare_DEGRADE_STEP 2).foldRings true
  { s with mem := { s.mem with fallbackDue := true } }

/-- A second port's last slot is lost: the port leaves service, so that no stream can start (R25, R265). -/
def State.secondPortLost (s : State) (m : Nat) : State :=
  let s := (s.dropSlot m (s.slotOf m 0)).pi R.mport_RANK_MAP_LR0 (mInst m) 3
  let s := ((s.mport m MPort.lose).pbit R.memctl_CAPACITY_PORTS 0 m false).p R.spare_DEGRADE_STEP 3
  let s := forAll s.enabledFurrows s fun s f => s.log R.spare_DEGRADE_STEP 0x04A (le 2 f ++ le 6 s.trellis.orbit)
  { s with mem := { s.mem with stopDue := true } }

/-- A slot that waits for a degraded step on a port of step 1 takes a spare that has since stood by (R258, R261).
DEDUCED, log entry 46. -/
def State.takeSpare (s : State) (m : Nat) : State :=
  let p := s.mp m
  match p.degrade with
  | slot :: rest =>
    if p.mig = 0 ∧ s.spareSlot m < 3 ∧ s.inService m slot then s.mport m fun p => { p with mig := 1, src := slot, degrade := rest }
    else s
  | [] => s

/-- A port waits for a degraded step: a slot is due for one and no migration runs (R258). DEDUCED, log entry 46. -/
def State.stepDue (s : State) (m : Nat) : Bool := !(s.mp m).degrade.isEmpty && (s.mp m).mig == 0 && s.memPorts.contains m

/-- The degraded steps that fall due (step 2 of R25): step 1 first, then the loss of last slots. -/
def State.degradedSteps (s : State) : State :=
  let due := (List.range 8).any s.stepDue
  let s := if due then forAll (List.range 8) s State.completeWrites else s
  let s := if due ∧ s.g R.spare_DEGRADE_STEP = 0 then s.step1 else s
  forAll (List.range 8) (forAll (List.range 8) s State.takeSpare) fun s m =>
    if s.stepDue m then
      if s.memPorts.length = 8 then s.step2 m else s.secondPortLost m
    else s

/-! ## Migration (R259) -/

/-- The map of a port whose copy is complete switches to the spare (step 1 of R25). -/
def State.mapSwitch (s : State) (m : Nat) : State :=
  let p := s.mp m
  if p.mig = 3 then
    let i := mInst m
    let spare := s.spareSlot m
    let rank := if s.slotOf m 0 = p.src then 0 else 1
    let clean := s.mem.bad.filter fun g => let q := s.locate (256 * g); !(q.port == m && q.rank == rank)
    let s := s.pi (if rank = 0 then R.mport_RANK_MAP_LR0 else R.mport_RANK_MAP_LR1) i spare
    let s := ((s.dropSlot m p.src).setSlotStat m spare 0).nextSpare m
    let s := { s with mem := { s.mem with bad := clean } }
    (s.mport m fun p => { p with mig := 0 }).setMig m false false
  else s

/-- The migrations that wait begin: the spare leaves power-down, and the copy is due at slot q + 64 (R259). -/
def State.startMigration (s : State) (m : Nat) : State :=
  if (s.mp m).mig = 1 then
    ((s.mport m fun p => { p with mig := 4, copyAt := s.trellis.tick + 64 }).setMig m true false).setSlotStat m
      (s.mp m).src 2
  else s

/-- A copy that is due starts, at 3.0 GB/s where the last budget check leaves 24 GB/s in B2 (R259). -/
def State.startCopy (s : State) (m : Nat) : State :=
  if (s.mp m).mig = 4 ∧ (s.mp m).copyAt ≤ s.trellis.tick then
    let fast := s.on R.bud_BSTAT_VALID 0 &&
      decide (s.gi R.bud_DEMAND_DEMAND 1 + 24000 ≤ s.gi R.bud_CAPACITY_CAPACITY 1)
    (s.mport m fun p => { p with mig := 2, copyNs := s.nowNs }).setMig m true fast
  else s

/-- Granules copied so far, at the average rate of the copy (R259, MIG_PROG). -/
def State.migProgress (s : State) (m : Nat) : Nat :=
  let p := s.mp m
  let rate := if bitAt (s.g R.spare_MIG_STAT_FAST) m then 6 else 3
  if p.mig = 3 then 2 ^ 24 else if p.mig = 2 then min (2 ^ 24) ((s.nowNs - p.copyNs) * rate / 512) else 0

/-- Steps 1 and 2 of R25: address-map switches, then degraded steps. -/
def State.memWindow (s : State) : State := (forAll (List.range 8) s State.mapSwitch).degradedSteps

/-- MIGRATION_COPY_DONE: the copy's own reads have had their outcomes (R249, R259), which may end the migration.
DESIGN CHOICE, log entry 139. -/
def State.copyDone (s : State) (m : Nat) (errs : List (Nat × List Nat)) : State :=
  if (s.mp m).mig = 2 then
    let mine := errs.filter fun e =>
      let p := s.locate (e.1 / 256 * 256)
      decide (e.1 < s.memBytes) && p.port == m && s.slotOf m p.rank == (s.mp m).src && !s.writeWaits (e.1 / 256)
    let s := mine.foldl (fun s e => s.readOutcome (e.1 / 256 * 256) e.2) s
    if (s.mp m).mig = 2 then s.mport m (fun p => { p with mig := 3 }) else s
  else s

/-! ## Training (R237 to R243) -/

/-- The address order takes effect when the memory trains at power-on or after a cold reset (R227).
DEDUCED, log entry 62. -/
def State.applyOrder (s : State) : State := s.p R.memctl_MAP_MAP_NOW (s.g R.memctl_MAP_ORDER)

/-- A port's initial training, with its failed slots (R237, R238): slot C takes the place of a failed A or B; a port with
too few slots left waits for a degraded step. Slots leave self-refresh (R239). -/
def State.trainPort (s : State) (failed : List Nat) (m : Nat) : State :=
  let i := mInst m
  let s := forAll (List.range 3) s fun s x => s.setRank m x fun k => { k with selfRef := false, postponed := [] }
  let bad := (List.range 3).filter fun x => failed.contains (m * 4 + x)
  let s := s.pbit R.memctl_TRAIN_STAT_DONE 0 m true
  let s := if bad.isEmpty then s else s.pbit R.memctl_TRAIN_STAT_FAIL 0 m true
  let fresh := bad.filter fun x => s.gi R.spare_SLOT_HEALTH_CAUSE (hInst m x) == 0
  let s := forAll fresh s fun s x =>
    ((s.pi R.spare_SLOT_HEALTH_CAUSE (hInst m x) 4).log R.spare_SLOT_HEALTH_CAUSE 0x04A []).pi
      R.spare_SLOT_HEALTH_PAIR_SUSPECT (hInst (if m % 2 = 0 then m + 1 else m - 1) x) 1
  forAll fresh s fun s x =>
    let spare := s.spareSlot m
    if s.inService m x then
      if spare < 3 ∧ !fresh.contains spare then
        let f := if s.slotOf m 0 = x then R.mport_RANK_MAP_LR0 else R.mport_RANK_MAP_LR1
        (((s.pi f i spare).setSlotStat m x 3).setSlotStat m spare 0).nextSpare m
      else s.mport m fun p => { p with degrade := p.degrade ++ [x] }
    else (s.setSlotStat m x 3).nextSpare m

/-- Initial training of every port whose domain is on (R237). -/
def State.trainMemory (s : State) (failed : List Nat) (ms : Nat) : State :=
  let s := forAll ((List.range 8).filter s.memUp) s fun s m => s.trainPort failed m
  s.p R.memctl_TRAIN_STAT_TIME (cap 65535 ms)

/-- The shortest retraining interval in management frames: 1 ms and 8 orbits (R240). -/
def State.retrainMin (s : State) : Nat :=
  let m := max 1 s.trellis.mNow
  max (ceilDiv 8 m) (ceilDiv s.fBC (1000 * m * max 1 s.nSlot))

/-- The retraining interval in quiet windows: INTERVAL frames, never shorter than the least (R240). -/
def State.retrainOrbits (s : State) : Nat := max s.retrainMin (s.g R.memctl_RT_CFG_INTERVAL) * max 1 s.trellis.mNow

/-- A new retraining interval of the ports counts from the orbit in which it takes effect; a port that waits goes on waiting (R240,
R438). Step 6 of this window counts one off. -/
def State.setRetrain (s : State) (v : Nat) : State :=
  let s := s.p R.memctl_RT_CFG_INTERVAL v
  forAll (List.range 8) s fun s m => s.mport m fun p =>
    { p with due := p.due.map fun d => if d = 0 then 0 else s.retrainOrbits + 1 }

/-- After the orbit first locks, Mm is due in the quiet window of the (m + 1)-th orbit (R240). -/
def State.retrainFirst (s : State) : State :=
  if s.trellis.everLocked then
    forAll (List.range 8) s fun s m => s.mport m fun p => if p.due.isNone then { p with due := some (m + 1) } else p
  else s

/-- The order in which due ports pause: a second half, then a port put off by its map switch, then ascending (R240).
DEDUCED, log entry 47. -/
def State.pauseQueue (s : State) : List Nat :=
  let up := s.memPorts.filter s.memUp
  let half := up.filter fun m => (s.mp m).half
  let due := up.filter fun m => (s.mp m).due == some 0 && !(s.mp m).half
  half ++ due.filter (fun m => (s.mp m).ahead) ++ due.filter (fun m => !(s.mp m).ahead)

/-- The port to pause next (RT_CFG.NEXT): the first that waits, else the one that falls due first. -/
def State.nextPause (s : State) : Nat :=
  match s.pauseQueue with
  | m :: _ => m
  | [] =>
    let ds := (s.memPorts.filter s.memUp).filterMap fun m => (s.mp m).due.map fun d => (d, m)
    match (ds.map (·.1)).min? with
    | none => 0
    | some d => ((ds.find? (fun x => x.1 == d)).map (·.2)).getD 0

/-- The pause that a quiet window places (step 6 of R25; R240, R241): `switched` are the ports whose map switched in it, which
go before the others in the next window. It starts at slot q + 2. DEDUCED, log entry 47. -/
def State.memPause (s : State) (switched : List Nat) : State :=
  let s := forAll (List.range 8) s fun s m => s.mport m fun p =>
    let due := p.due.map (· - 1)
    { p with due := due, ahead := p.ahead || (switched.contains m && due == some 0) }
  match s.pauseQueue.filter (fun m => !switched.contains m) with
  | [] => s
  | m :: _ =>
    let whole := !(s.mp m).half && decide (s.fBC * 3 ≤ (s.trellis.qwLen - 2) * 2000000)
    let second := (s.mp m).half
    let s := if whole || second then s else s.inc R.mport_RT_STAT_SPLIT (mInst m) 1
    s.mport m fun p =>
      { p with
        pause := if second then 3 else if whole then 1 else 2
        pauseAt := s.trellis.tick + 2
        half := !(whole || second)
        ahead := false
        due := some s.retrainOrbits }

/-- A pause that starts in this slot closes its port's rows (R229, R241), and a copy due in it starts (R259). -/
def State.memPauses (s : State) : State :=
  forAll (List.range 8) (forAll (List.range 8) s State.startCopy) fun s m =>
    if (s.mp m).pause ≠ 0 ∧ (s.mp m).pauseAt = s.trellis.tick then s.mport m fun p => { p with rows := [] } else s

/-- MEM_RETRAIN_UNLOCKED: while the orbit has never locked, one port at a time pauses on the CD01 timer (R242). -/
def State.retrainUnlocked (s : State) (m : Nat) : State :=
  if s.trellis.everLocked ∨ !s.memUp m ∨ !s.memPorts.contains m ∨ s.mem.ports.any (fun p => p.pause != 0) then s
  else s.mport m fun p => { p with pause := 1, pauseAt := s.trellis.tick, rows := [] }

/-- MEM_RETRAIN_END: window widths are published, failed slots keep their settings and are retired (R243); then come the refresh
commands postponed (R235) and the requests received in the pause. `windows` are slot × 8 + channel with RD, WR and CA in its
three bytes. -/
def State.memRetrainEnd (s : State) (m : Nat) (failed : List Nat) (windows : List (Nat × Nat)) : State :=
  let p := s.mp m
  if !s.paused m then s
  else
    let s := s.mport m fun p => { p with pause := 0 }
    let s := if p.pause = 2 then s else
      { s.incW R.mport_RT_STAT_COUNT (mInst m) 1 with tend := { s.tend with portPauses := s.tend.portPauses ++ [m] } }
    let s := windows.foldl (fun s w =>
      if w.1 / 8 < 3 ∧ w.1 % 8 < 5 then
        ((s.pi R.mport_WIN_RD (mInst m + w.1) (bitsAt w.2 0 8)).pi R.mport_WIN_WR (mInst m + w.1) (bitsAt w.2 8 8)).pi
          R.mport_WIN_CA (mInst m + w.1) (bitsAt w.2 16 8)
      else s) s
    let s := forAll (failed.filter (· < 3)) s fun s x => (s.inc R.mport_RT_STAT_FAIL (mInst m) 1).retire m x 5
    (s.refreshPostponed m).serveQueues m

/-! ## The scrubber, windows -/

/-- SCRUB_GRANULE: the next granule is read and the position moves on (R250); scrubbing of a port stops in its pause. What a
waiting write changes comes from its buffer (R230). -/
def State.scrubGranule (s : State) (errs : List Nat) (ca : CaOutcome) : State :=
  let g := s.g R.scrub_POS_GRANULE
  let p := s.locate (256 * g)
  let slot := s.slotOf p.port p.rank
  if 3 ≤ slot ∨ !s.takes p.port slot then s
  else
    let last := decide (s.memBytes / 256 ≤ g + 1)
    let s := s.p R.scrub_POS_GRANULE (if last then 0 else g + 1)
    let s := if last then s.incW R.scrub_PASSES_COUNT 0 1 else s
    if s.writeWaits g then s
    else
      let (s, taken) := (s.touchRow p.port slot p.bank p.row).caCheck p.port slot ca
      if taken then s.readOutcome (256 * g) errs else s

/-- Rank slots by port and slot. -/
def allSlots : List (Nat × Nat) := (List.range 8).flatMap fun m => (List.range 3).map fun x => (m, x)

/-- CE_WINDOW_END: corrected-error counts restart (R255): at a frame boundary whose number is a whole multiple of WINDOW,
and on the timer while the orbit has never locked. -/
def State.ceWindowEnd (s : State) : State :=
  let m := max 1 s.trellis.mNow
  let due := s.trellis.slot == 0 && s.trellis.orbit % m == 0 && m == max 1 (s.g R.trellis_MFRAME_MF_ORBITS) &&
    s.trellis.orbit / m % max 1 (s.g R.spare_CE_LIMIT_WINDOW) == 0
  if due ∨ !s.trellis.everLocked then
    allSlots.foldl (fun s x => s.pi R.spare_SLOT_HEALTH_CE (hInst x.1 x.2) 0) s
  else s

/-- C/A error counts restart with each management frame (R256, R268). DEDUCED, log entry 42. -/
def State.caFrame (s : State) : State :=
  allSlots.foldl (fun s x => s.pi R.spare_SLOT_HEALTH_CA (hInst x.1 x.2) 0) s

/-- The lines of the table area, the 64 bytes at 64 × line; the lines of the SRAM follow. DESIGN CHOICE, log entry 132. -/
def tableLines : Nat := 2 ^ 24

/-- The lines of the 2 MiB SRAM. DESIGN CHOICE, log entry 132. -/
def sramLines : Nat := 2 ^ 15

/-- A coherent line as memory holds it. DESIGN CHOICE, log entry 132. -/
def State.lineAt (s : State) (line : Nat) : List Byte :=
  if line < tableLines then s.peek (64 * line) 64 else aget (List.replicate 64 0) s.mem.sram (line - tableLines)

/-- A coherent line written to memory. DESIGN CHOICE, log entry 132. -/
def State.setLine (s : State) (line : Nat) (l : List Byte) : State :=
  let l := padTo 64 (l.take 64)
  if line < tableLines then s.poke (64 * line) l
  else
    let rest := s.mem.sram.filter fun x => x.1 != line - tableLines
    { s with mem := { s.mem with sram := if l.all (· == 0) then rest else aput rest (line - tableLines) l } }

/-- A request of an agent is granted (R266): the line comes from its owner by forward invalidation, which writes nothing to
memory, and from memory where there is none. DESIGN CHOICE, log entry 132. -/
def State.grantLine (s : State) (line agent : Nat) : State :=
  let l := match s.mem.owners.find? (fun x => x.1 == line) with
    | some x => x.2.line
    | none => s.lineAt line
  { s with mem := { s.mem with owners := aput s.mem.owners line ⟨agent, l⟩ } }

/-- COHERENT_REQUEST (R266): the writeback completes and memory holds its data, then the requests are granted in ascending
agent number. -/
def State.coherent (s : State) (line : Nat) (writeback : Option (Nat × List Byte)) (requests : List Nat) : State :=
  if tableLines + sramLines ≤ line then s
  else
    let s := match writeback with
      | some (a, l) =>
        let s := s.setLine line l
        { s with mem := { s.mem with owners := s.mem.owners.filter fun x => !(x.1 == line && x.2.agent == a) } }
      | none => s
    forAll ((List.range 6).filter requests.contains) s fun s a => s.grantLine line a

/-- A write of MAP.ORDER is held for the next training; 3 is ignored (R227, R245). -/
def State.mapOrder (s : State) (w : Word) : State :=
  let o := w.toNat % 4
  if o = 3 then s.err 0x040 1 0x040 else s.p R.memctl_MAP_ORDER o

/-! ## Commands -/

/-- RANK_RETIRE (R256, R364). -/
def State.rankRetire (s : State) (port slot : Nat) : State × Reply :=
  if 8 ≤ port ∨ 3 ≤ slot then (s, .done stBadParam []) else (s.retire port slot 6, .done stOk [])

/-- The furrows disabled under R264, rising. -/
def State.shedFurrows (s : State) : List Nat := (s.furrows.filter (fun x => x.2.shed)).map (·.1)

/-- The word of SLOT_HEALTH. -/
def State.slotHealth (s : State) (m slot : Nat) : Nat :=
  let i := hInst m slot
  s.gi R.spare_SLOT_HEALTH_CE i + 2 ^ 16 * s.gi R.spare_SLOT_HEALTH_UE i + 2 ^ 24 * s.gi R.spare_SLOT_HEALTH_CA i
    + 2 ^ 28 * s.gi R.spare_SLOT_HEALTH_CAUSE i + 2 ^ 31 * s.gi R.spare_SLOT_HEALTH_PAIR_SUSPECT i

/-- The response of MEM_HEALTH (R364). -/
def State.memHealth (s : State) : State × Reply :=
  let shed := s.shedFurrows
  let degrade := s.g R.spare_DEGRADE_STEP + 16 * s.g R.spare_DEGRADE_LOST_PORT + 128 * s.g R.spare_DEGRADE_IMAGE_LOST
  (s, .done (if s.g R.spare_DEGRADE_STEP = 0 then stOk else stDegraded)
    (allSlots.flatMap (fun x => le 4 (s.slotHealth x.1 x.2)) ++ le 4 degrade
      ++ le 4 (s.g R.spare_DEG_ORBIT_LO_ORBIT_LO) ++ le 2 (s.g R.spare_DEG_ORBIT_HI_ORBIT_HI) ++ le 2 shed.length
      ++ (shed.take 256).flatMap (le 2)))

/-! ## The commands' meanings -/

/-- MEMORY_ACCESS: a fault where no such address is in service. DESIGN CHOICE, log entry 115. -/
def execMemoryAccess (m : MemIn) (s : State) : Host.Outcome State Fault Refusal :=
  if m.addr < s.memBytes then .next (s.memServe m) else .fault .noAddress

/-- REFRESH_COMMAND. -/
def execRefreshCommand (port slot : Nat) (pair : RefreshIn) (s : State) : Host.Outcome State Fault Refusal :=
  .next (s.refresh port slot pair.pair pair.ca)

/-- MR4_POLL. -/
def execMr4Poll (port slot : Nat) (temps : List Int) (field : Mr4In) (s : State) : Host.Outcome State Fault Refusal :=
  .next (s.mr4 port slot temps field.field field.ca)

/-- RD_TABLE_CLEAR. -/
def execRdTableClear (s : State) : Host.Outcome State Fault Refusal := .next s.rdTableClear

/-- MEM_RETRAIN_END. -/
def execMemRetrainEnd (port : Nat) (failed : List Nat) (windows : List (Nat × Nat)) (s : State) :
    Host.Outcome State Fault Refusal := .next (s.memRetrainEnd port failed windows)

/-- MEM_RETRAIN_UNLOCKED. -/
def execMemRetrainUnlocked (port : Nat) (s : State) : Host.Outcome State Fault Refusal := .next (s.retrainUnlocked port)

/-- SCRUB_GRANULE. -/
def execScrubGranule (errs : ScrubIn) (s : State) : Host.Outcome State Fault Refusal :=
  .next (s.scrubGranule errs.errs errs.ca)

/-- CE_WINDOW_END. -/
def execCeWindowEnd (s : State) : Host.Outcome State Fault Refusal := .next s.ceWindowEnd

/-- MIGRATION_COPY_DONE. -/
def execMigrationCopyDone (port : CopyIn) (s : State) : Host.Outcome State Fault Refusal :=
  .next (s.copyDone port.port port.errs)

/-- COHERENT_REQUEST. -/
def execCoherentRequest (line : Nat) (writeback : Option (Nat × List Byte)) (requests : List Nat) (s : State) :
    Host.Outcome State Fault Refusal := .next (s.coherent line writeback requests)

/-- RANK_RETIRE. -/
def execRankRetire (h : Hdr) (port slot : Nat) (s : State) : Host.Outcome State Fault Refusal :=
  .next (s.zcsRun (.rankRetire h port slot) h 0x0060 true fun s => s.rankRetire port slot)

/-- MEM_HEALTH. -/
def execMemHealth (h : Hdr) (s : State) : Host.Outcome State Fault Refusal :=
  .next (s.zcsRun (.memHealth h) h 0x0061 true fun s => s.memHealth)

end Sys2Proof.Machine
end

