-- ==== Sys2Proof/Machine/Harvest.lean ====
section
/-! DEFINITION. Compression jobs and the Harvest uplink: dispatch, engines, lanes, the return channel (R269 to R309). -/
namespace Sys2Proof.Machine

/-! ## Lanes (R297, R300) -/

/-- Hn is lit. -/
def State.litLane (s : State) (n : Nat) : Bool := bitAt (s.g R.harv_LIT_LIT) n

/-- Hn is usable (R297). -/
def State.usable (s : State) (n : Nat) : Bool := s.litLane n && (s.laneOf (32 + n)).tx == 0 && !(s.txOf n).dropped

/-- The segments that Hn holds in the chunk pool; a ZCS response holds no chunks. -/
def State.heldBy (s : State) (n : Nat) : Nat :=
  (s.txOf n).waiting.length + ((s.txOf n).sending.filter fun h => !h.isZcs).length

/-- Everything that Hn holds is cut, and its chunks return to the pool (R275). -/
def State.cutLane (s : State) (n : Nat) : State :=
  let t := s.txOf n
  let held := sumNat ((t.waiting ++ t.sending).map (·.chunks))
  (s.tx n fun t => { t with waiting := [], sending := [], draining := false }).setChunks (s.harvest.chunks + held)

/-- The Harvest lanes. -/
def hLanes : List Nat := List.range 16

/-- The lit lanes. -/
def State.litCount (s : State) : Nat := popcount 16 (s.g R.harv_LIT_LIT)

/-- A lane is lit, its request going to the wake ration at once (R300); a lane being darkened stays lit. A standby lights
none (R416). -/
def State.light (s : State) (n : Nat) : State :=
  if s.standby then s else (s.tx n fun t => { t with draining := false }).askTx (32 + n) 0

/-- Dark lanes of a mask, rising. -/
def State.darkIn (s : State) (mask : Nat) : List Nat := (bitsSet 16 mask).filter fun n => !s.litLane n

/-- Every lane of a mask is lit. -/
def State.lightMask (s : State) (mask : Nat) : State := (forAll (s.darkIn mask) s State.light).startExits

/-- A lane goes to the deep state once it holds nothing (R300). -/
def State.darkenWhenEmpty (s : State) (n : Nat) : State :=
  if (s.txOf n).draining && s.heldBy n == 0 then (s.tx n fun t => { t with draining := false }).askTx (32 + n) 2 else s

/-! ## The next segment due (R298) -/

/-- Why a segment is due. -/
inductive Due where
  | resend | first | look
  deriving DecidableEq, Repr

/-- A segment due: furrow, segment, why. -/
structure DueSeg where
  furrow : Nat
  seg : Seg
  why : Due
  deriving DecidableEq, Repr

/-- PRIO of a furrow. -/
def State.prio (s : State) (f : Nat) : Nat := s.gi R.fwin_D_CFG_PRIO f

/-- Segments marked for re-send, by descending PRIO and ascending SEQ; those of a takeover while their bucket covers one (R426).
-/
def State.dueResends (s : State) : List DueSeg :=
  let go := fun (g : Seg) => g.resend && (!g.epochChange || decide (4096 * s.fBC ≤ s.harvest.catchTokens))
  let l := s.furrows.flatMap fun (f, u) => (u.segs.filter go).map fun g => (⟨f, g, .resend⟩ : DueSeg)
  sortBy (fun a b => decide (s.prio b.furrow < s.prio a.furrow) ||
    (s.prio a.furrow == s.prio b.furrow && seqLater a.seg.seq b.seg.seq)) l

/-- First transmissions, by descending PRIO and in order of closing. -/
def State.dueFirsts (s : State) : List DueSeg :=
  let l := s.furrows.flatMap fun (f, u) =>
    (u.segs.filter (fun g => !g.handed && !g.old)).map fun g => (⟨f, g, .first⟩ : DueSeg)
  sortBy (fun a b => decide (s.prio b.furrow < s.prio a.furrow) ||
    (s.prio a.furrow == s.prio b.furrow && decide (a.seg.closedAt < b.seg.closedAt))) l

/-- The next segment of each look-back request, while the bucket covers it. -/
def State.dueLooks (s : State) : List DueSeg :=
  s.looks.filterMap fun k =>
    match (s.fur k.furrow).segs.find? (fun g => k.seqs.headD 0 == g.seq && !g.dup) with
    | some g => if g.len * s.fBC ≤ s.harvest.lookTokens then some ⟨k.furrow, g, .look⟩ else none
    | none => none

/-- The look-back bucket gains one slot's worth, LB being in 0.5 GB/s (R208); it holds one segment and one slot's worth (R298).
-/
def State.lookRefill (s : State) : State :=
  let slot := s.g R.bud_RESERVE_LB * 500000000
  { s with harvest := { s.harvest with lookTokens := min (s.harvest.lookTokens + slot) (4096 * s.fBC + slot) } }

/-- The bucket of the re-sends after a takeover gains one slot's worth of R_c and holds one segment and one slot's worth (R426).
DESIGN CHOICE, log entry 138. -/
def State.catchRefill (s : State) : State :=
  if s.on R.graft_STAT_CATCH_UP 0 then
    let slot := (resendRate s.regs).getD 0
    { s with harvest := { s.harvest with catchTokens := min (s.harvest.catchTokens + slot) (4096 * s.fBC + slot) } }
  else s

/-- Look-back segments that are no longer retained are passed over (R217, R218), and finished requests end. -/
def State.pruneLooks (s : State) : State :=
  let cut := fun (k : Look) =>
    { k with seqs := k.seqs.filter (fun q => (s.fur k.furrow).segs.any (fun g => g.seq == q && !g.dup)) }
  { s with looks := (s.looks.map cut).filter (fun k => !k.seqs.isEmpty) }

/-- The lane a furrow's segment is bound to: usable, taking new segments, in the mask, with the fewest segments held and
fewer than 16 (R272, R297). -/
def State.laneFor (s : State) (f : Nat) : Option Nat :=
  let ls := (bitsSet 16 (s.lanesOf f)).filter fun n => s.usable n && !(s.txOf n).draining && decide (s.heldBy n < 16)
  ls.foldl (fun best n => match best with
    | none => some n
    | some b => if s.heldBy n < s.heldBy b then some n else some b) none

/-- The lowest-numbered engine whose compression stage is free (R272). -/
def State.freeEngine (s : State) : Option Nat := s.engines.findIdx? (fun e => e.comp.isNone)

/-- The mask of a segment's uncorrectable granules (R254). -/
def State.badMask (s : State) (g : Seg) : Nat :=
  natOfBits ((List.range (ceilDiv g.len 256)).map fun i => s.mem.bad.contains (g.addr / 256 + i))

/-- The header a transmission carries (R207, R254, R424): flags of the transmission, the graft epoch, and the hub's own
fields where granule 0 cannot be read. -/
def State.sendHeader (s : State) (x : DueSeg) (poison : Bool) (mask : Nat) (raw : List Byte) : List Byte :=
  let g := x.seg
  let replay := decide (x.why ≠ .first)
  let extra := 2 * b2n poison + 32 * b2n replay + 64 * b2n (decide (x.why = .resend) && g.epochChange)
  let own := bitAt mask 0
  le 2 (if own then x.furrow else leAt raw 0 2) ++ le 2 ((if own then g.flags else leAt raw 2 2) ||| extra)
    ++ le 5 (if own then g.seq else leAt raw 4 5) ++ le 1 (if own then g.cls else leAt raw 9 1) ++ slice raw 10 14
    ++ le 2 (if own then s.g R.global_HUB_ID_ID else leAt raw 24 2) ++ le 1 (s.g R.graft_STAT_EPOCH) ++ slice raw 27 5

/-- The payload bytes of a segment as read: PAYLOAD_LEN of its header, 4,064 where that lies outside 1 to 4,064. -/
def payloadLen (raw : List Byte) : Nat :=
  let n := leAt raw 18 2
  if n = 0 ∨ 4064 < n then 4064 else n

/-- An engine. -/
def State.engineOf (s : State) (eng : Nat) : Engine := s.engines.getD eng Engine.empty

/-- A segment is in an engine (ENG_STAT.BUSY). -/
def Engine.busy (e : Engine) : Bool := e.comp.isSome || e.ver.isSome || e.copy.isSome

/-- An engine updated. -/
def State.engine (s : State) (eng : Nat) (f : Engine → Engine) : State := { s with engines := modAt s.engines eng f }

/-- A segment is handed to an engine's compressor and bound to its lane (R271, R272, R275, R297): RD_SEQ advances, or its mark or its
place in a request is used up. -/
def State.handOver (s : State) (x : DueSeg) (lane eng : Nat) : State :=
  let g := x.seg
  let mask := s.badMask g
  let poison := s.poisoned g.addr || mask != 0
  let raw := s.peek g.addr 32
  let level := if s.on R.comp_ENG_STAT_STORED_ONLY eng then 0 else s.gi R.fwin_D_CFG_EFFORT x.furrow
  let job : Job := ⟨x.furrow, g.seq, g.addr, lane, level, s.on R.comp_CTRL_VERIFY 0, poison, mask,
    s.sendHeader x poison mask raw, s.peek (g.addr + 32) (payloadLen raw)⟩
  let edit := fun (f : Seg → Seg) (s : State) => s.furrow x.furrow fun u =>
    { u with segs := u.segs.map fun y => if y.seq = g.seq ∧ y.addr = g.addr then f y else y }
  let s := match x.why with
    | .first => (edit (fun y => { y with handed := true }) s).furrow x.furrow fun u => { u with rd := seqAdd g.seq 1 }
    | .resend =>
      let s := edit (fun y => { y with resend := false, dropped := false }) s
      let s := if g.dropped then s.inc R.harv_REPLAY_COUNT 0 1 else s
      if g.epochChange then
        { s with harvest := { s.harvest with catchTokens := s.harvest.catchTokens - g.len * s.fBC } }
      else s
    | .look =>
      let s := { s with harvest := { s.harvest with lookTokens := s.harvest.lookTokens - g.len * s.fBC } }
      let cut := fun (k : Look) =>
        if k.furrow = x.furrow ∧ k.seqs.headD 0 = g.seq then { k with seqs := k.seqs.tail } else k
      { s with looks := (s.looks.map cut).filter (fun k => !k.seqs.isEmpty) }
  let s := s.engine eng fun e => { e with comp := some job }
  (s.tx lane fun t => { t with waiting := t.waiting ++ [⟨x.furrow, g.seq, none, 4, 0⟩] }).setChunks (s.harvest.chunks - 4)

/-- A stopping hub whose RD_SEQ has reached WR_SEQ in every furrow is READY again (R216). DEDUCED, log entry 90. -/
def State.stopSettles (s : State) : State :=
  if s.g R.global_STATE_STATE = 3 ∧ !s.intake ∧ s.furrows.all (fun x => x.2.rd == x.2.wr) then s.p R.global_STATE_STATE 1
  else s

/-- SEGMENT_DISPATCH: the next segment due that a lane can take is handed to the lowest free engine; a due segment with no
lit lane in its mask lights the lowest-numbered dark one (R272, R298, R300). -/
def State.dispatch (s : State) : State :=
  if s.standby ∨ !s.pd 22 ∨ !s.pd 14 ∨ s.g R.global_STATE_STATE = 0 then s
  else
    let s := (forAll (s.looks.map (·.furrow)) s State.checkOld).pruneLooks
    let due := s.dueResends ++ s.dueFirsts ++ s.dueLooks
    let s := due.foldl (fun s x =>
      let mask := s.lanesOf x.furrow
      if (bitsSet 16 mask).any s.litLane then s
      else match s.darkIn mask with
        | n :: _ => (s.light n).startExits
        | [] => s) s
    match s.freeEngine with
    | none => s
    | some eng =>
      match due.findSome? (fun x => (s.laneFor x.furrow).map fun n => (x, n)) with
      | none => s
      | some (x, n) => s.handOver x n eng

/-! ## Engines (R274 to R278) -/

/-- Done jobs are released to their lane, those of one furrow in the order of their hand-over (R272). -/
def releaseHeld : (seen : List Nat) → List Held → List Held × List Held
  | _, [] => ([], [])
  | seen, h :: hs =>
    if h.packet.isSome && !seen.contains h.furrow then
      let (w, r) := releaseHeld seen hs
      (w, h :: r)
    else
      let (w, r) := releaseHeld (h.furrow :: seen) hs
      (h :: w, r)

/-- An engine's job ends with its domain: its lane waits for it no more, and its chunks return (R275). -/
def State.dropJobs (s : State) : State :=
  let s := { s with engines := s.engines.map fun _ => Engine.empty }
  forAll hLanes s fun s n =>
    let ws := (s.txOf n).waiting
    let (w, r) := releaseHeld [] (ws.filter (·.packet.isSome))
    (s.tx n fun t => { t with waiting := w, sending := t.sending ++ r }).setChunks
      (s.harvest.chunks + 4 * (ws.filter (·.packet.isNone)).length)

/-- A job that has left its last stage ends with its packet: what it sends of the payload decides the chunks it keeps and the ratio's figures. -/
def State.finishJob (s : State) (eng : Nat) (j : Job) (flags : Nat) (body : List Byte) : State :=
  let packet := slice j.header 0 2 ++ le 2 (leAt j.header 2 2 ||| flags) ++ j.header.drop 4 ++ body
  let used := ceilDiv body.length 1024
  let s := s.incW R.comp_ENG_JOBS_COUNT eng 1
  let held := (s.txOf j.lane).waiting.any fun h => h.furrow == j.furrow && h.seq == j.seq && h.packet.isNone
  let s := (s.idleUntil j.lane).tx j.lane fun t =>
    let i := t.waiting.findIdx? (fun h => h.furrow == j.furrow && h.seq == j.seq && h.packet.isNone)
    let ws := match i with
      | some i => modAt t.waiting i fun h => { h with packet := some packet, chunks := used }
      | none => t.waiting
    let (w, r) := releaseHeld [] ws
    { t with waiting := w, sending := t.sending ++ r }
  let s := { s with harvest := { s.harvest with
    inBytes := s.harvest.inBytes + j.payload.length, outBytes := s.harvest.outBytes + body.length } }
  if held then s.setChunks (s.harvest.chunks + (4 - used)) else s

/-- A verify failure is counted and logged; sixteen in a row put the engine in stored-only mode (R277, R278, R288).
DEDUCED, log entry 38. -/
def State.verifyFail (s : State) (eng : Nat) (j : Job) (e : LoamErr) : State :=
  let s := (s.inc R.comp_VERIFY_FAIL_COUNT 0 1).inc R.comp_ENG_STAT_CONSEC_FAIL eng 1
  let s := (((s.pi R.hdr_ERR_CAPT_WHAT 0x03B eng).pi R.hdr_ERR_CAPT_CAUSE 0x03B 5).pi R.hdr_ERR_CAPT_INDEX 0x03B 0).event 0x03B
  let s := s.log R.comp_VERIFY_FAIL_COUNT 0x03B (le 1 eng ++ le 2 j.furrow ++ le 5 j.seq ++ le 1 e.code ++ le 2 e.off)
  if 16 ≤ s.gi R.comp_ENG_STAT_CONSEC_FAIL eng ∧ !s.on R.comp_ENG_STAT_STORED_ONLY eng then
    ((s.pi R.comp_ENG_STAT_STORED_ONLY eng 1).log R.comp_ENG_STAT_STORED_ONLY 0x03B []).event 0x03B
  else s

/-- CHECK of a job's segment. -/
def Job.check (j : Job) : Nat := leAt j.header 20 4

/-- The one Loam block of a job (R274, R280, R281): its header, FINAL set, and the compressor's tokens. -/
def Job.block (j : Job) (tokens : List Byte) : List Byte :=
  le 2 j.payload.length ++ le 2 tokens.length ++ le 1 1 ++ le 1 j.level ++ le 2 0 ++ tokens

/-- The input CRC of a job differs from CHECK: the segment is poisoned (R276). -/
def State.inputCrc (s : State) (j : Job) : State :=
  let s := (s.inc R.comp_INPUT_CRC_COUNT 0 1).event 0x03B
  (s.log R.comp_INPUT_CRC_COUNT 0x03B (le 2 j.furrow ++ le 5 j.seq)).setPoison j.addr true

/-- The compressor's stage ends (R274, R276, R277): the job is sent stored, or its block; it goes on to the decompressor, or, as
R254 sends it, to the copy unit. It stays where that stage is taken. -/
def State.compressed (s : State) (eng : Nat) (tokens : List Byte) : State :=
  let e := s.engineOf eng
  match e.comp with
  | none => s
  | some j =>
    let t := s.engine eng fun e => { e with comp := none }
    if j.poison then (if e.copy.isNone then t.engine eng fun e => { e with copy := some j } else s)
    else if (crc32c j.payload).toNat ≠ j.check then (t.inputCrc j).finishJob eng j 2 j.payload
    else if j.level = 0 ∨ s.on R.comp_ENG_STAT_STORED_ONLY eng then t.finishJob eng j 0 j.payload
    else if j.payload.length ≤ 8 + tokens.length then (t.inc R.comp_STORED_COUNT 0 1).finishJob eng j 0 j.payload
    else if !j.verify then t.finishJob eng j 1 (j.block tokens)
    else if e.ver.isNone then t.engine eng fun e => { e with ver := some (j, j.block tokens) }
    else s

/-- The decompressor's stage ends (R277): a sound block is sent with VERIFIED, another job goes on to the copy unit. -/
def State.verified (s : State) (eng : Nat) : State :=
  let e := s.engineOf eng
  match e.ver with
  | none => s
  | some (j, block) =>
    let t := s.engine eng fun e => { e with ver := none }
    match loamCheck block j.check with
    | .ok _ => (t.pi R.comp_ENG_STAT_CONSEC_FAIL eng 0).finishJob eng j 1 (modAt block 4 fun b => b ||| 0x02#8)
    | .error r => if e.copy.isNone then (t.verifyFail eng j r).engine eng fun e => { e with copy := some j } else s

/-- The copy unit ends: the segment is sent stored, one of R254 with its hub-log entry. -/
def State.copied (s : State) (eng : Nat) : State :=
  match (s.engineOf eng).copy with
  | none => s
  | some j =>
    let t := s.engine eng fun e => { e with copy := none }
    let t := if j.poison then t.logCode 0x06 (le 2 j.furrow ++ le 5 j.seq ++ le 2 j.mask) else t
    t.finishJob eng j 0 j.payload

/-- COMPRESS_JOB_DONE: a stage of an engine ends (R269). -/
def State.jobDone (s : State) (eng : Nat) (step : JobStep) : State :=
  match step with
  | .compressed tokens => s.compressed eng tokens
  | .verified => s.verified eng
  | .copied => s.copied eng

/-- RATIO of the management frame that ends (R288). -/
def State.ratioFrame (s : State) : State :=
  let h := s.harvest
  let r := if h.inBytes = 0 then 0x8000 else cap 65535 (freeQuot (h.outBytes * 32768 : Nat) h.inBytes).toNat
  { s with harvest := { h with inBytes := 0, outBytes := 0 } }.p R.comp_RATIO_OUT_IN r

/-- SEGMENT_TX_DONE: the last block of a lane's segment has left (R275, R300). A segment whose furrow or SEQ is gone
leaves all the same. -/
def State.txDone (s : State) (n : Nat) : State :=
  let s := State.flushZcs 256 n s
  match (s.txOf n).sending with
  | [] => s
  | h :: _ =>
    if (s.laneOf (32 + n)).tx ≠ 0 then s
    else
      let bytes := h.packet.getD []
      let s := (s.sendHead n).emit (.packet n bytes)
      let s := { s with harvest := { s.harvest with bytesOrbit := s.harvest.bytesOrbit + bytes.length } }
      let s := s.setChunks (s.harvest.chunks + h.chunks)
      let s := s.furrow h.furrow fun u =>
        { u with segs := u.segs.map fun g =>
            if g.seq = h.seq then { g with sent := true, sentNs := s.nowNs, epochChange := g.epochChange && g.resend } else g }
      (State.flushZcs 256 n s).darkenWhenEmpty n

/-- LANE_MARK_SEND at a block since the last mark (R293): that block is the 1,024th, or the first after it that a priority
packet in progress leaves, and no other brings a mark. The blocks before it leave, those of the packet in front or IDLE, then
the mark; nothing where that packet ends first, since SEGMENT_TX_DONE then comes before it. DESIGN CHOICE, log entry 125. -/
def State.laneMark (s : State) (n block : Nat) : State :=
  let room := s.markRoom n
  if (s.laneOf (32 + n)).tx ≠ 0 ∨ block ≠ (s.txOf n).blocks + room + 1 then s
  else match (s.txOf n).sending with
    | [] => (s.lineOut n (List.replicate room idleBlock)).sendMark n
    | h :: _ => if h.bits.length ≤ 126 * room then s else (s.goOn n room).sendMark n

/-! ## Lighting (R300) -/

/-- Some closed segment has waited 64 slots without being handed to an engine. -/
def State.waited (s : State) : Bool :=
  s.furrows.any fun (_, u) => u.segs.any fun g => !g.handed && !g.old && decide (g.closedAt + 64 ≤ s.trellis.tick)

/-- BACKLOG_WAIT_TRIGGER: every dark lane is lit. -/
def State.waitTrigger (s : State) : State :=
  if s.waited && !s.standby then (s.lightMask 0xFFFF).inc R.harv_FORE_WAIT_TRIG 0 1 else s

/-- The scheduler runs: the hub streams, or sends what a stream left. -/
def State.scheduling (s : State) : Bool := decide (2 ≤ s.g R.global_STATE_STATE) && !s.standby && s.pd 14

/-- The forecast at an orbit boundary: N_FORE from the bytes sent in the last orbit, and lanes lit to reach it. FORE reads 31
where its 5 bits cannot hold the number. DESIGN CHOICE, log entry 133. -/
def State.laneForecast (s : State) : State :=
  let bytes := s.harvest.bytesOrbit
  let s := { s with harvest := { s.harvest with bytesOrbit := 0, darkened := false } }
  if !s.scheduling then { s with harvest := { s.harvest with ovr := 0 } }
  else
    let n := max 2 (ceilDiv (bytes * s.fBC * s.g R.harv_CFG_MARGIN) (max 1 s.nSlot * 64 * 12862500000))
    let s := s.p R.harv_FORE_N_FORE (cap 31 n)
    let s := (forAll ((s.darkIn 0xFFFF).take (n - s.litCount)) s State.light).startExits
    { s with harvest := { s.harvest with ovr := if n + 1 < s.litCount then s.harvest.ovr + 1 else 0 } }

/-- A furrow has segments marked for re-send. -/
def Furrow.resends (u : Furrow) : Bool := u.segs.any (·.resend)

/-- A re-send is pending in a furrow whose mask holds the lane (R308). -/
def State.resendOn (s : State) (n : Nat) : Bool := s.furrows.any fun (f, u) => u.resends && bitAt (s.lanesOf f) n

/-- LANE_DARKEN: one lane per orbit, highest number first; the lanes of a mask with a re-send pending stay lit (R308). -/
def State.laneDarken (s : State) : State :=
  if s.harvest.ovr < s.g R.harv_CFG_DARK_HOLD ∨ s.harvest.darkened ∨ s.waited ∨ !s.scheduling then s
  else
    match (hLanes.reverse).find? (fun n => s.litLane n && !(s.txOf n).draining && decide (2 ≤ n) && !s.resendOn n) with
    | none => s
    | some n =>
      let s := { s with harvest := { s.harvest with darkened := true } }
      (s.tx n fun t => { t with draining := true }).darkenWhenEmpty n

/-! ## Drops and replay (R307, R308) -/

/-- A furrow's segments from ACK_SEQ + 1 to RD_SEQ − 1 are marked for re-send, and every lane of its mask is lit and stays so
(R308); one whose SEQ repeats another is never re-sent (R415). The fast-sum furrow holds no segments. -/
def State.markResends (s : State) (f : Nat) : State :=
  let mask := s.lanesOf f
  let u := s.fur f
  let hit := fun (g : Seg) => g.handed && !g.old && !g.dup && seqLater u.ack g.seq && seqLater g.seq u.rd
  if u.segs.any hit then
    let s := s.furrow f fun u =>
      { u with segs := u.segs.map fun g => if hit g then { g with resend := true, dropped := true } else g }
    (forAll (bitsSet 16 mask) s fun s n => s.tx n fun t => { t with draining := false }).lightMask mask
  else s

/-- The furrows that hold segments and whose mask holds a lane. -/
def State.furrowsOn (s : State) (lane : Nat) : List Nat := (s.furrows.map (·.1)).filter fun f => bitAt (s.lanesOf f) lane

/-- A furrow's mask holds a usable lane beside the one named. -/
def State.otherUsable (s : State) (lane f : Nat) : Bool :=
  hLanes.any fun n => decide (n ≠ lane) && bitAt (s.lanesOf f) n && s.usable n

/-- Lanes count as dropped, all at once (R307); their furrows' segments are marked at once where the furrow's mask holds
another usable lane, and at the lane's return otherwise (R308). -/
def State.dropLanes (s : State) (ns : List Nat) : State :=
  let ns := ns.filter fun n => !(s.txOf n).dropped
  let s := forAll ns s fun s n => (s.tx n fun t => { t with dropped := true, goodRun := 0 }).pbit R.harv_RC_STAT_DROPPED 0 n true
  let s := forAll ns s fun s n => s.tx n fun t => { t with markDue := (s.furrowsOn n).filter fun f => !s.otherUsable n f }
  let now := ns.flatMap fun n => (s.furrowsOn n).filter (s.otherUsable n)
  forAll now.eraseDups s State.markResends

/-- Lane Hn returns: it is usable anew. -/
def State.returnLane (s : State) (n : Nat) : State :=
  if !(s.txOf n).dropped then s
  else
    let due := (s.txOf n).markDue
    let s := s.tx n fun t => { t with dropped := false, markDue := [], locked := false, backNs := s.nowNs }
    forAll due (s.pbit R.harv_RC_STAT_DROPPED 0 n false) State.markResends

/-- The time at which Hn last became usable: its exit has run, or it has returned (R297, R307). -/
def State.usableNs (s : State) (n : Nat) : Nat := max (s.laneOf (32 + n)).upNs (s.txOf n).backNs

/-- Hn is lit, its exit run. -/
def State.laneUp (s : State) (n : Nat) : Bool := s.litLane n && (s.laneOf (32 + n)).tx == 0

/-- One lane's LOCK bit in a valid frame. -/
def State.lockBit (s : State) (lock n : Nat) : State :=
  if bitAt lock n then
    let s := s.tx n fun t => { t with goodRun := t.goodRun + 1 }
    let s := if 16 ≤ (s.txOf n).goodRun then s.returnLane n else s
    s.tx n fun t => { t with locked := t.locked || s.laneUp n }
  else s.tx n fun t => { t with goodRun := 0 }

/-- The LOCK field of a valid frame; `after` where frames were missing for 64 slots before it. Every lane that the frame
shows to be dropped counts so before any segment is marked (R307, R308). -/
def State.lockBits (s : State) (lock : Nat) (after : Bool) : State :=
  let s := forAll hLanes s fun s n => s.lockBit lock n
  s.dropLanes (hLanes.filter fun n =>
    !bitAt lock n && s.laneUp n && (after || decide (s.usableNs n + 200000 ≤ s.nowNs)))

/-- A change of DROPS: every lit lane counts as dropped and returned at this frame (R307). -/
def State.dropsChange (s : State) (d : Nat) : State :=
  let changed := match s.harvest.dropsSeen with
    | some x => x != d
    | none => false
  let s := { s with harvest := { s.harvest with dropsSeen := some d } }.p R.harv_RC_STAT_DROPS d
  let lit := hLanes.filter s.litLane
  if changed then forAll lit (s.dropLanes lit) State.returnLane else s

/-- LANE_DROP_TIMEOUT: a usable lane that the back end has not reported locked within 200 µs (R307). -/
def State.dropTimeout (s : State) (n : Nat) : State :=
  if s.usable n && !(s.txOf n).locked && decide (s.usableNs n + 200000 ≤ s.nowNs) then s.dropLanes [n] else s

/-- RETURN_CHANNEL_DOWN: 64 slots without a valid frame (R307), counted from reset before the first. -/
def State.channelDown (s : State) : State :=
  if s.harvest.lastTick.getD 0 + 64 ≤ s.trellis.tick then
    { s with harvest := { s.harvest with lossDue := true } }.p R.harv_RC_STAT_RC_DOWN 1
  else s

/-! ## The return channel (R302 to R305) -/

/-- A ZCS chunk joined into its message (R305). -/
def State.zcsChunk (s : State) (first last : Bool) (bytes : List Byte) : State :=
  let s := if first && s.zcs.chunks.isSome then s.inc R.harv_RC_MISC_ZCS_ABORT 0 1 else s
  let open_ := if first then some [] else s.zcs.chunks
  match open_ with
  | none => s
  | some m =>
    let m := m ++ bytes
    if last then { s with zcs := { s.zcs with chunks := none } }.arrive .rc m
    else { s with zcs := { s.zcs with chunks := some m } }

/-- The items of a frame from byte `l` of the item area on (R305). -/
def State.items : (fuel : Nat) → (l : List Byte) → State → State
  | 0, _, s => s
  | fuel + 1, l, s =>
    let bad := s.inc R.harv_RC_ERR_ITEM 0 1
    match l with
    | [] => s
    | t :: _ =>
      if t = 0x00#8 then s
      else if t = 0x01#8 then
        if l.length < 8 then bad else State.items fuel (l.drop 8) (s.ackItem (leAt l 1 2) (leAt l 3 5))
      else if t = 0x02#8 then
        if l.length < 10 then bad
        else
          let orbit := leAt l 1 6
          let slot := leAt l 7 2 % 2 ^ 14
          let (s, refused) := s.acceptMark orbit slot (leAt l 9 1)
          State.items fuel (l.drop 10) (if refused then s else s.forwardAccept orbit slot)
      else if t = 0x03#8 then
        if l.length < 17 then bad
        else State.items fuel (l.drop 17)
          (s.echoReport (leAt l 1 2) (leAt l 3 1) (leAt l 4 1) (leAt l 5 6) (leAt l 11 2 % 2 ^ 14) (leAt l 13 4))
      else if t = 0x04#8 then
        let c := leAt l 1 1
        let n := c % 64
        if n = 0 ∨ 45 < n ∨ l.length < 4 + n then bad
        else
          let target := leAt l 2 2
          let id := s.g R.global_HUB_ID_ID
          let mine := target == 0xFFFF || (id != 0 && target == id)
          State.items fuel (l.drop (4 + n)) (if mine then s.zcsChunk (bitAt c 6) (bitAt c 7) (slice l 4 n) else s)
      else bad

/-- What a return lane keeps of a frame: list `l` with its entry of the lane set. -/
def setLane (l : List (Option Nat)) (lane : Nat) (v : Option Nat) : List (Option Nat) := modAt l lane fun _ => v

/-- A frame whose CRC fails (R303, R304): counted; with both copies bad its items are lost. It is told by its place after
the lane's last valid frame. DEDUCED, log entry 48. -/
def State.badFrame (s : State) (lane : Nat) : State :=
  let s := s.inc (if lane = 0 then R.harv_RC_CRC_H00 else R.harv_RC_CRC_H01) 0 1
  let h := s.harvest
  match h.expect.getD lane none with
  | none => s
  | some id =>
    let h := { h with expect := setLane h.expect lane (some (id + 1)) }
    if h.seen.contains id then { s with harvest := h }
    else if h.failed.contains id then
      { s with harvest := { h with failed := h.failed.filter (· != id) } }.inc R.harv_RC_ERR_LOST 0 1
    else { s with harvest := { h with failed := (id :: h.failed).take 64 } }

/-- A valid frame of a lane (R302 to R307). One whose ORBIT or SLOT differs from the hub's counters is counted and, beyond the
marker of its orbit-start block (R30), does nothing more: the LOCK bits after a loss are judged at the next that acts.
DEDUCED, log entry 48. DEDUCED, log entry 134. -/
def State.goodFrame (s : State) (lane : Nat) (b : List Byte) : State :=
  let orbit := leAt b 4 6
  let slot := leAt b 10 2 % 2 ^ 14
  let id := orbit * s.nSlot + slot
  let h := s.harvest
  let first := !h.seen.contains id
  let h := { h with
    lastTick := some s.trellis.tick
    laneTick := setLane h.laneTick lane (some s.trellis.tick)
    expect := setLane h.expect lane (some (id + 1))
    seen := if first then (id :: h.seen).take 64 else h.seen
    failed := h.failed.filter (· != id) }
  let s := { s with harvest := h }.p R.harv_RC_STAT_RC_DOWN 0
  if !first then s
  else
    let os := bitAt (leAt b 0 1) 0
    let s := if os ∧ s.embedded then (s.tr fun t => { t with embOrbit := some orbit }).marker else s
    if orbit ≠ s.trellis.orbit ∨ slot ≠ s.trellis.slot then s.inc R.harv_RC_MISC_MISMATCH 0 1
    else
    let s := (s.dropsChange (leAt b 3 1)).lockBits (leAt b 1 2) h.lossDue
    let s := { s with harvest := { s.harvest with lossDue := false } }
    State.items 49 (slice b 12 49) s

/-- RETURN_FRAME: the frame of H00 or H01 that the lane's four blocks have brought (R302, R303). -/
def State.returnFrame (s : State) (lane : Nat) (b : List Byte) : State :=
  if 2 ≤ lane ∨ (s.lastFrame (32 + lane)).map (·.2) ≠ some (natOfBits (bitsOfBytes b)) ∨ !s.pd 14 then s
  else
  let s := s.takeFrame (32 + lane)
  if bitsOfBytes (slice b 61 2) = crcBits (crc16 (bitsOfBytes (b.take 61))) ∧ b.length = 63 then s.goodFrame lane b
  else s.badFrame lane

/-! ## Meanings -/

/-- SEGMENT_DISPATCH. -/
def execSegmentDispatch (s : State) : Host.Outcome State Fault Refusal := .next s.dispatch.stopSettles

/-- COMPRESS_JOB_DONE. -/
def execCompressJobDone (eng : Nat) (step : JobStep) (s : State) : Host.Outcome State Fault Refusal :=
  .next (s.jobDone eng step)

/-- SEGMENT_TX_DONE. -/
def execSegmentTxDone (lane : Nat) (s : State) : Host.Outcome State Fault Refusal := .next (s.txDone lane)

/-- LANE_MARK_SEND. -/
def execLaneMarkSend (lane block : Nat) (s : State) : Host.Outcome State Fault Refusal := .next (s.laneMark lane block)

/-- BACKLOG_WAIT_TRIGGER. -/
def execBacklogWaitTrigger (s : State) : Host.Outcome State Fault Refusal := .next s.waitTrigger

/-- LANE_DARKEN. -/
def execLaneDarken (s : State) : Host.Outcome State Fault Refusal := .next s.laneDarken

/-- RETURN_FRAME. -/
def execReturnFrame (lane : Nat) (frame : List Byte) (s : State) : Host.Outcome State Fault Refusal :=
  .next (s.returnFrame lane frame)

/-- LANE_DROP_TIMEOUT. -/
def execLaneDropTimeout (lane : Nat) (s : State) : Host.Outcome State Fault Refusal := .next (s.dropTimeout lane)

/-- RETURN_CHANNEL_DOWN. -/
def execReturnChannelDown (s : State) : Host.Outcome State Fault Refusal := .next s.channelDown

end Sys2Proof.Machine
end

