-- ==== Sys2Proof/Machine/Graft.lean ====
section
/-! DEFINITION. Active and standby pairing (R409 to R431). -/
namespace Sys2Proof.Machine

/-- The graft logic updated. -/
def State.gr (s : State) (f : Graft → Graft) : State := { s with graft := f s.graft }

/-- The sync interval in orbits: the smallest whole number that lasts at least 200 µs (R411). -/
def State.syncOrbits (s : State) : Nat := if s.fBC = 0 then 1 else max 1 (ceilDiv (s.fBC * 200) (max 1 s.nSlot * 1000000))

/-- The enabled pair furrows in ascending order (R417). -/
def State.pairFurrows (s : State) : List Nat := s.enabledFurrows.filter (fun f => !hubFurrow f)

/-! ## Eligibility (R418) -/

/-- The ring check of R426 passes; while BC_NOMINAL is 0 it cannot run. -/
def State.ringsOk (s : State) : Bool := s.fBC == 0 || (ringShort s.regs).isEmpty

/-- Whether the active hub's last valid frame names another configuration than this hub's. -/
def State.otherConfig (s : State) : Bool :=
  match s.graft.peerCfg with
  | some c => c != (s.image.crc, s.g R.global_STATE_MODE, s.g R.global_COMMIT_LO_ORBIT_LO)
  | none => false

/-- The conditions of INELIG that other state gives: all but RELEASED (R418). -/
def ineligConds : List (Fld × (State → Bool)) :=
  [(R.graft_INELIG_NOT_ARMED, fun s => !s.armed),
   (R.graft_INELIG_TIMING, fun s => !s.on R.trellis_TSTAT_ORBIT_LOCK 0 || s.lost),
   (R.graft_INELIG_ALIGN, fun s => s.embedded && !(s.on R.trellis_TSTAT_ALIGN_VALID 0 && !s.on R.trellis_TSTAT_ALIGN_LOST 0)),
   (R.graft_INELIG_CONFIG, State.otherConfig), (R.graft_INELIG_NOT_STREAMING, fun s => !s.streaming),
   (R.graft_INELIG_DEGRADED, fun s => s.g R.spare_DEGRADE_STEP == 3 || s.on R.spare_DEGRADE_IMAGE_LOST 0),
   (R.graft_INELIG_NO_SYNC, fun s => s.standby && !s.on R.graft_STAT_SYNC_OK 0 && decide (s.graft.standbyInts < 16)),
   (R.graft_INELIG_RING, fun s => s.armed && !s.ringsOk)]

/-- A standby is eligible to take the token (R418). -/
def State.eligible (s : State) : Bool :=
  s.standby && !s.on R.graft_INELIG_RELEASED 0 && !ineligConds.any (fun c => c.2 s)

/-- A change of ELIGIBLE is reported (R418, R431). -/
def State.reEligible (s : State) : State :=
  if s.eligible == s.on R.graft_STAT_ELIGIBLE 0 then s
  else ((s.p R.graft_STAT_ELIGIBLE (b2n s.eligible)).log R.graft_STAT_ELIGIBLE 0x006 []).event 0x006

/-- GRAFT_TOKEN is released: neither this hub nor anything else holds the line low, and it has been high for 1 µs (R410). -/
def State.tokenFree (s : State) : Bool :=
  s.role != 1 && !s.graft.lineLow && (match s.graft.highNs with
    | some t => decide (t + 1000 ≤ s.nowNs)
    | none => true)

/-- This hub lets go of GRAFT_TOKEN, or another driver does (R410). -/
def State.tokenLine (s : State) (low : Bool) : State :=
  s.gr fun g => { g with lineLow := low, highNs := if g.lineLow && !low then some s.nowNs else g.highNs }

/-- A hub that has released the token does not take it within 16 orbits of its release (R422). -/
def State.barredTo (s : State) : Nat :=
  match s.graft.lastRelease with
  | some r => r + 16
  | none => 0

/-- PEER_ELIGIBLE takes a value; a change is reported (R413, R431). -/
def State.peerEligible (s : State) (b : Bool) : State :=
  if b == s.on R.graft_STAT_PEER_ELIGIBLE 0 then s
  else ((s.p R.graft_STAT_PEER_ELIGIBLE (b2n b)).log R.graft_STAT_PEER_ELIGIBLE 0x006 []).event 0x006

/-! ## Roles (R416, R417, R421, R423) -/

/-- The transmitters stop: jobs and segments held are cut, H00 and H01 go to the shallow state and the others to the deep
state (R416, R421). -/
def State.stopLanes (s : State) : State :=
  let s := { s with engines := s.engines.map (fun _ => Engine.empty), looks := [] }
  let s := forAll hLanes s fun s n =>
    (s.cutLane n).askTx (32 + n) (if n < 2 then 1 else 2)
  (s.startExits).setChunks 1536

/-- Conversions in progress that use excitation carry DEAD (R428). -/
def State.markDead (s : State) : State :=
  s.sl fun x => { x with
    scans := x.scans.map fun k => if s.usesDriven (k.chan.getD 0) k.set then k.meet 32 s.nowNs else k }

/-- Closed segments count as sent on a standby, and as acknowledged in its hub furrows (R417). -/
def State.countSent (s : State) : State :=
  { s with furrows := s.furrows.map fun x =>
      (x.1, ({ x.2 with
        rd := x.2.wr
        ack := if hubFurrow x.1 then seqAdd x.2.wr (2 ^ 40 - 1) else x.2.ack
        segs := x.2.segs.map fun g => { g with handed := true, resend := false } } : Furrow)) }

/-- The hub takes the standby role: it drives nothing that matters (R416); a Hedgerow grant that waits for a beacon of its own lapses
(R348). -/
def State.becomeStandby (s : State) : State :=
  if s.standby then s
  else
    let old := s.excitation
    let s := (s.p R.graft_STAT_ROLE 2).sl fun x => { x with roleOff := true }
    let s := ((s.exciteFrom old).markDead).ilAllFault
    let s := (s.stopLanes).countSent
    { s.gr fun g => { g with heard := [], heardNow := false, standbyInts := 0, agreed := [], answer := none, listening := false } with
      hdg := { s.hdg with grant := none } }

/-- The active hub releases the token (R420, R421): CAUSE is 0 for the release of R422, which the table does not list. -/
def State.releaseToken (s : State) (cause : Nat) : State :=
  let o := s.trellis.orbit
  let s := s.becomeStandby
  let s := (s.p R.graft_STAT_RELEASED 1).p R.graft_STAT_DEAD_TIME 1
  let s := if cause = 0 then s else s.p R.graft_STAT_CAUSE cause
  let s := if cause = 7 then s else s.p R.graft_INELIG_RELEASED 1
  let s := ((s.p R.graft_REL_LO_ORBIT_LO (o % 2 ^ 32)).p R.graft_REL_HI_ORBIT_HI (o / 2 ^ 32)).incW
    R.graft_REL_HI_RELEASES 0 1
  let s := s.gr fun g => { g with
    releaseOrbit := none, releaseCause := 0, lastRelease := some o, drill := false, highNs := some s.nowNs }
  (((s.peerEligible false).log R.graft_STAT_RELEASED 0x006 []).event 0x006).reEligible

/-- GRAFT_RELEASE: a release that is due takes place. -/
def State.graftRelease (s : State) : State :=
  match s.graft.releaseOrbit with
  | some o => if s.role = 1 ∧ o ≤ s.trellis.orbit then s.releaseToken s.graft.releaseCause else s
  | none => s

/-- The retained pair-furrow segments from ACK_SEQ to RD_SEQ − 1 are marked for re-send as an epoch change, one whose SEQ
repeats excepted (R415, R423); REPLAYED counts them. -/
def State.markEpoch (s : State) : State :=
  let hit := fun (u : Furrow) (g : Seg) => !g.dup && !g.old && !seqLater g.seq u.ack && seqLater g.seq u.rd
  let fs := s.pairFurrows
  let n := sumNat (fs.map fun f => ((s.fur f).segs.filter (hit (s.fur f))).length)
  let s := forAll fs s fun s f => s.furrow f fun u =>
    { u with segs := u.segs.map fun g => { g with resend := g.resend || hit u g, epochChange := hit u g } }
  let s := { s with harvest := { s.harvest with catchTokens := 0 } }
  (s.p R.graft_REPLAYED_COUNT n).p R.graft_STAT_CATCH_UP (b2n (n != 0))

/-- The hub takes the token at slot 0 of the current orbit (R423). -/
def State.seizeToken (s : State) : State :=
  let o := s.trellis.orbit
  let epoch := (s.graft.peerEpoch.getD (s.g R.graft_STAT_EPOCH) + 1) % 256
  let s := forAll s.pairFurrows s State.closeSeg
  let s := s.markEpoch
  let s := ((s.p R.graft_STAT_ROLE 1).p R.graft_STAT_EPOCH epoch).p R.graft_STAT_DEAD_TIME 0
  let s := ((s.p R.graft_TAKE_LO_ORBIT_LO (o % 2 ^ 32)).p R.graft_TAKE_HI_ORBIT_HI (o / 2 ^ 32)).incW
    R.graft_TAKE_HI_TAKEOVERS 0 1
  let s := s.gr fun g => { g with takeAt := none, armTake := false, listening := true, takeNs := s.nowNs, replyMiss := 0
                                  replySeen := false, entryPos := 0, fromTick := s.trellis.tick, sentOrbit := none }
  let s := (s.ilAllFault).lightMask 0xFFFF
  ((s.log R.graft_TAKE_HI_TAKEOVERS 0x006 []).event 0x006).reEligible

/-- GRAFT_TAKEOVER: an eligible standby takes the token, still released, at slot 0 of its orbit, before that slot's cycle (R422, R423).
DEDUCED, log entry 35. -/
def State.graftTakeover (s : State) : State :=
  if s.standby && s.graft.takeAt == some s.trellis.orbit && s.trellis.slot == 0 && !s.trellis.ran && s.eligible && s.tokenFree then
    s.seizeToken
  else s

/-- GRAFT_TOKEN_SEEN_RELEASED: the line has been high for 1 µs, in the first 2 µs of the orbit or later (R410, R422). Of two eligible
standbys the one with the higher HUB_ID waits one orbit more; within 16 orbits of its own release a hub waits for their end.
DEDUCED, log entry 35. -/
def State.tokenSeen (s : State) (early peer : Bool) : State :=
  if !s.standby || s.graft.lineLow then s
  else
    let s := (s.gr fun g => { g with highNs := none }).p R.graft_STAT_DEAD_TIME 1
    let s := s.reEligible
    if !s.eligible then s
    else
      let second := peer && decide (s.g R.graft_CFG_PEER_ID < s.g R.global_HUB_ID_ID)
      s.gr fun g => { g with
        takeAt := some (max s.barredTo (s.trellis.orbit + (if early then 2 else 3) + b2n second)) }

/-- GRAFT_LISTEN_END: an active frame heard in the listening interval makes the hub release the token (R422). -/
def State.listenEnd (s : State) (heard : Bool) : State :=
  if s.role = 1 ∧ s.graft.listening then
    let s := s.gr fun g => { g with listening := false }
    if heard then s.releaseToken 0 else s
  else s

/-- A segment is in an engine or held for a lane. -/
def State.onTheWay (s : State) (f seq : Nat) : Bool :=
  s.harvest.tx.any fun t => (t.waiting ++ t.sending).any fun h => h.furrow == f && h.seq == seq

/-- Segments of the takeover that still wait to be sent, or are on their way. -/
def State.epochWaiting (s : State) : Bool :=
  s.furrows.any fun x => x.2.segs.any fun g => g.epochChange && (g.resend || s.onTheWay x.1 g.seq)

/-- CATCH_UP_DONE: every marked segment has been sent (R426). -/
def State.catchUpDone (s : State) : State :=
  if s.on R.graft_STAT_CATCH_UP 0 && !s.epochWaiting then
    (s.p R.graft_STAT_CATCH_UP 0).p R.graft_CATCH_US_US
      (cap (2 ^ 32 - 1) (freeQuot (s.nowNs - s.graft.takeNs : Nat) 1000).toNat)
  else s

/-! ## Sync and reply frames (R411 to R415, R427) -/

/-- A sync interval starts at an orbit whose number is a multiple of its length: the last one is judged, and WR_SEQ of the
pair furrows is taken (R411 to R414). DEDUCED, log entry 35. -/
def State.intervalStart (s : State) : State :=
  if !s.armed ∨ s.trellis.orbit % s.syncOrbits ≠ 0 then s
  else
    let got := s.graft.heardNow
    let s := if s.standby then
        let s := if got then s else s.inc R.graft_SYNC_ERR_MISSING 0 1
        let s := s.gr fun g => { g with
          heard := (got :: g.heard).take 4
          standbyInts := if got then 0 else g.standbyInts + 1 }
        s.p R.graft_STAT_SYNC_OK (b2n (s.graft.heard.any id))
      else
        let s := s.gr fun g => { g with replyMiss := if g.replySeen then 0 else g.replyMiss + 1, replySeen := false }
        if 2 ≤ s.graft.replyMiss then s.peerEligible false else s
    (s.gr fun g => { g with
      heardNow := false, answer := none, prevNs := g.intNs, intNs := s.nowNs
      wrAt := s.pairFurrows.map fun f => (f, (s.fur f).wr) }).reEligible

/-- A frame leaves on GRAFT_SYNC in the line coding of the Hedgerow bus (R411). -/
def State.graftSend (s : State) (frame : List Byte) : State := s.emit (.graft frame (busLine frame))

/-- The sync frame of an interval (R412), and the furrow the next one's entries start from. -/
def State.syncFrame (s : State) : List Byte × Nat :=
  let l := s.graft.wrAt.filter (fun e => decide (s.graft.entryPos ≤ e.1))
  let l := if l.isEmpty then s.graft.wrAt else l
  let e := l.take 8
  let next := match l.drop 8 with
    | x :: _ => x.1
    | [] => 0
  let flags := b2n s.streaming + 2 * s.g R.il_SAFE_STAT_LATCH + 4 * b2n s.graft.drill
  (le 1 0xA1 ++ le 1 (s.g R.graft_STAT_EPOCH) ++ le 2 (s.g R.global_HUB_ID_ID) ++ le 6 s.trellis.orbit ++ le 1 flags
    ++ le 1 e.length ++ le 1 (s.g R.global_STATE_MODE) ++ le 3 0 ++ le 4 s.image.crc ++ le 4 (s.g R.global_COMMIT_LO_ORBIT_LO)
    ++ e.flatMap (fun x => le 2 x.1 ++ le 5 x.2 ++ le 1 0), next)

/-- GRAFT_SYNC_SEND: one frame per interval, in slot 0 of its first orbit (R411). -/
def State.syncSend (s : State) : State :=
  if s.role ≠ 1 ∨ s.graft.listening ∨ s.trellis.orbit % s.syncOrbits ≠ 0 ∨ s.trellis.slot ≠ 0
      ∨ s.graft.sentOrbit = some s.trellis.orbit then s
  else (s.graftSend s.syncFrame.1).gr fun g => { g with entryPos := s.syncFrame.2, sentOrbit := some s.trellis.orbit }

/-- One entry compared with this hub's WR_SEQ at the interval start (R415): a difference is added to the SEQ of the
segments opened from then on. DEDUCED, log entry 35. -/
def State.compareEntry (s : State) (f wr : Nat) : State :=
  match s.graft.wrAt.find? (fun e => e.1 == f) with
  | none => s
  | some (_, own) =>
    let d := (wr + 2 ^ 40 - own) % 2 ^ 40
    let u := s.fur f
    if d = 0 then s.gr fun g => { g with agreed := f :: g.agreed.filter (fun x => x != f) }
    else
      let s := s.gr fun g => { g with agreed := g.agreed.filter (fun x => x != f) }
      match u.cur with
      | some _ => if u.bump = d then s else (s.inc R.graft_SEQ_FIX_COUNT 0 1).furrow f fun u => { u with bump := d }
      | none => (s.inc R.graft_SEQ_FIX_COUNT 0 1).furrow f fun u =>
          { u with wr := seqAdd u.wr d, shift := seqAdd u.shift d, rd := if u.rd = u.wr then seqAdd u.wr d else u.rd }

/-- The SAFE latch of a standby follows the active hub's (R427). -/
def State.followSafe (s : State) (safe : Bool) : State :=
  if safe then (if s.on R.il_SAFE_STAT_LATCH 0 then s else s.setSafe)
  else
    let quiet := match s.slow.safeLow with
      | some t => decide (t < s.graft.prevNs)
      | none => true
    if quiet && s.on R.il_SAFE_STAT_PIN 0 then s.p R.il_SAFE_STAT_LATCH 0 else s

/-- A valid active frame (R412 to R415). DEDUCED, log entry 35. -/
def State.syncGood (s : State) (b : List Byte) : State :=
  let safe := bitAt (leAt b 10 1) 1
  let s := s.gr fun g => { g with
    heardNow := true, standbyInts := 0, peerEpoch := some (leAt b 1 1)
    peerCfg := some (leAt b 16 4, leAt b 12 1, leAt b 20 4), answer := some (leAt b 4 6), takeAt := none }
  let s := (s.p R.graft_STAT_EPOCH (leAt b 1 1)).p R.graft_STAT_DEAD_TIME 0
  let s := s.p R.graft_STAT_SYNC_OK 1
  let s := forAll (List.range (min 8 (leAt b 11 1))) s fun s i => s.compareEntry (leAt b (24 + 8 * i) 2) (leAt b (26 + 8 * i) 5)
  let s := s.p R.graft_STAT_SEQ_AGREE (b2n (s.pairFurrows.all (fun f => s.graft.agreed.contains f)))
  (s.followSafe safe).reEligible

/-- GRAFT_SYNC_RX (R411, R414): a bad CRC is counted; in PIN mode the first valid frame after the orbit locks loads the
orbit number; a frame late or of another orbit counts as missing. A hub that listens after its takeover and receives an active
frame releases the token (R422). DEDUCED, log entry 35. -/
def State.syncRx (s : State) (b : List Byte) (crc : Word) (onTime : Bool) : State :=
  if !s.armed then s
  else if crc32c b ≠ crc then s.inc R.graft_SYNC_ERR_CRC 0 1
  else if leAt b 0 1 ≠ 0xA1 ∨ b.length ≠ 24 + 8 * leAt b 11 1 then s
  else if !s.standby then (if s.role = 1 && s.graft.listening then s.releaseToken 0 else s)
  else
    let o := leAt b 4 6
    let load := !s.embedded && s.on R.trellis_TSTAT_ORBIT_LOCK 0 && !s.graft.orbitLoaded
    let s := if load then (s.tr fun t => { t with orbit := o }).gr fun g => { g with orbitLoaded := true } else s
    if onTime && o == s.trellis.orbit then s.syncGood b else s

/-- GRAFT_REPLY_SEND: the standby answers the frame of this interval (R413). -/
def State.replySend (s : State) : State :=
  match s.graft.answer with
  | some o =>
    if !s.standby then s
    else
      let flags := b2n s.eligible + 2 * s.g R.graft_STAT_SEQ_AGREE + 4 * s.g R.il_SAFE_STAT_LATCH
      (s.graftSend (le 1 0xA2 ++ le 1 (s.g R.graft_STAT_EPOCH) ++ le 2 (s.g R.global_HUB_ID_ID) ++ le 6 o ++ le 1 flags
        ++ le 5 0)).gr fun g => { g with answer := none }
  | none => s

/-- GRAFT_REPLY_RX (R413). -/
def State.replyRx (s : State) (b : List Byte) (crc : Word) : State :=
  if s.role ≠ 1 then s
  else if crc32c b ≠ crc then s.inc R.graft_SYNC_ERR_CRC 0 1
  else if leAt b 0 1 ≠ 0xA2 ∨ b.length ≠ 16 then s
  else (s.gr fun g => { g with replySeen := true, replyMiss := 0 }).peerEligible (bitAt (leAt b 10 1) 0)

/-! ## Arming (R419) -/

/-- GRAFT_ARM; refused while HUB_ID is 0 (R391). -/
def State.graftArm (s : State) (pref peer : Nat) : State × Reply :=
  if 3 ≤ pref ∨ s.g R.global_HUB_ID_ID = 0 then (s, .done stBadParam [])
  else if pref = 2 then
    if 2 ≤ s.g R.global_STATE_STATE then (s, .done stDenied [])
    else
      let s := if s.role = 1 then s.gr fun g => { g with highNs := some s.nowNs } else s
      let s := (((s.p R.graft_CFG_ARMED 0).p R.graft_CFG_PREF 2).p R.graft_STAT_ROLE 0).peerEligible false
      ((s.gr fun g => { g with takeAt := none, armTake := false, releaseOrbit := none, releaseCause := 0, drill := false
                               listening := false }).reEligible, .done stOk [])
  else if peer = s.g R.global_HUB_ID_ID ∨ !((s.p R.graft_CFG_ARMED 1).ringsOk) then (s, .done stBadParam [])
  else
    let s := (((s.p R.graft_CFG_ARMED 1).p R.graft_CFG_PREF pref).p R.graft_CFG_PEER_ID peer).p R.graft_STAT_RELEASED 0
    let s := s.p R.graft_INELIG_RELEASED 0
    let s := if s.role = 1 then s else s.becomeStandby
    let take := pref == 0 && s.streaming && s.role == 2 && s.tokenFree
    ((s.gr fun g => { g with armTake := take }).reEligible, .done stOk [])

/-- GRAFT_ARM_TAKE_TOKEN: at the next orbit boundary, with no dead time (R419), but not within 16 orbits of a release (R422). -/
def State.armTake (s : State) : State :=
  if s.graft.armTake ∧ s.standby ∧ s.tokenFree ∧ s.barredTo ≤ s.trellis.orbit then s.seizeToken
  else s.gr fun g => { g with armTake := false }

/-- What an orbit boundary does in an armed hub. DEDUCED, log entry 35. -/
def State.graftBoundary (s : State) : State := if s.armed then (s.armTake).intervalStart.reEligible else s

/-! ## Meanings -/

/-- GRAFT_ARM. -/
def execGraftArm (h : Hdr) (pref peer : Nat) (s : State) : Host.Outcome State Fault Refusal :=
  .next (s.zcsRun (.graftArm h pref peer) h 0x0050 true (fun s => s.graftArm pref peer))

/-- GRAFT_SYNC_SEND. -/
def execGraftSyncSend (s : State) : Host.Outcome State Fault Refusal := .next s.syncSend

/-- GRAFT_SYNC_RX. -/
def execGraftSyncRx (bytes : List Byte) (crc : Word) (onTime : Bool) (s : State) : Host.Outcome State Fault Refusal :=
  .next (s.syncRx bytes crc onTime)

/-- GRAFT_REPLY_SEND. -/
def execGraftReplySend (s : State) : Host.Outcome State Fault Refusal := .next s.replySend

/-- GRAFT_REPLY_RX. -/
def execGraftReplyRx (bytes : List Byte) (crc : Word) (s : State) : Host.Outcome State Fault Refusal :=
  .next (s.replyRx bytes crc)

/-- GRAFT_RELEASE. -/
def execGraftRelease (s : State) : Host.Outcome State Fault Refusal := .next s.graftRelease

/-- GRAFT_TOKEN_SEEN_RELEASED. -/
def execGraftTokenSeenReleased (early : TokenIn) (s : State) : Host.Outcome State Fault Refusal :=
  .next (s.tokenSeen early.early early.peer)

/-- GRAFT_TAKEOVER. -/
def execGraftTakeover (s : State) : Host.Outcome State Fault Refusal := .next s.graftTakeover

/-- GRAFT_LISTEN_END. -/
def execGraftListenEnd (heard : Bool) (s : State) : Host.Outcome State Fault Refusal := .next (s.listenEnd heard)

/-- CATCH_UP_DONE. -/
def execCatchUpDone (s : State) : Host.Outcome State Fault Refusal := .next s.catchUpDone

end Sys2Proof.Machine
end

