-- ==== Sys2Proof/Machine/Sectors.lean ====
section
/-! DEFINITION. The physical sectors of the field store: headers, the mapping, the scan at start, and a write that is cut short
(R401 to R403). -/
namespace Sys2Proof.Machine

/-- State of a physical sector: 0 mapped, 1 free, 2 transfer or save, 3 retired. -/
def State.secState (s : State) (p : Nat) : Nat := s.gi R.nvm_SEC_STAT_STATE p

/-- The physical sector a logical sector is mapped to. -/
def State.physOf (s : State) (l : Nat) : Option Nat :=
  (List.range 544).find? fun p => s.secState p == 0 && s.gi R.nvm_SEC_STAT_LOGICAL p == l

/-- A sector of 0xFF. -/
def blankSector : List Byte := List.replicate 4096 0xFF#8

/-- The CRC-32C over header and data: logical sector, version and erase count, the rest of the header 0 (R401).
DESIGN CHOICE, log entry 8. -/
def sectorCheck (logical version erases : Nat) (data : List Byte) : Nat :=
  (crc32c (padTo 60 (le 2 logical ++ le 4 version ++ le 4 erases) ++ data)).toNat

/-- A sector as it is programmed (R401). -/
def Sector.made (logical version erases : Nat) (data : List Byte) : Sector :=
  ⟨data, version, logical, erases, sectorCheck logical version erases data⟩

/-- The CRC of a sector is valid (R401, R402). -/
def Sector.ok (x : Sector) : Bool := x.check == sectorCheck x.logical x.version x.erases x.data

/-- A sector that holds nothing. -/
def Sector.blank : Sector := ⟨blankSector, 0, 1023, 0, 0⟩

/-- What a physical sector holds. -/
def State.sectorAt (s : State) (p : Nat) : Sector := aget Sector.blank s.nvm.sectors p

/-- The bytes of a logical sector; one never written, or no longer mapped, reads as 0xFF (R401). -/
def State.sectorBytes (s : State) (l : Nat) : List Byte :=
  match s.physOf l with
  | some p => (s.sectorAt p).data
  | none => blankSector

/-- The version after the one a logical sector holds (R402). -/
def State.nextVersion (s : State) (l : Nat) : Nat :=
  ((match s.physOf l with
    | some p => (s.sectorAt p).version
    | none => 0) + 1) % 2 ^ 32

/-- A physical sector's state and logical sector. -/
def State.setSec (s : State) (p st l : Nat) : State := (s.pi R.nvm_SEC_STAT_STATE p st).pi R.nvm_SEC_STAT_LOGICAL p l

/-- The free physical sectors. -/
def State.freeSecs (s : State) : List Nat := (List.range 544).filter fun p => s.secState p == 1

/-- FREE follows the free sectors. -/
def State.countFree (s : State) : State := s.p R.nvm_STORE_STAT_FREE (cap 31 s.freeSecs.length)

/-- The free sector with the lowest erase count; the manual names no order among equals (log entry 2).
DESIGN CHOICE, log entry 29. -/
def State.leastWorn (s : State) : Option Nat :=
  let free := s.freeSecs
  let er := fun p => s.gi R.nvm_SEC_ERASES_COUNT p
  let low := free.foldl (fun m p => min m (er p)) (2 ^ 32)
  let l := free.filter (fun p => er p == low)
  if l.isEmpty then none else l[s.freeNow % l.length]?

/-- The next transfer sector is chosen (R402). DESIGN CHOICE, log entry 29. -/
def State.nextTransfer (s : State) : State :=
  match s.leastWorn with
  | some p => ({ (s.setSec p 2 1023).drew with nvm := { s.nvm with transfer := p } }).countFree
  | none => { s with nvm := { s.nvm with transfer := 1023 } }

/-- The next save sector is chosen and erased (R403). -/
def State.nextSave (s : State) : State :=
  match s.leastWorn with
  | some p => ({ ((s.setSec p 2 1023).incW R.nvm_SEC_ERASES_COUNT p 1).drew with nvm := { s.nvm with
      save := p, sectors := s.nvm.sectors.filter fun x => x.1 != p } }).countFree
  | none => { s with nvm := { s.nvm with save := 1023 } }

/-- A write is under way: the first of those that wait, while the store has power and no emergency save runs (R403). -/
def State.writing (s : State) : Bool := !s.nvm.ops.isEmpty && s.pd 3 && s.power.saving.isNone && decide (s.nvm.transfer < 544)

/-- The write under way is cut short: the transfer sector, erased, holds nothing whole, and the next one is chosen (R402, R403).
DEDUCED, log entry 29. DESIGN CHOICE, log entry 29. -/
def State.cutTransfer (s : State) : State :=
  if !s.writing then s
  else
    let t := s.nvm.transfer
    let s := (s.setSec t 1 1023).incW R.nvm_SEC_ERASES_COUNT t 1
    { s with nvm := { s.nvm with sectors := s.nvm.sectors.filter fun x => x.1 != t } }.nextTransfer

/-- Of the sound copies of a logical sector the one with the highest version (R402). -/
def newestCopy (l : List (Nat × Sector)) (logical : Nat) : Option Nat :=
  ((l.filter fun x => x.2.logical == logical).foldl (fun (best : Option (Nat × Sector)) x =>
    match best with
    | some b => if b.2.version < x.2.version then some x else best
    | none => some x) none).map (·.1)

/-- The scan at start (R402): each logical sector is mapped to the newest of its copies with a valid CRC, and every other sector that was
programmed is free, but for those retired, the transfer sector and the save sector, which is erased. A logical sector never written
keeps the sector it has, where that is not another's. -/
def State.scanStore (s : State) : State :=
  let l := s.nvm.sectors.filter fun x => s.secState x.1 != 3 && x.1 != s.nvm.save
  let good := l.filter fun x => x.2.ok && decide (x.2.logical < 512)
  let s := l.foldl (fun s x =>
    if good.contains x && newestCopy good x.2.logical == some x.1 then s.setSec x.1 0 x.2.logical
    else if x.1 = s.nvm.transfer then s
    else s.setSec x.1 1 1023) s
  let blank := (List.range 544).filter fun p => s.secState p == 0 && !l.any fun x => x.1 == p
  (forAll blank s fun s p =>
    if good.any fun x => x.2.logical == s.gi R.nvm_SEC_STAT_LOGICAL p then s.setSec p 1 1023 else s).countFree

end Sys2Proof.Machine
end

