-- ==== Sys2Proof/Machine/Reset.lean ====
section
/-! DEFINITION. What each reset kind keeps and where it starts (R498 to R503). -/
namespace Sys2Proof.Machine

/-- RESET_CAUSE of a warm or watchdog reset, which run steps 5 to 14 (R500). -/
def warmKind (kind : Nat) : Bool := kind == 3 || kind == 4

/-- The kind of the last reset. -/
def State.resetKind (s : State) : Nat := s.g R.global_RESET_CAUSE_KIND

/-- The register page a key of the register map lies on. -/
def keyPage (key : Nat) : Nat := key / 2 ^ 20 / 32 / 4096

/-- A key belongs to one of the fields. -/
def keyIn (l : List Fld) (key : Nat) : Bool := l.any (fun f => key / 2 ^ 20 == f.addr * 32 + f.lsb)

/-- Fields every reset keeps: what the store holds (R402), how the port is strapped (R473), what pins and inputs show.
DEDUCED, log entry 34. -/
def alwaysKept : List Fld :=
  [R.nvm_STORE_STAT_FREE, R.nvm_STORE_STAT_WORN, R.nvm_STORE_STAT_AGE_RAM, R.nvm_STORE_STAT_AGE_SECT,
   R.nvm_STORE_STAT_DECIM, R.nvm_SEC_STAT_LOGICAL, R.nvm_SEC_STAT_STATE, R.nvm_SEC_ERASES_COUNT, R.nvm_RETIRED_COUNT,
   R.xspi_CFG_MODE, R.trip_PTRIP_STAT_PIN, R.il_SAFE_STAT_PIN, R.power_VIN_STAT_VIN_A, R.power_VIN_STAT_VIN_B,
   R.power_VIN_STAT_A_FEEDS, R.power_VIN_STAT_B_FEEDS]

/-- Fields every reset but a power-on keeps: the converter, the trip latch with its causes, which only TRIP_CLEAR clears
(R471), what the reference inputs show, and an address order held for the next training (R227, log entry 62).
DEDUCED, log entry 34. DEDUCED, log entry 62. -/
def poweredKept : List Fld :=
  [R.memctl_MAP_ORDER, R.clocks_REF_STAT_HREF, R.clocks_REF_STAT_XTAL32, R.clocks_REF_STAT_ON_CD01,
   R.power_CONV_STAT_VINT_OK, R.power_CONV_STAT_VKA_OK, R.power_CONV_STAT_LATCHED, R.power_CONV_STAT_VINT,
   R.power_PHASE_CURRENT, R.power_PHASE_DEAD, R.power_RAIL_MV, R.power_RAIL_MA, R.power_POWER_IN_W,
   R.trip_PTRIP_STAT_LATCH, R.trip_CAUSE_PTRIP, R.trip_CAUSE_VINT_OV, R.trip_CAUSE_PHASE_OC, R.trip_CAUSE_OVERTEMP]

/-- Fields a warm reset keeps (R501): scratch and commit, the rank map with retired slots and degraded step, slices and
modulators out of use, and pins; and the stored-only mode of an engine (R278). DEDUCED, log entry 34. -/
def warmKept : List Fld :=
  [R.global_SCRATCH_DATA, R.global_COMMIT_LO_ORBIT_LO, R.global_COMMIT_HI_ORBIT_HI, R.global_COMMIT_HI_COUNT,
   R.memctl_MAP_MAP_NOW, R.memctl_CAPACITY_GIB, R.memctl_CAPACITY_PORTS, R.mport_RANK_MAP_LR0, R.mport_RANK_MAP_LR1,
   R.mport_RANK_MAP_SPARE, R.mport_SLOT_STAT_A, R.mport_SLOT_STAT_B, R.mport_SLOT_STAT_C, R.spare_SLOT_HEALTH_CAUSE,
   R.spare_SLOT_HEALTH_PAIR_SUSPECT, R.spare_DEGRADE_STEP, R.spare_DEGRADE_LOST_PORT, R.spare_DEGRADE_IMAGE_LOST,
   R.spare_DEG_ORBIT_LO_ORBIT_LO, R.spare_DEG_ORBIT_HI_ORBIT_HI, R.bed_ROT_STAT_SLICE_FAULT,
   R.bed_ROT_STAT_SPARE_FAULT, R.slow_GROUP_MAP_MOD, R.slow_GROUP_MAP_SPARE,
   R.slow_ROT_STAT_MOD_FAULT, R.slow_ROT_STAT_FAULT_MOD, R.comp_ENG_STAT_STORED_ONLY, R.tending_PINNED_RES, R.tending_MARGIN_TARGET]

/-- A register field instance survives a reset of a kind (R501): the COLDFRAME page always, the ETH and PTP pages under
a warm reset. DEDUCED, log entry 34. -/
def keptKey (kind key : Nat) : Bool :=
  keyPage key == 0x004 || keyIn alwaysKept key || (kind != 0 && keyIn poweredKept key)
    || (warmKind kind && (keyPage key == 0x00B || keyPage key == 0x00C || keyIn warmKept key))

/-- A furrow as a warm reset keeps it: its open segment is gone. -/
def Furrow.afterReset (u : Furrow) : Furrow := { u with cur := none, bump := 0 }

/-- A memory port as a warm reset keeps it: a running migration restarts at READY with its source in service. -/
def MPort.afterReset (p : MPort) : MPort :=
  { MPort.empty with mig := (if p.mig = 0 then 0 else 1), src := p.src, degrade := p.degrade }

/-- The rank slots that a warm reset leaves: the writes in the buffers, which stand in memory from their receipt, are complete,
and those in service are in self-refresh (R239). -/
def State.restRanks (s : State) : List Rank :=
  (List.range 24).map fun i =>
    let m := i / 3 * 32
    { Rank.empty with selfRef := s.gi R.mport_RANK_MAP_LR0 m == i % 3 || s.gi R.mport_RANK_MAP_LR1 m == i % 3 }

/-- A bed as a warm reset keeps it. -/
def Bed.afterReset (b : Bed) : Bed := { Bed.empty with phase := if b.phase = .out then .out else .stopped }

/-- After a warm reset a bed's slices stand as at reset but for the one that was out of use in `old`: that stays out, no
spare is left, and slice 32 serves the channel it would serve (R66, R501). DESIGN CHOICE, log entry 122. -/
def State.keepSliceOut (s old : State) (b : Nat) : State :=
  match (List.range 33).find? fun i => old.gi R.bed_SLICE_MAP_CH (b * 64 + i) == 63 with
  | none => s
  | some x =>
    let s := (s.pi R.bed_SLICE_MAP_CH (b * 64 + 32) (min x 32)).pi R.bed_SLICE_MAP_CH (b * 64 + x) 63
    s.pi R.bed_ROT_STAT_SPARE (b * 64) 63

/-- What MARGIN_APPLY has pinned stands over a warm reset: the bounds of lanes and the retraining intervals (R437, R439). -/
def State.keepPins (s : State) : State :=
  let s := forAll s.tend.wide s fun s l =>
    (((s.pi R.lane_CTLE_BOUND_MIN l 0).pi R.lane_CTLE_BOUND_MAX l 36).pi R.lane_DFE_BOUND_H1_MAX l 48).pi
      R.lane_DFE_BOUND_HN_MAX l 24
  s.tend.pins.foldl (fun s x =>
    if x.1 = 2 then forAll (List.range 34) s fun s l => s.pi R.lane_RETRAIN_INTERVAL l x.2
    else if x.1 = 3 then s.p R.memctl_RT_CFG_INTERVAL x.2
    else s) s

/-- The hub after a reset of a kind (RESET_CAUSE) has taken effect (R498 to R503): everything at its reset value but what
R501 keeps; start-up begins afresh at the kind's first step. DEDUCED, log entry 34. -/
def State.resetTo (s : State) (kind : Nat) : State :=
  let s := s.cutTransfer
  let warm := warmKind kind
  let r := State.reset
  let regs := s.regs.filter (fun e => keptKey kind e.1)
  let on := if warm then 3 + (s.g R.global_PD_STAT_ON &&& (15 * 2 ^ 18)) else 3
  let t : State := { r with
    pending := s.pending
    regs := regs
    prevRegs := regs
    nowNs := s.nowNs
    freeCtr := s.freeCtr
    outbox := s.outbox
    wall := if warm then { s.wall with anchors := [] } else r.wall
    nvm := { s.nvm with ops := [], ageBuf := [], ageCount := 0 }
    cold := s.cold
    graft := { r.graft with lineLow := s.graft.lineLow, highNs := if s.role = 1 then some s.nowNs else s.graft.highNs }
    tend := if warm then { r.tend with pins := s.tend.pins, wide := s.tend.wide } else r.tend
    slow := { r.slow with
      rot := if warm then s.slow.rot.afterReset else .idle
      safeHigh := s.slow.safeHigh
      safeLow := s.slow.safeLow }
    beds := if warm then s.beds.map Bed.afterReset else r.beds
    furrows := if warm then s.furrows.map (fun x => (x.1, x.2.afterReset)) else []
    mem := if warm then { r.mem with cells := s.mem.cells, bad := s.mem.bad, ranks := s.restRanks
                                     ports := s.mem.ports.map MPort.afterReset }
           else r.mem
    image := if warm then { r.image with copy := s.image.copy, fromFlash := s.image.fromFlash, crc := s.image.crc,
                                         hadMode := s.image.hadMode, refetch := s.image.refetch }
             else r.image
    power := { r.power with ptripHigh := s.power.ptripHigh, lastOrbit := s.power.lastOrbit, lastSlot := s.power.lastSlot
                            saving := if kind = 0 then none else s.power.saving }
    boot := { r.boot with
      step := if warm then 4 else if kind = 0 then 0 else 2
      everReady := warm && s.boot.everReady
      modes := if warm then (if s.boot.modes.isSome then s.boot.modes
          else some (s.g R.global_STATE_MODE, s.g R.global_STATE_MODE_PREV)) else none
      resend := warm && (s.boot.resend || !s.furrows.isEmpty) } }
  let t := (t.p R.global_PD_STAT_ON on).p R.global_RESET_CAUSE_KIND kind
  let t := if t.on R.il_SAFE_STAT_PIN 0 then t else { t.p R.il_SAFE_STAT_LATCH 1 with slow := { t.slow with safe := true } }
  if warm then forAll (List.range 8) (forAll (List.range 24) t.keepPins fun t b => t.keepSliceOut s b) (fun t m =>
      if (t.mp m).mig = 1 ∧ (t.mp m).src < 3 then
        t.pi (if (t.mp m).src = 0 then R.mport_SLOT_STAT_A else if (t.mp m).src = 1 then R.mport_SLOT_STAT_B
          else R.mport_SLOT_STAT_C) (m * 32) 0
      else t)
  else t

/-- A fatal internal error or a watchdog expiry forces a watchdog reset (R396 to R398). -/
def State.watchdogReset (s : State) : State := s.resetTo 4

end Sys2Proof.Machine
end

