-- ==== Sys2Proof/Machine/Store.lean ====
section
/-! DEFINITION. Control processors, the field store, the retention SRAM and the logs (R393 to R408, R467, R468). -/
namespace Sys2Proof.Machine

/-! ## The retention SRAM (R468) -/

/-- Bytes written over a list from an offset. -/
def overwriteAt (l : List Byte) (off : Nat) (b : List Byte) : List Byte := l.take off ++ b ++ l.drop (off + b.length)

/-- Bytes of the retention SRAM change; the check word follows every change. DEDUCED, log entry 106. -/
def State.retPut (s : State) (off : Nat) (b : List Byte) : State :=
  let body := (overwriteAt s.cold.ret off b).take 252
  { s with cold := { s.cold with ret := body ++ le 4 (crc32c body).toNat } }

/-- The check word of the retention SRAM is right. -/
def Cold.retOk (c : Cold) : Bool := leAt c.ret 252 4 == (crc32c (c.ret.take 252)).toNat

/-- The time counter of the cold frame now: seconds and 1/32,768 s. -/
def State.coldTime (s : State) : Nat × Nat :=
  let t := s.cold.sec * 32768 + s.cold.sub + (s.nowNs - s.cold.baseNs) * 32768 / 1000000000
  (t / 32768 % 2 ^ 48, t % 32768)

/-! ## The processor pairs (R394 to R398) -/

/-- A pair stops or runs; the tending pair writes the log entries that have waited for it (R393, R399). -/
def State.pairRun (s : State) (pair : Nat) (b : Bool) : State :=
  let s := s.p (if pair = 0 then R.cpu_PAIR_STAT_CMD_RUN else R.cpu_PAIR_STAT_TND_RUN) (b2n b)
  if pair = 1 ∧ b = true then { s.writeLog s.cpu.waiting with cpu := { (s.writeLog s.cpu.waiting).cpu with waiting := [] } } else s

/-- The command pair restarts (R395): sessions close, nothing that waits takes effect, the staged set is discarded. -/
def State.commandLost (s : State) : State :=
  { s with
    trellis := { s.trellis with probe := { s.trellis.probe with calib := none, calibHdr := none, calibApply := none } }
    zcs := { s.zcs with sessions := [], queue := [], staged := [], owner := none, stagedMode := none, action := none
                        long := none, chunks := none }
    image := { s.image with load := none, checking := none, fetching := false }
    nvm := { s.nvm with ops := s.nvm.ops.filter (fun o => !o.zcs) }
    xspi := { s.xspi with reqBuf := none } }

/-- The tending pair restarts (R395): a pending boundary action ends with BUSY. -/
def State.tendingLost (s : State) : State :=
  match s.zcs.action with
  | some a => { s with zcs := { s.zcs with action := none } }.complete a.hdr a.opcode stBusy []
  | none => s

/-- LOCKSTEP_MISMATCH (R394). DEDUCED, log entry 31. -/
def State.lockstepMismatch (s : State) (pair : Nat) : State :=
  if 2 ≤ pair then s
  else
    let count := (leAt s.cold.ret 90 2 + 1) % 65536
    let s := s.retPut 80 (le 1 pair ++ le 1 0 ++ le 2 s.trellis.slot ++ le 6 s.trellis.orbit ++ le 2 count ++ le 4 0)
    let s := s.inc (if pair = 0 then R.cpu_MISMATCH_CMD else R.cpu_MISMATCH_TND) 0 1
    let again := match s.cpu.mismNs with
      | some t => decide (s.nowNs < t + 1000000000)
      | none => false
    if again then s.watchdogReset
    else
      let s := (s.releaseFault 1 false).pairRun pair false
      let f := if pair = 0 then R.cpu_MISMATCH_CMD else R.cpu_MISMATCH_TND
      let e := s.entries 0x008 (f.addr % 4096 / 4) f.lsb (s.freeNow % 4) []
      let s := { s.drew with cpu := { s.cpu with
        mismNs := some s.nowNs, restarting := setBit s.cpu.restarting pair, found := s.cpu.found ++ [(pair, e)] } }
      if pair = 0 then s.commandLost else s.tendingLost

/-- PAIR_RESTART_DONE: the pair runs again, and the log entry of its mismatch, with the orbit and slot at which that was found, is
written (R394, R399). -/
def State.pairRestarted (s : State) (pair : Nat) : State :=
  if pair < 2 ∧ bitAt s.cpu.restarting pair then
    let s := ({ s with cpu := { s.cpu with restarting := clrBit s.cpu.restarting pair } }).pairRun pair true
    let es := (s.cpu.found.filter fun x => x.1 == pair).flatMap (·.2)
    let s := { s with cpu := { s.cpu with found := s.cpu.found.filter fun x => x.1 != pair } }
    let s := if s.on R.cpu_PAIR_STAT_TND_RUN 0 then s.writeLog es
      else { s with cpu := { s.cpu with waiting := s.cpu.waiting ++ es } }
    match s.xspi.reqBuf with
    | some m => if pair = 0 then s.arriveSlave m else s
    | none => s
  else s

/-- SRAM_SCRUB_PASS: corrected words counted; an uncorrectable word at a byte offset is fatal (R397). -/
def State.sramScrub (s : State) (corrected : List Nat) (fatal : Option Nat) : State :=
  let s := forAll corrected s fun s w => (s.inc R.cpu_SRAM_CE_COUNT 0 1).p R.cpu_SRAM_CE_ADDR_WORD w
  match fatal with
  | some off => (s.retPut 96 (le 4 off ++ le 4 (s.trellis.orbit % 2 ^ 32))).watchdogReset
  | none => s

/-- ROM_RECHECK by the tending pair: a mismatch in service is a fatal internal error (R398). -/
def State.romRecheck (s : State) (ok : Bool) : State :=
  if ok || !s.on R.cpu_PAIR_STAT_TND_RUN 0 then s else s.watchdogReset

/-! ## Sectors (R401 to R406) -/

/-- A byte of the field store. -/
def State.storeBytes (s : State) (off len : Nat) : List Byte :=
  if len = 0 then []
  else
    let first := off / 4096
    let n := (off + len - 1) / 4096 - first + 1
    slice ((List.range n).flatMap fun i => s.sectorBytes (first + i)) (off % 4096) len

/-- log2 D of R406: the smallest power of two with n × D at least 48. -/
@[noinline] def decimLog (n : Nat) : Nat := ((List.range 7).find? (fun k => decide (48 ≤ n * 2 ^ k))).getD 6

/-- A logical sector holds what has been written to it. -/
def State.hasData (s : State) (l : Nat) : Bool :=
  match s.physOf l with
  | some p => s.nvm.sectors.any (fun x => x.1 == p)
  | none => false

/-- A sector goes out of use for good (R405). -/
def State.retireOne (s : State) (p : Nat) : State :=
  let s := ((s.setSec p 3 1023).inc R.nvm_RETIRED_COUNT 0 1).event 0x009
  { s with nvm := { s.nvm with worn := s.nvm.worn.filter (· != p) } }

/-- The physical sector of a logical sector, whose contents are given up, becomes free, or is retired where its last write needed too many pulses (R405). -/
def State.unmap (s : State) (l : Nat) : State :=
  match s.physOf l with
  | some p =>
    let s := { s with nvm := { s.nvm with sectors := s.nvm.sectors.filter fun x => x.1 != p } }
    if s.nvm.worn.contains p then s.retireOne p else s.setSec p 1 1023
  | none => s

/-- The ageing-log sector of the oldest snapshots becomes a free sector, with no write of it left (stages 1 and 2 of R406). -/
def State.reclaimSector (s : State) (l : Nat) : State :=
  let s := s.unmap l
  let s := { s with nvm := { s.nvm with
    age := s.nvm.age.filter (fun x => x != l), ops := s.nvm.ops.filter fun o => o.zcs || o.logical != l } }
  let n := s.nvm.age.length
  let s := (s.p R.nvm_STORE_STAT_AGE_SECT n).countFree
  let s := if n == 0 then s.p R.nvm_STORE_STAT_AGE_RAM 1 else s.p R.nvm_STORE_STAT_DECIM (decimLog n)
  (s.log R.nvm_STORE_STAT_AGE_SECT 0x009 []).event 0x009

/-- Stage 3 of R406: the store is worn. DESIGN CHOICE, log entry 30. -/
def State.storeWorn (s : State) : State :=
  let s := (s.p R.nvm_STORE_STAT_WORN 1).p R.nvm_STORE_STAT_AGE_RAM 1
  (s.log R.nvm_STORE_STAT_WORN 0x009 []).event 0x009

/-- Ageing-log sectors are reclaimed, in the order given, until one comes free (R406). DESIGN CHOICE, log entry 30. -/
def State.reclaimFrom (s : State) : List Nat → State
  | [] => s.storeWorn
  | l :: rest =>
    let t := s.reclaimSector l
    if t.freeSecs.isEmpty then t.reclaimFrom rest else t

/-- The spares are used up and a retirement is due (R406). DESIGN CHOICE, log entry 30. -/
def State.reclaim (s : State) : State :=
  s.reclaimFrom ((s.nvm.age.filter s.hasData) ++ s.nvm.age.filter fun l => !s.hasData l)

/-- A physical sector is retired (R405). With no free sector beyond the transfer and save sectors R406 acts. -/
def State.retireSec (s : State) (p : Nat) : State :=
  let used := s.freeSecs.isEmpty
  let s := s.retireOne p
  if used then s.reclaim else s.countFree

/-- The old copy of a rewritten logical sector becomes free, or is retired where its last write needed too many pulses. -/
def State.freeOld (s : State) (old : Option Nat) : State :=
  match old with
  | none => s
  | some p => if s.nvm.worn.contains p then s.retireSec p else (s.setSec p 1 1023).countFree

/-- The write under way ends well: the new copy is mapped, the old one freed, the next transfer sector chosen. -/
def State.writeStands (s : State) (o : NvmOp) (pulses : Nat) : State :=
  let t := s.nvm.transfer
  let old := s.physOf o.logical
  let x := Sector.made o.logical (s.nextVersion o.logical) (s.gi R.nvm_SEC_ERASES_COUNT t) o.data
  let s := s.setSec t 0 o.logical
  let worn := if s.g R.nvm_WEAR_CFG_PULSE_LIM < pulses then t :: s.nvm.worn else s.nvm.worn
  let s := { s with nvm := { s.nvm with
    sectors := aput s.nvm.sectors t x
    worn := worn
    ops := s.nvm.ops.drop 1 } }
  let s := (s.freeOld old).nextTransfer.incW R.nvm_WRITES_COUNT 0 1
  if o.zcs then s.endLong 0x0071 stOk [] else s

/-- NVM_WRITE_DONE: a sector write ends, with its retry pulses, or its transfer sector fails and is retired (R402 to
R406). -/
def State.nvmDone (s : State) (pulses : Nat) (failed : Bool) : State :=
  match s.nvm.ops with
  | [] => s
  | o :: _ =>
    let t := s.nvm.transfer
    if !s.writing then s
    else
      let s := (s.incW R.nvm_SEC_ERASES_COUNT t 1).pi R.nvm_SEC_STAT_LAST_PULSES t (cap 255 pulses)
      if !failed then s.writeStands o pulses
      else
        let s := (s.retireSec t).nextTransfer
        if s.nvm.transfer = 1023 then
          let s := { s with nvm := { s.nvm with ops := if s.nvm.ops.head? = some o then s.nvm.ops.drop 1 else s.nvm.ops } }
          if o.zcs then s.endLong 0x0071 stWorn [] else s
        else s

/-- The emergency save aborts the write under way (R403): an NVM_WRITE gets no response and leaves its sector as it was; a write of the
ageing log is made again afterwards. DEDUCED, log entry 29. DESIGN CHOICE, log entry 29. -/
def State.abortWrite (s : State) : State :=
  if !s.writing then s
  else
    let t := s.cutTransfer
    match s.nvm.ops, s.zcs.long with
    | o :: rest, some (h, 0x0071) =>
      if o.zcs then
        { t with nvm := { t.nvm with ops := rest }, zcs := { t.zcs with long := none } }.sess h.session
          fun x => { x with running := x.running.erase h.tag }
      else t
    | _, _ => t

/-- A write is taken: an NVM_WRITE before the ageing log's, after the one under way (R403). -/
def State.queueOp (s : State) (o : NvmOp) : State :=
  { s with nvm := { s.nvm with ops := s.nvm.ops.take 1 ++ (if o.zcs then o :: s.nvm.ops.drop 1 else s.nvm.ops.drop 1 ++ [o]) } }

/-- A TYPE 1 snapshot reaches the ageing log (R406, R440): one in D is kept, 16 fill a sector, the oldest sector goes
first; with no sector left the last are held in SRAM. DESIGN CHOICE, log entry 30. -/
def State.ageSnapshot (s : State) (snap : List Byte) : State :=
  let d := 2 ^ s.g R.nvm_STORE_STAT_DECIM
  let keep := s.nvm.ageCount % d == 0
  let s := { s with nvm := { s.nvm with ageCount := s.nvm.ageCount + 1 } }
  if !keep then s
  else
    let buf := s.nvm.ageBuf ++ [snap]
    match s.nvm.age with
    | l :: rest =>
      if 16 ≤ buf.length ∧ s.pd 3 then
        { s with nvm := { s.nvm with ageBuf := buf.drop 16, age := rest ++ [l] } }.queueOp
          ⟨l, padTo 4096 (buf.take 16).flatten, false⟩
      else { s with nvm := { s.nvm with ageBuf := buf } }
    | [] => { s with nvm := { s.nvm with ageBuf := lastN 1024 buf } }

/-! ## Commands on the store and the logs -/

/-- The ordering code in ASCII (R1, R390). -/
def orderingCode (screened : Bool) : List Byte :=
  [0x4C#8, 0x47#8, 0x48#8, 0x37#8, 0x36#8, 0x38#8, 0x2D#8, if screened then 0x53#8 else 0x41#8, 0x36#8, 0x34#8]

/-- Bytes of the factory area as the test floor wrote them, from an offset. -/
def floorBytes (off len : Nat) : List Byte := (List.range len).map fun i => Config.factoryByte (off + i)

/-- The 252 bytes of the identity: die ID, ordering code, the MAC addresses of E0 and E1, then what the floor wrote (R400).
DESIGN CHOICE, log entry 8. -/
def identity : List Byte :=
  le 8 Config.dieId.toNat ++ padTo 16 (orderingCode Config.screened) ++ le 6 (Config.macAddr 0).toNat ++ le 6 (Config.macAddr 1).toNat
    ++ floorBytes 0x8024 216

/-- A byte of the factory area (R400): two copies of the trim and the identity, each with its CRC-32C in the last four bytes.
DESIGN CHOICE, log entry 8. -/
def factoryAt (a : Nat) : Byte :=
  let crc := fun (l : List Byte) (at_ : Nat) => (le 4 (crc32c l).toNat).getD (a - at_) 0
  if 0x8100 ≤ a then 0xFF
  else if 0x80FC ≤ a then crc identity 0x80FC
  else if 0x8000 ≤ a then identity.getD (a - 0x8000) 0
  else if 0x7FFC ≤ a then crc (floorBytes 0x4000 16380) 0x7FFC
  else if 0x3FFC ≤ a ∧ a < 0x4000 then crc (floorBytes 0 16380) 0x3FFC
  else Config.factoryByte a

/-- NVM_READ (R364, R400, R401). -/
def State.nvmRead (s : State) (area offset len : Nat) : State × Reply :=
  let size := if area = 0 then 65536 else 2097152
  if 2 ≤ area ∨ len = 0 ∨ 1024 < len ∨ size < offset + len then (s, .done stBadParam [])
  else if !s.pd 3 then (s, .done stDenied [])
  else if area = 0 then
    (s, .done stOk ((List.range len).map fun i => factoryAt (offset + i)))
  else (s, .done stOk (s.storeBytes offset len))

/-- NVM_WRITE (R364, R401 to R406). -/
def State.nvmWrite (s : State) (h : Hdr) (offset : Nat) (bytes : List Byte) : State × Reply :=
  let n := bytes.length
  if n = 0 ∨ 1024 < n ∨ 448 * 4096 < offset + n ∨ offset / 4096 ≠ (offset + n - 1) / 4096 then (s, .done stBadParam [])
  else if !s.pd 3 then (s, .done stDenied [])
  else if s.on R.nvm_STORE_STAT_WORN 0 then (s, .done stWorn [])
  else if s.zcs.long.isSome then (s, .bad stBusy)
  else
    let l := offset / 4096
    let s := s.queueOp ⟨l, overwriteAt (s.sectorBytes l) (offset % 4096) bytes, true⟩
    ({ s with zcs := { s.zcs with long := some (h, 0x0071) } }, .long)

/-- Whole entries from a start, and the next index: at most `max` of them and 1,020 bytes (R364).
DESIGN CHOICE, log entry 28. -/
def logPage (entries : List (List Byte)) (base start max size : Nat) : List Byte :=
  let from_ := Nat.max start base
  let l := ((entries.drop (from_ - base)).take (min max (1020 / size)))
  le 4 (from_ + l.length) ++ l.flatten

/-- The ageing log, oldest snapshot first: the sectors written, then those held in SRAM.
DESIGN CHOICE, log entry 28. -/
def State.ageLog (s : State) : List (List Byte) :=
  ((s.nvm.age.filter s.hasData).flatMap fun l => (List.range 16).map fun i => slice (s.sectorBytes l) (256 * i) 256) ++ s.nvm.ageBuf

/-- LOG_READ (R364, R399): the hub log by entry number since reset, the power events of the retention SRAM, the ageing
log. DESIGN CHOICE, log entry 28. -/
def State.logRead (s : State) (source max start : Nat) : State × Reply :=
  match source with
  | 0 =>
    let n := s.cpu.ring.length
    (s, .done stOk (logPage (s.cpu.ring.reverse.map LogE.bytes) (s.cpu.lseq - n) start max 32))
  | 1 =>
    let l := ((List.range 4).map fun i => slice s.cold.ret (4 + 16 * i) 16).filter (fun e => leAt e 0 1 != 0)
    (s, .done stOk (logPage l 0 start max 16))
  | 2 => (s, .done stOk (logPage s.ageLog 0 start max 256))
  | _ => (s, .done stBadParam [])

/-- SELFTEST (R364, R365). DESIGN CHOICE, log entry 33. -/
def State.selftest (s : State) (h : Hdr) (tests : Word) : State × Reply :=
  if 2 ≤ s.g R.global_STATE_STATE then (s, .done stDenied [])
  else if s.zcs.long.isSome then (s, .bad stBusy)
  else ({ s with zcs := { s.zcs with long := some (h, 0x00A0), tests := tests.toNat } }, .long)

/-- SELFTEST_DONE: the failed mask among the tests run. DESIGN CHOICE, log entry 33. -/
def State.selftestDone (s : State) (failed : Word) : State :=
  s.endLong 0x00A0 stOk (le 4 (failed.toNat &&& s.zcs.tests) ++ le 4 s.zcs.tests)

/-! ## Meanings -/

/-- LOCKSTEP_MISMATCH. -/
def execLockstepMismatch (pair : Nat) (s : State) : Host.Outcome State Fault Refusal := .next (s.lockstepMismatch pair)

/-- PAIR_RESTART_DONE. -/
def execPairRestartDone (pair : Nat) (s : State) : Host.Outcome State Fault Refusal := .next (s.pairRestarted pair)

/-- WATCHDOG_EXPIRY (R396). -/
def execWatchdogExpiry (s : State) : Host.Outcome State Fault Refusal := .next s.watchdogReset

/-- SRAM_SCRUB_PASS. -/
def execSramScrubPass (corrected : List Nat) (fatal : Option Nat) (s : State) : Host.Outcome State Fault Refusal :=
  .next (s.sramScrub corrected fatal)

/-- ROM_RECHECK. -/
def execRomRecheck (ok : Bool) (s : State) : Host.Outcome State Fault Refusal := .next (s.romRecheck ok)

/-- NVM_WRITE_DONE. -/
def execNvmWriteDone (pulses : Nat) (failed : Bool) (s : State) : Host.Outcome State Fault Refusal :=
  .next (s.nvmDone pulses failed)

/-- NVM_READ. -/
def execNvmRead (h : Hdr) (area offset len : Nat) (s : State) : Host.Outcome State Fault Refusal :=
  .next (s.zcsRun (.nvmRead h area offset len) h 0x0070 true (fun s => s.nvmRead area offset len))

/-- NVM_WRITE. -/
def execNvmWrite (h : Hdr) (offset : Nat) (bytes : List Byte) (s : State) : Host.Outcome State Fault Refusal :=
  .next (s.zcsRun (.nvmWrite h offset bytes) h 0x0071 true (fun s => s.nvmWrite h offset bytes))

/-- LOG_READ. -/
def execLogRead (h : Hdr) (source max start : Nat) (s : State) : Host.Outcome State Fault Refusal :=
  .next (s.zcsRun (.logRead h source max start) h 0x0072 true (fun s => s.logRead source max start))

/-- SELFTEST. -/
def execSelftest (h : Hdr) (tests : Word) (s : State) : Host.Outcome State Fault Refusal :=
  .next (s.zcsRun (.selftest h tests) h 0x00A0 true (fun s => s.selftest h tests))

/-- SELFTEST_DONE. -/
def execSelftestDone (failed : Word) (s : State) : Host.Outcome State Fault Refusal := .next (s.selftestDone failed)

end Sys2Proof.Machine
end

