-- ==== Sys2Proof/Machine/Power.lean ====
section
/-! DEFINITION. Power: inputs, domains and the start ration, rail faults, the power trip, power failure and the emergency
save, the cold frame (R449 to R472). -/
namespace Sys2Proof.Machine

/-- Power updated. -/
def State.pw (s : State) (f : Power → Power) : State := { s with power := f s.power }

/-! ## Rails and domains (R454, R456). Rails are numbered 0 VCORE to 11 VSLOW, in the order of R454. -/

/-- The start budgets in µC. -/
def railBudget (r : Nat) : Nat := [150, 20, 40, 20, 60, 40, 10, 40, 40, 20, 10, 5].getD r 0

/-- The inrush charges of a domain's start: rail and µC. -/
def inrush (d : Nat) : List (Nat × Nat) :=
  if d = 2 then [(1, 10)] else if d = 3 then [(10, 3)]
  else if 4 ≤ d ∧ d < 10 then [(4, 30), (5, 10)]
  else if d = 10 ∨ d = 22 then [(0, 100)] else if d = 11 then [(0, 50)]
  else if d = 12 ∨ d = 13 then [(2, 40), (0, 10)]
  else if 14 ≤ d ∧ d < 18 then [(2, 20), (3, 10), (0, 10)]
  else if 18 ≤ d ∧ d < 22 then [(7, 40), (8, 20), (9, 10), (6, 5), (0, 20)]
  else if d = 23 then [(5, 5), (11, 2)] else []

/-- The domains a rail feeds. -/
def railFeeds (r : Nat) : List Nat :=
  match r with
  | 0 => (List.range 13).map (· + 10)
  | 1 => [1, 2]
  | 2 | 3 => (List.range 6).map (· + 12)
  | 4 => (List.range 6).map (· + 4)
  | 5 => (List.range 6).map (· + 4) ++ [23]
  | 6 | 7 | 8 | 9 => (List.range 4).map (· + 18)
  | 10 => [1, 3]
  | 11 => [23]
  | _ => []

/-- Charge of the starts in progress on a rail. -/
def State.charging (s : State) (r : Nat) : Nat :=
  sumNat (s.power.ramping.map fun x => sumNat ((inrush x.1).map fun c => if c.1 = r then c.2 else 0))

/-- The rails on which a start lacks room (R457). -/
def State.shortRails (s : State) (d : Nat) : List Nat :=
  ((inrush d).filter fun c => decide (railBudget c.1 < s.charging c.1 + c.2)).map (·.1)

/-- The domains whose starts wait. -/
def State.waitingStarts (s : State) : List Nat := bitsSet 24 (s.g R.power_PD_WAIT_WAIT)

/-- The lowest-numbered waiting start that has room, and names no rail on which a lower-numbered one lacks room (R457).
DEDUCED, log entry 114. -/
def State.nextStart (s : State) : Option Nat :=
  let w := s.waitingStarts
  w.find? fun d => (s.shortRails d).isEmpty &&
    !(w.any fun e => decide (e < d) && (s.shortRails e).any fun r => (inrush d).any fun c => c.1 == r)

/-- PD_START_ADMIT: one waiting start is admitted; the domains beyond PD03 run from VINT. DEDUCED, log entry 114. -/
def State.startAdmit (s : State) : State :=
  match s.nextStart with
  | some d =>
    if d < 4 ∨ s.on R.power_CONV_STAT_VINT_OK 0 then
      (s.pbit R.power_PD_WAIT_WAIT 0 d false).pw fun p => { p with ramping := p.ramping ++ [(d, s.nowNs)] }
    else s
  | none => s

/-- A start is requested; it is staged until it is admitted. A bed or slow front end stays off while no trim is valid
(R444). -/
def State.requestStart (s : State) (d : Nat) : State :=
  if 24 ≤ d ∨ s.pd d ∨ bitAt (s.g R.power_PD_WAIT_WAIT) d ∨ s.power.ramping.any (·.1 == d) then s
  else if s.on R.tending_STAT_TRIM_INVALID 0 ∧ (d = 23 ∨ (4 ≤ d ∧ d < 10)) then s
  else
    let idle := s.power.ramping.isEmpty && s.g R.power_PD_WAIT_WAIT == 0
    (s.pbit R.power_PD_WAIT_WAIT 0 d true).pw fun p => { p with burst := if idle then s.nowNs else p.burst }

/-! ## A domain goes off (R176, R297, R460) -/

/-- The hub stops streaming at once: what the back end has not received is lost (R220, R460). DEDUCED, log entry 57. -/
def State.stopNow (s : State) : State :=
  if s.g R.global_STATE_STATE < 2 then s
  else
    let s := (s.p R.global_STATE_STATE 1).complete s.stopping 0x0031 stOk
      (le 6 s.trellis.orbit ++ le 1 (s.g R.global_STATE_MODE))
    let lose := fun (u : Furrow) => ({ u with cur := none, segs := [], rd := u.wr, ack := seqAdd u.wr (2 ^ 40 - 1) } : Furrow)
    let s := { s with
      intake := false, stopping := none, hubQ := [], closes := [], looks := []
      furrows := s.furrows.map fun x => (x.1, (lose x.2).retail)
      engines := s.engines.map fun _ => Engine.empty }
    ((forAll hLanes s fun s n => s.tx n fun t => { t with waiting := [], sending := t.sending.filter Held.isZcs }).setChunks 1536).stopPorts

/-- Stream memory behind a domain is lost with its supply (R220). DEDUCED, log entry 58. -/
def State.memoryOff (s : State) (d : Nat) : State :=
  let gone := fun (m : Nat) => decide (18 + m / 2 = d)
  let s := { s with mem := { s.mem with
    cells := s.mem.cells.filter fun c => !gone (s.locate c.1).port
    bad := s.mem.bad.filter fun g => !gone (s.locate (256 * g)).port } }
  forAll ((List.range 8).filter gone) s fun s m =>
    forAll (List.range 3) (s.mport m fun p => { p.lose with rows := [], degrade := p.degrade }) fun s x =>
      s.setRank m x fun _ => Rank.empty

/-- A domain is off: what it held is gone, and what depends on it stops.
DEDUCED, log entry 58. DEDUCED, log entry 110. -/
def State.domainOff (s : State) (d : Nat) : State :=
  let s := (s.setPd d false).pbit R.power_PD_WAIT_WAIT 0 d false
  let s := forAll (s.pagesLost d) s State.indexReset
  let s := s.pw fun p => { p with ramping := p.ramping.filter (·.1 != d) }
  let s := if d = 10 ∨ d = 11 ∨ d = 14 ∨ (18 ≤ d ∧ d < 23) then s.stopNow else s
  if 4 ≤ d ∧ d < 10 then forAll (List.range 4) s fun s i => s.bed (4 * (d - 4) + i) Bed.afterReset
  else if 12 ≤ d ∧ d < 18 then
    let s := s.lanesOff d
    if 14 ≤ d then forAll (List.range 4) s fun s i =>
      let n := 4 * (d - 14) + i
      if s.heldBy n = 0 then s.cutLane n else (forAll (s.furrowsOn n) s State.markResends).cutLane n
    else s
  else if 18 ≤ d ∧ d < 22 then s.memoryOff d
  else if d = 22 then s.dropJobs
  else if d = 23 then s.slowOff
  else s

/-- Domains go off by a fault: PD_FAULT, a log entry, the page interrupt, and R420 for an active hub (R460). A fault of
PD02 ends in a watchdog reset. -/
def State.domainFault (s : State) (ds : List Nat) : State :=
  let ds := ds.filter fun d => s.pd d || s.power.ramping.any (·.1 == d)
  let s := forAll ds s fun s d => (s.domainOff d).pbit R.power_PD_FAULT_FAULT 0 d true
  let s := (s.log R.power_PD_FAULT_FAULT 0x003 []).event 0x003
  if ds.isEmpty then s
  else if s.role = 1 then (s.releaseToken 3).resetTo 5
  else if ds.contains 2 then s.watchdogReset
  else s

/-- RAIL_FAULT: the rail's domains go off (R460). -/
def State.railFault (s : State) (r : Nat) : State :=
  if 12 ≤ r then s
  else (((s.pbit R.power_RAIL_FAULT_RAIL 0 r true).log R.power_RAIL_FAULT_RAIL 0x003 []).event 0x003).domainFault (railFeeds r)

/-- A domain comes up in regulation. -/
def State.domainOn (s : State) (d : Nat) : State :=
  let s := s.setPd d true
  if 4 ≤ d ∧ d < 10 then forAll (List.range 4) s fun s i => s.bed (4 * (d - 4) + i) fun x => { x with since := s.trellis.tick }
  else if d = 23 then s.startScans else s

/-- PD_RAMP_END: the ramp ends; the longest burst is kept, and out of regulation is a fault of one of the domain's rails,
which the manual does not name (R457). DESIGN CHOICE, log entry 55. -/
def State.rampEnd (s : State) (d : Nat) (ok : Bool) : State :=
  if !s.power.ramping.any (·.1 == d) then s
  else if ok then
    let s := (s.pw fun p => { p with ramping := p.ramping.filter (·.1 != d) }).domainOn d
    if s.power.ramping.isEmpty && s.g R.power_PD_WAIT_WAIT == 0 then
      s.pmax R.power_START_MAX_US 0 (ceilDiv (s.nowNs - s.power.burst) 1000)
    else s
  else
    let rs := (inrush d).map (·.1)
    s.drew.railFault (rs.getD (s.freeNow % max 1 rs.length) 12)

/-! ## PD_REQ (R459) -/

/-- The domains that the configuration in effect uses. DEDUCED, log entry 56. -/
def State.domainsUsed (s : State) : List Nat :=
  (List.range 24).filter fun d =>
    if d < 4 ∨ d = 10 ∨ d = 14 ∨ d = 22 then true
    else if d < 10 then (List.range 4).any fun i => s.on R.rec_BED_CFG_MODE (4 * (d - 4) + i)
    else if d = 11 then (List.range 32).any s.portInUse
    else if d < 14 then (List.range 16).any fun i => s.portInUse (16 * (d - 12) + i)
    else if d < 18 then s.enabledFurrows.any fun f => !hubFurrow f && s.gi R.fwin_D_LANES_LANES f / 16 ^ (d - 14) % 16 != 0
    else if d < 22 then s.memPorts.any fun m => 18 + m / 2 == d
    else s.on R.slow_CTRL_ENABLE 0

/-- PD_REQ_APPLY: the requests written since the last boundary are issued. -/
def State.pdReqApply (s : State) : State :=
  if !s.power.reqDue then s
  else
    let s := s.pw fun p => { p with reqDue := false }
    let req := s.g R.power_PD_REQ_ON
    forAll ((List.range 20).map (· + 4)) s fun s d =>
      if bitAt req d then (if bitAt (s.g R.power_PD_FAULT_FAULT) d then s else s.requestStart d)
      else if s.pd d || bitAt (s.g R.power_PD_WAIT_WAIT) d || s.power.ramping.any (·.1 == d) then s.domainOff d
      else s

/-- A write of PD_REQ. -/
def State.pdReqWrite (s : State) (w : Word) : State :=
  let v := w.toNat % 2 ^ 24
  let s := if v % 16 = 15 then s else s.err 0x003 1 0x060
  let kept := (List.range 24).filter fun d =>
    !bitAt v d && decide (3 < d) && s.streaming && bitAt (s.g R.power_PD_REQ_ON) d && s.domainsUsed.contains d
  let s := if kept.isEmpty then s else s.err 0x003 2 0x060
  let v := kept.foldl setBit (v ||| 15)
  let s := (s.p R.power_PD_REQ_ON v).pw fun p => { p with reqDue := true }
  if s.trellis.everLocked then s else s.pdReqApply

/-! ## Power events (R464, R465, R468) -/

/-- The furrow entries held ready for a record are brought up to date at a frame boundary: hub furrows first (R464,
R465). DEDUCED, log entry 73. -/
def State.powerFrame (s : State) : State :=
  let fs := [0, 1, 3, 4, 5] ++ s.enabledFurrows.filter (fun f => !hubFurrow f)
  s.pw fun p => { p with ready := fs.map fun f => (f, (s.fur f).wr, (s.fur f).rd, (s.fur f).ack) }

/-- FLAGS of a record. -/
def State.eventFlags (s : State) (streaming : Bool) : Nat :=
  b2n streaming + 2 * b2n (decide (201 < s.power.ready.length)) + 4 * s.g R.coldframe_CF_STAT_TIME_VALID
    + 8 * b2n (!s.on R.trip_PTRIP_STAT_PIN 0)

/-- The power-event record (R465). DEDUCED, log entry 73. -/
def State.eventRecord (s : State) (typ vhold : Nat) (streaming : Bool) : List Byte :=
  let es := s.power.ready.take 201
  let body := padTo 64 (le 1 typ ++ le 1 (s.eventFlags streaming) ++ le 2 (s.g R.global_HUB_ID_ID)
      ++ le 6 s.power.lastOrbit ++ le 2 s.power.lastSlot ++ le 6 s.wall.sec ++ le 4 s.wall.ns
      ++ le 1 (s.g R.graft_STAT_EPOCH) ++ le 1 (s.g R.global_STATE_MODE) ++ le 2 es.length ++ le 2 vhold
      ++ le 2 (s.g R.tending_TEMP_HOTTEST) ++ le 2 0 ++ slice s.cold.ret 0 4)
    ++ es.flatMap fun e => le 2 e.1 ++ le 5 e.2.1 ++ le 5 e.2.2.1 ++ le 5 e.2.2.2 ++ le 3 0
  let body := padTo 4092 body
  body ++ le 4 (crc32c body).toNat

/-- A power event: its record is to be saved, which aborts a write of the store under way; its summary leads the four of the
retention SRAM (R403, R464). DEDUCED, log entry 73. -/
def State.powerEvent (s : State) (typ vhold : Nat) (streaming : Bool) : State :=
  let rec_ := s.eventRecord typ vhold streaming
  let sum := slice rec_ 0 2 ++ slice rec_ 10 2 ++ slice rec_ 4 6 ++ slice rec_ 12 6
  (s.abortWrite.retPut 4 (sum ++ slice s.cold.ret 4 48)).pw fun p => { p with saving := some rec_ }

/-- A save that cannot complete: the next start reports it (R465). -/
def State.saveLost (s : State) : State :=
  { s.pw fun p => { p with saving := none } with cold := { s.cold with saveFailed := true } }

/-- EMERGENCY_SAVE_DONE: the record takes the place of the oldest in the 16 sectors of the power-event area, and another
free sector is erased and reserved (R403, R465); or the save sector fails, is retired, and the next start reports the save
(R405). DEDUCED, log entry 73. -/
def State.saveDone (s : State) (ok : Bool) : State :=
  match s.power.saving with
  | none => s
  | some rec_ =>
    let sv := s.nvm.save
    if !s.pd 3 || decide (544 ≤ sv) then s.saveLost
    else
      let pulses := s.freeNow % 256
      let s := (s.pi R.nvm_SEC_STAT_LAST_PULSES sv pulses).drew
      if !ok then (s.saveLost.retireSec sv).nextSave
      else
        let l := 496 + s.nvm.peNext
        let old := s.physOf l
        let x := Sector.made l (s.nextVersion l) (s.gi R.nvm_SEC_ERASES_COUNT sv) rec_
        let s := (s.pw fun p => { p with saving := none }).setSec sv 0 l
        let s := { s with nvm := { s.nvm with
          sectors := aput s.nvm.sectors sv x
          worn := if s.g R.nvm_WEAR_CFG_PULSE_LIM < pulses then sv :: s.nvm.worn else s.nvm.worn
          peNext := (s.nvm.peNext + 1) % 16 } }
        ((s.freeOld old).incW R.nvm_WRITES_COUNT 0 1).nextSave

/-- A save cut short by the loss of power leaves its sector half programmed: it is free again, and another is reserved (R402, R465). -/
def State.saveCut (s : State) : State :=
  if s.power.saving.isNone then s
  else if 544 ≤ s.nvm.save then s.saveLost
  else
    let s := s.saveLost.setSec s.nvm.save 1 1023
    { s with nvm := { s.nvm with sectors := s.nvm.sectors.filter fun x => x.1 != s.nvm.save } }.nextSave

/-! ## The power trip (R461, R462) -/

/-- The trip latch sets, the converter stops, PD04 to PD23 go off, the record is written (R461, R462).
DEDUCED, log entry 69. DESIGN CHOICE, log entry 74. -/
def State.trip (s : State) (typ : Nat) : State :=
  let s := s.event 0x005
  if s.on R.trip_PTRIP_STAT_LATCH 0 then s
  else
    let streaming := s.streaming
    let s := (s.p R.trip_PTRIP_STAT_LATCH 1).p R.power_CONV_STAT_LATCHED 1
    let s := (s.p R.power_CONV_STAT_VINT_OK 0).p R.power_CONV_STAT_VINT 0
    let s := if s.power.pfail then s else s.powerEvent typ (s.freeNow % 65536) streaming
    (s.drew.p R.power_PD_WAIT_WAIT 0).domainFault ((List.range 20).map (· + 4))

/-- PTRIP_N_ASSERT: a low of 200 ns acts, one under 50 ns does not; between them a free value decides (R461).
DESIGN CHOICE, log entry 67. -/
def State.ptripAssert (s : State) (lowNs : Nat) (inDead : Bool) : State :=
  let acts := decide (200 ≤ lowNs) || (decide (50 ≤ lowNs) && s.freeNow % 2 == 1)
  let s := if 50 ≤ lowNs ∧ lowNs < 200 then s.drew else s
  let s := s.p R.trip_PTRIP_STAT_PIN 0
  if s.power.unpowered || !acts then s
  else (((s.inc R.trip_PTRIP_STAT_EDGES 0 1).p R.trip_PTRIP_STAT_IN_DEAD (b2n inDead)).p R.trip_CAUSE_PTRIP 1).trip 2

/-- CONVERTER_TRIP: an internal fault of the converter, 1 VINT_OV, 2 PHASE_OC, 3 OVERTEMP. -/
def State.converterTrip (s : State) (cause : Nat) : State :=
  if s.power.unpowered then s
  else
    let set := fun (f : Fld) => (((s.inc R.trip_PTRIP_STAT_EDGES 0 1).p R.trip_PTRIP_STAT_IN_DEAD 0).p f 1).trip 3
    match cause with
    | 1 => set R.trip_CAUSE_VINT_OV
    | 2 => set R.trip_CAUSE_PHASE_OC
    | 3 => set R.trip_CAUSE_OVERTEMP
    | _ => s

/-- PTRIP_N_RELEASE: the pin reads high. -/
def State.ptripRelease (s : State) : State :=
  if s.on R.trip_PTRIP_STAT_PIN 0 then s
  else (s.p R.trip_PTRIP_STAT_PIN 1).pw fun p => { p with ptripHigh := s.nowNs }

/-- The power trip may be cleared (R463): PTRIP_N high for 1.0 µs and the other causes ended: VINT within 5.5 V, no phase
driven while the latch is set, the mixed-signal die (sensors 12 to 15) at 125 °C or below; and no emergency save runs (R464). DEDUCED, log entry 70. -/
def State.tripMayClear (s : State) : Bool :=
  let hot := match s.tend.mon with
    | some m => (m.temps.drop 12).any fun t => decide (1250 < sext 16 t.toNat)
    | none => false
  s.power.saving.isNone && s.on R.trip_PTRIP_STAT_PIN 0 && decide (s.power.ptripHigh + 1000 ≤ s.nowNs)
    && (!s.on R.trip_CAUSE_VINT_OV 0 || decide (s.g R.power_CONV_STAT_VINT ≤ 5500))
    && (!s.on R.trip_CAUSE_OVERTEMP 0 || !hot)

/-- TRIP_CLEAR of a command that arrived at `at_`: both latches named clear, or neither (R329, R463).
DEDUCED, log entry 71. DEDUCED, log entry 72. -/
def State.tripClear (safe power : Bool) (at_ : Nat) (s : State) : State × Reply :=
  if (safe && !s.safeMayClear at_) || (power && !s.tripMayClear) then
    let s := if safe then s.inc R.il_SAFE_STAT_REFUSED 0 1 else s
    let s := if power then s.inc R.trip_PTRIP_STAT_REFUSED 0 1 else s
    (s, .done stTrip [])
  else
    let s := if safe then s.p R.il_SAFE_STAT_LATCH 0 else s
    if power && s.on R.trip_PTRIP_STAT_LATCH 0 then
      let s := ((s.p R.trip_PTRIP_STAT_LATCH 0).p R.power_CONV_STAT_LATCHED 0).p R.trip_CAUSE_PTRIP 0
      let s := ((s.p R.trip_CAUSE_VINT_OV 0).p R.trip_CAUSE_PHASE_OC 0).p R.trip_CAUSE_OVERTEMP 0
      ({ s with boot := { s.boot with restart := true } }, .done stOk [])
    else (s, .done stOk [])

/-- When the message of a command arrived: it waits in the queue, or comes now. -/
def State.arrivedAt (s : State) (h : Hdr) (opcode : Nat) : Nat :=
  match s.zcs.queue.find? (fun m => m.hdr == h && m.opcode == opcode) with
  | some m => m.ns
  | none => s.nowNs

/-! ## Power failure and restart (R464) -/

/-- PFAIL_DETECT: VHOLD, in 10 mV, lies below the threshold: the event is recorded and its save starts; PD04 to PD23 go off, and
everything else but the save is held in reset. DEDUCED, log entry 73. -/
def State.pfail (s : State) (vhold : Nat) : State :=
  if s.power.pfail || s.power.unpowered || decide (10 * s.g R.power_PFAIL_CFG_THRESH ≤ vhold) then s
  else
    let cause := s.resetKind
    let on := s.g R.global_PD_STAT_ON % 16
    let s := s.powerEvent 1 vhold s.streaming
    let s := if s.role = 1 then s.releaseToken 3 else s
    let s := ((s.resetTo 1).p R.global_PD_STAT_ON on).p R.global_RESET_CAUSE_KIND cause
    ((s.p R.power_VIN_STAT_PFAIL 1).event 0x003).pw fun p => { p with pfail := true }

/-- POWER_RESTORE: VHOLD has held 9.0 V for 10 ms after a failure: the hub restarts as from power-on.
DEDUCED, log entry 76. -/
def State.powerRestore (s : State) : State :=
  if (s.power.pfail && s.power.saving.isNone) || s.power.unpowered then s.resetTo 0 else s

/-- POWER_LOSS: VHOLD falls below 6.0 V: only the cold frame and the non-volatile store keep anything; a save under way
is cut short. -/
def State.powerLoss (s : State) : State :=
  if s.power.unpowered then s
  else
    let s := (s.saveCut.resetTo 0).p R.global_PD_STAT_ON 1
    (s.p R.coldframe_CF_STAT_ON_MAIN 0).pw fun p => { p with unpowered := true }

/-! ## Inputs and the cold frame (R449, R467) -/

/-- VIN_CHANGE: the voltages in mV; the higher feeds, and between equals a free value decides (R449).
DESIGN CHOICE, log entry 68. -/
def State.vinChange (s : State) (a b : Nat) : State :=
  let aFeeds := decide (b < a) || (a == b && s.freeNow % 2 == 0)
  let some_ := decide (0 < max a b)
  let s := if a = b then s.drew else s
  let s := (s.p R.power_VIN_STAT_VIN_A (cap 4095 (a / 20))).p R.power_VIN_STAT_VIN_B (cap 4095 (b / 20))
  (s.p R.power_VIN_STAT_A_FEEDS (b2n (some_ && aFeeds))).p R.power_VIN_STAT_B_FEEDS (b2n (some_ && !aFeeds))

/-- COLDFRAME_TO_MAIN: VINT has been in regulation for 1 ms. -/
def State.coldToMain (s : State) : State :=
  if s.on R.power_CONV_STAT_VINT_OK 0 then s.p R.coldframe_CF_STAT_ON_MAIN 1 else s

/-- COLDFRAME_TO_VBAT: VINT has fallen below 4.5 V. -/
def State.coldToVbat (s : State) : State :=
  if s.on R.power_CONV_STAT_VINT_OK 0 then s else s.p R.coldframe_CF_STAT_ON_MAIN 0

/-- VBAT_LOW: a measurement of VBAT while on main. DEDUCED, log entry 75. -/
def State.vbat (s : State) (mv : Nat) : State :=
  let s := if s.on R.coldframe_CF_STAT_ON_MAIN 0 then s.p R.coldframe_VBAT_MV (cap 4095 mv) else s
  s.p R.coldframe_CF_STAT_VBAT_LOW (b2n (decide (mv < 2200)))

/-- COLDFRAME_TIME_SET: the counter is set from the wall clock after a step or a SYNC (R467). -/
def State.coldTimeSet (s : State) : State :=
  if !s.wall.setCold then s
  else
    let s := { s with
      cold := { s.cold with sec := s.wall.sec, sub := s.wall.ns * 32768 / 1000000000, baseNs := s.nowNs }
      wall := { s.wall with setCold := false } }
    s.p R.coldframe_CF_STAT_TIME_VALID 1

/-! ## Meanings -/

/-- PD_REQ_WRITE. -/
def execPdReqWrite (w : Word) (s : State) : Host.Outcome State Fault Refusal :=
  .next (if s.pd 1 then s.pdReqWrite w else s)

/-- VIN_CHANGE. -/
def execVinChange (a b : Nat) (s : State) : Host.Outcome State Fault Refusal := .next (s.vinChange a b)

/-- RAIL_FAULT. -/
def execRailFault (rail : Nat) (s : State) : Host.Outcome State Fault Refusal := .next (s.railFault rail)

/-- PD_START_ADMIT. -/
def execPdStartAdmit (s : State) : Host.Outcome State Fault Refusal := .next s.startAdmit

/-- PD_RAMP_END. -/
def execPdRampEnd (pd : Nat) (ok : Bool) (s : State) : Host.Outcome State Fault Refusal := .next (s.rampEnd pd ok)

/-- PTRIP_N_ASSERT. -/
def execPtripNAssert (lowNs : Nat) (inDead : Bool) (s : State) : Host.Outcome State Fault Refusal :=
  .next (s.ptripAssert lowNs inDead)

/-- PTRIP_N_RELEASE. -/
def execPtripNRelease (s : State) : Host.Outcome State Fault Refusal := .next s.ptripRelease

/-- CONVERTER_TRIP. -/
def execConverterTrip (cause : Nat) (s : State) : Host.Outcome State Fault Refusal := .next (s.converterTrip cause)

/-- TRIP_CLEAR. -/
def execTripClear (h : Hdr) (safe power : Bool) (s : State) : Host.Outcome State Fault Refusal :=
  .next (s.zcsRun (.tripClear h safe power) h 0x0091 true (State.tripClear safe power (s.arrivedAt h 0x0091)))

/-- PFAIL_DETECT. -/
def execPfailDetect (vhold : Nat) (s : State) : Host.Outcome State Fault Refusal := .next (s.pfail vhold)

/-- EMERGENCY_SAVE_DONE. -/
def execEmergencySaveDone (ok : Bool) (s : State) : Host.Outcome State Fault Refusal := .next (s.saveDone ok)

/-- POWER_RESTORE. -/
def execPowerRestore (s : State) : Host.Outcome State Fault Refusal := .next s.powerRestore

/-- POWER_LOSS. -/
def execPowerLoss (s : State) : Host.Outcome State Fault Refusal := .next s.powerLoss

/-- COLDFRAME_TO_MAIN. -/
def execColdframeToMain (s : State) : Host.Outcome State Fault Refusal := .next s.coldToMain

/-- COLDFRAME_TO_VBAT. -/
def execColdframeToVbat (s : State) : Host.Outcome State Fault Refusal := .next s.coldToVbat

/-- VBAT_LOW. -/
def execVbatLow (mv : Nat) (s : State) : Host.Outcome State Fault Refusal := .next (s.vbat mv)

/-- COLDFRAME_TIME_SET. -/
def execColdframeTimeSet (s : State) : Host.Outcome State Fault Refusal := .next s.coldTimeSet

end Sys2Proof.Machine
end

