-- ==== Sys2Proof/Machine/Tending.lean ====
section
/-! DEFINITION. Tending: monitors, re-planning, the fast guard, pinned settings, records and the report, the checks and
reloads of the factory trim (R432 to R448). -/
namespace Sys2Proof.Machine

/-- Tending updated. -/
def State.td (s : State) (f : Tend → Tend) : State := { s with tend := f s.tend }

/-- The tending pair runs. -/
def State.tndRuns (s : State) : Bool := s.on R.cpu_PAIR_STAT_TND_RUN 0

/-- Monitors that have read nothing yet. -/
def monBlank : MonitorIn := ⟨[], [], [], [], [], [], none, 0, false, [], 0, 0⟩

/-- The monitors last taken. -/
def State.monNow (s : State) : MonitorIn := s.tend.mon.getD monBlank

/-! ## Samples (R432, R433, R440) -/

/-- The smallest value of a list with its place, the first of equals. -/
def minAt (l : List Nat) : Option (Nat × Nat) :=
  (l.zipIdx).foldl (fun a x => match a with
    | none => some x
    | some y => if x.1 < y.1 then some x else some y) none

/-- The largest value of a list with its place, the first of equals. -/
def maxAt (l : List Int) : Option (Int × Nat) :=
  (l.zipIdx).foldl (fun a x => match a with
    | none => some x
    | some y => if y.1 < x.1 then some x else some y) none

/-- The temperatures of a sample. -/
def degrees (m : MonitorIn) : List Int := (m.temps.take 16).map fun t => sext 16 t.toNat

/-- The narrowest window of a memory port among those that a pause has published, in 1/64 UI; 0 for none.
DESIGN CHOICE, log entry 51. -/
def State.narrowest (s : State) (m : Nat) : Nat :=
  let l := (List.range 3).flatMap fun x => (List.range 5).flatMap fun c =>
    [R.mport_WIN_RD, R.mport_WIN_WR, R.mport_WIN_CA].map fun f => s.gi f (mInst m + 8 * x + c)
  match minAt (l.filter (· != 0)) with
  | some (v, _) => v
  | none => 0

/-- The largest offset drift since the factory among the slices of a bed, in 1/64 LSB. -/
def State.driftOf (s : State) (b : Nat) : Nat :=
  maxNat ((List.range 33).map fun i =>
    (sext 16 (s.gi R.bed_SLICE_OFFSET_OFFSET (b * 64 + i)) - sext 16 (Config.factoryOffset b i).toNat).natAbs)

/-- The largest LAST_PULSES of the store. -/
def State.pulsesMax (s : State) : Nat :=
  let f := R.nvm_SEC_STAT_LAST_PULSES
  maxNat ((s.regs.filter fun e => e.1 / 2 ^ 20 == f.addr * 32 + f.lsb).map (·.2))

/-- The VCORE target in 0.1 mV. -/
def State.vcore (s : State) : Nat := 6500 + 25 * s.g R.tending_AVS_TARGET

/-- The quantities of bytes 8 to 9 and 16 to 231 of a record, in their order. DESIGN CHOICE, log entry 51. -/
def State.quantities (s : State) (m : MonitorIn) : List Int :=
  let nats : List Nat → List Int := fun l => l.map Int.ofNat
  nats [s.vcore] ++ (List.range 16).map (fun i => sext 16 (m.temps.getD i 0#16).toNat)
    ++ nats ((List.range 24).map fun i => m.rings.getD i 0)
    ++ nats (receivers.map fun l => s.gi R.lane_EYE_RESULT_WIDTH l)
    ++ nats (receivers.map fun l => s.gi R.lane_EYE_RESULT_HEIGHT l)
    ++ nats ((List.range 8).map s.narrowest) ++ nats ((List.range 24).map s.driftOf)
    ++ nats [s.g R.nvm_STORE_STAT_FREE, s.pulsesMax] ++ nats ((List.range 4).map fun i => m.phases.getD i 0)
    ++ nats [m.efficiency]

/-- The widths in bytes of those quantities. -/
def quantityWidths : List Nat :=
  [2] ++ List.replicate 40 2 ++ List.replicate 76 1 ++ List.replicate 24 2 ++ [1, 1] ++ List.replicate 5 2

/-- A TENDING record (R440): type, worst margin with its sensor, hottest temperature with its sensor, quantities.
DEDUCED, log entry 50. -/
def State.tendRecord (s : State) (typ : Nat) (stale : Bool) (worst : Nat × Nat) (hot : Int × Nat) (qs : List Int) :
    List Byte :=
  let flags := b2n s.lost + 2 * b2n stale + 4 * s.g R.tending_STAT_GUARD + 8 * s.g R.tending_AVS_AVS_LIMIT
  let enc := (List.zipWith (fun w q => le w (toField (8 * w) q)) quantityWidths qs).flatten
  padTo 256 (le 6 s.trellis.orbit ++ le 1 typ ++ le 1 flags ++ enc.take 2 ++ le 2 worst.1 ++ le 1 worst.2 ++ le 1 hot.2
    ++ le 2 (toField 16 hot.1) ++ enc.drop 2)

/-! ## Guard bands (R441, R442) -/

/-- The entries of the report: KIND, INDEX, LIMIT, whether LIMIT lies above, and where a snapshot holds the quantity:
byte, length, signed. -/
def reportEntries : List (Nat × Nat × Nat × Bool × Nat × Nat) :=
  [(1, 0, 8500, true, 8, 2), (2, 0, 1050, true, 14, 2)]
    ++ (List.range 34).map (fun i => (3, i, 12, false, 96 + i, 1))
    ++ (List.range 8).map (fun i => (4, i, 16, false, 164 + i, 1))
    ++ (List.range 24).map (fun i => (5, i, 4096, true, 172 + 2 * i, 2))
    ++ [(6, 0, 0, false, 220, 1), (7, 0, 800, false, 230, 2)]

/-- NOW of an entry, none where its monitor has produced nothing. -/
def State.entryNow (s : State) (kind index : Nat) : Option Int :=
  let m := s.monNow
  match kind with
  | 1 => some s.vcore
  | 2 => if m.temps.isEmpty then none else some (sext 16 (s.g R.tending_TEMP_HOTTEST))
  | 3 =>
    let w := s.gi R.lane_EYE_RESULT_WIDTH index
    if w = 0 ∧ ¬ s.on R.lane_EYE_RESULT_VALID index then none else some w
  | 4 => if s.narrowest index = 0 then none else some (s.narrowest index)
  | 5 => if s.bedOn (index) && !(s.bedOf index).uncal then some (s.driftOf index) else none
  | 6 => some (s.g R.nvm_STORE_STAT_FREE)
  | _ => if s.tend.mon.isNone then none else some m.efficiency

/-- An entry's NOW is at or beyond its LIMIT. -/
def State.atLimit (s : State) (e : Nat × Nat × Nat × Bool × Nat × Nat) : Bool :=
  match s.entryNow e.1 e.2.1 with
  | none => false
  | some v => if e.2.2.2.1 then decide ((e.2.2.1 : Int) ≤ v) else decide (v ≤ (e.2.2.1 : Int))

/-- A NOW that reaches its LIMIT sets STAT.GUARD and writes a log warning (R442). DEDUCED, log entry 52. -/
def State.guardBands (s : State) : State :=
  let at_ := (List.range 70).filter fun i => match reportEntries[i]? with
    | some e => s.atLimit e
    | none => false
  let fresh := at_.filter fun i => !s.tend.limits.contains i
  let s := s.td fun t => { t with limits := at_ }
  forAll fresh s fun s i =>
    let e := reportEntries.getD i (0, 0, 0, true, 0, 0)
    ((s.p R.tending_STAT_GUARD 1).warn R.tending_STAT_GUARD 0x007 (le 1 e.1 ++ le 1 e.2.1)).event 0x007

/-! ## The frame boundary (R433, R436, R440, R445) -/

/-- A trim block is to be reloaded: a bed, the slow block with the modulators, or one of the others (R445).
DEDUCED, log entry 54. -/
def State.reloadBlock (s : State) (force : Bool) (block : Nat) : State :=
  if block < 24 then
    s.bed block fun x => { x with reload := (match x.reload with
      | .none => .waiting force
      | .waiting f => .waiting (f || force)
      | .uncovered n f => .uncovered n (f || force)
      | .covered n f => .covered n (f || force)) }
  else if block = 24 then s.td fun t => { t with mods := if t.mods.isEmpty then List.range 5 else t.mods }
  else if block < 28 then
    s.td fun t => { t with blocks := if t.blocks.contains block then t.blocks else t.blocks ++ [block] }
  else s

/-- An upset changes one copy of a block's latches, to a free value other than the one loaded (R443). DESIGN CHOICE, log entry 9. -/
def State.upset (s : State) (b : Nat) : State :=
  (s.td fun t => { t with latches := modAt t.latches b fun x => { x with a := x.a ^^^ (2 * s.freeNow + 1) } }).drew

/-- A block's latches hold what the tending pair's SRAM holds (R445). -/
def State.trimGood (s : State) (b : Nat) : Bool :=
  let v := (Config.trimBlock s.tend.trimCopy b).toNat
  s.tend.latches.getD b ⟨0, 0, 0⟩ == ⟨v, v, v⟩

/-- A block's latches are rewritten from the SRAM copy (R444, R445). -/
def State.loadTrim (s : State) (b : Nat) : State :=
  let v := (Config.trimBlock s.tend.trimCopy b).toNat
  s.td fun t => { t with latches := modAt t.latches b fun _ => ⟨v, v, v⟩ }

/-- STAT.RELOAD_BUSY and RELOAD_BED as the reloads stand. -/
def State.reloadStat (s : State) : State :=
  let busy := fun r : Reload => match r with
    | .covered _ _ => true
    | .uncovered _ _ => true
    | _ => false
  let un := (List.range 24).find? fun b => match (s.bedOf b).reload with
    | .uncovered _ _ => true
    | _ => false
  let any := ((List.range 24).any fun b => busy (s.bedOf b).reload) || !s.tend.mods.isEmpty || !s.tend.ended.isEmpty
  (s.p R.tending_STAT_RELOAD_BUSY (b2n any)).p R.tending_STAT_RELOAD_BED (un.getD 31)

/-- TRIM_CHECK: upsets strike, and blocks whose latches differ from the SRAM copy are counted, logged and reloaded (R445). -/
def State.trimCheck (s : State) (struck : List Nat) : State :=
  let s := forAll (struck.filter (· < 28)) s State.upset
  if s.tend.trimCopy = 0 then s
  else
    (forAll ((List.range 28).filter fun b => !s.trimGood b) s fun s b =>
      ((s.inc R.tending_TRIM_FIX_COUNT 0 1).log R.tending_TRIM_FIX_COUNT 0x007 (le 1 b)).reloadBlock false b).reloadStat

/-- AVS_GUARD_RAISE: a worst margin 2.0 % below the target raises VCORE until the margin is back (R436).
DEDUCED, log entry 52. -/
def State.avsGuard (s : State) (worst : Nat) : State :=
  let target := s.g R.tending_MARGIN_TARGET
  let on := decide (worst < target) && (s.tend.guarding || decide (worst + 20 < target))
  let s := s.td fun t => { t with guarding := on, guardUp := on && decide (s.g R.tending_AVS_TARGET < 80) }
  if on && s.g R.tending_AVS_TARGET == 80 && !s.on R.tending_AVS_AVS_LIMIT 0 then
    (((s.p R.tending_AVS_AVS_LIMIT 1).p R.tending_STAT_GUARD 1).error R.tending_AVS_AVS_LIMIT 0x007 []).event 0x007
  else s

/-- A sample in which a monitor that has brought nothing new keeps its last value (R433). -/
def keepLast (m last : MonitorIn) : MonitorIn :=
  { m with
    margins := m.margins ++ last.margins.drop m.margins.length
    rings := m.rings ++ last.rings.drop m.rings.length
    temps := m.temps ++ last.temps.drop m.temps.length
    phases := m.phases ++ last.phases.drop m.phases.length
    dead := m.dead ++ last.dead.drop m.dead.length }

/-- A monitor has brought nothing new in the frame: a receiver without a completed eye scan or without a pause, a port without
a pause, or one that the sample leaves out (R433). -/
def State.staleNow (s : State) (m : MonitorIn) : Bool :=
  m.stale || decide (m.margins.length < 96) || decide (m.rings.length < 24) || decide (m.temps.length < 16)
    || receivers.any (fun l => !s.tend.eyes.contains l || !s.tend.pauses.contains l)
    || s.memPorts.any fun p => !s.tend.portPauses.contains p

/-- What the frame has brought is taken; the next one begins. -/
def State.nextFrame (s : State) : State := s.td fun t => { t with eyes := [], pauses := [], portPauses := [] }

/-- What the converter, the rails and the input show on the POWER page (R452, R454, R455, R470). DEDUCED, log entry 50. -/
def State.meters (s : State) (m : MonitorIn) : State :=
  let s := forAll (List.range (min 4 m.phases.length)) s fun s i => s.pi R.power_PHASE_CURRENT i (cap 255 (m.phases.getD i 0))
  let s := forAll (List.range (min 4 m.dead.length)) s fun s i => s.pi R.power_PHASE_DEAD i (m.dead.getD i 0)
  let s := forAll (List.range (min 12 m.rails.length)) s fun s i =>
    let r := m.rails.getD i (0, 0)
    (s.pi R.power_RAIL_MV i (cap 8191 r.1)).pi R.power_RAIL_MA i (cap 65535 r.2)
  match m.watts with
  | some w => s.p R.power_POWER_IN_W (cap 65535 w)
  | none => s

/-- TENDING_SAMPLE: the frame's monitors are taken, the frame's record written, guard and trim checked.
DEDUCED, log entry 50. -/
def State.tendFrame (s : State) (m : MonitorIn) : State :=
  let s := s.meters m
  if !s.tndRuns then s.nextFrame
  else
    let stale := s.staleNow m
    let m := { keepLast m s.monNow with stale := stale }
    let worst := (minAt (m.margins.take 96)).getD (s.g R.tending_MARGIN_WORST, s.g R.tending_MARGIN_SENSOR)
    let hot := (maxAt (degrees m)).getD (sext 16 (s.g R.tending_TEMP_HOTTEST), s.g R.tending_TEMP_SENSOR)
    let s := (s.p R.tending_MARGIN_WORST (cap 255 worst.1)).p R.tending_MARGIN_SENSOR worst.2
    let s := (s.p R.tending_TEMP_HOTTEST (toField 16 hot.1)).p R.tending_TEMP_SENSOR hot.2
    let s := (s.p R.cpu_LOAD_CMD m.cmdLoad).p R.cpu_LOAD_TND m.tndLoad
    let qs := s.quantities m
    let s := s.td fun t => { t with
      mon := some m
      sums := if t.count = 0 then qs else List.zipWith (· + ·) t.sums qs
      count := t.count + 1
      first := if t.count = 0 then receivers.map (fun l => s.gi R.lane_EYE_RESULT_WIDTH l) else t.first
      worst := some (match t.worst with
        | some w => if worst.1 < w.1 then worst else w
        | none => worst)
      hot := some (match t.hot with
        | some h => if h.1 < hot.1 then hot else h
        | none => hot) }
    let s := ((s.avsGuard worst.1).guardBands).trimCheck m.trimBad
    (s.hubRec 3 (s.tendRecord 0 stale worst hot qs)).nextFrame

/-! ## Re-planning (R434, R435, R437, R440) -/

/-- The margin to which tending projects a sensor at a step of VCORE, in 1/256 of 0.1 %: its last reading, its voltage
sensitivity over the steps from the one then applied, and what the ring oscillators' drift and the hottest temperature plus 10 °C
bring (R435). DESIGN CHOICE, log entry 7. -/
def State.projected (s : State) (hot : Int) (sensor step : Nat) : Int :=
  let m := s.monNow
  let drift := (List.range 24).map fun i => ((m.rings.getD i 0 : Nat) : Int) - ((Config.factoryRing i).toNat : Nat)
  256 * ((m.margins.getD sensor 0 : Nat) : Int)
    + ((Config.avsSensitivity sensor).toNat : Nat) * ((step : Int) - (s.g R.tending_AVS_NOW : Nat))
    + (Config.marginShift sensor drift (hot + 100)).toInt

/-- The AVS target: the lowest step at which every sensor is projected to keep the margin target, the highest where none is; the one
in effect while no sensor has been read (R435). DESIGN CHOICE, log entry 7. -/
def State.avsPlan (s : State) (hot : Int) : Nat :=
  let sensors := List.range (min 96 s.monNow.margins.length)
  if sensors.isEmpty then s.g R.tending_AVS_TARGET
  else ((List.range 81).find? fun v =>
    sensors.all fun i => decide (((256 * s.g R.tending_MARGIN_TARGET : Nat) : Int) ≤ s.projected hot i v)).getD 80

/-- The narrowest windows of a port in the snapshots, oldest first. -/
def State.windowHistory (s : State) (m : Nat) : List Nat := s.tend.snaps.reverse.map fun b => leAt b (164 + m) 1

/-- RT_CFG.INTERVAL: the longest interval over which no port's narrowest window is projected to drift by more than 1/8 of its width,
1 to 1,024 frames and never below the least of R240 (R437). DESIGN CHOICE, log entry 7. -/
def State.memInterval (s : State) : Nat :=
  let ok := fun (n : Nat) => s.memPorts.all fun m =>
    s.narrowest m == 0 || decide (8 * n * (Config.windowDrift m (s.windowHistory m)).toNat ≤ 65536 * s.narrowest m)
  max s.retrainMin ((((List.range 1024).reverse.map (· + 1)).find? ok).getD 1)

/-- The plan of one receiver: bounds and retraining interval (R437). Resources 1 MIN, 2 MAX, 3 H1_MAX, 4 HN_MAX,
5 RETRAIN.INTERVAL. -/
def State.planLane (s : State) (l : Nat) : List (Nat × Nat × Nat) :=
  let bounds := match s.tend.eq.find? (fun x => x.1 == l) with
    | some (_, lo, hi, h1, hn) =>
      [(1, l, lo - 4), (2, l, min 36 (hi + 4)), (3, l, min 48 (h1 + 4)), (4, l, min 24 (hn + 4))]
    | none => []
  let now := s.gi R.lane_EYE_RESULT_WIDTH l
  let was := s.tend.first.getD l now
  let worse := s.on R.lane_LANE_STAT_BOUND_HIT l || decide (was < 10 * (was - now))
  let n := s.gi R.lane_RETRAIN_INTERVAL l
  bounds ++ [(5, l, if worse then max 64 (n / 2) else min 4096 (2 * n))]

/-- The re-plan: plan, TYPE 1 record and its place in the ageing log (R434, R440, R468).
DESIGN CHOICE, log entry 7. DESIGN CHOICE, log entry 53. -/
def State.replan (s : State) : State :=
  let worst := s.tend.worst.getD (s.g R.tending_MARGIN_WORST, s.g R.tending_MARGIN_SENSOR)
  let hot := s.tend.hot.getD (sext 16 (s.g R.tending_TEMP_HOTTEST), s.g R.tending_TEMP_SENSOR)
  let avs := s.avsPlan hot.1
  let plan := [(0, 0, avs)] ++ receivers.flatMap s.planLane ++ [(6, 0, s.memInterval)]
  let s := s.p R.tending_AVS_AVS_LIMIT (if avs < 80 then 0 else s.g R.tending_AVS_AVS_LIMIT)
  let qs := if s.tend.count = 0 then s.quantities s.monNow else s.tend.sums.map fun v => freeQuot v s.tend.count
  let snap := s.tendRecord 1 s.monNow.stale worst hot qs
  let hours := s.freeNow
  let s := forAll receivers s.drew fun s l => s.pi R.lane_LANE_STAT_BOUND_HIT l 0
  let s := s.incW R.tending_REPLAN_COUNT 0 1
  let s := s.td fun t => { t with
    snaps := (snap :: t.snaps).take 16
    sums := [], count := 0, first := [], worst := none, hot := none, eq := []
    plan := plan
    planNs := some (s.nowNs + 50000000)
    lastOrbit := some s.trellis.orbit }
  let s := s.retPut 68 (le 4 hours ++ le 2 (s.g R.tending_REPLAN_COUNT) ++ le 2 s.vcore ++ le 2 worst.1
    ++ le 2 (toField 16 hot.1))
  (s.ageSnapshot snap).hubRec 3 snap

/-- The frame number of the boundary (R41) is a whole multiple of 65,536 (R434). DEDUCED, log entry 65. -/
def State.replanFrame (s : State) : Bool :=
  s.trellis.mNow != 0 && s.trellis.mNow == s.g R.trellis_MFRAME_MF_ORBITS && s.trellis.orbit % s.trellis.mNow == 0
    && s.trellis.orbit / s.trellis.mNow % 65536 == 0

/-- TENDING_REPLAN: at such a frame boundary, once. -/
def State.tendingReplan (s : State) : State :=
  if s.tndRuns && s.trellis.everLocked && s.replanFrame && s.tend.lastOrbit != some s.trellis.orbit then s.replan else s

/-- Frames to the next re-plan (NEXT.FRAMES). -/
def State.framesToReplan (s : State) : Nat :=
  if s.trellis.mNow = 0 then 0 else 65536 - s.trellis.orbit / s.trellis.mNow % 65536

/-! ## The quiet window (R435, R436, R438, R439) -/

/-- The value pinned for a resource. -/
def State.pinned (s : State) (res : Nat) : Option Nat := (s.tend.pins.find? (fun x => x.1 == res)).map (·.2)

/-- Bounds of a receiver set: an adapted setting outside moves to the bound (R138, R438). -/
def State.setBounds (s : State) (l lo hi h1 hn : Nat) : State :=
  let s := ((s.pi R.lane_CTLE_BOUND_MIN l lo).pi R.lane_CTLE_BOUND_MAX l hi).pi R.lane_DFE_BOUND_H1_MAX l h1
  let s := (s.pi R.lane_DFE_BOUND_HN_MAX l hn).lane l fun x => { x with taps := x.taps.map (clampTo (-(hn : Int)) hn) }
  let c := s.gi R.lane_EQ_NOW_CTLE l
  let s := if c < lo then s.pi R.lane_EQ_NOW_CTLE l lo else if hi < c then s.pi R.lane_EQ_NOW_CTLE l hi else s
  let t := sext 7 (s.gi R.lane_EQ_NOW_H1 l)
  if (h1 : Int) < t then s.pi R.lane_EQ_NOW_H1 l h1 else if t < -(h1 : Int) then s.pi R.lane_EQ_NOW_H1 l (toField 7 (-h1)) else s

/-- A new retraining interval of a receiver counts from the orbit in which it takes effect; one that is due stays so (R438). -/
def State.setLaneRetrain (s : State) (l v : Nat) : State :=
  let old := s.gi R.lane_RETRAIN_INTERVAL l
  (s.pi R.lane_RETRAIN_INTERVAL l v).lane l fun x => { x with due := if old ≤ x.due then v else 0 }

/-- A planned value takes effect, unless its resource is pinned (R439). -/
def State.applyPlan (s : State) (x : Nat × Nat × Nat) : State :=
  let l := x.2.1
  let v := x.2.2
  match x.1 with
  | 0 => s.p R.tending_AVS_TARGET v
  | 1 => if s.tend.wide.contains l then s
         else s.setBounds l v (s.gi R.lane_CTLE_BOUND_MAX l) (s.gi R.lane_DFE_BOUND_H1_MAX l) (s.gi R.lane_DFE_BOUND_HN_MAX l)
  | 2 => if s.tend.wide.contains l then s
         else s.setBounds l (s.gi R.lane_CTLE_BOUND_MIN l) v (s.gi R.lane_DFE_BOUND_H1_MAX l) (s.gi R.lane_DFE_BOUND_HN_MAX l)
  | 3 => if s.tend.wide.contains l then s
         else s.setBounds l (s.gi R.lane_CTLE_BOUND_MIN l) (s.gi R.lane_CTLE_BOUND_MAX l) v (s.gi R.lane_DFE_BOUND_HN_MAX l)
  | 4 => if s.tend.wide.contains l then s
         else s.setBounds l (s.gi R.lane_CTLE_BOUND_MIN l) (s.gi R.lane_CTLE_BOUND_MAX l) (s.gi R.lane_DFE_BOUND_H1_MAX l) v
  | 5 => if (s.pinned 2).isSome then s else s.setLaneRetrain l v
  | _ => if (s.pinned 3).isSome then s else s.setRetrain v

/-- A resource is pinned at a value, or released (PINNED.RES). -/
def State.pin (s : State) (res : Nat) (v : Option Nat) : State :=
  let rest := s.tend.pins.filter (fun x => x.1 != res)
  let s := s.td fun t => { t with pins := match v with
    | some v => rest ++ [(res, v)]
    | none => rest }
  s.pbit R.tending_PINNED_RES 0 res v.isSome

/-- MARGIN_APPLY takes effect (R439). -/
def State.marginEffect (s : State) (resource v : Nat) : State :=
  match resource with
  | 0 => (s.pin 0 (if v = 0 then none else some v)).p R.tending_MARGIN_TARGET (if v = 0 then 60 else v)
  | 1 =>
    let l := bitsAt v 0 6
    let on := bitAt v 8
    let rest := s.tend.wide.filter (· != l)
    let s := s.td fun t => { t with wide := if on then rest ++ [l] else rest }
    let s := s.pbit R.tending_PINNED_RES 0 1 (!s.tend.wide.isEmpty)
    if on then s.setBounds l 0 36 48 24 else s
  | 2 =>
    let s := s.pin 2 (if v = 0 then none else some v)
    if v = 0 then s
    else forAll receivers s fun s l => s.setLaneRetrain l v
  | 3 =>
    let s := s.pin 3 (if v = 0 then none else some v)
    if v = 0 then s else s.setRetrain v
  | 4 =>
    let b := bitsAt v 0 8
    forAll (if b = 0xFF then List.range 28 else [b]) s fun s b => s.reloadBlock (bitAt v 8) b
  | _ => s.replan

/-- MARGIN_APPLY takes this RESOURCE and VALUE (R240, R439); reserved bits of VALUE are ignored (R9). -/
def State.marginOk (s : State) (resource v : Nat) : Bool :=
  match resource with
  | 0 => v == 0 || (decide (60 ≤ v) && decide (v ≤ 150))
  | 1 => decide (bitsAt v 0 6 < 34)
  | 2 => v == 0 || (decide (64 ≤ v) && decide (v ≤ 4096))
  | 3 => v == 0 || (decide (max 1 s.retrainMin ≤ v) && decide (v ≤ 1024))
  | 4 => decide (v % 256 < 24) || v % 256 == 0xFF
  | 5 => v == 0
  | _ => false

/-- TENDING_APPLY and VCORE_STEP: a plan that is due, the guard's steps, then VCORE by up to 8 steps (R435, R436). -/
def State.tendApply (s : State) : State :=
  let due := match s.tend.planNs with
    | some t => decide (t ≤ s.nowNs)
    | none => false
  let s := if due then (s.tend.plan.foldl State.applyPlan s).td fun t => { t with plan := [], planNs := none } else s
  let s := if s.tend.guardUp then
      (s.p R.tending_AVS_TARGET (min 80 (s.g R.tending_AVS_TARGET + 4))).td fun t => { t with guardUp := false }
    else s
  let now := s.g R.tending_AVS_NOW
  let want := s.g R.tending_AVS_TARGET
  s.p R.tending_AVS_NOW (if now < want then min want (now + 8) else max want (now - 8))

/-! ## Trim reloads (R445 to R447) -/

/-- A bed is covered: rotation enabled and running, with a spare (R446). -/
def State.covered (s : State) (b : Nat) : Bool :=
  s.on R.bed_ROT_CTRL_ENABLE (b * 64) && (s.spareOf b).isSome && (s.bedOf b).phase != .stopped && (s.bedOf b).phase != .out

/-- A waiting reload of a covered bed starts, one under way counts the window's handover, one whose rotation has ended for
good goes on uncovered (R446). DEDUCED, log entry 54. -/
def State.reloadCovered (s : State) (handed : List Nat) (b : Nat) : State :=
  let one := if handed.contains b then 1 else 0
  match (s.bedOf b).reload with
  | .waiting f => if s.bedOn b && s.covered b then s.bed b fun x => { x with reload := .covered one f } else s
  | .covered n f =>
    if n < 33 ∧ (s.bedOf b).phase = .out then s.bed b fun x => { x with reload := .waiting f }
    else s.bed b fun x => { x with reload := .covered (n + one) f }
  | _ => s

/-- Slots that 40 µs last (R447). -/
def State.reloadSlots (s : State) : Nat := ceilDiv (s.fBC * 40) 1000000

/-- The uncovered reload whose part this window holds: the one under way, else the lowest bed waiting.
DEDUCED, log entry 54. -/
def State.uncoveredBed (s : State) : Option (Nat × Nat × Bool) :=
  let beds := (List.range 24).filter s.bedOn
  match beds.findSome? (fun b => match (s.bedOf b).reload with
      | .uncovered n f => if n = 0 then none else some (b, n, f)
      | _ => none) with
  | some x => some x
  | none => beds.findSome? fun b => match (s.bedOf b).reload with
      | .waiting f => some (b, s.reloadSlots, f)
      | _ => none

/-- TRIM_RELOAD_UNCOVERED_PART: one part of an uncovered bed's reload, in samples from slot q on; the trellis stands at
slot q, and FORCE counts where the window is too short (R447). DEDUCED, log entry 54. -/
def State.reloadPart (s : State) : State :=
  match s.uncoveredBed with
  | none => s.p R.tending_STAT_RELOAD_WAIT 0
  | some (b, n, force) =>
    let q := s.trellis.tick
    let lMax := s.g R.rec_LAT_L_MAX
    let len := s.trellis.qwLen
    let room := len - (lMax + 42)
    if room < 16 ∧ ¬ force then
      if s.on R.tending_STAT_RELOAD_WAIT 0 then s
      else ((s.p R.tending_STAT_RELOAD_WAIT 1).warn R.tending_STAT_RELOAD_WAIT 0x007 []).event 0x007
    else
      let s := s.p R.tending_STAT_RELOAD_WAIT 0
      let short := decide (room < 16)
      let first := if short then q + 1 else q + lMax + 2
      let k := min n (if short then len - 1 else room)
      s.bed b fun x => { x with
        reload := .uncovered (n - k) force
        disturbed := if k = 0 then x.disturbed else some (first, first + k - 1) }

/-- The blocks that are rewritten in one window, with nothing interrupted (R445). DEDUCED, log entry 54. -/
def State.reloadBlocks (s : State) : State := s.td fun t => { t with blocks := [], ended := t.ended ++ t.blocks }

/-- A released modulator has its own trim rewritten (R445). -/
def State.reloadMod (s : State) (m : Nat) : State :=
  if s.tend.mods.contains m then
    s.td fun t => let l := t.mods.filter (· != m)
                  { t with mods := l, ended := if l.isEmpty then t.ended ++ [24] else t.ended }
  else s

/-- Tending's part of a quiet window, after steps 1 to 4 of R25; `handed` are the beds whose spare took over in it. -/
def State.tendWindow (s : State) (handed : List Nat) : State :=
  if !s.tndRuns then s
  else (((forAll (List.range 24) s.tendApply fun s b => s.reloadCovered handed b).reloadPart).reloadBlocks).reloadStat

/-- TRIM_RELOAD_DONE: a reload that has rewritten all its slices, or its block, completes and is counted. -/
def State.reloadDone (s : State) (block : Nat) : State :=
  let fin := fun (s : State) => ((s.inc R.tending_TRIM_FIX_RELOADS 0 1).loadTrim block).reloadStat
  if block < 24 then
    match (s.bedOf block).reload with
    | .covered n _ => if 33 ≤ n then fin (s.bed block fun x => { x with reload := .none }) else s
    | .uncovered 0 _ => fin (s.bed block fun x => { x with reload := .none })
    | _ => s
  else if s.tend.ended.contains block then fin (s.td fun t => { t with ended := t.ended.erase block })
  else s

/-! ## The report (R441, R442) -/

/-- Values of an entry in the snapshots, oldest first. -/
def State.history (s : State) (e : Nat × Nat × Nat × Bool × Nat × Nat) : List Int :=
  s.tend.snaps.reverse.map fun b =>
    let v := leAt b e.2.2.2.2.1 e.2.2.2.2.2
    if e.1 = 2 then sext 16 v else (v : Int)

/-- The numerator of the least-squares slope of values at equal intervals; the denominator is n (n² - 1). -/
def slopeNum (l : List Int) : Int :=
  6 * sumInt ((l.zipIdx).map fun x => (2 * (x.2 : Int) - ((l.length : Int) - 1)) * x.1)

/-- SLOPE (R442). DESIGN CHOICE, log entry 12. -/
def State.slope (s : State) (e : Nat × Nat × Nat × Bool × Nat × Nat) : Nat :=
  let l := s.history e
  let n := l.length
  if n < 2 then (Config.tendingSlope e.1 e.2.1).toNat else toField 16 (freeQuot (slopeNum l) (n * (n * n - 1)))

/-- The minutes from the last snapshot to the time at which the fitted line reaches a limit, rounded down (R442): the line's value
there is mean + slope (n - 1) / 2, and an interval lasts 65,536 frames. DESIGN CHOICE, log entry 12. -/
def State.lineReaches (s : State) (l : List Int) (limit : Nat) : Nat :=
  let n := l.length
  let d : Int := (n * (n * n - 1) : Nat)
  let slope := slopeNum l
  let num := 2 * n * d * limit - 2 * d * sumInt l - n * slope * ((n : Int) - 1)
  let den := 2 * n * slope * 60
  if s.fBC = 0 then (Config.tendingTtl l limit).toNat
  else (Int.fdiv (num * (65536 * s.trellis.mNow * s.nSlot : Nat)) (den * s.fBC)).toNat

/-- TTL in minutes (R442). DESIGN CHOICE, log entry 12. -/
def State.ttl (s : State) (e : Nat × Nat × Nat × Bool × Nat × Nat) : Nat :=
  let l := s.history e
  if s.atLimit e then 0
  else if l.length < 4 ∨ (if e.2.2.2.1 then slopeNum l ≤ 0 else 0 ≤ slopeNum l) then 0xFFFFFFFF
  else cap 0xFFFFFFFE (s.lineReaches l e.2.2.1)

/-- One 12-byte entry. -/
def State.entryBytes (s : State) (e : Nat × Nat × Nat × Bool × Nat × Nat) : List Byte :=
  le 1 e.1 ++ le 1 e.2.1 ++ le 2 (toField 16 ((s.entryNow e.1 e.2.1).getD 0)) ++ le 2 e.2.2.1 ++ le 2 (s.slope e)
    ++ le 4 (s.ttl e)

/-- STAT [15:0] of the page. -/
def State.tendStat (s : State) : Nat :=
  s.g R.tending_STAT_GUARD + 2 * s.g R.tending_STAT_TRIM_INVALID + 4 * s.g R.tending_STAT_TRIM_COPY2
    + 8 * s.g R.tending_STAT_TRIM_DIFFER + 16 * s.g R.tending_STAT_RELOAD_BUSY + 32 * s.g R.tending_STAT_RELOAD_WAIT
    + 256 * s.g R.tending_STAT_RELOAD_BED

/-- TENDING_REPORT: 32 bytes and 70 entries (R441). -/
def State.tendingReport (s : State) : State × Reply :=
  let head := le 6 (s.tend.lastOrbit.getD 0) ++ le 2 (s.g R.tending_REPLAN_COUNT) ++ le 2 s.vcore
    ++ le 2 (s.g R.tending_MARGIN_TARGET) ++ le 2 (s.g R.tending_MARGIN_WORST) ++ le 2 s.tendStat ++ le 2 70
  (s, .done stOk (padTo 32 head ++ reportEntries.flatMap s.entryBytes))

/-! ## Meanings -/

/-- TENDING_REPLAN. -/
def execTendingReplan (s : State) : Host.Outcome State Fault Refusal := .next s.tendingReplan

/-- TRIM_RELOAD_DONE. -/
def execTrimReloadDone (block : Nat) (s : State) : Host.Outcome State Fault Refusal := .next (s.reloadDone block)

/-- TENDING_REPORT. -/
def execTendingReport (h : Hdr) (s : State) : Host.Outcome State Fault Refusal :=
  .next (s.zcsRun (.tendingReport h) h 0x0080 true State.tendingReport)

/-- SLOW_MOD_CAL_DONE: calibration done, and the modulator's own trim rewritten if a reload of the slow block waits. -/
def execSlowModCalDone (mod : Nat) (s : State) : Host.Outcome State Fault Refusal :=
  .next ((if s.slow.rot = .calibrating mod ∧ s.pd 23 then s.reloadMod mod else s).modCalDone mod)

end Sys2Proof.Machine
end

