-- ==== Sys2Proof/Machine/Wall.lean ====
section
/-! DEFINITION. Management Ethernet, PTP and the wall clock, and the Hedgerow bus (R332 to R351). -/
namespace Sys2Proof.Machine

/-! ## Ethernet (R332, R333) -/

/-- An IPv4 address of the hub on a port that answers: the port is enabled and its address is not 0 (R349). -/
def State.ownsIp (s : State) (port ip : Nat) : Bool := ip != 0 && s.gi R.eth_IP_ADDR_ADDR port == ip

/-- The payload of a reassembled datagram, once its parts cover it in order. -/
def Reasm.payload (r : Reasm) : Option (List Byte) :=
  match r.total with
  | none => none
  | some n =>
    let l := (sortBy (fun a b => decide (a.1 < b.1)) r.parts).foldl
      (fun (acc : List Byte) p => if p.1 ≤ acc.length then acc.take p.1 ++ p.2 else acc) []
    if l.length = n then some l else none

/-- A datagram being reassembled is dropped from the list. -/
def State.dropReasm (s : State) (p : Reasm → Bool) : State :=
  { s with wall := { s.wall with reasm := s.wall.reasm.filter (fun r => !p r) } }

/-- A ZCS datagram, whole or in fragments; `offset` and `more` place this part of its UDP payload (R333). -/
def State.zcsDatagram (s : State) (port src udp id offset : Nat) (more : Bool) (data : List Byte) : State :=
  if offset = 0 ∧ ¬ more then s.arrive (.udp port src udp) data
  else
    let mine := fun (r : Reasm) => r.port == port && r.src == src && r.id == id
    let s := if s.wall.reasm.any mine then s
      else if 4 ≤ s.wall.reasm.length then s
      else { s with wall := { s.wall with reasm := s.wall.reasm ++ [⟨port, src, udp, id, [], none, s.nowNs⟩] } }
    match s.wall.reasm.find? mine with
    | none => s
    | some r =>
      if 4096 < offset + data.length then (s.dropReasm mine).inc R.eth_RX_DROP_REASM port 1
      else
        let r := { r with
          parts := r.parts ++ [(offset, data)]
          total := if more then r.total else some (offset + data.length) }
        match r.payload with
        | some l => (s.dropReasm mine).arrive (.udp port src r.udp) l
        | none => { s with wall := { s.wall with reasm := s.wall.reasm.map (fun x => if mine x then r else x) } }

/-- ETH_FRAME: ARP and ICMP echo requests are answered, ZCS is reassembled, everything else is discarded, once Ethernet is up
(R332, R490).
DESIGN CHOICE, log entry 20. -/
def State.ethFrame (s : State) (f : EthIn) : State :=
  if f.port ≥ 2 ∨ !s.on R.eth_PORT_CFG_EN f.port ∨ s.boot.step < 6 then s
  else match f.body with
    | .bad => s.inc R.eth_RX_DROP_BAD f.port 1
    | .arp target sender => if s.ownsIp f.port target then s.emit (.arp f.port sender) else s
    | .icmpEcho dst src data => if s.ownsIp f.port dst then s.emit (.echo f.port src data) else s
    | .zcs dst src udp id offset more data =>
      if s.ownsIp f.port dst then s.zcsDatagram f.port src udp id offset more data else s
    | .other => s

/-- REASM_TIMEOUT: a datagram still incomplete after 100 ms is abandoned and counted (R333). -/
def State.reasmTimeout (s : State) (src id : Nat) : State :=
  let mine := fun (r : Reasm) => r.src == src && r.id == id && decide (r.ns + 100000000 ≤ s.nowNs)
  match s.wall.reasm.find? mine with
  | some r => (s.dropReasm (fun x => x.port == r.port && mine x)).inc R.eth_RX_DROP_REASM r.port 1
  | none => s

/-! ## PTP (R334 to R337) -/

/-- No master is followed, and the hub is master where `m` says so, its first Announce and Sync due at once. -/
def State.noMaster (s : State) (m : Bool) : State :=
  let on := m && s.wall.isMaster
  { s with wall := { s.wall with
      best := none, isMaster := m
      annNs := if on then s.wall.annNs else none, syncNs := if on then s.wall.syncNs else none } }

/-- PTP moves to the other port. DEDUCED, log entry 21. -/
def State.ptpFailover (s : State) : State :=
  if s.on R.ptp_CFG_FAILOVER 0 then (s.p R.ptp_STAT_PORT_NOW (1 - s.g R.ptp_STAT_PORT_NOW)).noMaster false else s

/-- A write of PTP.CFG selects the port in use (R350); a clock that changes its port, or is off, has no master, and one that is slave only
is none. DEDUCED, log entry 21. -/
def State.ptpPortWritten (s : State) : State :=
  let t := s.p R.ptp_STAT_PORT_NOW (s.g R.ptp_CFG_PORT)
  if s.g R.ptp_STAT_PORT_NOW ≠ s.g R.ptp_CFG_PORT ∨ !s.on R.ptp_CFG_EN 0 then t.noMaster false
  else if s.on R.ptp_CFG_SLAVE_ONLY 0 then { t with wall := { t.wall with isMaster := false } }
  else t

/-- ETH_LINK_CHANGE: link and module state; loss of the link in use moves PTP (R334). -/
def State.ethLinkChange (s : State) (port : Nat) (up module : Bool) : State :=
  if port ≥ 2 then s
  else
    let lostLink := s.on R.eth_PORT_STAT_LINK port && !up
    let s := (s.pi R.eth_PORT_STAT_LINK port (b2n up)).pi R.eth_PORT_STAT_MODULE port (b2n module)
    if lostLink && s.on R.ptp_CFG_EN 0 && s.g R.ptp_STAT_PORT_NOW == port then s.ptpFailover else s

/-- The wall clock steps: TIME_VALID, a log entry, STEP in the next orbit-time record, the cold-frame counter due
(R337, R467). -/
def State.wallStepped (s : State) : State :=
  let s := (s.p R.ptp_STAT_TIME_VALID 1).log R.ptp_STAT_TIME_VALID 0x00C []
  { s with wall := { s.wall with stepped := true, setCold := true } }.anchor

/-- RATE takes a value; |RATE| stays at or below 500 ppm (R337). -/
def State.setRate (s : State) (r : Int) : State :=
  { s.p R.ptp_RATE_RATE (toField 32 r) with wall := { s.wall with rate := r } }.anchor

/-- The largest |RATE| of the servo: 500 ppm in units of 2^-40 (R337). -/
def rateMax : Nat := 549755813

/-- INGRESS or EGRESS of a port, with its fixed latency, which the hub takes off first: what an arrival is later, or a departure
earlier, at the PCS boundary than at the pins (R335), in 1/65,536 ns. -/
def State.ingress (s : State) (port : Nat) : Int :=
  sext 32 (if port = 0 then s.g R.ptp_INGRESS_E0_ASYM else s.g R.ptp_INGRESS_E1_ASYM) + (Config.ptpLatency port false).toNat

@[inherit_doc State.ingress]
def State.egress (s : State) (port : Nat) : Int :=
  sext 32 (if port = 0 then s.g R.ptp_EGRESS_E0_ASYM else s.g R.ptp_EGRESS_E1_ASYM) + (Config.ptpLatency port true).toNat

/-- The offset from the master after latencies and compensation (R335), in 1/256 ns: they are taken from the arrival of the Sync and
added to the departure of the delay request. DEDUCED, log entry 21. -/
def State.compensated (s : State) (port : Nat) (offset : Int) : Int := offset + freeQuot (s.egress port - s.ingress port) 512

/-- The servo takes an offset in 1/256 ns (R337). The RATE it slews with is a free value within ±500 ppm, and so is an
OFFSET register that cannot hold the offset (DESIGN CHOICE, log entry 2). DEDUCED, log entry 21. -/
def State.servo (s : State) (offset : Int) : State :=
  let a := offset.natAbs
  let lock := s.g R.ptp_SERVO_LOCK_NS * 256
  let s := if a < 2 ^ 31 then s.p R.ptp_OFFSET_OFFSET (toField 32 offset) else (s.p R.ptp_OFFSET_OFFSET s.freeNow).drew
  let s := s.p R.ptp_STAT_HOLDOVER 0
  let s := if s.g R.ptp_SERVO_STEP_LIM * 256000 < a then
      ({ s with wall := s.wall.forward (-(offset * (2 ^ 40 : Nat))) }).wallStepped
    else (s.setRate ((s.freeNow % (2 * rateMax + 1) : Nat) - (rateMax : Nat))).drew
  let inLock := if a ≤ lock then cap 16 (s.wall.inLock + 1) else 0
  let s := { s with wall := { s.wall with inLock := inLock, rates := (s.wall.rate :: s.wall.rates).take 64 } }
  if 4 * lock < a then s.p R.ptp_STAT_SYNC 0
  else if inLock = 16 ∧ !s.on R.ptp_STAT_SYNC 0 then
    { s.p R.ptp_STAT_SYNC 1 with wall := { s.wall with setCold := true } }
  else s

/-- The data set of the hub's own clock: the default profile's, with the EUI-64 of its first MAC address as its identity (R334).
PRESUMED, log entry 140. -/
def ownDataset : List Nat :=
  let mac := (Config.macAddr 0).toNat
  let id := mac / 2 ^ 24 * 2 ^ 40 + 0xFFFE * 2 ^ 24 + mac % 2 ^ 24
  [128, 248, 0xFE, 0xFFFF, 128, id, 0, id]

/-- Rank of data sets by the default best master clock algorithm: the first difference decides, the lower value wins (R334). -/
def better : List Nat → List Nat → Bool
  | a :: l, b :: m => decide (a < b) || (a == b && better l m)
  | _, _ => false

/-- An Announce of a master with its data set (R334): it is followed where it is better than the one followed and than the hub's own clock,
or where it is the one followed; a clock that is not slave only and better than all it hears is itself the master.
PRESUMED, log entry 140. -/
def State.ptpAnnounce (s : State) (utc : Nat) (rank : List Nat) : State :=
  let same := match s.wall.best with
    | some b => b.getLast? == rank.getLast?
    | none => false
  let loses := match s.wall.best with
    | some b => !same && !better rank b
    | none => false
  if !s.on R.ptp_CFG_SLAVE_ONLY 0 && better ownDataset rank then
    (if same || s.wall.best.isNone then s.noMaster true else s)
  else if loses then s
  else { s.p R.ptp_STAT_UTC_OFFSET utc with wall := { s.wall with best := some rank, isMaster := false } }

/-- The wall clock in 1/65,536 ns: a timestamp taken now at the PCS boundary. -/
def State.stampNow (s : State) : Int := (s.wallUnits / 2 ^ 32 : Nat)

/-- PTP_MESSAGE: a message of the port in use, in the transport and domain of CFG (R334), for the firmware of the tending pair
(R337, R393). DEDUCED, log entry 21. -/
def State.ptpMessage (s : State) (m : PtpIn) : State :=
  if !s.on R.cpu_PAIR_STAT_TND_RUN 0 ∨ !s.on R.ptp_CFG_EN 0 ∨ m.port ≠ s.g R.ptp_STAT_PORT_NOW ∨ !s.on R.eth_PORT_CFG_EN m.port
      ∨ b2n m.ieee8023 ≠ s.g R.ptp_CFG_TRANSPORT ∨ m.domain ≠ s.g R.ptp_CFG_DOMAIN then s
  else match m.body with
    | .announce utc dataset => s.ptpAnnounce utc (dataset ++ [m.sender])
    | .syncDone offset =>
      let followed := match s.wall.best with
        | some b => b.getLast? == some m.sender
        | none => false
      if -7 ≤ m.logSync ∧ m.logSync ≤ 1 ∧ followed = true then s.servo (s.compensated m.port offset) else s
    | .delayReq seq =>
      if s.wall.isMaster then s.emit (.ptp m.port (.delayResp seq m.sender (s.stampNow - s.ingress m.port))) else s

/-- What the hub sends as master, taken up at frame boundaries and timer cycles: an Announce every 2 s, a Sync every second with, where
the clock is two-step, its Follow_Up (R334, R335). PRESUMED, log entry 140. -/
def State.ptpMaster (s : State) : State :=
  if !s.on R.cpu_PAIR_STAT_TND_RUN 0 || !s.wall.isMaster || !s.on R.ptp_CFG_EN 0 || !s.on R.eth_PORT_CFG_EN (s.g R.ptp_STAT_PORT_NOW) then s
  else
    let port := s.g R.ptp_STAT_PORT_NOW
    let due := fun (last : Option Nat) (every : Nat) => match last with
      | some t => decide (t + every ≤ s.nowNs)
      | none => true
    let n := s.wall.ptpSeq
    let s := if due s.wall.annNs 2000000000 then
        { s.emit (.ptp port (.announce n (s.g R.ptp_STAT_UTC_OFFSET) ownDataset)) with wall := { s.wall with annNs := some s.nowNs } }
      else s
    if due s.wall.syncNs 1000000000 then
      let out := s.stampNow + s.egress port
      let t := if s.on R.ptp_CFG_TWO_STEP 0 then (s.emit (.ptp port (.sync n none))).emit (.ptp port (.followUp n out))
        else s.emit (.ptp port (.sync n (some out)))
      { t with wall := { t.wall with syncNs := some t.nowNs, ptpSeq := (n + 1) % 65536 } }
    else s

/-- PTP_ANNOUNCE_TIMEOUT: the hub moves to the other port where it may, and with no master to follow the clock enters
holdover at its mean RATE over the last 64 Sync messages (R334, R337). It does so too where the master was lost with its
link and none has been found on the other port. A clock that is not slave only and has no port to move to, or has found no master
on either, becomes the master. DEDUCED, log entry 21. -/
def State.ptpAnnounceTimeout (s : State) : State :=
  if !s.on R.cpu_PAIR_STAT_TND_RUN 0 || !s.on R.ptp_CFG_EN 0 then s
  else
    let followed := s.wall.best.isSome
    let master := !s.on R.ptp_CFG_SLAVE_ONLY 0 && (!s.on R.ptp_CFG_FAILOVER 0 || !followed)
    let t := if s.wall.isMaster then s else s.ptpFailover.noMaster master
    if !followed && (s.wall.rates.isEmpty || s.on R.ptp_STAT_HOLDOVER 0) then t
    else
      let t := { t with wall := { t.wall with inLock := 0 } }
      let n := t.wall.rates.length
      let t := if n = 0 then t else t.setRate (freeQuot (sumInt t.wall.rates) n)
      (t.p R.ptp_STAT_HOLDOVER 1).p R.ptp_STAT_SYNC 0

/-- TIME_SET: the clock steps to the time given (R337). DEDUCED, log entry 22. -/
def State.timeSetBody (s : State) (sec ns frac : Nat) : State × Reply :=
  if s.on R.ptp_STAT_SYNC 0 then (s, .done stDenied [])
  else if 1000000000 ≤ ns then (s, .done stBadParam [])
  else
    (({ s with wall := { s.wall with sec := sec % 2 ^ 48, ns := ns, frac := frac % 65536 * 2 ^ 32 } }).wallStepped,
      .done stOk [])

/-! ## The Hedgerow bus (R340 to R348) -/

/-- Node `n` of the bus. -/
def State.hnode (s : State) (n : Nat) : HNode := s.hdg.nodes.getD n HNode.empty

/-- Node `n` updated. -/
def State.hset (s : State) (n : Nat) (f : HNode → HNode) : State :=
  { s with hdg := { s.hdg with nodes := modAt s.hdg.nodes n f } }

/-- The UID a node holds. -/
def State.nodeUid (s : State) (n : Nat) : Nat := s.gi R.hdg_UID_LO_UID n + 2 ^ 32 * s.gi R.hdg_UID_HI_UID n

/-- The UID of a node set. -/
def State.setUid (s : State) (n uid : Nat) : State :=
  (s.pi R.hdg_UID_LO_UID n (uid % 2 ^ 32)).pi R.hdg_UID_HI_UID n (uid / 2 ^ 32)

/-- A mask of nodes by a one-bit field. -/
def State.nodeMask (s : State) (f : Fld) : Nat :=
  (List.range 32).foldl (fun m n => if s.on f n then setBit m n else m) 0

/-- The layout a commit would leave fits the management frame (R341). -/
def hdgOk (m : NMap) : Bool :=
  let ns := mapGet m R.hdg_LAYOUT_NS 0
  let bl := mapGet m R.hdg_LAYOUT_BEACON_LEN 0
  let f := mapGet m R.trellis_BC_NOMINAL_FREQ 0
  let frame := mapGet m R.trellis_MFRAME_MF_ORBITS 0 * mapGet m R.trellis_TIMING_NSLOT 0 * 1000000
  decide (20 ≤ ns) && decide (ns ≤ 500) && decide (200 ≤ bl) && decide (bl ≤ 1000)
    && (f == 0 || decide ((bl + 33 * ns + 100) * f ≤ frame))

/-- MSG_LEN at most (R342). DESIGN CHOICE, log entry 25. -/
def msgRoom (beaconLen : Nat) : Nat := min 255 ((beaconLen - 8) * 5 / 4 - 81)

/-- The next queue from `i` on, round-robin, that holds bytes. DESIGN CHOICE, log entry 25. -/
def nextQueue (qs : List (List Nat)) (i : Nat) : Option Nat :=
  ((List.range 33).map (fun k => (i + k) % 33)).find? (fun q => !(qs.getD q []).isEmpty)

/-- The message area: items taken from the queues one at a time, round-robin (R342). DESIGN CHOICE, log entry 25. -/
def fillMessages : (fuel : Nat) → List (List Nat) → (i room : Nat) → List Byte × List (List Nat)
  | 0, qs, _, _ => ([], qs)
  | fuel + 1, qs, i, room =>
    if room < 3 then ([], qs)
    else match nextQueue qs i with
      | none => ([], qs)
      | some q =>
        let l := qs.getD q []
        let n := min 64 (min l.length (room - 2))
        let item := le 1 (if q = 32 then 0xFF else q) ++ le 1 n ++ (l.take n).map (BitVec.ofNat 8)
        let (rest, qs) := fillMessages fuel (setAt qs q (l.drop n)) ((q + 1) % 33) (room - 2 - n)
        (item ++ rest, qs)

/-- The beacon of a cycle (R342). A node from which no frame has been accepted has a free value as its ACK. -/
def State.beacon (s : State) (msgs : List Byte) : List Byte :=
  let ack := (List.range 32).map fun n =>
    BitVec.ofNat 8 ((s.hnode n).seq.getD (Config.freeValue (s.freeCtr + n)).toNat)
  le 1 0x80 ++ le 1 1 ++ le 2 (s.g R.global_HUB_ID_ID) ++ le 6 s.trellis.orbit ++ le 6 s.wall.sec ++ le 4 s.wall.ns
    ++ le 2 (s.g R.hdg_LAYOUT_NS) ++ le 2 (s.g R.hdg_LAYOUT_BEACON_LEN) ++ le 4 (s.nodeMask R.hdg_NODE_STAT_ACTIVE)
    ++ le 4 (s.nodeMask R.hdg_NODE_STAT_QUAR)
    ++ le 1 (match s.hdg.grant with | some g => g.1 | none => 0xFF) ++ le 1 msgs.length
    ++ le 8 (match s.hdg.grant with | some g => g.2 | none => 0) ++ ack ++ msgs

/-- What the last cycle decided takes effect with a beacon: quarantine, silence counted, the grant (R346, R347).
DEDUCED, log entry 23. -/
def State.cycleNode (s : State) (n : Nat) : State :=
  let x := s.hnode n
  let s := if x.quarDue then (s.pi R.hdg_NODE_STAT_QUAR n 1).pi R.hdg_NODE_STAT_ACTIVE n 0 else s
  s.hset n fun x => { x with
    quarDue := false
    heard := false
    silent := if x.heard || !s.on R.hdg_NODE_STAT_ACTIVE n then 0 else x.silent + 1 }

/-- A bus cycle starts (R341, R342); a hub with no identity sends no beacon (R391). -/
def State.hdgCycle (s : State) : State :=
  if !s.on R.hdg_CTRL_EN 0 || s.standby || !s.pd 1 || s.g R.global_HUB_ID_ID == 0 then s
  else
    let s := forAll (List.range 32) s State.cycleNode
    let s := match s.hdg.grant with
      | some (n, uid) =>
        ((((s.pi R.hdg_NODE_STAT_ACTIVE n 1).pi R.hdg_NODE_STAT_QUAR n 0).pi R.hdg_NODE_STAT_OVR_RUN n 0).setUid n uid).hset n
          (fun x => { x with silent := 0 })
      | none => s
    let qs := s.hdg.nodes.map HNode.txq ++ [s.hdg.bcast]
    let first := nextQueue qs ((s.hdg.lead + 1) % 33)
    let (msgs, qs') := fillMessages 90 qs ((s.hdg.lead + 1) % 33) (msgRoom (s.g R.hdg_LAYOUT_BEACON_LEN))
    let s := s.emit (.hedgerow (s.beacon msgs) (busLine (s.beacon msgs)))
    let s := { s with
      freeCtr := s.freeCtr + 32
      hdg := { nodes := (List.range 32).map (fun n => { s.hnode n with txq := qs'.getD n [] })
               bcast := qs'.getD 32 []
               lead := first.getD s.hdg.lead
               grant := none } }
    s.incW R.hdg_CYCLE_COUNT 0 1

/-- HEDGEROW_TIMER_CYCLE: before the orbit first locks the cycles run on CD01 (R341), and a PTP master takes them for its own. -/
def State.hdgTimerCycle (s : State) : State := if s.trellis.everLocked then s else s.ptpMaster.hdgCycle

/-- An admission request (R347): the node granted. -/
def State.admits (s : State) (want uid : Nat) : Option Nat :=
  let free := fun n => !s.on R.hdg_NODE_STAT_ACTIVE n && !s.on R.hdg_NODE_STAT_QUAR n
  if s.hdg.grant.isSome then none
  else if want = 0xFF then (List.range 32).find? free
  else if want < 32 ∧ (free want ∨ (s.on R.hdg_NODE_STAT_QUAR want ∧ s.nodeUid want = uid)) then some want
  else none

/-- A transmission in the admission slot; one of a quarantined satellite ends its run of overruns (R346). -/
def State.hdgAdmission (s : State) (f : HdgIn) : State :=
  let bytes := noCrc f.raw
  if !crcGood f.raw then s.inc R.hdg_BUS_ERR_ADMIT_FAIL 0 1
  else if leAt bytes 0 1 ≠ 2 then s.inc R.hdg_BUS_ERR_STRAY 0 1
  else
    let uid := leAt bytes 8 8
    let s := forAll (List.range 32) s fun s n =>
      if s.on R.hdg_NODE_STAT_QUAR n && s.nodeUid n == uid then s.pi R.hdg_NODE_STAT_OVR_RUN n 0 else s
    match (if bytes.length = 16 then s.admits (leAt bytes 1 1) uid else none) with
    | some n => { s with hdg := { s.hdg with grant := some (n, uid) } }
    | none => s.inc R.hdg_BUS_ERR_ADMIT_FAIL 0 1

/-- A valid frame of an admitted node in its slot (R343, R345). DEDUCED, log entry 24. -/
def State.hdgAccept (s : State) (n : Nat) (bytes : List Byte) : State :=
  let seq := leAt bytes 2 1
  let data := bytes.drop 8
  let keep := fun (s : State) =>
    (s.pi R.hdg_NODE_STATUS_STATUS n (leAt bytes 4 2)).hset n (fun x => { x with heard := true })
  match leAt bytes 0 1 with
  | 3 => keep s
  | 1 =>
    let s := keep s
    if (s.hnode n).seq = some seq then s
    else if 512 < (s.hnode n).rxq.length + data.length then s.inc R.hdg_NODE_STATUS_RX_OVF n 1
    else s.hset n fun x => { x with
      seq := some seq
      rxq := x.rxq ++ (List.range data.length).map (fun i => (data.getD i 0).toNat + (if i = 0 then 256 else 0)) }
  | _ => s.inc R.hdg_BUS_ERR_STRAY 0 1

/-- The offset of a transmission against its slot start plus 4 µs: NODE_STAT.OFFSET, and SKEW_WARN beyond 2 µs (R344).
An offset the field cannot hold leaves a free value. DEDUCED, log entry 24. -/
def State.hdgSkew (s : State) (n : Nat) (offset : Int) : State :=
  let s := if -32768 ≤ offset ∧ offset < 32768 then s.pi R.hdg_NODE_STAT_OFFSET n (toField 16 offset)
    else (s.pi R.hdg_NODE_STAT_OFFSET n s.freeNow).drew
  if offset < -200 ∨ 200 < offset then
    (s.pi R.hdg_NODE_STAT_SKEW_WARN n 1).log R.hdg_NODE_STAT_SKEW_WARN 0x00D []
  else s

/-- An overrun (R345, R346): the third in a row of an admitted node brings its quarantine. DEDUCED, log entry 24. -/
def State.hdgOverrun (s : State) (n : Nat) : State :=
  let s := (s.inc R.hdg_NODE_ERR_OVERRUN n 1).inc R.hdg_NODE_STAT_OVR_RUN n 1
  if s.gi R.hdg_NODE_STAT_OVR_RUN n = 3 ∧ s.on R.hdg_NODE_STAT_ACTIVE n then s.hset n (fun x => { x with quarDue := true })
  else s

/-- A transmission in node slot `n`, by the first case of R345 that covers it. DEDUCED, log entry 24. -/
def State.hdgNodeSlot (s : State) (n : Nat) (f : HdgIn) : State :=
  let s := s.hdgSkew n f.offset
  if f.overrun then s.hdgOverrun n
  else
    let s := s.pi R.hdg_NODE_STAT_OVR_RUN n 0
    let bytes := noCrc f.raw
    if !crcGood f.raw ∨ bytes.length ≠ 8 + leAt bytes 3 1 then s.inc R.hdg_NODE_ERR_CRC n 1
    else if !s.on R.hdg_NODE_STAT_ACTIVE n ∨ s.on R.hdg_NODE_STAT_QUAR n then s.inc R.hdg_BUS_ERR_STRAY 0 1
    else s.hdgAccept n bytes

/-- What a standby takes from the active hub's beacon: ACTIVE, QUAR, the granted UID and the ACK values (R348).
DEDUCED, log entry 26. -/
def State.hdgFollowBeacon (s : State) (b : List Byte) : State :=
  let act := leAt b 24 4
  let quar := leAt b 28 4
  let s := forAll (List.range 32) s fun s n =>
    ((s.pi R.hdg_NODE_STAT_ACTIVE n (b2n (bitAt act n))).pi R.hdg_NODE_STAT_QUAR n (b2n (bitAt quar n))).hset n
      (fun x => { x with seq := some (leAt b (42 + n) 1), silent := 0, quarDue := false })
  let s := forAll (List.range 32) s fun s n =>
    if !bitAt act n && !bitAt quar n then s.setUid n 0 else s
  let g := leAt b 32 1
  if g < 32 then s.setUid g (leAt b 34 8) else s

/-- What a standby takes from a satellite's frame: the ACK value (R348). DEDUCED, log entry 26. -/
def State.hdgFollowFrame (s : State) (n : Nat) (f : HdgIn) : State :=
  if !f.overrun && crcGood f.raw && s.on R.hdg_NODE_STAT_ACTIVE n && !s.on R.hdg_NODE_STAT_QUAR n && leAt f.raw 0 1 == 1 then
    s.hset n (fun x => { x with seq := some (leAt f.raw 2 1) })
  else s

/-- HEDGEROW_FRAME_RX: slots 0 to 31 node slots, 32 the admission slot, 33 the beacon slot, which a standby hears
(R345, R347, R348). -/
def State.hdgFrameRx (s : State) (f : HdgIn) : State :=
  if !s.on R.hdg_CTRL_EN 0 then s
  else if s.standby then
    if f.slot = 33 then (if crcGood f.raw && leAt f.raw 0 1 == 0x80 then s.hdgFollowBeacon (noCrc f.raw) else s)
    else if f.slot < 32 then s.hdgFollowFrame f.slot f
    else s
  else if f.slot < 32 then s.hdgNodeSlot f.slot f
  else if f.slot = 32 then s.hdgAdmission f
  else s

/-- HEDGEROW_NODE_TIMEOUT: an admitted node silent for 16 cycles loses ACTIVE and its UID (R346).
DEDUCED, log entry 23. -/
def State.hdgNodeTimeout (s : State) (n : Nat) : State :=
  if n < 32 ∧ s.on R.hdg_NODE_STAT_ACTIVE n ∧ 16 ≤ (s.hnode n).silent then
    (s.pi R.hdg_NODE_STAT_ACTIVE n 0).setUid n 0
  else s

/-- HEDGEROW.TX written: a byte queued for the indexed node or for broadcast, up to 256 (R351). -/
def State.hdgTx (s : State) (w : Nat) : State :=
  let b := w % 256
  let n := s.g R.hdg_NODE_INDEX_NODE
  if bitAt w 8 then
    if s.hdg.bcast.length < 256 then { s with hdg := { s.hdg with bcast := s.hdg.bcast ++ [b] } } else s.err 0x00D 3 0x060
  else if (s.hnode n).txq.length < 256 then s.hset n (fun x => { x with txq := x.txq ++ [b] })
  else s.err 0x00D 3 0x060

/-- HEDGEROW.RX read: the oldest byte of the indexed node leaves (R351). -/
def State.hdgRx (s : State) : State × Nat :=
  let n := s.g R.hdg_NODE_INDEX_NODE
  match (s.hnode n).rxq with
  | b :: rest => (s.hset n (fun x => { x with rxq := rest }), b % 256 + 256 + 2 * (b / 256 * 256))
  | [] => (s, 0)

/-! ## Meanings -/

/-- ETH_FRAME. -/
def execEthFrame (f : EthIn) (s : State) : Host.Outcome State Fault Refusal := .next (s.ethFrame f)

/-- REASM_TIMEOUT. -/
def execReasmTimeout (src id : Nat) (s : State) : Host.Outcome State Fault Refusal := .next (s.reasmTimeout src id)

/-- ETH_LINK_CHANGE. -/
def execEthLinkChange (port : Nat) (up module : Bool) (s : State) : Host.Outcome State Fault Refusal :=
  .next (s.ethLinkChange port up module)

/-- PTP_MESSAGE. -/
def execPtpMessage (m : PtpIn) (s : State) : Host.Outcome State Fault Refusal := .next (s.ptpMessage m)

/-- PTP_ANNOUNCE_TIMEOUT. -/
def execPtpAnnounceTimeout (s : State) : Host.Outcome State Fault Refusal := .next s.ptpAnnounceTimeout

/-- TIME_SET. -/
def execTimeSet (h : Hdr) (sec ns frac : Nat) (s : State) : Host.Outcome State Fault Refusal :=
  .next (s.zcsRun (.timeSet h sec ns frac) h 0x0040 true (fun s => s.timeSetBody sec ns frac))

/-- HEDGEROW_TIMER_CYCLE. -/
def execHedgerowTimerCycle (s : State) : Host.Outcome State Fault Refusal := .next s.hdgTimerCycle

/-- HEDGEROW_FRAME_RX. -/
def execHedgerowFrameRx (f : HdgIn) (s : State) : Host.Outcome State Fault Refusal := .next (s.hdgFrameRx f)

/-- HEDGEROW_NODE_TIMEOUT. -/
def execHedgerowNodeTimeout (node : Nat) (s : State) : Host.Outcome State Fault Refusal := .next (s.hdgNodeTimeout node)

end Sys2Proof.Machine
end

