-- ==== Sys2Proof/Machine/Commit.lean ====
section
/-! DEFINITION. Boundary actions: what a commit and STREAM_START are held to, how a commit, a start and a stop take
effect, and the modes of an image (R20, R25 to R27, R216, R217, R262 to R265, R366 to R370). -/
namespace Sys2Proof.Machine

/-- The hub streams, or still sends what it streamed: STATE 2 or 3 (DEDUCED, log entry 27). -/
def State.live (s : State) : Bool := decide (2 ≤ s.g R.global_STATE_STATE)

/-! ## What a commit is held to -/

/-- The stated ranges of staged fields (R55, R72, R124, R197, R198, R222, R267, R309). -/
def rangeTable : List (Fld × Nat × Nat) :=
  [(R.trellis_TIMING_KSEL, 0, 2), (R.trellis_TIMING_NSLOT, 256, 16383), (R.trellis_MFRAME_MF_ORBITS, 1, 1024),
   (R.trellis_ALIGN_TARGET_D_TARGET, 0, 4095 * 65536), (R.bed_ROT_CTRL_MEAN_TOL, 1, 15), (R.bed_ROT_CTRL_RMS_TOL, 1, 15),
   (R.rec_BED_CFG_LZ_PRE, 0, 2), (R.sent_SN_CFG_REF_SRC, 0, 2), (R.sent_SN_CFG_CH, 0, 767), (R.dib_TRIG_CFG_EDGE, 0, 2),
   (R.dib_TRIG_CFG_DEAD, 1, 255), (R.fsum_MEMBER_CH, 0, 767), (R.bud_RESERVE_LB, 0, 64), (R.bud_ACK_WIN_WINDOW, 100, 100000),
   (R.scrub_CFG_PERIOD, 10, 3600), (R.harv_CFG_MARGIN, 64, 255), (R.harv_CFG_DARK_HOLD, 1, 65535)]

/-- A staged value lies in its field's stated range. DEDUCED, log entry 77. -/
def Staged.inRange (w : Staged) : Bool :=
  (rangeTable.all fun r => r.1 != w.fld || (decide (r.2.1 ≤ w.val) && decide (w.val ≤ r.2.2)))
    && (w.fld != R.sent_SN_ALIGN_ALIGN || (decide (-64 ≤ sext 8 w.val) && decide (sext 8 w.val ≤ 63)))

/-- Fields that a commit may not change while the hub streams (R33, R93, R162, R390). -/
def fixedFields : List Fld :=
  [R.trellis_TIMING_KSEL, R.trellis_TIMING_NSLOT, R.trellis_ORBIT_CFG_MARK_SLOT, R.sieve_CH_CFG_LABEL, R.ing_ALIGN_LAT,
   R.global_HUB_ID_ID]

/-- A change that is refused while the hub streams (R33, R93, R162, R202, R390). -/
def State.fixedNow (s : State) (w : Staged) : Bool :=
  w.changes s.regs && (fixedFields.contains w.fld
    || ((w.fld == R.fwin_D_BASE_BASE || w.fld == R.fwin_D_BASE_SIZE) && s.on R.fwin_D_CFG_ENABLE w.idx))

/-- The configuration that staged values would leave, with the slow fields that wait for their frame (R319). -/
def State.after (s : State) (l : List Staged) : NMap := applyStaged (applyStaged s.regs s.slow.due) l

/-- The quiet window of R38 in a configuration. -/
def windowOk (m : NMap) : Bool :=
  decide (64 ≤ mapGet m R.trellis_QUIET_QW_LEN 0)
    && decide (mapGet m R.trellis_QUIET_QW_FIRST 0 + mapGet m R.trellis_QUIET_QW_LEN 0 ≤ nSlotOf m)

/-- The slots of the marker and the calibration pulse on the downlinks (R158). -/
def downlinkSlotsOk (m : NMap) : Bool :=
  let om := mapGet m R.ing_FC_SCHED_OM_SLOT 0
  let cal := mapGet m R.ing_FC_SCHED_CAL_SLOT 0
  decide (om < nSlotOf m) && decide (cal < nSlotOf m) && !(om == cal && mapGet m R.ing_FC_CAL_CAL_EVERY 0 != 0)

/-- The enabled sentinels' reference slots (R115). -/
def sentinelsOk (m : NMap) : Bool :=
  (List.range 16).all fun n =>
    mapGet m R.sent_SN_CFG_ENABLE n == 0 ||
      (mapGet m R.sent_SN_CFG_REF_SRC n != 3
        && (mapGet m R.sent_SN_CFG_REF_SRC n != 2 || decide (mapGet m R.sent_SN_ALIGN_REF_SLOT n < nSlotOf m)))

/-- No bed whose domain is off has a mode other than OFF (R101). -/
def State.bedsPowered (s : State) (m : NMap) : Bool :=
  (List.range 24).all fun b => mapGet m R.rec_BED_CFG_MODE b == 0 || s.pd (4 + b / 4)

/-- The classes that enabled ports and the late groups need (R174), and that a changed bed mode needs (R105). -/
def State.classesOk (s : State) (m : NMap) : Bool :=
  let ports := portsIn m
  ports.all (fun p => furrowClass m (mapGet m R.ing_PORT_CFG_FURROW p)
      == if mapGet m R.ing_PORT_CFG_CLUSTER_EN p = 1 then 0x11 else 0x10)
    && (ports.isEmpty || furrowClass m (lateFurrow m) == 0x12)
    && (List.range 24).all fun b =>
      let mode := mapGet m R.rec_BED_CFG_MODE b
      mode == 0 || mode == s.gi R.rec_BED_CFG_MODE b || furrowClass m (mapGet m R.rec_BED_CFG_FURROW b) == mode

/-- The rules that a commit and STREAM_START share, by the configuration they would leave. -/
def State.rulesOk (s : State) (m : NMap) (streaming : Bool) : Bool :=
  windowOk m && banksOk m (kOf m) && s.bedsPowered m && s.classesOk m && sentinelsOk m && downlinkSlotsOk m
    && s.sumsOk m && fsumFurrowOk m && slowOk m && furrowRules m streaming && mapGet m R.global_HUB_ID_ID 0 != 0xFFFF

/-- No channel would need more label offset than it holds (R93): asked of a commit while the hub streams, when the label
offsets are held. DESIGN CHOICE, log entry 124. -/
def State.labelsHeld (s : State) (m : NMap) : Bool :=
  (List.range 768).all fun ch => decide (lblNeed m (kOf m) ch ≤ s.gi R.sieve_LABEL_STAT_LBL_HELD ch)

/-- Why a commit of staged values is refused by the rules of this manual, but for the budget; none where it is not.
DEDUCED, log entry 77. DESIGN CHOICE, log entry 124. DESIGN CHOICE, log entry 135. -/
def State.commitFault (s : State) (l : List Staged) : Option Nat :=
  let m := s.after l
  if s.live && l.any s.fixedNow then some stDenied
  else if !l.all Staged.inRange || !s.rulesOk m s.live || !hdgOk m || (s.live && !s.labelsHeld m) then some stBadParam
  else none

/-! ## What STREAM_START is held to -/

/-- A segment of an enabled furrow lies beyond ACK_SEQ (R216). -/
def State.unacked (s : State) : Bool :=
  s.enabledFurrows.any fun f => (s.fur f).segs.any fun g => !g.old && seqLater (s.fur f).ack g.seq

/-- The stream cannot start in this state of the hub: not READY, already streaming, trim invalid, not aligned, domains of
the data plane off, fewer than seven memory ports (R52, R265, R444, R460, R497). DEDUCED, log entry 79. -/
def State.startDenied (s : State) : Bool :=
  s.g R.global_STATE_STATE == 0 || s.streaming || s.on R.tending_STAT_TRIM_INVALID 0
    || (s.embedded && !s.on R.trellis_TSTAT_ALIGN_VALID 0)
    || !([10, 11, 22].all s.pd) || !(s.memPorts.all fun m => s.pd (18 + m / 2)) || decide (s.memPorts.length < 7)

/-- The limits of LAT (R162), the explicit labels (R93), the map order (R227) and HUB_ID (R391) at STREAM_START. -/
def State.startRulesOk (s : State) : Bool :=
  let m := s.regs
  let lat := mapGet m R.ing_ALIGN_LAT 0
  decide (64 ≤ lat) && decide (lat ≤ 4096) && decide (lat + 64 ≤ nSlotOf m)
    && (List.range 768).all (fun ch =>
      let l := mapGet m R.sieve_CH_CFG_LABEL ch
      l == 0 || decide (lblNeed m (kOf m) ch ≤ l))
    && mapGet m R.memctl_MAP_MAP_NOW 0 != 2 && mapGet m R.global_HUB_ID_ID 0 != 0

/-- Why STREAM_START is refused on arrival, but for the budget. DEDUCED, log entry 79. -/
def State.startFault (s : State) : Option Nat :=
  if s.g R.global_STATE_STATE = 3 then some stBusy
  else if s.startDenied then some stDenied
  else if s.unacked then some stBusy
  else if !s.startRulesOk || !s.rulesOk (s.after []) true then some stBadParam
  else none

/-! ## A commit takes effect (R27) -/

/-- A value of the SLOW or INTERLOCK page, which waits for its frame boundary (R319). -/
def Staged.isSlow (w : Staged) : Bool := w.page == 0x00E || w.page == 0x00F

/-- The channels whose chain changed values touch: their own fields, or a field of the bank they use (R95).
DEDUCED, log entry 84. -/
def State.chainsTouched (s : State) (l : List Staged) : List Nat :=
  let own := (l.filter fun w => [R.sieve_FD_DELAY_D, R.sieve_CH_CFG_S0, R.sieve_CH_CFG_S1, R.sieve_GAIN_G, R.sieve_PED_PED,
    R.sieve_CH_CFG_PED_SRC, R.sieve_CH_CFG_BANK].contains w.fld).map (·.idx)
  let banks := (l.filter fun w => w.page == 0x029).map fun w => if w.fld = R.coef_COEF_VALUE then w.idx / 64 else w.idx
  if own.isEmpty && banks.isEmpty then []
  else (List.range 768).filter fun ch => own.contains ch || banks.contains (s.gi R.sieve_CH_CFG_BANK ch)

/-- The channels whose change clears SEEDED (R108). -/
def State.seedsCleared (s : State) (l : List Staged) : List Nat :=
  let own := (l.filter fun w =>
    [R.sieve_CH_CFG_S0, R.sieve_CH_CFG_S1, R.sieve_GAIN_G, R.sieve_CH_CFG_BANK].contains w.fld).map (·.idx)
  let banks := (l.filter fun w => w.page == 0x029).map fun w => if w.fld = R.coef_COEF_VALUE then w.idx / 64 else w.idx
  (s.followers.map (·.1)).filter fun ch => own.contains ch || banks.contains (s.gi R.sieve_CH_CFG_BANK ch)

/-- The furrows whose open segment a change of class, routing or bed mode closes (R105, R205). -/
def State.closedBy (s : State) (old : NMap) (w : Staged) : List Nat :=
  if w.fld = R.fwin_D_CFG_CLASS ∨ (w.fld = R.fwin_D_CFG_ENABLE ∧ w.val = 0) then [w.idx]
  else if w.fld = R.rec_BED_CFG_MODE then [mapGet old R.rec_BED_CFG_FURROW w.idx, s.gi R.rec_BED_CFG_FURROW w.idx]
  else if w.fld = R.rec_BED_CFG_FURROW ∨ w.fld = R.ing_PORT_CFG_FURROW ∨ w.fld = R.ing_LATE_FURROW_FURROW then
    [mapGet old w.fld w.idx, w.val]
  else []

/-- SPARE reports the furrows disabled under R264; STREAM_DEGRADED clears when none is. -/
def State.countShed (s : State) : State :=
  let n := s.shedFurrows.length
  let s := s.p R.spare_DEG_ORBIT_HI_DISABLED n
  if n = 0 ∧ s.g R.spare_DEGRADE_STEP = 3 ∧ s.memPorts.length = 7 then s.p R.spare_DEGRADE_STEP 2 else s

/-- The descriptors of furrows whose fields have changed, but for those of a running stream, are written to memory
(R202). -/
def State.describe (s : State) (l : List Staged) : State :=
  let fs := ((l.filter fun w => w.page == 0x038).map (·.idx)).eraseDups
  forAll fs s fun s f => if s.streaming && s.on R.fwin_D_CFG_ENABLE f then s else s.poke (64 * f) (s.descriptor f)

/-- What follows in the data path from values that have changed from a map. -/
def State.changed (s : State) (old : NMap) (l : List Staged) : State :=
  let l := l.filter fun w => w.changes old
  let has := fun (f : Fld) => l.any fun w => w.fld == f
  let s := if has R.trellis_TIMING_NSLOT || has R.trellis_ORBIT_CFG_MARK_SLOT then s.structureChange else s
  let s := if has R.trellis_TIMING_KSEL then s.kselChange else s
  let s := forAll ((l.filter fun w => w.fld == R.bed_AFE_CFG_TERM || w.fld == R.bed_AFE_CFG_GAIN).map fun w =>
    w.idx / 64 * 32 + w.idx % 64).eraseDups s State.settleChannel
  let s := s.inc R.sieve_TRANSITIONS_COUNT 0 (s.chainsTouched l).length
  let s := forAll (s.seedsCleared l) s State.unseed
  if s.streaming then
    let s := s.scheduleCloses (l.flatMap (s.closedBy old)).eraseDups
    let s := forAll ((l.filter fun w => w.fld == R.fwin_D_CFG_ENABLE && w.val == 1).map (·.idx)) s fun s f =>
      s.startFurrow f s.trellis.orbit s.trellis.slot
    let s := forAll ((l.filter fun w => w.fld == R.fwin_D_CFG_ENABLE && w.val == 0).map (·.idx)) s fun s f =>
      s.furrow f fun u => { u with drains := if u.shed then none else some (s.trellis.orbit, s.trellis.slot) }
    let s := forAll ((l.filter fun w => w.fld == R.ing_PORT_CFG_ENABLE).map (·.idx)) s State.portEnableChanged
    s.countShed.describe l
  else
    (forAll ((l.filter fun w => w.fld == R.fwin_D_CFG_ENABLE && w.val == 1).map (·.idx)) s fun s f =>
      s.furrow f fun u => { u with shed := false }).countShed.describe l

/-- The orbit that COMMIT and responses name: 0 before the orbit has ever locked. DESIGN CHOICE, log entry 82. -/
def State.orbitNamed (s : State) : Nat := if s.trellis.everLocked then s.trellis.orbit else 0

/-- A mode becomes the mode in effect (R368). -/
def State.enterMode (s : State) (mode : Option Nat) : State :=
  match mode with
  | none => s
  | some m =>
    let s := (s.p R.global_STATE_MODE_PREV (s.g R.global_STATE_MODE)).p R.global_STATE_MODE m
    { s with image := { s.image with hadMode := true } }

/-- A commit takes effect: every staged field together, slow fields at the next frame boundary (R27, R319, R366).
DESIGN CHOICE, log entry 82. -/
def State.applyCommit (s : State) (l : List Staged) (mode : Option Nat) : State :=
  let old := s.regs
  let fast := l.filter fun w => !w.isSlow
  let s := (fast.foldl State.commitField s).sl fun x => { x with due := x.due ++ l.filter Staged.isSlow }
  let s := s.changed old fast
  let o := s.orbitNamed
  let s := ((s.p R.global_COMMIT_LO_ORBIT_LO (o % 2 ^ 32)).p R.global_COMMIT_HI_ORBIT_HI (o / 2 ^ 32)).incW
    R.global_COMMIT_HI_COUNT 0 1
  s.enterMode mode

/-! ## A stream starts and stops (R216, R217, R526) -/

/-- STREAM_START takes effect in the first slot of a quiet window: intake begins, with the slow results completed from this slot
on, pointers and labels are set (R93, R106, R108, R217, R526, R527). DEDUCED, log entry 78. -/
def State.streamBegin (s : State) : State :=
  let t := s.trellis
  let s := s.p R.global_STATE_STATE 2
  let s := { s with intake := true, intakeFrom := t.tick, hubQ := [], closes := []
                    furrows := s.furrows.map fun (x : Nat × Furrow) => (x.1, { x.2 with drains := none }) }
  let s := s.sl fun x => { x with recs := x.recs.filter fun r => decide (t.tick ≤ r.2.1) }
  let s := forAll s.enabledFurrows s fun s f => s.startFurrow f t.orbit t.slot
  let s := forAll (List.range 768) s fun s ch =>
    let l := s.gi R.sieve_CH_CFG_LABEL ch
    s.pi R.sieve_LABEL_STAT_LBL_HELD ch (if l = 0 then lblNeed s.regs s.k ch else l)
  let chans := (List.range 768).filter fun ch => s.gi R.rec_BED_CFG_MODE (ch / 32) != 0
  let lMax := maxNat (chans.map fun ch => s.gi R.sieve_LABEL_STAT_LBL_HELD ch)
  let s := (s.p R.rec_LAT_L_MAX lMax).p R.rec_LAT_PIN_TO_COLL (lMax + 8)
  let s := forAll (s.followers.map (·.1)) s State.unseed
  s.startMarks.startPorts.activateUplink.countShed

/-- ORBIT and MODE as commits, starts and stops report them (R364). -/
def State.actionPayload (s : State) (orbit : Nat) (mode : Option Nat) : List Byte :=
  le 6 orbit ++ le 1 (mode.getD (s.g R.global_STATE_MODE))

/-- Record intake ends after the closes of R205; the stop is completed (R216). DEDUCED, log entry 90.
DESIGN CHOICE, log entry 127. -/
def State.streamEnd (s : State) : State :=
  let s := s.placeHeld.endMarks.closeAll.writeDescriptors
  let h := s.stopping
  let s := { s with intake := false, stopping := none, closes := [], hubQ := [] }
  (s.stopPorts).complete h 0x0031 stOk (s.actionPayload s.trellis.orbit none)

/-! ## Boundary actions (R366) -/

/-- The orbit of the first quiet window that begins at least one orbit from now, or the named orbit where it lies in the
range of R366. -/
def State.windowOrbit (s : State) (orbit : Nat) (named : Bool) : Option Nat :=
  let o := s.trellis.orbit
  let first := if s.trellis.slot ≤ s.g R.trellis_QUIET_QW_FIRST then o + 1 else o + 2
  if !named then some first else if first ≤ orbit ∧ orbit ≤ o + 1048576 then some orbit else none

/-- A boundary action waits for its window. -/
def State.await (s : State) (act : Action) (opcode : Nat) (h : Option Hdr) (orbit : Nat) (snap : List Staged)
    (mode : Option Nat) : State :=
  { s with zcs := { s.zcs with action := some ⟨act, opcode, h, orbit, snap, mode⟩ } }

/-- The final status of an action that took effect (R361). -/
def State.okStatus (s : State) (opcode : Nat) : Nat :=
  if [0x0022, 0x0023, 0x0030].contains opcode && s.g R.spare_DEGRADE_STEP != 0 then stDegraded else stOk

/-- The outcome of a budget check: none where it passes or does not run. -/
def budgetFault : Option Report → Option (Nat × List Byte)
  | none => none
  | some r => if r.result = 0 then none else some (r.status, r.bytes)

/-- A commit arrives: checked at once, then waiting for its window, or applied at once while the orbit has never locked
(R20, R210, R366, R370). The snapshot is taken where it is accepted. BUSY while the checks cannot run. DEDUCED, log entry 80.
DESIGN CHOICE, log entry 141. -/
def State.commitRequest (s : State) (h : Option Hdr) (opcode : Nat) (l : List Staged) (mode : Option Nat) (orbit : Nat)
    (named : Bool) (take : State → State) : State × Reply :=
  if s.zcs.action.isSome then (s, .bad stBusy)
  else if mode.isSome && s.on R.spare_DEGRADE_IMAGE_LOST 0 then (s, .done stImage [])
  else match s.commitFault l with
    | some st => (s, .done st [])
    | none =>
      match s.windowOrbit orbit named with
      | none => (s, .done stBadParam [])
      | some o =>
        if s.budgetHeld then (s, .bad stBusy)
        else
        let (s, r) := s.runBudget (s.after l)
        match budgetFault r with
        | some (st, b) => (s, .done st b)
        | none =>
          if !s.trellis.everLocked && !s.live then
            let s := (take s).applyCommit l mode
            (s, .done (s.okStatus opcode) (s.actionPayload s.orbitNamed none))
          else ((take s).await .commit opcode h o l mode, .done stPending (s.actionPayload o mode))

/-- The staged set is taken by a snapshot: it empties and its owner is released (R367). -/
def State.takeStaged (s : State) : State :=
  { s with zcs := { s.zcs with staged := [], owner := none, stagedMode := none } }

/-- OVERLAY_COMMIT (R366, R367). -/
def State.overlayCommit (s : State) (h : Hdr) (orbit : Nat) (named : Bool) : State × Reply :=
  s.commitRequest (some h) 0x0022 s.zcs.staged s.zcs.stagedMode orbit named State.takeStaged

/-- STREAM_START (R20, R210, R366, R497): the checks cannot run while BC_NOMINAL is 0, and it is refused.
DEDUCED, log entry 78. -/
def State.streamStart (s : State) (h : Hdr) (orbit : Nat) (named : Bool) : State × Reply :=
  if s.zcs.action.isSome then (s, .bad stBusy)
  else match s.startFault with
    | some st => (s, if st = stBusy then .bad st else .done st [])
    | none =>
      match s.windowOrbit orbit named with
      | none => (s, .done stBadParam [])
      | some o =>
        if s.budgetHeld then (s, .bad stBusy)
        else match s.runBudget (s.after []) with
        | (s, none) => (s, .done stBadParam [])
        | (s, some r) =>
          if r.result ≠ 0 then (s, .done r.status r.bytes)
          else (s.await .start 0x0030 (some h) o [] none, .done stPending (s.actionPayload o none))

/-- STREAM_STOP (R216, R366): refused where no stream runs. DEDUCED, log entry 79. -/
def State.streamStop (s : State) (h : Hdr) (orbit : Nat) (named : Bool) : State × Reply :=
  if s.zcs.action.isSome then (s, .bad stBusy)
  else if !s.streaming then (s, .done stDenied [])
  else match s.windowOrbit orbit named with
    | none => (s, .done stBadParam [])
    | some o => (s.await .stop 0x0031 (some h) o [] none, .done stPending (s.actionPayload o none))

/-- GRAFT_DRILL on the active hub (R365, R429). -/
def State.graftDrill (s : State) (h : Hdr) : State × Reply :=
  if s.zcs.action.isSome then (s, .bad stBusy)
  else if !s.armed || s.role != 1 || !s.on R.graft_STAT_PEER_ELIGIBLE 0 then (s, .done stDenied [])
  else match s.windowOrbit 0 false with
    | none => (s, .done stBadParam [])
    | some o => (s.await .drill 0x0051 (some h) o [] none, .done stPending (le 6 (o + 3)))

/-- MARGIN_APPLY (R366, R439). -/
def State.marginApply (s : State) (h : Hdr) (resource value : Nat) : State × Reply :=
  if s.zcs.action.isSome then (s, .bad stBusy)
  else if !s.marginOk resource value then (s, .done stBadParam [])
  else match s.windowOrbit 0 false with
    | none => (s, .done stBadParam [])
    | some o => (s.await (.margin resource value) 0x0081 (some h) o [] none, .done stPending [])

/-- ACK_WINDOW commits BUDGET.ACK_WIN, by itself and unnamed (R213, R364). DEDUCED, log entry 80. -/
def State.ackWindow (s : State) (h : Hdr) (us : Nat) : State × Reply :=
  if us < 100 ∨ 100000 < us then (s, .done stBadParam [])
  else s.commitRequest (some h) 0x0033 [⟨0x039, R.bud_ACK_WIN_WINDOW, 0, us⟩] none 0 false id

/-! ## Modes (R368, R375) -/

/-- The window advances by one after an access (R388): COEF from 39 to 0, MASK from 63, MEMBER from 31, CS_DATA into the
next port. -/
def State.advance (s : State) (p off : Nat) : State :=
  let bump := fun (f : Fld) (n : Nat) => s.p f ((s.g f + 1) % n)
  if p = 0x029 ∧ off = 0x04C then
    s.p R.coef_TAP_INDEX_TAP (if s.g R.coef_TAP_INDEX_TAP = 39 then 0 else (s.g R.coef_TAP_INDEX_TAP + 1) % 64)
  else if p = 0x02B ∧ off = 0x054 then bump R.sent_MASK_INDEX_I 64
  else if p = 0x035 ∧ off = 0x054 then bump R.fsum_MEMBER_INDEX_MEMBER 32
  else if p = 0x033 ∧ off = 0x044 then
    let w := s.g R.cwin_CS_INDEX_WORD + 1
    (s.p R.cwin_CS_INDEX_WORD w).p R.cwin_CS_INDEX_PORT (s.g R.cwin_CS_INDEX_PORT + w / 32768)
  else s

/-- The RW fields of a register take their bits of a word. -/
def State.putRw (s : State) (p off w : Nat) : State :=
  match s.inst p off with
  | none => s
  | some i => ((fieldsAt p off).filter (fun f => f.acc == .rw)).foldl (fun s f => s.pi f i (bitsAt w f.lsb f.width)) s

/-- The RWS fields of a register as a word would set them, none at an instance that does not exist. -/
def State.rwsOf (s : State) (p off w : Nat) : List Staged :=
  match s.inst p off with
  | none => []
  | some i => ((fieldsAt p off).filter (fun f => f.acc == .rws)).map fun f => ⟨p, f, i, bitsAt w f.lsb f.width⟩

/-- Values with a later one for the same field replacing an earlier one (R367). -/
def merge (l : List Staged) (w : Staged) : List Staged :=
  l.filter (fun x => !(x.fld == w.fld && x.idx == w.idx)) ++ [w]

/-- The words of runs with their addresses, in order. -/
def wordsAt (rs : List Run) : List (Nat × Nat) :=
  rs.flatMap fun r => (List.range r.words.length).map fun i => (r.at_ i, r.words.getD i 0)

/-- The staged values of delta runs, the index registers written on the way (R375, R388). -/
def State.deltas (s : State) (rs : List Run) : State × List Staged :=
  (wordsAt rs).foldl (fun (s, l) (a, w) =>
    let p := pageOf a
    let off := offOf a
    if isIndexReg (pageBase p) off then (s.putRw p off w, l)
    else (s.advance p off, (s.rwsOf p off w).foldl merge l)) (s, [])

/-- The declarations of an overlay, staged as D_WORST (R375). -/
def Overlay.declared (o : Overlay) : List Staged := o.decls.map fun d => ⟨0x038, R.fwin_D_WORST_WORST, d.1, d.2⟩

/-- The values an overlay sets. -/
def State.overlayValues (s : State) (o : Overlay) : State × List Staged :=
  let (s, l) := s.deltas o.deltas
  (s, o.declared.foldl merge l)

/-- The base value of every field that an overlay changes, taken when the base is in effect (R368). -/
def State.captureBase (s : State) (os : List Overlay) : List Staged :=
  let fields := os.foldl (fun l o => (s.overlayValues o).2.foldl merge l) []
  fields.map fun w => { w with val := s.gi w.fld w.idx }

/-- The overlay of a mode, from the image copy. -/
def State.overlayOfMode (s : State) (mode : Nat) : Option Overlay :=
  match s.image.copy with
  | none => none
  | some l =>
    match parseImage l with
    | .error _ => none
    | .ok ss => (overlaysOf ss).find? fun o => o.mode == mode

/-- The values of a mode: the base values, then the overlay's (R368), without those that R77 ignores; none where the image
declares no such mode. -/
def State.modeValues (s : State) (mode : Nat) : Option (State × List Staged) :=
  if s.image.copy.isNone then none
  else if mode = 0xFF then some (s.keepHighZ s.image.base)
  else match s.overlayOfMode mode with
    | none => none
    | some o =>
      let (s, l) := s.overlayValues o
      some (s.keepHighZ (l.foldl merge s.image.base))

/-- A discard: the staged set empties and has no owner (R367, R368). DEDUCED, log entry 83. -/
def State.discardStaged (s : State) : State := s.takeStaged

/-- Writes by this actor to staged fields are refused: another one owns the stage (R367). -/
def State.notOwner (s : State) (who : Actor) : Bool :=
  match s.zcs.owner with
  | none => false
  | some o => o != who

/-- OVERLAY_STAGE (R368): the base values and the deltas of a mode, or a discard. DEDUCED, log entry 83. -/
def State.overlayStage (s : State) (h : Hdr) (mode : Nat) : State × Reply :=
  let who := Actor.session h.session
  if s.notOwner who then (s, .done stDenied [])
  else if mode = 0xFE then (s.discardStaged, .done stOk (le 4 0))
  else if s.on R.spare_DEGRADE_IMAGE_LOST 0 then (s, .done stImage [])
  else match s.modeValues mode with
    | none => (s, .done stBadParam [])
    | some (s, l) =>
      ({ s with zcs := { s.zcs with staged := l.foldl merge s.zcs.staged, owner := some who, stagedMode := some mode } },
       .done stOk (le 4 l.length))

/-- OVERLAY_REVERT (R369): MODE_PREV staged and committed unnamed. -/
def State.overlayRevert (s : State) (h : Hdr) : State × Reply :=
  if s.zcs.action.isSome ∨ !s.zcs.staged.isEmpty then (s, .bad stBusy)
  else if !s.image.hadMode then (s, .done stDenied [])
  else if s.on R.spare_DEGRADE_IMAGE_LOST 0 then (s, .done stImage [])
  else
    let m := s.g R.global_STATE_MODE_PREV
    match s.modeValues m with
    | none => (s, .done stBadParam [])
    | some (_, l) =>
      s.commitRequest (some h) 0x0023 l (some m) 0 false fun t =>
        match t.modeValues m with
        | some (t, _) => t
        | none => t

end Sys2Proof.Machine
end

