-- ==== Sys2Proof/Machine/RegAccess.lean ====
section
/-! DEFINITION. Register reads and writes: computed and latched fields, the effects of access codes, staging, windows that
advance, runs, and the commands and register rows built on them (R11, R12, R365, R376 to R392). -/
namespace Sys2Proof.Machine

/-! ## Reading -/

/-- The selected pointer of a furrow (R221). -/
def State.pointer (s : State) (f : Nat) : Nat :=
  let u := s.fur f
  match s.g R.fwin_PTR_SEL_SEL with
  | 0 => u.wr
  | 1 => u.rd
  | 2 => u.ack
  | _ => u.tail

/-- The lanes that are delivering valid return frames: one came within the last 64 slots (R309, DEDUCED, log entry 60). -/
def State.deliversFrames (s : State) (n : Nat) : Bool :=
  match s.harvest.laneTick.getD n none with
  | some t => decide (s.trellis.tick - t ≤ 64)
  | none => false

/-- The monitor value of an index (R432, R448). -/
def State.monitor (s : State) (i : Nat) : Nat :=
  let m := s.monNow
  if i < 96 then m.margins.getD i 0 else if i < 120 then m.rings.getD (i - 96) 0
  else if i < 136 then (m.temps.getD (i - 120) 0#16).toNat else 0

/-- The running bits of 32 clock domains from `first` (R392). -/
def State.runBits (s : State) (first : Nat) : Nat := natOfBits ((List.range 32).map fun i => s.cdRuns (first + i))

/-- The age of a channel's fine value in ms, 65,535 where none has been formed (R330). -/
def State.fineAge (s : State) (c : Nat) : Nat :=
  match s.fineOf c with
  | some x => cap 65535 ((s.nowNs - x.ns) / 1000000)
  | none => 65535

/-- A part of a channel's latest fine value, 0 where there is none. -/
def State.finePart (s : State) (c : Nat) (f : Fine → Nat) : Nat :=
  match s.fineOf c with
  | some x => f x
  | none => 0

/-- The fields whose value other state gives, by instance. DESIGN CHOICE, log entry 100. -/
def computedFields : List (Fld × (State → Nat → Nat)) :=
  [(R.hdr_STAT_IRQ_PENDING, fun s p => b2n (s.irqPending p)), (R.hdr_STAT_STAGED, fun s p => b2n (s.stagedOn p)),
   (R.hdr_STAT_PENDING, fun s p => b2n (s.pendingOn p)), (R.hdr_STAT_PARTIAL, fun s p => b2n (s.partialOn p)),
   (R.hdr_SHADOW_CTRL_STAGED_WORDS, fun s p => cap 8191 (s.stagedWords p)),
   (R.global_IRQ_SUM0_PAGE, fun s _ => s.irqSum 0), (R.global_IRQ_SUM1_PAGE, fun s _ => s.irqSum 1),
   (R.global_IRQ_SUM2_PAGE, fun s _ => s.irqSum 2), (R.global_STATE_ROLE, fun s _ => s.role),
   (R.trellis_ORBIT_NOW_LO_ORBIT_LO, fun s _ => s.trellis.orbit),
   (R.trellis_ORBIT_NOW_HI_ORBIT_HI, fun s _ => s.trellis.orbit / 2 ^ 32),
   (R.trellis_SLOT_NOW_SLOT, fun s _ => s.trellis.slot),
   (R.bed_ROT_STAT_STATE, fun s i => s.rotState (i / 64)),
   (R.sieve_GD_GD, fun s ch => gdField s.regs s.k ch), (R.sieve_GD_RESID, fun s ch => residField s.regs s.k ch),
   (R.sieve_LABEL_STAT_LBL_NEED, fun s ch => lblNeed s.regs s.k ch), (R.sieve_PED_NOW_PED, fun s ch => s.pedNow ch),
   (R.coef_BANK_GD_GD2, fun s b => (bankGdFields s.regs b).1), (R.coef_BANK_GD_GD4, fun s b => (bankGdFields s.regs b).2),
   (R.rec_PF_B4_B4, fun s ch => toField 20 (s.foll ch).b4Now), (R.rec_PF_B4_SEEDED, fun s ch => b2n (s.foll ch).seedNow),
   (R.lane_LANE_STAT_TX_STATE, fun s l => (s.laneOf l).tx), (R.lane_LANE_STAT_RX_STATE, fun s l => (s.laneOf l).rx),
   (R.lane_LANE_STAT_WAKE_PENDING, fun s l => b2n ((s.laneOf l).txWait || (s.laneOf l).rxWait)),
   (R.ing_PORT_STAT_QUEUE, fun s n => (s.portOf n).late.length),
   (R.cwin_CS_STAGED_COUNT, fun s _ => (s.zcs.staged.filter fun w => w.fld == R.cwin_CS_DATA_CLASSES).length),
   (R.dib_MARK_STAT_QUEUE, fun s _ => s.dibber.toWrite.length), (R.dib_MARK_STAT_MSEQ, fun s _ => s.dibber.mseq),
   (R.fwin_PTR_LO_SEQ_LO, fun s f => s.pointer f), (R.fwin_PTR_HI_SEQ_HI, fun s f => s.pointer f / 2 ^ 32),
   (R.fwin_ENABLED_COUNT, fun s _ => s.enabledFurrows.length), (R.fwin_D_LANES_LANES, fun s f => s.lanesOf f),
   (R.bud_LB_STAT_ACTIVE, fun s _ => s.looks.length),
   (R.memctl_RT_CFG_NEXT, fun s _ => s.nextPause), (R.spare_MIG_PROG_GRANULES, fun s m => s.migProgress m),
   (R.comp_ENG_STAT_BUSY, fun s e => b2n (s.engineOf e).busy),
   (R.harv_LIT_USABLE, fun s _ => natOfBits (hLanes.map s.usable)),
   (R.harv_RC_STAT_H00_FRAME, fun s _ => b2n (s.deliversFrames 0)),
   (R.harv_RC_STAT_H01_FRAME, fun s _ => b2n (s.deliversFrames 1)), (R.harv_BACKLOG_BYTES, fun s _ => s.backlog),
   (R.slow_LAST_CODE_CODE, fun s c => s.finePart c fun x => x.code.toNat),
   (R.slow_LAST_VALUE_VALUE, fun s c => s.finePart c fun x => x.value.toNat),
   (R.slow_LAST_FLAGS_FLAGS, fun s c => s.finePart c Fine.flags), (R.slow_LAST_FLAGS_AGE, fun s c => s.fineAge c),
   (R.slow_SCAN_TIME_US, fun s c => (s.scanOf (c / 24)).scanUs), (R.slow_VEXC_STAT_ON, fun s _ => b2n (s.vexcOn && !s.slow.vexcBad)),
   (R.slow_VEXC_STAT_LOAD, fun s _ => if s.vexcOn then s.slow.vexcLoad else 0),
   (R.ptp_TIME_SEC_LO_SEC, fun s _ => s.wall.sec), (R.ptp_TIME_SEC_HI_SEC, fun s _ => s.wall.sec / 2 ^ 32),
   (R.ptp_TIME_NS_NS, fun s _ => s.wall.ns), (R.ptp_TIME_FRAC_FRAC, fun s _ => s.wall.frac / 2 ^ 32),
   (R.ptp_RATE_RATE, fun s _ => toField 32 s.wall.rate),
   (R.tending_NEXT_FRAMES, fun s _ => s.framesToReplan), (R.tending_MON_VALUE_VALUE, fun s i => s.monitor i),
   (R.coldframe_SEC_LO_SEC, fun s _ => s.coldTime.1), (R.coldframe_SEC_HI_SEC, fun s _ => s.coldTime.1 / 2 ^ 32),
   (R.coldframe_SEC_HI_SUB, fun s _ => s.coldTime.2), (R.coldframe_RET_DATA_DATA, fun s i => leAt s.cold.ret (4 * i) 4),
   (R.xspi_SLV_STAT_RESP_Q, fun s _ => s.xspi.resps.length), (R.xspi_SLV_STAT_REQ_FULL, fun s _ => b2n s.xspi.reqBuf.isSome),
   (R.graft_SYNC_INT_ORBITS, fun s _ => s.syncOrbits), (R.graft_STAT_ELIGIBLE, fun s _ => b2n s.eligible),
   (R.graft_STAT_TOKEN_FREE, fun s _ => b2n s.tokenFree),
   (R.clocks_RUN_LO_CD, fun s _ => s.runBits 0), (R.clocks_RUN_HI_CD, fun s _ => s.runBits 32),
   (R.clocks_CD_FREQ_KHZ, fun s n => if s.cdRuns n then s.freeNow else 0)]
  ++ ineligConds.map fun c => (c.1, fun s _ => b2n (c.2 s))

/-- The value in effect of a field instance. DEDUCED, log entry 85. -/
def State.liveField (s : State) (f : Fld) (i : Nat) : Nat :=
  match computedFields.find? fun c => c.1 == f with
  | some c => c.2 s i % 2 ^ f.width
  | none => s.gi f i

/-- The fields that read as the last read of a _LO register latched them, by that register (R389). -/
def latchTable : List (Nat × List Fld) :=
  [(0x001058, [R.trellis_ORBIT_NOW_HI_ORBIT_HI]), (0x00004C, [R.global_DIE_ID_HI_ID]),
   (0x000070, [R.global_COMMIT_HI_ORBIT_HI]), (0x03805C, [R.fwin_PTR_HI_SEQ_HI]),
   (0x049054, [R.scrub_UE_CAPT_HI_ADDR_HI]), (0x04A058, [R.spare_DEG_ORBIT_HI_ORBIT_HI]),
   (0x00604C, [R.graft_TAKE_HI_ORBIT_HI]), (0x006054, [R.graft_REL_HI_ORBIT_HI]),
   (0x004048, [R.coldframe_SEC_HI_SEC, R.coldframe_SEC_HI_SUB]),
   (0x00C054, [R.ptp_TIME_SEC_HI_SEC, R.ptp_TIME_NS_NS, R.ptp_TIME_FRAC_FRAC])]

/-- A field that reads as latched. -/
def isLatched (f : Fld) : Bool := latchTable.any fun x => x.2.contains f

/-- A read of a _LO register latches its _HI fields, of the instance read. -/
def State.latchHi (s : State) (addr : Nat) : State :=
  match latchTable.find? fun x => x.1 == addr with
  | none => s
  | some x =>
    let i := (s.inst (pageOf addr) (offOf addr)).getD 0
    x.2.foldl (fun t f =>
      { t with latches := aput t.latches f.addr (aget 0 t.latches f.addr % 2 ^ f.lsb + s.liveField f i * 2 ^ f.lsb) }) s

/-- The staged value of a field instance. -/
def State.stagedOf (s : State) (f : Fld) (i : Nat) : Option Nat :=
  (s.zcs.staged.find? fun w => w.fld == f && w.idx == i).map (·.val)

/-- The receive fields of the lane pages. -/
def receiveFields : List Fld :=
  [R.lane_LANE_CFG_RX_PRECODE, R.lane_LANE_CFG_RX_INV, R.lane_PWR_REQ_RX_REQ, R.lane_LANE_STAT_BLOCK_LOCK,
   R.lane_LANE_STAT_FRAME_LOCK, R.lane_LANE_STAT_RX_STATE, R.lane_LANE_STAT_BOUND_HIT, R.lane_HDR_ERR_COUNT,
   R.lane_LOCK_LOSS_BLOCK, R.lane_LOCK_LOSS_FRAME, R.lane_CTLE_BOUND_MIN, R.lane_CTLE_BOUND_MAX, R.lane_DFE_BOUND_H1_MAX,
   R.lane_DFE_BOUND_HN_MAX, R.lane_EQ_NOW_CTLE, R.lane_EQ_NOW_H1, R.lane_EYE_CTRL_DWELL, R.lane_EYE_RESULT_WIDTH,
   R.lane_EYE_RESULT_VALID, R.lane_EYE_RESULT_HEIGHT, R.lane_EYE_RESULT_WORST, R.lane_RETRAIN_INTERVAL,
   R.lane_RETRAIN_COUNT]

/-- A receive field of H02 to H15, which reads as 0 and takes no write (R148). -/
def deadReceive (f : Fld) (i : Nat) : Bool := decide (34 ≤ i) && receiveFields.contains f

/-- What a field instance reads as on a page (R11, R148, R383, R389). -/
def State.readField (s : State) (p : Nat) (f : Fld) (i : Nat) : Nat :=
  if f.acc = .wo ∨ deadReceive f i = true then 0
  else if isLatched f then bitsAt (aget 0 s.latches f.addr) f.lsb f.width
  else if f.acc = .rws ∧ s.on R.hdr_SHADOW_CTRL_READ_STAGED p then (s.stagedOf f i).getD (s.liveField f i)
  else s.liveField f i

/-- The lane of a block register of a lane page lies in a domain that is off (R379). -/
def State.laneOff (s : State) (p off : Nat) : Bool :=
  (p == 0x030 || p == 0x031) && decide (0x044 ≤ off) &&
    (match s.inst p off with
     | some l => !s.pd (laneDomain l)
     | none => false)

/-- The word a register reads as. -/
def State.wordAt (s : State) (p off : Nat) : Nat :=
  if s.laneOff p off then 0
  else match s.inst p off with
    | none => 0
    | some i => (fieldsAt p off).foldl (fun v f => v + s.readField p f i * 2 ^ f.lsb) 0

/-- What a read does to a field (R11): an RC field clears, CHUNK_LOW starts again from the free chunks (R288) and BACKLOG_MAX
from BACKLOG (R309). -/
def State.afterRead (s : State) (f : Fld) (i : Nat) : State :=
  if f.acc != .rc then s
  else if f = R.comp_CHUNK_LOW_LOW then s.p f (s.g R.comp_CHUNK_FREE_FREE)
  else if f = R.harv_BACKLOG_MAX_BYTES then s.p f s.backlog
  else if f = R.rec_MEAS_PCOUNT_COUNT then s.pcountRead i
  else s.pi f i 0

/-- The effects of a read but for the advance of R388. -/
def State.readEffects (s : State) (p off : Nat) : State :=
  if s.laneOff p off then s
  else match s.inst p off with
    | none => s
    | some i =>
      let s := (fieldsAt p off).foldl (fun s f => s.afterRead f i) s
      if p = 0x004 ∧ off = 0x054 then s.p R.coldframe_RET_INDEX_WORD ((s.g R.coldframe_RET_INDEX_WORD + 1) % 64)
      else if p = 0x002 ∧ off = 0x054 then s.drew
      else s

/-- A register read: the state and the word. -/
def State.readOnce (s : State) (addr : Nat) : State × Nat :=
  let p := pageOf addr
  let off := offOf addr
  if addr = 0x032060 then s.scRx
  else if addr = 0x00D064 then s.hdgRx
  else
    let s := s.latchHi addr
    (s.readEffects p off, s.wordAt p off)

/-- A register read of a run, after which its window advances (R388). -/
def State.readWord (s : State) (addr : Nat) : State × Nat :=
  let (s, v) := s.readOnce addr
  (s.advance (pageOf addr) (offOf addr), v)

/-! ## Writing -/

/-- What writes have come to: the state, whether one was refused by the stage-owner rule, the values that are a commit of
their own (R222, R250), and the RWS values that an image sets directly (R371). -/
structure Written where
  st : State
  denied : Bool
  own : List Staged
  set : List Staged
  deriving DecidableEq, Repr

/-- A value that an RW field takes; others are ignored and counted. DEDUCED, log entry 104. -/
def Fld.takes (f : Fld) (v : Nat) : Bool :=
  if f = R.trellis_BC_NOMINAL_FREQ then v == 0 || (decide (30000000 ≤ v) && decide (v ≤ 50000000))
  else if f = R.power_PFAIL_CFG_THRESH then decide (70 ≤ v) && decide (v ≤ 500)
  else if f = R.xspi_SLV_CFG_WIDTH then v != 3
  else if f = R.xspi_MST_CFG_IMG_OFF then decide (v ≤ 3840)
  else if [R.nvm_WEAR_CFG_PULSE_LIM, R.xspi_SLV_CFG_WAIT, R.spare_CE_LIMIT_WINDOW, R.ptp_OT_CFG_EVERY].contains f then v != 0
  else true

/-- A write that is ignored because the hub streams (R32, R33). DEDUCED, log entry 113. -/
def State.fixedWrite (s : State) (f : Fld) (i v : Nat) : Bool :=
  s.live && (f == R.trellis_BC_NOMINAL_FREQ || (f == R.trellis_TIMING_MODE && s.gi f i != v))

/-- A field that is not RWS takes its bits of a written word (R11, R381). DEDUCED, log entry 104.
DESIGN CHOICE, log entry 135. -/
def State.writeField (s : State) (p off i w : Nat) (f : Fld) : State :=
  let v := bitsAt w f.lsb f.width
  match f.acc with
  | .rw => if !f.takes v then s.err p 1 off else if s.fixedWrite f i v then s.err p 2 off else s.pi f i v
  | .w1c => s.pi f i (w1c (s.gi f i) v)
  | _ => s

/-- RC fields that are no counters: flags, queues and extremes, which CNT_CLR leaves (R380, DEDUCED, log entry 59). -/
def notCounters : List Fld :=
  [R.clocks_LOSS_LO_CD, R.clocks_LOSS_HI_CD, R.ing_SC_RX_BYTE, R.ing_SC_RX_FIRST, R.ing_SC_RX_LAST, R.ing_SC_RX_VALID,
   R.hdg_RX_BYTE, R.hdg_RX_VALID, R.hdg_RX_FIRST, R.comp_CHUNK_LOW_LOW, R.mport_LAT_MAX_NS, R.harv_BACKLOG_MAX_BYTES,
   R.harv_LIGHT_MAX_US, R.power_START_MAX_US]

/-- The RC counters of a page's block registers. DEDUCED, log entry 59. -/
def countersOf (p : Nat) : List Fld := (tableOf (pageBase p)).filter fun f => f.acc == .rc && !notCounters.contains f

/-- An instance of a block register belongs to a page. -/
def instanceOf (p i : Nat) : Bool :=
  if 0x41 ≤ p ∧ p < 0x49 then i / 32 == p - 0x41 else if p = 0x030 then decide (i < 32) else if p = 0x031 then decide (32 ≤ i)
  else true

/-- CTRL (R380): ERR_CLR and CNT_CLR. DEDUCED, log entry 59. -/
def State.writeCtrl (s : State) (p w : Nat) : State :=
  let s := if bitAt w 0 then
      [R.hdr_ERR_COUNT_COUNT, R.hdr_ERR_CAPT_WHAT, R.hdr_ERR_CAPT_CAUSE, R.hdr_ERR_CAPT_INDEX].foldl (fun s f => s.pi f p 0) s
    else s
  if bitAt w 1 then
    let s := s.pi R.hdr_ERR_COUNT_COUNT p 0
    { s with regs := s.regs.filter fun (e : Nat × Nat) => !(keyIn (countersOf p) e.1 && instanceOf p (e.1 % 2 ^ 20)) }
  else s

/-- SHADOW_CTRL (R383): READ_STAGED, and a DISCARD that the stage owner allows. DEDUCED, log entry 83. -/
def State.writeShadow (s : State) (p w : Nat) : State :=
  let s := s.pi R.hdr_SHADOW_CTRL_READ_STAGED p (w % 2)
  if bitAt w 1 then
    let l := s.zcs.staged.filter fun x => x.page != p
    { s with zcs := { s.zcs with
        staged := l, owner := if l.isEmpty then none else s.zcs.owner
        stagedMode := if l.isEmpty then none else s.zcs.stagedMode } }
  else s

/-- A switch of the xSPI port's role, acting 1 µs after the command that carries it: what is in progress is cut, and the
port enters its new mode idle (R474, R479). DEDUCED, log entry 96. -/
def State.xspiMode (s : State) (mode : Nat) : State :=
  if s.g R.xspi_CFG_MODE = mode then s
  else
    let s := (s.p R.xspi_CFG_MODE mode).p R.xspi_MST_STAT_CONT_ACTIVE 0
    { s with xspi := { s.xspi with lines := [], abandoned := s.xspi.abandoned || s.image.fetching || s.image.refetch } }

/-- MST_CFG: a change of CS or IMG_OFF invalidates the prefetch lines, and leaves the continuous-read mode where the
select changes (R478, R479). DEDUCED, log entry 96. -/
def State.writeMst (s : State) (w : Nat) : State :=
  let t := (fieldsAt 0x00A 0x054).foldl (fun s f => s.writeField 0x00A 0x054 0 w f) s
  let cs := t.g R.xspi_MST_CFG_CS != s.g R.xspi_MST_CFG_CS
  let t := if cs then t.p R.xspi_MST_STAT_CONT_ACTIVE 0 else t
  if cs || t.g R.xspi_MST_CFG_IMG_OFF != s.g R.xspi_MST_CFG_IMG_OFF then { t with xspi := { t.xspi with lines := [] } } else t

/-- A word written to the fields of a register that are not RWS, those registers first whose writes have a rule of their
own. DEDUCED, log entry 113. -/
def State.writeWord (s : State) (p off i w : Nat) : State :=
  let word := BitVec.ofNat 32 w
  let lane := pageInst p + s.gi R.lane_LANE_INDEX_LANE (pageInst p)
  if off = 0x008 then s.writeCtrl p w
  else if off = 0x020 then s.writeShadow p w
  else match pageBase p, off with
    | 0x001, 0x050 => { s with held := aput s.held 0x001050 w }
    | 0x001, 0x054 => s.orbitLoadArm word
    | 0x003, 0x060 => s.pdReqWrite word
    | 0x00A, 0x040 => s.xspiMode (w % 2)
    | 0x00A, 0x054 => s.writeMst w
    | 0x00C, 0x040 => ((fieldsAt 0x00C 0x040).foldl (fun s f => s.writeField 0x00C 0x040 0 w f) s).ptpPortWritten
    | 0x00D, 0x060 => s.hdgTx w
    | 0x00F, 0x058 => s.safeForced word
    | 0x010, 0x074 => s.lineCheckStart (p - 0x10) word
    | 0x02B, 0x060 => s.rearmRequest word
    | 0x030, 0x048 => s.lanePwrReq lane word
    | 0x030, 0x064 => s.eyeCtrl lane word
    | 0x032, 0x058 => s.fcReq word
    | 0x032, 0x05C => s.scTx word
    | 0x040, 0x040 => s.mapOrder word
    | _, _ => (fieldsAt p off).foldl (fun s f => s.writeField p off i w f) s

/-- The registers whose writes are checked and committed at once, like an overlay (R222, R250).
DEDUCED, log entry 80. -/
def commitsItself (p off : Nat) : Bool := [(0x039, 0x040), (0x039, 0x044), (0x049, 0x040)].contains (p, off)

/-- The number of class words staged. -/
def State.classesStaged (s : State) : Nat := (s.zcs.staged.filter fun w => w.fld == R.cwin_CS_DATA_CLASSES).length

/-- Values staged by an actor, who owns the stage from the first one on (R367); class words up to 4,096 (R170).
DEDUCED, log entry 113. -/
def State.stage (s : State) (who : Actor) (l : List Staged) : State :=
  l.foldl (fun s w =>
    let held := s.zcs.staged.any fun x => x.fld == w.fld && x.idx == w.idx
    if w.fld = R.cwin_CS_DATA_CLASSES ∧ 4096 ≤ s.classesStaged ∧ !held then s.err 0x033 3 0x044
    else { s with zcs := { s.zcs with staged := merge s.zcs.staged w, owner := some who } }) s

/-- A word written to a register by an actor, or by an image, whose RWS fields take effect directly (R365, R371, R383).
DEDUCED, log entry 142. -/
def Written.write (x : Written) (who : Option Actor) (addr w : Nat) : Written :=
  let s := x.st
  let p := pageOf addr
  let off := offOf addr
  let fs := fieldsAt p off
  let done := fun (t : State) => { x with st := t.advance p off }
  if fs.isEmpty then done s
  else if s.laneOff p off then done (s.err p 4 off)
  else match s.inst p off with
    | none => done (if readsZero p off then s else s.err p 1 off)
    | some i =>
      let l := (s.rwsOf p off w).filter fun v => !deadReceive v.fld v.idx
      match who with
      | none =>
        let (s, l) := s.keepHighZ l
        let t := (l.foldl (fun t v => t.pi v.fld v.idx v.val) (s.writeWord p off i w))
        { x with st := t.advance p off, set := l.foldl merge x.set }
      | some a =>
        if (!l.isEmpty || (off == 0x020 && bitAt w 1)) && s.notOwner a then { x with denied := true }
        else if commitsItself p off then { x with st := s.advance p off, own := l.foldl merge x.own }
        else
          let (s, l) := s.keepHighZ l
          done ((s.writeWord p off i w).stage a l)

/-! ## Runs (R363, R365, R376) -/

/-- The address of word `i` of a run. -/
def runAddr (addr : Nat) (fixed : Bool) (i : Nat) : Nat := if fixed then addr else addr + 4 * i

/-- Why a run is refused before it acts: BAD_PARAM for its address or count, DENIED for a page that is off.
DEDUCED, log entry 77. -/
def State.runFault (s : State) (addr n most : Nat) (fixed : Bool) : Option Nat :=
  let p := pageOf addr
  if addr % 4 ≠ 0 ∨ !pageExists p ∨ n = 0 ∨ most < n ∨ pageOf (runAddr addr fixed (n - 1)) ≠ p then some stBadParam
  else if !s.reachable p then some stDenied else none

/-- The writes of a run in order, and the commit of its own that its values make (R222, R363): the state, the status and
the report of a refusal. A run that is refused changes nothing, but a check that failed is recorded (R210). -/
def State.writeRun (s : State) (who : Actor) (l : List (Nat × Nat)) : State × Nat × List Byte :=
  let x := l.foldl (fun (x : Written) aw => x.write (some who) aw.1 aw.2) ⟨s, false, [], []⟩
  if x.denied then (s, stDenied, [])
  else if x.own.isEmpty then (x.st, stOk, [])
  else match x.st.commitRequest none 0 x.own none 0 false id with
    | (t, .done st b) =>
      if st = stOk ∨ st = stPending then (t, stOk, [])
      else (if b.isEmpty then s else (s.runBudget (x.st.after x.own)).1, st, b)
    | (_, .bad st) => (s, st, [])
    | (_, .long) => (s, stBusy, [])

/-- A status as a reply: BUSY is not cached (R357). -/
def replyOf (st : Nat) (b : List Byte) : Reply := if st = stBusy then .bad st else .done st b

/-- REG_READ (R364, R365). -/
def State.regRead (s : State) (addr n : Nat) (fixed : Bool) : State × Reply :=
  match s.runFault addr n 256 fixed with
  | some st => (s, .done st [])
  | none =>
    let (s, b) := (List.range n).foldl (fun (s, b) i =>
      let (s, v) := s.readWord (runAddr addr fixed i)
      (s, b ++ le 4 v)) (s, ([] : List Byte))
    (s, .done stOk b)

/-- REG_WRITE (R363 to R365). -/
def State.regWrite (s : State) (who : Actor) (addr : Nat) (fixed : Bool) (words : List Word) : State × Reply :=
  match s.runFault addr words.length 1018 fixed with
  | some st => (s, .done st [])
  | none =>
    let l := (List.range words.length).map fun i => (runAddr addr fixed i, (words.getD i 0#32).toNat)
    let (t, st, b) := s.writeRun who l
    (t, replyOf st b)

/-- REG_MODIFY (R364, R385): one indivisible read and write. DEDUCED, log entry 88. -/
def State.regModify (s : State) (who : Actor) (addr : Nat) (mask value : Word) : State × Reply :=
  match s.runFault addr 1 1 true with
  | some st => (s, .done st [])
  | none =>
    let (t, v) := s.readOnce addr
    let old := BitVec.ofNat 32 v
    let new := (old &&& ~~~mask) ||| (value &&& mask)
    let (u, st, b) := t.writeRun who [(addr, new.toNat)]
    if st = stOk then (u, .done stOk (le 4 old.toNat ++ le 4 new.toNat))
    else
      let own := s.rwsOf (pageOf addr) (offOf addr) new.toNat
      (if b.isEmpty then s else (s.runBudget (s.after own)).1, replyOf st b)

/-- An access through the slave port renews its own session's lease (R384). -/
def State.renewActor (s : State) (who : Actor) : State :=
  match who with
  | .xspi => { s with zcs := { s.zcs with slaveNs := s.nowNs } }
  | .session _ => s

/-- One register written by an actor, on a reachable page; a refused write changes nothing. -/
def State.writeReg (s : State) (who : Actor) (addr : Nat) (w : Word) : State :=
  let s := s.renewActor who
  match s.runFault addr 1 1 true with
  | some _ => s
  | none => (s.writeRun who [(addr, w.toNat)]).1

/-- One register read, on a reachable page: a read that the row of the table stands for. -/
def State.readReg (s : State) (addr : Nat) : State :=
  match s.runFault addr 1 1 true with
  | some _ => s
  | none => (s.readWord addr).1

/-- A window register accessed. -/
def State.access (s : State) (addr : Nat) (a : Access) : State :=
  match a with
  | .read => s.readReg addr
  | .write who w => s.writeReg who addr w

/-- The actor of a row whose register stages nothing: no stage-owner rule applies to it. -/
def anyActor : Actor := .session 0#32

/-- A register that stages nothing, written. -/
def State.writePlain (s : State) (addr : Nat) (w : Word) : State := s.writeReg anyActor addr w

/-! ## Commands and register rows -/

/-- REG_READ. -/
def execRegRead (h : Hdr) (addr count : Nat) (fixed : Bool) (s : State) : Host.Outcome State Fault Refusal :=
  .next (s.zcsRun (.regRead h addr count fixed) h 0x0010 true fun s => s.regRead addr count fixed)

/-- REG_WRITE. -/
def execRegWrite (h : Hdr) (addr : Nat) (fixed : Bool) (words : List Word) (s : State) : Host.Outcome State Fault Refusal :=
  .next (s.zcsRun (.regWrite h addr fixed words) h 0x0011 true fun s => s.regWrite (.session h.session) addr fixed words)

/-- REG_MODIFY. -/
def execRegModify (h : Hdr) (addr : Nat) (mask value : Word) (s : State) : Host.Outcome State Fault Refusal :=
  .next (s.zcsRun (.regModify h addr mask value) h 0x0012 true fun s => s.regModify (.session h.session) addr mask value)

/-- FC_REQ_WRITE. -/
def execFcReqWrite (w : Word) (s : State) : Host.Outcome State Fault Refusal := .next (s.writePlain 0x032058 w)

/-- SC_TX_WRITE. -/
def execScTxWrite (w : Word) (s : State) : Host.Outcome State Fault Refusal := .next (s.writePlain 0x03205C w)

/-- SC_RX_READ. -/
def execScRxRead (s : State) : Host.Outcome State Fault Refusal := .next (s.readReg 0x032060)

/-- CS_DATA_ACCESS. -/
def execCsDataAccess (a : Access) (s : State) : Host.Outcome State Fault Refusal := .next (s.access 0x033044 a)

/-- COEF_ACCESS. -/
def execCoefAccess (a : Access) (s : State) : Host.Outcome State Fault Refusal := .next (s.access 0x02904C a)

/-- MASK_ACCESS. -/
def execMaskAccess (a : Access) (s : State) : Host.Outcome State Fault Refusal := .next (s.access 0x02B054 a)

/-- MEMBER_ACCESS. -/
def execMemberAccess (a : Access) (s : State) : Host.Outcome State Fault Refusal := .next (s.access 0x035054 a)

/-- RET_DATA_READ. -/
def execRetDataRead (s : State) : Host.Outcome State Fault Refusal := .next (s.readReg 0x004054)

/-- MEAS_PCOUNT_READ. -/
def execMeasPcountRead (s : State) : Host.Outcome State Fault Refusal := .next (s.readReg 0x02A07C)

/-- LANE_PWR_REQ. -/
def execLanePwrReq (harvest : Bool) (w : Word) (s : State) : Host.Outcome State Fault Refusal :=
  .next (s.writePlain (if harvest then 0x031048 else 0x030048) w)

/-- EYE_SCAN_START. -/
def execEyeScanStart (harvest : Bool) (w : Word) (s : State) : Host.Outcome State Fault Refusal :=
  .next (s.writePlain (if harvest then 0x031064 else 0x030064) w)

/-- MAP_ORDER_WRITE. -/
def execMapOrderWrite (w : Word) (s : State) : Host.Outcome State Fault Refusal := .next (s.writePlain 0x040040 w)

/-- BUDGET_RESERVE_WRITE. -/
def execBudgetReserveWrite (who : Actor) (w : Word) (s : State) : Host.Outcome State Fault Refusal :=
  .next (s.writeReg who 0x039040 w)

/-- ACK_WIN_WRITE. -/
def execAckWinWrite (who : Actor) (w : Word) (s : State) : Host.Outcome State Fault Refusal :=
  .next (s.writeReg who 0x039044 w)

/-- SCRUB_PERIOD_WRITE. -/
def execScrubPeriodWrite (who : Actor) (w : Word) (s : State) : Host.Outcome State Fault Refusal :=
  .next (s.writeReg who 0x049040 w)

/-- STORED_ONLY_CLEAR. -/
def execStoredOnlyClear (w : Word) (s : State) : Host.Outcome State Fault Refusal := .next (s.writePlain 0x03B048 w)

/-- VEXC_FAULT_CLEAR. -/
def execVexcFaultClear (w : Word) (s : State) : Host.Outcome State Fault Refusal := .next (s.writePlain 0x00E060 w)

/-- SAFE_FORCE. -/
def execSafeForce (w : Word) (s : State) : Host.Outcome State Fault Refusal := .next (s.writePlain 0x00F058 w)

/-- HDG_TX_WRITE. -/
def execHdgTxWrite (w : Word) (s : State) : Host.Outcome State Fault Refusal := .next (s.writePlain 0x00D060 w)

/-- HDG_RX_READ. -/
def execHdgRxRead (s : State) : Host.Outcome State Fault Refusal := .next (s.readReg 0x00D064)

/-- SHADOW_DISCARD. -/
def execShadowDiscard (who : Actor) (page : Nat) (w : Word) (s : State) : Host.Outcome State Fault Refusal :=
  .next (s.writeReg who (4096 * page + 0x020) w)

/-- ERR_CLEAR. -/
def execErrClear (page : Nat) (s : State) : Host.Outcome State Fault Refusal := .next (s.writePlain (4096 * page + 0x008) 1#32)

/-- COUNTER_CLEAR. -/
def execCounterClear (page : Nat) (s : State) : Host.Outcome State Fault Refusal :=
  .next (s.writePlain (4096 * page + 0x008) 2#32)

/-- XSPI_MODE_WRITE. -/
def execXspiModeWrite (w : Word) (s : State) : Host.Outcome State Fault Refusal := .next (s.writePlain 0x00A040 w)

/-- REGISTER_WRITE. -/
def execRegisterWrite (who : Actor) (addr : Nat) (w : Word) (s : State) : Host.Outcome State Fault Refusal :=
  .next (s.writeReg who addr w)

end Sys2Proof.Machine
end

