-- ==== Sys2Proof/Machine/Xspi.lean ====
section
/-! DEFINITION. The octal serial port: discovery and the XIP window in master mode, and the transactions of slave mode
(R473 to R488). -/
namespace Sys2Proof.Machine

/-- The xSPI part updated. -/
def State.xs (s : State) (f : Xspi → Xspi) : State := { s with xspi := f s.xspi }

/-- The port is a master. -/
def State.xspiMaster (s : State) : Bool := s.g R.xspi_CFG_MODE == 0

/-! ## Master mode (R475 to R479) -/

/-- The smallest DIV from 4 to 63 that a maximum frequency in MHz allows, 63 where none does. -/
def divFor (mhz : Nat) : Nat := ((List.range 60).map (4 + ·) |>.find? fun d => decide (800 ≤ d * mhz)).getD 63

/-- Steps 2 and 3 of discovery: the mode and the clock of the image device (R475). Without CD62 the port runs at 25 MHz in
1S-1S-1S. -/
def State.chooseMode (s : State) (d : FlashIn) : State :=
  let main := s.cdRuns 62
  let ddr := main && d.ddr
  let div := if !main then 32 else if ddr then divFor d.ddrMhz else max 16 (divFor d.sdrMhz)
  let mhz := if main then (freeQuot 800 div).toNat else 25
  ((s.p R.xspi_MST_STAT_DDR (b2n ddr)).p R.xspi_MST_CFG_DIV div).p R.xspi_MST_STAT_MHZ mhz

/-- The image device answers: it lies on the select of MST_CFG.CS. -/
def State.imageDevice (s : State) (d : FlashIn) : Bool := bitAt d.present (s.g R.xspi_MST_CFG_CS)

/-- A fetch of an image starts: the lines are invalid, and the continuous-read mode is left (R478, R479). -/
def State.startFetch (s : State) : State :=
  (s.p R.xspi_MST_STAT_CONT_ACTIVE 0).xs fun x => { x with lines := [], abandoned := false }

/-- What discovery found (R475): which selects answer, and the mode and clock of the image device. -/
def State.discover (s : State) (d : FlashIn) : State :=
  let s := (s.p R.xspi_MST_STAT_PRESENT d.present).xs fun x => { x with dev := some d }
  if d.present % 16 = 0 then ((s.p R.xspi_MST_STAT_NO_FLASH 1).p R.xspi_MST_STAT_DDR 0).event 0x00A
  else
    let s := s.p R.xspi_MST_STAT_NO_FLASH 0
    if s.imageDevice d then s.chooseMode d else s.p R.xspi_MST_STAT_DDR 0

/-- CD62 becomes present, and steps 2 and 3 are repeated; or it is lost, and the port runs from CD01 (R475). -/
def State.rediscover (s : State) : State :=
  match s.xspi.dev with
  | some d => if s.xspiMaster && s.imageDevice d then s.chooseMode d else s
  | none => s

/-- The prefetch lines after line `l` is filled and the next one after it (R478). DEDUCED, log entry 99. -/
def fillLines (lines : List Nat) (l : Nat) : List Nat :=
  let rest := lines.filter (· != l)
  let next := l + 1
  if rest.contains next ∨ 2 ^ 20 ≤ next then (l :: rest).take 4 else l :: next :: rest.take 2

/-- XIP_READ: a read of the command pair through the window, with the DQS timeouts its fill meets (R476 to R479).
DEDUCED, log entry 99. -/
def State.xipRead (s : State) (offset timeouts : Nat) : State :=
  match s.xspi.dev with
  | none => s
  | some d =>
    if !s.xspiMaster ∨ !s.imageDevice d ∨ 2 ^ 28 ≤ offset then s
    else
      let s := if d.cont && s.on R.xspi_MST_CFG_CONT 0 then s.p R.xspi_MST_STAT_CONT_ACTIVE 1 else s
      let l := offset / 256
      if s.xspi.lines.contains l then
        ((s.inc R.xspi_PF_STAT_HIT 0 1).xs fun x => { x with lines := l :: x.lines.filter (· != l) }).emit (.xip offset true)
      else
        let n := if s.on R.xspi_MST_STAT_DDR 0 then timeouts else 0
        let s := (s.inc R.xspi_PF_STAT_MISS 0 1).inc R.xspi_MST_ERR_DQS_TIMEOUT 0 (min 4 n)
        if 4 ≤ n then
          (((s.inc R.xspi_MST_ERR_ABANDONED 0 1).event 0x00A).xs fun x => { x with abandoned := true }).emit (.xip offset false)
        else (s.xs fun x => { x with lines := fillLines x.lines l }).emit (.xip offset true)

/-! ## Slave mode (R480 to R487) -/

/-- The slave port is up: MODE is slave, and start-up has come to step 5 (R490). -/
def State.slaveUp (s : State) : Bool := !s.xspiMaster && decide (4 ≤ s.boot.step) && !s.boot.held

/-- The status byte (R482). -/
def State.slaveStatus (s : State) (ready : Bool) : Nat :=
  b2n ready + 2 * b2n (s.g R.xspi_SLV_STAT_LAST_ERR != 0) + 4 * s.g R.xspi_SLV_STAT_SEQ + 8 * b2n (!s.xspi.resps.isEmpty)
    + 16 * b2n s.xspi.reqBuf.isSome + 32 * b2n ((List.range 3).any fun n => s.irqSum n != 0) + 128

/-- LAST_ERR of the transaction that ends. -/
def State.lastErr (s : State) (e : Nat) : State := s.p R.xspi_SLV_STAT_LAST_ERR e

/-- A transaction took effect: it is counted and SEQ toggles (R485). -/
def State.tookEffect (s : State) (e : Nat) : State :=
  ((s.lastErr e).p R.xspi_SLV_STAT_SEQ (1 - s.g R.xspi_SLV_STAT_SEQ)).incW R.xspi_SLV_TRANS_COUNT 0 1

/-- CS rises in the middle of the header or of a word (R486). -/
def State.slaveAbort (s : State) (cmd : Nat) : State :=
  (((s.lastErr 5).inc R.xspi_SLV_CNT_SLAVE_ABORT 0 1).err 0x00A 5 cmd).event 0x00A

/-- How a register transaction ends. DEDUCED, log entry 96. -/
def State.endRegs (s : State) (cmd e : Nat) (broken : Bool) : State :=
  if broken then s.slaveAbort cmd else s.tookEffect e

/-- A transaction whose READY was clear: nothing is done (R484). DEDUCED, log entry 98. -/
def State.notReady (s : State) (e bytes : Nat) : State :=
  (s.emit (.slave (s.slaveStatus false) (List.replicate bytes 0#8))).lastErr e

/-- LAST_ERR of an access that R376 or R365 would refuse, 0 where none does (R484). -/
def State.accessErr (s : State) (addr : Nat) : Nat :=
  match s.runFault addr 1 1 true with
  | none => 0
  | some st => if st = stDenied then 3 else 2

/-- XSPI_REG_READ: the completed words (R483 to R486). -/
def State.slaveRegRead (s : State) (addr count : Nat) (fixed ready : Bool) (done : Nat) (broken : Bool) : State :=
  if !s.slaveUp ∨ count = 0 ∨ 64 < count then s
  else
    let s := s.renewActor .xspi
    let status := s.slaveStatus ready
    let n := min done count
    if !ready then s.notReady 4 (4 * n)
    else
      let (s, b, e) := (List.range n).foldl (fun (s, b, e) i =>
        let a := runAddr addr fixed i
        let x := s.accessErr a
        if x ≠ 0 then (s, b ++ le 4 0, x)
        else
          let (s, v) := s.readWord a
          (s, b ++ le 4 v, e)) (s, ([] : List Byte), 0)
      (s.emit (.slave status b)).endRegs 0x0B e (broken && decide (n < count))

/-- XSPI_REG_WRITE: the completed words, each by itself (R483 to R486). DEDUCED, log entry 97. -/
def State.slaveRegWrite (s : State) (addr count : Nat) (fixed ready : Bool) (words : List Word) (broken : Bool) : State :=
  if !s.slaveUp ∨ count = 0 ∨ 64 < count then s
  else
    let s := s.renewActor .xspi
    let s := s.emit (.slave (s.slaveStatus ready) [])
    if !ready then s.lastErr 4
    else
      let n := min words.length count
      let (s, e) := (List.range n).foldl (fun (s, e) i =>
        let a := runAddr addr fixed i
        let x := s.accessErr a
        if x ≠ 0 then (s, x) else (s.writeReg .xspi a (words.getD i 0#32), e)) (s, 0)
      s.endRegs 0x02 e (broken && decide (n < count))

/-- XSPI_STATUS: SLV_STAT (R483). DEDUCED, log entry 97. -/
def State.slaveStat (s : State) : State :=
  if !s.slaveUp then s
  else (s.emit (.slave (s.slaveStatus true) (le 4 (s.wordAt 0x00A 0x048)))).tookEffect 0

/-- XSPI_ZCS_WRITE: a message of `len` bytes, of which whole words have come (R484, R487). DEDUCED, log entry 98. -/
def State.slaveZcsWrite (s : State) (len : Nat) (bytes : List Byte) : State :=
  if !s.slaveUp then s
  else
    let full := s.xspi.reqBuf.isSome
    let bad := decide (len < 16) || decide (4096 < len)
    let s := s.emit (.slave (s.slaveStatus (!full && !bad)) [])
    if full then s.lastErr 6
    else if bad then s.lastErr 7
    else
      let s := s.tookEffect 0
      if bytes.length < 4 * ceilDiv len 4 then s else s.arriveSlave (bytes.take len)

/-- XSPI_ZCS_READ: the oldest response, kept where it exceeds `max` or its last word was not transferred (R487). -/
def State.slaveZcsRead (s : State) (max : Nat) (finished : Bool) : State :=
  if !s.slaveUp then s
  else
    let status := s.slaveStatus true
    match s.xspi.resps with
    | [] => (s.emit (.slave status (le 4 0))).tookEffect 0
    | m :: rest =>
      let fits := decide (m.length ≤ max)
      let b := le 4 m.length ++ (if fits then padTo (4 * ceilDiv m.length 4) m else [])
      let s := (s.emit (.slave status b)).tookEffect 0
      if fits && finished then s.xs fun x => { x with resps := rest } else s

/-- XSPI_UNKNOWN_CMD: READY clear, the data phase ignored (R483). -/
def State.slaveUnknown (s : State) (cmd : Nat) : State :=
  if !s.slaveUp ∨ [0x0B, 0x02, 0x05, 0x12, 0x13].contains cmd then s else s.notReady 1 0

/-- XSPI_ABORT: CS rises in the middle of the header or of a data word; a rise before the first data word leaves what
READY says, which an unknown command, a full request buffer and a bad length leave clear too (R483, R484, R486). -/
def State.slaveBroken (s : State) (cmd : Nat) (mid ready : Bool) : State :=
  if !s.slaveUp then s
  else if mid then s.slaveAbort cmd
  else if !([0x0B, 0x02, 0x05, 0x12, 0x13].contains cmd) then s.lastErr 1
  else if cmd == 0x12 && s.xspi.reqBuf.isSome then s.lastErr 6
  else if ready then s.tookEffect 0
  else s.lastErr (if cmd = 0x12 then 7 else 4)

/-! ## Meanings -/

/-- XIP_READ. -/
def execXipRead (offset timeouts : Nat) (s : State) : Host.Outcome State Fault Refusal := .next (s.xipRead offset timeouts)

/-- XSPI_REG_READ. -/
def execXspiRegRead (addr count : Nat) (fixed ready : Bool) (done : Nat) (broken : Bool) (s : State) :
    Host.Outcome State Fault Refusal := .next (s.slaveRegRead addr count fixed ready done broken)

/-- XSPI_REG_WRITE. -/
def execXspiRegWrite (addr count : Nat) (fixed ready : Bool) (words : List Word) (broken : Bool) (s : State) :
    Host.Outcome State Fault Refusal := .next (s.slaveRegWrite addr count fixed ready words broken)

/-- XSPI_STATUS. -/
def execXspiStatus (s : State) : Host.Outcome State Fault Refusal := .next s.slaveStat

/-- XSPI_ZCS_WRITE. -/
def execXspiZcsWrite (len : Nat) (bytes : List Byte) (s : State) : Host.Outcome State Fault Refusal :=
  .next (s.slaveZcsWrite len bytes)

/-- XSPI_ZCS_READ. -/
def execXspiZcsRead (max : Nat) (finished : Bool) (s : State) : Host.Outcome State Fault Refusal :=
  .next (s.slaveZcsRead max finished)

/-- XSPI_UNKNOWN_CMD. -/
def execXspiUnknownCmd (cmd : Nat) (s : State) : Host.Outcome State Fault Refusal := .next (s.slaveUnknown cmd)

/-- XSPI_ABORT. -/
def execXspiAbort (cmd : Nat) (mid ready : Bool) (s : State) : Host.Outcome State Fault Refusal :=
  .next (s.slaveBroken cmd mid ready)

/-- CLOCK_DOMAIN_LOSS: a clock domain stops or loses lock; without CD62 the port falls back to CD01 (R392, R475). -/
def execClockDomainLoss (cd : Nat) (s : State) : Host.Outcome State Fault Refusal :=
  let t := s.clockDomainLoss cd
  .next (if s.cdRuns 62 && !t.cdRuns 62 then t.rediscover else t)

/-- REFERENCE_CLOCK_PRESENT: CD49 or CD62 becomes present (R43, R475). -/
def execReferenceClockPresent (cd : Nat) (s : State) : Host.Outcome State Fault Refusal :=
  let t := s.referencePresent cd
  .next (if t.cdRuns 62 && !s.cdRuns 62 then t.rediscover else t)

end Sys2Proof.Machine
end

