-- ==== Sys2Proof/Machine/Image.lean ====
section
/-! DEFINITION. A configuration image takes effect: its base runs and tables, the standard banks, the modes it declares;
and IMAGE_LOAD (R90, R371, R493). -/
namespace Sys2Proof.Machine

/-! ## Tables -/

/-- The fields of a descriptor that an image gives (R202, R374). -/
def descValues (f : Nat) (d : List Byte) : List Staged :=
  let c := leAt d 6 1
  let v := fun (fld : Fld) (n : Nat) => (⟨0x038, fld, f, n % 2 ^ fld.width⟩ : Staged)
  [v R.fwin_D_BASE_BASE (leAt d 0 4), v R.fwin_D_BASE_SIZE (leAt d 4 1), v R.fwin_D_CFG_CLASS (leAt d 5 1),
   v R.fwin_D_CFG_EFFORT (bitsAt c 0 3), v R.fwin_D_CFG_PRIO (bitsAt c 3 3), v R.fwin_D_CFG_ENABLE (bitsAt c 6 1),
   v R.fwin_D_CFG_AGE (leAt d 7 1), v R.fwin_D_WORST_WORST (leAt d 8 4), v R.fwin_D_LANES_LANES (leAt d 12 2),
   v R.fwin_D_RETAIN_RETAIN (leAt d 36 4)]

/-- The fields of BANK_CFG. -/
def bankFields : List Fld :=
  [R.coef_BANK_CFG_KIND, R.coef_BANK_CFG_N2, R.coef_BANK_CFG_N4, R.coef_BANK_CFG_S2, R.coef_BANK_CFG_S3,
   R.coef_BANK_CFG_S4, R.coef_BANK_CFG_DEC_MODE, R.coef_BANK_CFG_DEC_PHASE]

/-- The fields of a coefficient bank section (R374): BANK_CFG, h2 and h4. -/
def bankValues (n : Nat) (l : List Byte) : List Staged :=
  bankFields.map (fun f => (⟨0x029, f, n, bitsAt (leAt l 0 4) f.lsb f.width⟩ : Staged))
    ++ (List.range 40).map fun t => ⟨0x029, R.coef_COEF_VALUE, n * 64 + t, leAt l (4 + 2 * t) 2⟩

/-- A standard bank (R90): its reset values, with S3 = log2 k. -/
def standardBank (ksel n : Nat) : List Staged :=
  bankFields.map (fun f => (⟨0x029, f, n, if f = R.coef_BANK_CFG_S3 then min 2 ksel else f.resetOf n⟩ : Staged))
    ++ (List.range 40).map fun t => ⟨0x029, R.coef_COEF_VALUE, n * 64 + t, R.coef_COEF_VALUE.resetOf (n * 64 + t)⟩

/-- The bank of a value of the coefficient page. -/
def Staged.bank (w : Staged) : Nat := if w.fld = R.coef_COEF_VALUE then w.idx / 64 else w.idx

/-- The values a table section sets, none where its block's domain is off (R374). -/
def State.tableValues (s : State) (x : Sect) : List Staged :=
  let l : List Staged := match x with
    | .classes port word words =>
      (List.range words.length).map fun i => ⟨0x033, R.cwin_CS_DATA_CLASSES, port * 32768 + word + i, words.getD i 0⟩
    | .bank n b => bankValues n b
    | .descs first ds => (List.range ds.length).flatMap fun i => descValues (first + i) (ds.getD i [])
    | _ => []
  l.filter fun w => s.reachable w.page

/-- Values set directly, and kept with those set before. -/
def Written.setAll (x : Written) (l : List Staged) : Written :=
  { x with st := l.foldl (fun s w => s.pi w.fld w.idx w.val) x.st, set := l.foldl merge x.set }

/-- A section of an image takes effect: runs word by word, tables as a whole (R371). At start-up a domain may have failed,
and the words for its pages are left out (R493, log entry 61). -/
def Written.sect (x : Written) (sec : Sect) : Written :=
  match sec with
  | .runs rs =>
    (wordsAt rs).foldl (fun (x : Written) aw => if x.st.reachable (pageOf aw.1) then x.write none aw.1 aw.2 else x) x
  | _ => x.setAll (x.st.tableValues sec)

/-! ## An image takes effect -/

/-- What the sections of an image write. -/
def State.imageWritten (s : State) (ss : List Sect) : Written := ss.foldl Written.sect ⟨s, false, [], []⟩

/-- The furrows that an image leaves enabled have descriptors that R201 allows, whether its runs or its descriptor sections give
them. -/
def State.imageSound (s : State) (ss : List Sect) : Bool :=
  let x := s.imageWritten ss
  ((x.set.filter fun w => w.page == 0x038).map (·.idx)).eraseDups.all fun f =>
    !x.st.on R.fwin_D_CFG_ENABLE f || descriptorSound x.st.regs f

/-- The base and the tables of an image take effect at once; the banks it does not supply get their standard values, the
staged set is discarded, and the mode is base (R90, R251, R368, R371).
DESIGN CHOICE, log entry 37. DEDUCED, log entry 61. DESIGN CHOICE, log entry 144. -/
def State.applyImage (s : State) (bytes : List Byte) (ss : List Sect) (fromFlash : Bool) : State :=
  let old := s.regs
  let x := s.imageWritten ss
  let given := (x.set.filter fun w => w.page == 0x029).map Staged.bank
  let rest := (List.range 16).filter fun n => !given.contains n
  let x := if s.reachable 0x029 then
      x.setAll (rest.flatMap (standardBank (x.st.g R.trellis_TIMING_KSEL)))
    else x
  let s := ((x.st.changed old x.set).exciteFrom s.excitation).discardStaged
  let s := (s.p R.global_STATE_MODE 0xFF).p R.global_STATE_MODE_PREV 0xFF
  let s := (s.p R.spare_DEGRADE_IMAGE_LOST 0).poke 0x600000 bytes
  { s with image := { s.image with
      copy := some bytes, fromFlash := fromFlash, refetch := false, crc := leAt bytes 12 4, hadMode := false
      base := s.captureBase (overlaysOf ss) } }

/-- COMPRESS.LOAM_ERR reports the last decoder error of an image (R286). -/
def State.loamError (s : State) (word : Nat) : State :=
  if word = 0 then s
  else (s.p R.comp_LOAM_ERR_CODE (bitsAt word 0 3)).p R.comp_LOAM_ERR_OFFSET (bitsAt word 8 24)

/-- Every check of R371, with those that need the hub's state. DEDUCED, log entry 61. -/
def State.checkImage (s : State) (bytes : List Byte) : Except Bad (List Sect) :=
  match parseImage bytes with
  | .error e => .error e
  | .ok ss => if s.runsReachable ss && s.imageSound ss then .ok ss else .error invalid

/-! ## IMAGE_LOAD (R364, R371) -/

/-- The image part updated. -/
def State.im (s : State) (f : Image → Image) : State := { s with image := f s.image }

/-- A load is abandoned. -/
def State.dropLoad (s : State) : State := s.im fun x => { x with load := none }

/-- The checks of a complete image, or a fetch from flash, begin: a long command (R360). DEDUCED, log entry 101. -/
def State.startChecks (s : State) (h : Hdr) : State × Reply :=
  ({ s with zcs := { s.zcs with long := some (h, 0x0020) } }, .long)

/-- A chunk that a load takes: from `got` bytes of `total` on; the last one starts the checks. DEDUCED, log entry 101. -/
def State.takeChunk (s : State) (h : Hdr) (total : Nat) (got bytes : List Byte) : State × Reply :=
  let l := got ++ bytes
  if total < l.length then (s, .done stBadParam [])
  else if l.length = total then
    if s.zcs.long.isSome then (s, .bad stBusy) else (s.im fun x => { x with load := none, checking := some l }).startChecks h
  else (s.im fun x => { x with load := some (total, l) }, .done stOk (le 4 l.length))

/-- IMAGE_LOAD: denied while streaming, BUSY before memory is trained; the chunk that completes an image, and a fetch, are BUSY while
another long command runs (R360); a chunk that breaks the rules of R371 abandons the load. DEDUCED, log entry 101. -/
def State.imageLoad (s : State) (h : Hdr) (offset total : Nat) (bytes : List Byte) : State × Reply :=
  if s.live then (s, .done stDenied [])
  else if s.boot.step < 10 then (s, .bad stBusy)
  else if total = 0 ∧ bytes = [] then
    if !s.xspiMaster then (s, .done stDenied [])
    else if s.zcs.long.isSome then (s, .bad stBusy)
    else (s.dropLoad.startFetch.im fun x => { x with fetching := true }).startChecks h
  else if offset = 0 then
    let (t, r) := s.dropLoad.takeChunk h total [] bytes
    if r = .bad stBusy then (s, r) else (t, r)
  else
    match s.image.load with
    | some (n, got) =>
      if n = total ∧ got.length = offset then
        let (t, r) := s.takeChunk h total got bytes
        if r = .done stBadParam [] then (s.dropLoad, r) else (t, r)
      else (s.dropLoad, .done stBadParam [])
    | none => (s, .done stBadParam [])

/-- The answer to a refused image: IMAGE_INVALID carries the bytes received and the decoder's word (R364).
DEDUCED, log entry 101. -/
def Bad.payload (e : Bad) (n : Nat) : List Byte := if e.status = stImage then le 4 n ++ le 4 e.word else []

/-- The image that a flash holds: as many bytes as its header names. -/
def flashImage (flash : List Byte) : List Byte := flash.take (leAt flash 8 4)

/-- Start-up's step 10 is complete once the image is applied (R489, R493). DESIGN CHOICE, log entry 36. -/
def State.imageApplied (s : State) : State :=
  if s.boot.step = 10 ∧ !s.boot.applied then
    let s := { s with boot := { s.boot with applied := true } }
    (s.logCode 0x01 (le 1 10 ++ le 4 s.freeNow)).drew
  else s

/-- The checks of an image of `n` bytes received end (R371): what stands in the way, or the image in effect.
DESIGN CHOICE, log entry 37. DEDUCED, log entry 101. -/
def State.finishImage (s : State) (l : List Byte) (fromFlash : Bool) : State :=
  let n := l.length
  if s.live then s.endLong 0x0020 stDenied []
  else match s.checkImage l with
    | .error e => (s.loamError e.word).endLong 0x0020 e.status (e.payload n)
    | .ok ss => ((s.applyImage l ss fromFlash).imageApplied).endLong 0x0020 stOk (le 4 n)

/-- The image fetched again from flash stands in the image copy (R253, R260); where no image device answers, or the fetch was
cut, it is fetched once more. DESIGN CHOICE, log entry 37. -/
def State.restoreCopy (s : State) (d : FlashIn) (flash : List Byte) : State :=
  let s := s.discover d
  if !s.imageDevice d ∨ s.xspi.abandoned then s.startFetch
  else (s.poke 0x600000 (flashImage flash)).im fun x => { x with copy := some (flashImage flash), refetch := false }

/-- IMAGE_LOAD_COMPLETE: the checks of a loaded image, or of one fetched from flash, end; or the fetch that
restores the copy does. -/
def State.imageComplete (s : State) (flash : Option (FlashIn × List Byte)) : State :=
  match s.zcs.long with
  | some (_, 0x0020) =>
    if s.image.fetching then
      match flash with
      | none => s
      | some (d, b) =>
        let s := (s.discover d).im fun x => { x with fetching := false }
        if !s.imageDevice d ∨ s.xspi.abandoned then s.endLong 0x0020 stImage (invalid.payload 0)
        else s.finishImage (flashImage b) true
    else
      match s.image.checking with
      | some l => (s.im fun x => { x with checking := none }).finishImage l false
      | none => s
  | _ =>
    match flash with
    | some (d, b) => if s.image.refetch then s.restoreCopy d b else s
    | none => s

/-! ## Meanings -/

/-- IMAGE_LOAD. -/
def execImageLoad (h : Hdr) (offset total : Nat) (bytes : List Byte) (s : State) : Host.Outcome State Fault Refusal :=
  .next (s.zcsRun (.imageLoad h offset total bytes) h 0x0020 (decide (bytes.length ≤ 4072)) fun s => s.imageLoad h offset total bytes)

/-- IMAGE_LOAD_COMPLETE. -/
def execImageLoadComplete (flash : Option (FlashIn × List Byte)) (s : State) : Host.Outcome State Fault Refusal :=
  .next (s.imageComplete flash)

end Sys2Proof.Machine
end

