-- ==== Sys2Proof/Machine/Commands.lean ====
section
/-! DEFINITION. The commands that report, stage, commit, start and stop (R364 to R369), RESET, and the end of a session. -/
namespace Sys2Proof.Machine

/-! ## Reports -/

/-- The IDENT response (R364). -/
def State.identBytes (s : State) : List Byte :=
  le 2 0x00C0 ++ le 2 0x0302 ++ padTo 16 (orderingCode (s.on R.global_PART_SCREENED 0)) ++ le 2 (s.g R.global_HUB_ID_ID)
    ++ le 4 (s.g R.global_DIE_ID_LO_ID) ++ le 4 (s.g R.global_DIE_ID_HI_ID) ++ le 1 (s.g R.global_STATE_STATE)
    ++ le 1 s.role ++ le 1 (s.g R.global_STATE_MODE) ++ le 1 (s.g R.global_STATE_MODE_PREV)

/-- IDENT: the report, and the session's lease where one is given (R356, R364). -/
def State.identify (s : State) (h : Hdr) (lease : Option Nat) : State × Reply :=
  match lease with
  | none => (s, .done stOk s.identBytes)
  | some n =>
    if n = 0 ∨ 600 < n then (s, .done stBadParam [])
    else (s.sess h.session (fun x => { x with leaseNs := n * 1000000000 }), .done stOk s.identBytes)

/-- GRAFT_STATUS: the twelve registers of the GRAFT page in address order, RC fields not cleared (R431).
DEDUCED, log entry 111. -/
def State.graftStatus (s : State) : State × Reply :=
  let (s, b) := (List.range 12).foldl (fun (s, b) i =>
    let s := s.latchHi (0x006040 + 4 * i)
    (s, b ++ le 4 (s.wordAt 0x006 (0x040 + 4 * i)))) (s, ([] : List Byte))
  (s, .done stOk b)

/-! ## Staging -/

/-- SLOW_CONFIG: CH_CFG and the parameters of a channel staged (R319, R364). DEDUCED, log entry 102. -/
def State.slowConfig (s : State) (h : Hdr) (ch : Nat) (cfg p0 p1 p2 : Word) : State × Reply :=
  let who := Actor.session h.session
  if 96 ≤ ch then (s, .done stBadParam [])
  else if s.notOwner who then (s, .done stDenied [])
  else
    let l := (fieldsAt 0x00E 0x048).map fun f => (⟨0x00E, f, ch, bitsAt cfg.toNat f.lsb f.width⟩ : Staged)
    let ps := [(0, p0), (1, p1), (2, p2)].map fun x =>
      (⟨0x00E, R.slow_PARAM_VALUE, ch * 4 + x.1, x.2.toNat⟩ : Staged)
    (s.stage who (l ++ ps), .done stOk [])

/-! ## RESET (R499) and sessions -/

/-- RESET: answered, then it waits: while streaming to the next orbit boundary. A warm reset before the first READY is a
cold one. DEDUCED, log entry 103. -/
def State.resetCommand (s : State) (kind : Nat) : State × Reply :=
  if 1 < kind then (s, .done stBadParam [])
  else if s.armed && s.role == 1 then (s, .done stDenied [])
  else
    let cause := if kind = 1 ∧ s.boot.everReady then 3 else 2
    ({ s with boot := { s.boot with req := some (cause, if s.live then s.trellis.orbit + 1 else 0) } }, .done stOk [])

/-- The owner's lease has expired: the staged set is discarded and the log says so (R367, R525).
DEDUCED, log entry 89. -/
def State.ownerLost (s : State) (who : Actor) (id : Nat) : State :=
  if s.zcs.owner = some who then
    let n := ((s.zcs.staged.map fun w => (w.fld.addr, w.idx)).eraseDups).length
    s.discardStaged.logCode 0x04 (le 4 id ++ le 2 n)
  else s

/-- SESSION_LEASE_EXPIRY: a session silent for longer than its lease closes; session 0 stands for the slave port's own,
whose lease is 10 s (R356, R384). DEDUCED, log entry 89. -/
def State.leaseExpiry (s : State) (id : BitVec 32) : State :=
  if id = 0#32 then
    if s.zcs.slaveNs + 10000000000 < s.nowNs then s.ownerLost .xspi 0 else s
  else
    match s.session id with
    | none => s
    | some x =>
      if x.last + x.leaseNs < s.nowNs then
        ({ s with zcs := { s.zcs with sessions := s.zcs.sessions.filter fun y => y.id != id } }).ownerLost (.session id) id.toNat
      else s

/-! ## Meanings -/

/-- PING. -/
def execPing (h : Hdr) (data : List Byte) (s : State) : Host.Outcome State Fault Refusal :=
  .next (s.zcsRun (.ping h data) h 0x0001 (decide (data.length ≤ 64)) fun s => (s, .done stOk data))

/-- IDENT. -/
def execIdent (h : Hdr) (lease : Option Nat) (s : State) : Host.Outcome State Fault Refusal :=
  .next (s.zcsRun (.ident h lease) h 0x0002 true fun s => s.identify h lease)

/-- OVERLAY_STAGE. -/
def execOverlayStage (h : Hdr) (mode : Nat) (s : State) : Host.Outcome State Fault Refusal :=
  .next (s.zcsRun (.overlayStage h mode) h 0x0021 true fun s => s.overlayStage h mode)

/-- OVERLAY_COMMIT. -/
def execOverlayCommit (h : Hdr) (orbit : Nat) (named : Bool) (s : State) : Host.Outcome State Fault Refusal :=
  .next (s.zcsRun (.overlayCommit h orbit named) h 0x0022 true fun s => s.overlayCommit h orbit named)

/-- OVERLAY_REVERT. -/
def execOverlayRevert (h : Hdr) (s : State) : Host.Outcome State Fault Refusal :=
  .next (s.zcsRun (.overlayRevert h) h 0x0023 true fun s => s.overlayRevert h)

/-- STREAM_START. -/
def execStreamStart (h : Hdr) (orbit : Nat) (named : Bool) (s : State) : Host.Outcome State Fault Refusal :=
  .next (s.zcsRun (.streamStart h orbit named) h 0x0030 true fun s => s.streamStart h orbit named)

/-- STREAM_STOP. -/
def execStreamStop (h : Hdr) (orbit : Nat) (named : Bool) (s : State) : Host.Outcome State Fault Refusal :=
  .next (s.zcsRun (.streamStop h orbit named) h 0x0031 true fun s => s.streamStop h orbit named)

/-- ACK_WINDOW. -/
def execAckWindow (h : Hdr) (us : Nat) (s : State) : Host.Outcome State Fault Refusal :=
  .next (s.zcsRun (.ackWindow h us) h 0x0033 true fun s => s.ackWindow h us)

/-- GRAFT_DRILL. -/
def execGraftDrill (h : Hdr) (s : State) : Host.Outcome State Fault Refusal :=
  .next (s.zcsRun (.graftDrill h) h 0x0051 true fun s => s.graftDrill h)

/-- GRAFT_STATUS. -/
def execGraftStatus (h : Hdr) (s : State) : Host.Outcome State Fault Refusal :=
  .next (s.zcsRun (.graftStatus h) h 0x0052 true fun s => s.graftStatus)

/-- MARGIN_APPLY. -/
def execMarginApply (h : Hdr) (resource value : Nat) (s : State) : Host.Outcome State Fault Refusal :=
  .next (s.zcsRun (.marginApply h resource value) h 0x0081 true fun s => s.marginApply h resource value)

/-- SLOW_CONFIG. -/
def execSlowConfig (h : Hdr) (ch : Nat) (cfg p0 p1 p2 : Word) (s : State) : Host.Outcome State Fault Refusal :=
  .next (s.zcsRun (.slowConfig h ch cfg p0 p1 p2) h 0x0090 true fun s => s.slowConfig h ch cfg p0 p1 p2)

/-- RESET. -/
def execReset (h : Hdr) (kind : Nat) (s : State) : Host.Outcome State Fault Refusal :=
  .next (s.zcsRun (.reset h kind) h 0x00FF true fun s => s.resetCommand kind)

/-- ZCS_UNKNOWN_OPCODE: BAD_OPCODE, which enters no cache (R355). -/
def execZcsUnknownOpcode (h : Hdr) (opcode : Nat) (s : State) : Host.Outcome State Fault Refusal :=
  .next (if s.on R.cpu_PAIR_STAT_CMD_RUN 0 ∧ !opcodes.contains opcode then (s.renew h.session).respond h opcode 1 stBadOpcode [] else s)

/-- SESSION_LEASE_EXPIRY. -/
def execSessionLeaseExpiry (session : BitVec 32) (s : State) : Host.Outcome State Fault Refusal := .next (s.leaseExpiry session)

end Sys2Proof.Machine
end

