-- ==== Sys2Proof/Machine/Startup.lean ====
section
/-! DEFINITION. The start-up sequence and the resets that lead to it (R469, R489 to R503). Each step begins only when the
step before it has completed; a step that lasts is told to go on by its command until its condition holds. -/
namespace Sys2Proof.Machine

/-- The boot part updated. -/
def State.bt (s : State) (f : Boot → Boot) : State := { s with boot := f s.boot }

/-- A step has completed: its log entry holds its number and its duration, a free value (R489, R525).
DESIGN CHOICE, log entry 36. -/
def State.stepLogged (s : State) (n : Nat) : State := (s.logCode 0x01 (le 1 n ++ le 4 s.freeNow)).drew

/-- Step `n` completes. DESIGN CHOICE, log entry 36. -/
def State.stepDone (s : State) (n : Nat) : State := (s.stepLogged n).bt fun b => { b with step := n }

/-- Step `n` may run: the one before it has completed, RESET_N is high, no power failure holds the hub in reset, and from step 9 on
HREF is present (R464, R489, R490). -/
def State.atStep (s : State) (n : Nat) : Bool :=
  s.boot.step == n - 1 && !s.boot.held && !s.power.pfail && !s.power.unpowered && (decide (n < 9) || s.on R.clocks_REF_STAT_HREF 0)

/-! ## Steps 1 to 7 -/

/-- Step 1: VHOLD, in mV, has stayed at or above 9.0 V for 10 ms. -/
def State.vinGood (s : State) (vhold : Nat) : State := if s.atStep 1 && decide (9000 ≤ vhold) then s.stepDone 1 else s

/-- Step 2: VINT, in mV, comes into regulation. -/
def State.vintStart (s : State) (vint : Nat) (ok : Bool) : State :=
  if !s.atStep 2 then s
  else
    let s := s.p R.power_CONV_STAT_VINT (cap 65535 vint)
    if ok then ((s.p R.power_CONV_STAT_VINT_OK 1).p R.power_CONV_STAT_VKA_OK 1).stepDone 2 else s

/-- The strap XSPI_CS3_N gives MODE its reset value: high is master (R473). -/
def State.strapMode (s : State) (high : Bool) : State := s.p R.xspi_CFG_MODE (b2n (!high))

/-- Step 3: PD01 and CD01, and CD00 is seen to oscillate; at power-on the strap is sampled. DEDUCED, log entry 95. -/
def State.pd01On (s : State) (strap : Bool) : State :=
  if !s.atStep 3 then s
  else
    let s := (s.setPd 1 true).p R.clocks_REF_STAT_XTAL32 1
    (if s.resetKind = 0 then s.strapMode strap else s).stepDone 3

/-- The canary decides what the cold frame holds, and what it has lost sets IRQ_STAT.EVENT (R469, R472). DEDUCED, log entry 106. DESIGN CHOICE, log entry 119. -/
def State.canary (s : State) (intact : Bool) : State :=
  if intact then
    let s := s.p R.coldframe_CF_STAT_TIME_VALID 1
    if s.cold.retOk then s.p R.coldframe_CF_STAT_LOG_VALID 1
    else ((s.p R.coldframe_CF_STAT_LOG_VALID 0).p R.coldframe_CF_STAT_RETAIN_CRC 1).event 0x004
  else
    let s := ((s.p R.coldframe_CF_STAT_TIME_VALID 0).p R.coldframe_CF_STAT_LOG_VALID 0).p R.coldframe_CF_STAT_COLD_FRAME_LOST 1
    let s := s.event 0x004
    { s with cold := { s.cold with ret := List.replicate 256 0, sec := 0, sub := 0, baseNs := s.nowNs } }

/-- Every start rewrites the retention SRAM; a power-on raises its count (R468, R501). DEDUCED, log entry 106. -/
def State.countStart (s : State) : State :=
  s.retPut 0 (le 4 (leAt s.cold.ret 0 4 + (if s.resetKind = 0 then 1 else 0)))

/-- The wall clock takes its seconds and TIME_VALID from the cold frame (R337, R467). DEDUCED, log entry 105. -/
def State.wallFromCold (s : State) : State :=
  let valid := s.on R.coldframe_CF_STAT_TIME_VALID 0
  let s := s.p R.ptp_STAT_TIME_VALID (b2n valid)
  { s with wall := { s.wall with sec := if valid then s.coldTime.1 else 0, ns := 0, frac := 0 } }

/-- Step 4: the canary is read; a failed emergency save is reported (R465). -/
def State.canaryCheck (s : State) (intact : Bool) : State :=
  if !s.atStep 4 then s
  else
    let s := (s.canary intact).countStart.wallFromCold
    let s := if s.cold.saveFailed then (s.p R.coldframe_CF_STAT_SAVE_FAIL 1).event 0x004 else s
    ({ s with cold := { s.cold with saveFailed := false } }).stepDone 4

/-- Step 5: PD02 on; where the ROM's CRC fails, the hub stays here (R398, R490). DESIGN CHOICE, log entry 12. -/
def State.romBoot (s : State) : State :=
  if !s.atStep 5 then s
  else
    let good := Config.romGood s.freeCtr
    let s := s.drew.setPd 2 true
    if good then ((s.p R.cpu_PAIR_STAT_ROM_OK 1).pairRun 0 true).pairRun 1 true |>.stepDone 5
    else s.p R.cpu_PAIR_STAT_ROM_OK 0

/-- Step 6: which copy of the trim passes its CRC, and whether the two agree (R444). -/
def State.trimLoad (s : State) (ok1 ok2 same : Bool) : State :=
  if !s.atStep 6 then s
  else
    let s :=
      if ok1 && !ok2 then (s.p R.tending_STAT_TRIM_COPY2 1).warn R.tending_STAT_TRIM_COPY2 0x007 []
      else if ok1 && !same then (s.p R.tending_STAT_TRIM_DIFFER 1).warn R.tending_STAT_TRIM_DIFFER 0x007 []
      else if !ok1 && !ok2 then (s.p R.tending_STAT_TRIM_INVALID 1).event 0x007
      else s
    let s := s.td fun t => { t with trimCopy := if ok1 then 1 else if ok2 then 2 else 0 }
    (if ok1 || ok2 then forAll (List.range 28) s State.loadTrim else s).stepDone 6

/-- Logical sector 0 holds a valid boot record (R491). DEDUCED, log entry 109. -/
def bootOk (b : List Byte) : Bool :=
  leAt b 0 4 == 0x5442474C && leAt b 4 2 == 1 && leAt b 32 4 == (crc32c (b.take 32)).toNat && decide (leAt b 8 2 ≤ 3840)

/-- The boot record, where it is valid. DEDUCED, log entry 109. -/
def State.bootRecord (s : State) : Option (List Byte) :=
  let b := (s.sectorBytes 0).take 36
  if bootOk b then some b else none

/-- The boot record's fields written to their registers (R491). -/
def State.applyBoot (s : State) (b : List Byte) : State :=
  let s := (s.p R.xspi_MST_CFG_CS (leAt b 7 1 % 4)).p R.xspi_MST_CFG_IMG_OFF (leAt b 8 2)
  forAll [0, 1] s fun s i =>
    let c := leAt b (28 + i) 1
    (((s.pi R.eth_IP_ADDR_ADDR i (leAt b (12 + 8 * i) 4)).pi R.eth_IP_MASK_MASK i (leAt b (16 + 8 * i) 4)).pi
      R.eth_PORT_CFG_SPEED i (bitsAt c 0 1)).pi R.eth_PORT_CFG_AN i (bitsAt c 1 1)

/-- Step 7: PD03 on, the store scanned, and the boot record applied but under a warm or watchdog reset (R402, R500). -/
def State.storeScan (s : State) : State :=
  if !s.atStep 7 then s
  else
    let s := (s.setPd 3 true).scanStore
    let s :=
      if warmKind s.resetKind then s
      else match s.bootRecord with
        | some b => s.applyBoot b
        | none => s.logAs 0xFFF 0x02 0 1 []
    s.stepDone 7

/-! ## Steps 8 to 10: the image, the domains, the memory -/

/-- The image comes from the image copy (R500). -/
def State.fromCopy (s : State) : Bool :=
  warmKind s.resetKind && s.image.copy.isSome && !s.on R.spare_DEGRADE_IMAGE_LOST 0

/-- An image refused at start-up is logged; the source becomes IMAGE_LOAD (R492). DEDUCED, log entry 108. -/
def State.refusedImage (s : State) (e : Bad) : State :=
  ((s.loamError e.word).logCode 0x03 (le 2 stImage ++ le 4 e.word)).bt fun b => { b with flash := false }

/-- The domains that an image's base runs ask for: the last write of POWER.PD_REQ, or all (R493). -/
def domainsWanted (ss : List Sect) : Nat :=
  match ((wordsAt (baseRuns ss)).filter fun x => x.1 == 0x003060).getLast? with
  | some x => x.2 % 2 ^ 24 ||| 15
  | none => 2 ^ 24 - 1

/-- The sections of an image that passes every check of R371 that needs no domain. -/
def sectsOf (l : List Byte) : List Sect :=
  match parseImage l with
  | .ok ss => ss
  | .error _ => []

/-- Step 8: the flash, the image copy or IMAGE_LOAD (R475, R492, R500). DEDUCED, log entry 108. -/
def State.imageSource (s : State) (d : FlashIn) (flash : List Byte) : State :=
  if !s.atStep 8 then s
  else if s.fromCopy then
    (s.bt fun b => { b with flash := false, want := domainsWanted (sectsOf (s.image.copy.getD [])) }).stepDone 8
  else
    let all := s.bt fun b => { b with flash := false, want := 2 ^ 24 - 1 }
    let skip := match s.bootRecord with
      | some b => bitAt (leAt b 6 1) 0
      | none => false
    if !s.xspiMaster || skip then all.stepDone 8
    else
      let s := all.startFetch.discover d
      if !s.imageDevice d then (s.refusedImage invalid).stepDone 8
      else match parseImage (flashImage flash) with
        | .error e => (s.refusedImage e).stepDone 8
        | .ok ss => (s.bt fun b => { b with flash := true, want := domainsWanted ss }).stepDone 8

/-- Step 9: the wanted domains are asked for under the start ration; the step completes when none waits or ramps (R457,
R493). A domain that has faulted is left off. DEDUCED, log entry 107. -/
def State.startDomains (s : State) : State :=
  if !s.atStep 9 then s
  else
    let want := (List.range 24).filter fun d =>
      decide (4 ≤ d) && bitAt s.boot.want d && !s.pd d && !bitAt (s.g R.power_PD_FAULT_FAULT) d
    let s := s.p R.power_PD_REQ_ON (s.boot.want ||| 15)
    let s := forAll want s State.requestStart
    if s.g R.power_PD_WAIT_WAIT = 0 ∧ s.power.ramping.isEmpty then s.stepDone 9 else s

/-- The mode that was in effect before a warm reset is restored, with what its overlay sets (R368, R501; DEDUCED, log entry 63). -/
def State.restoreMode (s : State) : State :=
  match s.boot.modes with
  | none => s
  | some (m, prev) =>
    let s := match s.modeValues m with
      | some (t, l) => l.foldl (fun (t : State) (w : Staged) => t.pi w.fld w.idx w.val) t
      | none => s
    ((s.p R.global_STATE_MODE m).p R.global_STATE_MODE_PREV prev).bt fun b => { b with modes := none }

/-- Step 10: memory trains in the order that is held, then the image is applied; IMAGE_LOAD is waited for (R227, R237 to
R239, R493). -/
def State.trainAndApply (s : State) (failed : List Nat) (ms : Nat) (flash : List Byte) : State :=
  if !s.atStep 10 then s
  else
    let s := if warmKind s.resetKind then s else s.applyOrder
    let s := (s.trainMemory failed ms).bt fun b => { b with step := 10, applied := false }
    if s.fromCopy then
      let l := s.image.copy.getD []
      let had := s.image.hadMode
      match parseImage l with
      | .error e => s.refusedImage e
      | .ok ss =>
        let s := (s.applyImage l ss s.image.fromFlash).restoreMode
        (s.im fun x => { x with hadMode := had }).imageApplied
    else if s.boot.flash then
      match parseImage (flashImage flash) with
      | .error e => s.refusedImage e
      | .ok ss =>
        if s.xspi.abandoned || !s.imageSound ss then s.refusedImage invalid
        else (s.applyImage (flashImage flash) ss true).imageApplied
    else s

/-! ## Steps 11 to 14 -/

/-- H00 and H01 have come up: their transmitters, and in EMBEDDED mode a frame lock (R494). -/
def State.lanesReady (s : State) : Bool :=
  (s.laneOf 32).tx == 0 && (s.laneOf 33).tx == 0 && (!s.embedded || s.frameLock 32 || s.frameLock 33)

/-- Step 11: H00, H01 and the enabled ports' lanes are brought up under the wake ration (R494).
DEDUCED, log entry 107. -/
def State.laneBringup (s : State) : State :=
  if !s.atStep 11 ∨ !s.boot.applied then s
  else
    let s := ((((s.light 0).light 1).askRx 32 0).askRx 33 0)
    let s := forAll (allPorts.filter fun n => s.on R.ing_PORT_CFG_ENABLE n) s State.activatePort
    let s := s.startExits
    if s.lanesReady then s.stepDone 11 else s

/-- Step 12: lock, and in EMBEDDED mode the automatic PHASE_CALIBRATE (R52, R495). DEDUCED, log entry 107. -/
def State.timeLock (s : State) : State :=
  if !s.atStep 12 then s
  else if s.bcLock && s.locked && (!s.embedded || s.on R.trellis_TSTAT_ALIGN_VALID 0) then s.stepDone 12
  else if s.embedded && s.locked && s.trellis.probe.calib.isNone && s.trellis.probe.calibApply.isNone then
    s.probe fun p => { p with calib := some [], calibHdr := none }
  else s

/-- Step 13: the base is checked and nothing applied; without BC_NOMINAL the log says that no check ran (R210, R496). -/
def State.budgetStep (s : State) : State :=
  if !s.atStep 13 || s.budgetHeld then s
  else match s.runBudget s.regs with
    | (t, some _) => t.stepDone 13
    | (t, none) => (t.log R.bud_BSTAT_VALID 0x039 []).stepDone 13

/-- After a warm reset the retained segments beyond ACK_SEQ are sent: those below RD_SEQ with REPLAY, the rest for the first
time (R502). -/
def State.warmResend (s : State) : State :=
  if !s.boot.resend then s
  else
    let mark := fun (u : Furrow) (g : Seg) =>
      if g.old ∨ g.dup ∨ !seqLater u.ack g.seq then g
      else if seqLater g.seq u.rd then { g with handed := true, resend := true } else { g with handed := false, resend := false }
    let t : State := { s with
      furrows := s.furrows.map (fun (x : Nat × Furrow) => (x.1, { x.2 with segs := x.2.segs.map (mark x.2) })) }
    t.backlogMax.bt fun b => { b with resend := false }

/-- Step 14: READY (R497). -/
def State.becomeReady (s : State) : State :=
  if !s.atStep 14 then s
  else
    let s := ((s.p R.global_STATE_STATE 1).log R.global_STATE_STATE 0x000 []).event 0x000
    (s.warmResend.stepDone 14).bt fun b => { b with everReady := true }

/-! ## Resets (R498 to R503) -/

/-- RESET_N goes low for a time in ns: 10 µs act, less than 1 µs does not, and what lies between is a free value. It has
no effect during an emergency save. -/
def State.resetLow (s : State) (lowNs : Nat) : State :=
  let free := decide (1000 ≤ lowNs) && decide (lowNs < 10000)
  let acts := decide (10000 ≤ lowNs) || (free && s.freeNow % 2 == 0)
  let s := if free then s.drew else s
  if s.power.unpowered || s.power.saving.isSome || !acts then s
  else (s.resetTo 1).bt fun b => { b with held := true }

/-- RESET_N rises: the strap is sampled and the sequence starts (R473, R498). -/
def State.resetHigh (s : State) (strap : Bool) : State :=
  if s.boot.held then (s.strapMode strap).bt fun b => { b with held := false } else s

/-- RESET_TAKE_EFFECT: a requested reset acts, or the cold reset after a TRIP_CLEAR, for which the converter starts again
(R463, R499, R502). -/
def State.resetActs (s : State) : State :=
  if s.boot.restart then
    let v := 4900 + s.freeNow % 201
    ((s.drew.p R.power_CONV_STAT_VINT_OK 1).p R.power_CONV_STAT_VINT v).resetTo 2
  else match s.boot.req with
    | none => s
    | some (cause, orbit) =>
      if s.live && decide (s.trellis.orbit < orbit) then s
      else
        let s := if s.live && cause == 3 then s.closeAll.writeDescriptors else s
        s.resetTo cause

/-! ## Meanings -/

/-- STARTUP_VIN_GOOD. -/
def execStartupVinGood (vhold : Nat) (s : State) : Host.Outcome State Fault Refusal := .next (s.vinGood vhold)

/-- STARTUP_VINT_START. -/
def execStartupVintStart (vint : Nat) (ok : Bool) (s : State) : Host.Outcome State Fault Refusal := .next (s.vintStart vint ok)

/-- STARTUP_PD01_ON. -/
def execStartupPd01On (strap : Bool) (s : State) : Host.Outcome State Fault Refusal := .next (s.pd01On strap)

/-- STARTUP_CANARY_CHECK. -/
def execStartupCanaryCheck (intact : Bool) (s : State) : Host.Outcome State Fault Refusal := .next (s.canaryCheck intact)

/-- STARTUP_ROM_BOOT. -/
def execStartupRomBoot (s : State) : Host.Outcome State Fault Refusal := .next s.romBoot

/-- STARTUP_TRIM_LOAD. -/
def execStartupTrimLoad (ok1 ok2 same : Bool) (s : State) : Host.Outcome State Fault Refusal := .next (s.trimLoad ok1 ok2 same)

/-- STARTUP_STORE_SCAN. -/
def execStartupStoreScan (s : State) : Host.Outcome State Fault Refusal := .next s.storeScan

/-- STARTUP_IMAGE_SOURCE. -/
def execStartupImageSource (f : FlashIn) (flash : List Byte) (s : State) : Host.Outcome State Fault Refusal :=
  .next (s.imageSource f flash)

/-- STARTUP_DOMAINS. -/
def execStartupDomains (s : State) : Host.Outcome State Fault Refusal := .next s.startDomains

/-- STARTUP_TRAIN_AND_APPLY. -/
def execStartupTrainAndApply (failed : List Nat) (ms : Nat) (flash : List Byte) (s : State) :
    Host.Outcome State Fault Refusal := .next (s.trainAndApply failed ms flash)

/-- STARTUP_LANE_BRINGUP. -/
def execStartupLaneBringup (s : State) : Host.Outcome State Fault Refusal := .next s.laneBringup

/-- STARTUP_TIME_LOCK. -/
def execStartupTimeLock (s : State) : Host.Outcome State Fault Refusal := .next s.timeLock

/-- STARTUP_BUDGET_CHECK. -/
def execStartupBudgetCheck (s : State) : Host.Outcome State Fault Refusal := .next s.budgetStep

/-- READY. -/
def execReady (s : State) : Host.Outcome State Fault Refusal := .next s.becomeReady

/-- RESET_N_ASSERT. -/
def execResetNAssert (lowNs : Nat) (s : State) : Host.Outcome State Fault Refusal := .next (s.resetLow lowNs)

/-- RESET_N_RELEASE. -/
def execResetNRelease (strap : Bool) (s : State) : Host.Outcome State Fault Refusal := .next (s.resetHigh strap)

/-- RESET_TAKE_EFFECT. -/
def execResetTakeEffect (s : State) : Host.Outcome State Fault Refusal := .next s.resetActs

end Sys2Proof.Machine
end

