-- ==== Sys2Proof/Machine/Cycle.lean ====
section
/-! DEFINITION. What a slot, an orbit, a management frame and a quiet window bring about (R25, R28, R41, R120, R121). -/
namespace Sys2Proof.Machine

/-! ## The orbit boundary (R24, R28) -/

/-- The last slot of an orbit has run its cycle. -/
def State.orbitEnds (s : State) : Bool := s.counting && s.trellis.ran && decide (s.nSlot ≤ s.trellis.slot + 1)

/-- What the blocks do at an orbit boundary. -/
def State.orbitEffects (s : State) : State :=
  s.pdReqApply.lanesBoundary.laneForecast.graftBoundary.retrainFirst.releaseAll

/-- What takes effect at an orbit boundary. -/
def State.orbitBoundary (s : State) : State :=
  s.orbitTimeHeld.trellisBoundary.orbitTimeAt0.orbitEffects.requestsBoundary

/-- What the blocks do at the start of an orbit that the counters entered at a marker; FC_REQ commands wait for the next
boundary (R158). DEDUCED, log entry 120. -/
def State.orbitEdge (s : State) : State :=
  if s.trellis.edgeDue then (s.tr fun t => { t with edgeDue := false }).orbitEffects else s

/-! ## The collector cycle (R120 to R123) -/

/-- The state in the slot whose cycle is to run: the current one, or the next where its cycle has run; none at the last
slot of an orbit, which ends with ORBIT_BOUNDARY. Before the orbit has locked, slots pass without a number (R28, R31).
DEDUCED, log entry 91. -/
def State.toCycle (s : State) : Option State :=
  if !s.trellis.ran then some s
  else if !s.counting then some (s.slotPasses.tr fun t => { t with ran := false })
  else if s.trellis.slot + 1 < s.nSlot then some (s.orbitTimeHeld.slotPasses.tr fun t => { t with slot := t.slot + 1, ran := false })
  else none

/-- The late furrow, disabled, still waits for groups of earlier origins: a port that drains receives them for LAT + 4 slots, and
what has been received by then waits in the late queues (R163, R205, R528). -/
def State.lateWaits (s : State) (f due : Nat) : Bool :=
  (s.fur f).drains.isSome && f == s.g R.ing_LATE_FURROW_FURROW
    && s.ports.any fun p => (p.drain.isSome && decide (s.trellis.tick < due + 5)) || p.late.any fun g => decide (g.at_ ≤ due + 8)

/-- Open segments due to close at the start of this cycle close (R205). -/
def State.dueCloses (s : State) : State :=
  let now := fun (x : Nat × Nat) => decide (x.2 ≤ s.trellis.tick) && !s.lateWaits x.1 x.2
  let due := s.closes.filter now
  forAll (due.map (·.1)) { s with closes := s.closes.filter fun x => !now x } fun s f =>
    (s.closeSeg f).furrow f fun u => { u with drains := none }

/-- The shears form a label of a channel: measurements, reference events, the follower, the count of zeroed values
(R107, R110 to R113, R115). DEDUCED, log entry 93. -/
def State.formLabel (s : State) (label ch : Nat) : State :=
  if label < (s.bedOf (ch / 32)).since then s
  else
    let l := s.levels ch label
    let slot := match s.hist[s.trellis.tick - label]? with
      | some h => h.slot
      | none => 0
    let s := if l.peak then s.latchPeak ch l slot else s
    let s := if l.rise then (s.latchRise ch label l (s.y4 ch label).qual).snRise ch label l else s
    let s := s.followLabel ch label
    let mode := mapGet (s.mapFor label) R.rec_BED_CFG_MODE (ch / 32)
    if (mode = 1 ∨ mode = 2) ∧ s.zeroed ch label then s.inc R.rec_LZ_COUNT_COUNT 0 1 else s

/-- The slots from a label's own to the one in which a channel's values for it, and the value after it, exist (R92, R107,
R110): L_MAX + 8, or more for a channel of a bed that is OFF whose chain needs more. DEDUCED, log entry 93.
DESIGN CHOICE, log entry 16. -/
def State.labelLag (s : State) (ch label : Nat) : Nat :=
  let m := s.mapFor label
  let ahead := ceilDiv ((10240 + sext 14 (mapGet m R.sieve_FD_DELAY_D ch)).toNat / 1024) s.k
  max (max s.shearLag (lblNeed m s.k ch)) (max ahead (lblNeed (s.mapFor (label + 1)) s.k ch + 1))

/-- The last label formed of a channel. -/
def State.formedTo (s : State) (ch : Nat) : Nat := aget s.shearTick s.behind ch

/-- The last label of a channel, up to `last`, whose values exist in this slot. -/
def State.formableTo (s : State) (last ch : Nat) : Nat :=
  let a := s.formedTo ch
  a + ((List.range (last - a)).takeWhile fun i => decide (a + 1 + i + s.labelLag ch (a + 1 + i) ≤ s.trellis.tick)).length

/-- The labels that reach the shears in this slot; a channel's update of a window comes before its labels of the next (R107).
DEDUCED, log entry 93. -/
def State.shear (s : State) : State :=
  let last := s.trellis.tick - s.shearLag
  let spans := s.liveChannels.map fun ch => (ch, s.formedTo ch, s.formableTo last ch)
  let lo := s.behind.foldl (fun a x => min a x.2) s.shearTick
  let s := forAll ((List.range (last - lo)).map (· + lo + 1)) s fun s label =>
    forAll ((spans.filter fun x => decide (x.2.1 < label) && decide (label ≤ x.2.2)).map (·.1)) s fun s ch =>
      (s.prevUpdateOf label ch).formLabel label ch
  let front := max s.shearTick last
  { s with shearTick := front
           behind := (spans.filter fun x => decide (x.2.2 < front)).map fun x => (x.1, x.2.2) }

/-- The sentinels take the slot: rings, reference events of slot counts and of trigger edges, comparisons (R115 to R117,
R180). -/
def State.watch (s : State) : State :=
  let all := List.range 16
  forAll all ((forAll all s State.snWrite).snSlotRefs.knowEdges) State.snCompare

/-- Transfers hit by a parity error are counted (R122). -/
def State.parityErrors (s : State) (parity : List Nat) : State :=
  forAll ((parity.filter (· < 20)).eraseDups) s fun s t => s.err 0x02C 5 t

/-- The bed groups of the cycle go to the barrow (R121, R526). DESIGN CHOICE, log entry 145. -/
def State.takeBeds (s : State) (parity : List Nat) : State :=
  let label := s.trellis.tick - s.g R.rec_LAT_PIN_TO_COLL
  if !s.intake || decide (s.trellis.tick < s.g R.rec_LAT_PIN_TO_COLL) || decide (label < s.intakeFrom) then s
  else
    forAll (List.range 24) s fun s b =>
      match s.bedGroup b label (parity.contains (b / 2)) with
      | some u => s.place u
      | none => s

/-- The tributary output of the cycle goes to the barrow (R121, R163). -/
def State.takeTribs (s : State) (parity : List Nat) : State :=
  let (s, units) := s.tribOutput parity
  if s.intake then units.foldl State.place s else s

/-- The marks known in the cycle: formed, written to their furrow, listed in the open segments (R186, R187, R204). -/
def State.takeMarks (s : State) : State := if s.intake then s.knowMarks.writeMarks else s

/-- Record intake ends at the end of the cycle in which a stop takes effect; a stream that has sent all is over (R205,
R216). -/
def State.cycleEnd (s : State) : State :=
  let s := if s.intake && s.g R.global_STATE_STATE == 3 then s.streamEnd else s
  s.stopSettles

/-- One collector cycle, in the order of R120 and R121. DEDUCED, log entry 91. -/
def State.cycle (s : State) (c : CycleIn) : State :=
  let s := ((s.tokenLine c.tokenLow).orbitEdge.takeSamples c).lanePauses.memPauses.dueCloses.parityErrors c.parity
  let s := (forAll s.liveChannels s State.countSat).shear.watch
  let s := s.formSums.sendFsegs
  let s := (((s.takeBeds c.parity).takeTribs c.parity).slowTransfer (c.parity.contains 17)).placeHubRecs
  let s := s.takeMarks.sendDownlinks.zcsRefill.lookRefill.catchRefill.pruneLooks.cycleEnd
  let s := s.pw fun p => { p with lastOrbit := s.trellis.orbit, lastSlot := s.trellis.slot }
  s.tr fun t => { t with ran := true }

/-! ## The management-frame boundary (R41) -/

/-- What a management frame brings. DESIGN CHOICE, log entry 64. -/
def State.frameBoundary (s : State) (m : MonitorIn) : State :=
  let s := ((s.ratioFrame.caFrame.writeDescriptors.slowFrame).tendFrame m).lanesFrame.ptpMaster.hdgCycle.powerFrame
  (forAll (List.range 16) s State.snRearm).tr fun t => { t with frameDue := false }

/-! ## The quiet window (R25) -/

/-- The state at the start of slot q, its cycle not yet run; none where the window of this orbit does not start now. -/
def State.toWindow (s : State) : Option State :=
  let t := s.trellis
  if !s.counting || t.inWindow then none
  else if (!t.ran || t.edgeDue) && t.slot == t.qwFirst then some s
  else if t.ran && t.slot + 1 == t.qwFirst && decide (t.slot + 1 < s.nSlot) then
    some (s.orbitTimeHeld.slotPasses.tr fun t => { t with slot := t.slot + 1, ran := false })
  else none

/-- A furrow disabled under R264: named in the log with the orbit. DEDUCED, log entry 87. -/
def State.shedOne (s : State) (f : Nat) : State :=
  let s := (s.pi R.fwin_D_CFG_ENABLE f 0).furrow f fun u => { u with shed := true }
  (s.poke (64 * f) (s.descriptor f)).log R.spare_DEGRADE_STEP 0x04A (le 2 f ++ le 6 s.trellis.orbit)

/-- The checks of the budget pass, rings apart. DEDUCED, log entry 87. -/
def State.bandOk (s : State) : Bool := (report s.regs).result % 16 == 0

/-- Furrows are disabled in the order given until the checks pass (R264). DEDUCED, log entry 87. -/
def State.shedUntil (s : State) : List Nat → State
  | [] => s
  | f :: rest => if s.bandOk then s else (s.shedOne f).shedUntil rest

/-- STREAM_DEGRADED: user-assigned furrows go, lowest PRIO first and highest number first within one (R264).
DEDUCED, log entry 87. -/
def State.streamDegraded (s : State) : State :=
  let users := s.enabledFurrows.filter fun f => decide (0x100 ≤ f) && f != s.g R.fsum_CTRL_FURROW
  let order := sortBy (fun a b => decide (s.prio a < s.prio b) || (s.prio a == s.prio b && decide (b < a))) users
  let s := (s.p R.spare_DEGRADE_STEP 3).shedUntil order
  ((s.runBudget s.regs).1).countShed

/-- The fallback overlay of the mode in effect, where that mode declares one and the image copy and the rules of a commit
allow it (R262, R370). DEDUCED, log entry 86. -/
def State.applyFallback (s : State) : State :=
  if s.on R.spare_DEGRADE_IMAGE_LOST 0 then s
  else match s.overlayOfMode (s.g R.global_STATE_MODE) with
    | none => s
    | some o =>
      match s.modeValues o.fallback with
      | none => s
      | some (s', l) => if o.fallback = 0xFF ∨ (s.commitFault l).isSome then s else s'.applyCommit l (some o.fallback)

/-- Step 2 of a degraded step calls for the fallback, then the checks; where they fail R264 applies (R262).
DEDUCED, log entry 86. -/
def State.fallback (s : State) : State :=
  if !s.mem.fallbackDue || s.budgetHeld then s
  else
    let s := { s with mem := { s.mem with fallbackDue := false } }.applyFallback
    match s.runBudget s.regs with
    | (s, some r) => if r.result % 16 = 0 then s else s.streamDegraded
    | (s, none) => s

/-- A commit at step 3 of R25: checked against the memory as steps 1 and 2 left it, then applied whole or refused. -/
def State.windowCommit (s : State) (a : Pending) : State :=
  let m := s.after a.snap
  if !furrowRules m s.live then s.complete a.hdr a.opcode stBadParam []
  else
    let (s, r) := s.runBudget m
    match budgetFault r with
    | some (st, b) => s.complete a.hdr a.opcode st b
    | none =>
      let s := { s with mem := { s.mem with fallbackDue := false } }.applyCommit a.snap a.mode
      s.complete a.hdr a.opcode (s.okStatus a.opcode) (s.actionPayload s.trellis.orbit none)

/-- STREAM_START at its window (R210, R526). -/
def State.windowStart (s : State) (a : Pending) : State :=
  let m := s.after []
  if s.startDenied then s.complete a.hdr a.opcode stDenied []
  else if !furrowRules m true then s.complete a.hdr a.opcode stBadParam []
  else match s.runBudget m with
    | (s, none) => s.complete a.hdr a.opcode stBadParam []
    | (s, some r) =>
      if r.result ≠ 0 then s.complete a.hdr a.opcode r.status r.bytes
      else
        let s := s.streamBegin
        s.complete a.hdr a.opcode (s.okStatus a.opcode) (s.actionPayload s.trellis.orbit none)

/-- The stream stops from this window; its intake ends with this slot's cycle (R216). -/
def State.windowStop (s : State) (h : Option Hdr) : State :=
  if s.intake then { s.p R.global_STATE_STATE 3 with stopping := h }
  else s.complete h 0x0031 stOk (s.actionPayload s.trellis.orbit none)

/-- GRAFT_DRILL at the window of orbit D: DRILL in the next sync frame, the token released at slot 0 of D + 1 (R429). A hub that is no
longer active by then has no token to release. DEDUCED, log entry 35. -/
def State.windowDrill (s : State) (a : Pending) : State :=
  if s.role ≠ 1 then s.complete a.hdr a.opcode stDenied []
  else
  let d := s.trellis.orbit
  let s := s.gr fun g => { g with drill := true, releaseOrbit := some (d + 1), releaseCause := 7 }
  s.complete a.hdr a.opcode stOk (le 6 (d + 3))

/-- The boundary action that is due in this window (R366); a commit goes before a fallback, which it makes needless where
it takes effect (R25). -/
def State.windowAction (s : State) : State :=
  match s.zcs.action with
  | none => s.fallback
  | some a =>
    if s.trellis.orbit < a.orbit then s.fallback
    else
      let s := { s with zcs := { s.zcs with action := none } }
      match a.act with
      | .commit => (s.windowCommit a).fallback
      | .start => s.fallback.windowStart a
      | .stop => s.fallback.windowStop a.hdr
      | .drill => s.fallback.windowDrill a
      | .margin resource v => (s.fallback.marginEffect resource v).complete a.hdr a.opcode stOk []

/-- A second port loss stops the stream as STREAM_STOP would (R265). -/
def State.portLossStop (s : State) : State :=
  if !s.mem.stopDue then s
  else
    let s := { s with mem := { s.mem with stopDue := false } }
    if s.streaming then s.p R.global_STATE_STATE 3 else s

/-- STREAM_DEGRADED is a release fault of an active hub (R264, R420). -/
def State.degradedFault (s : State) (before : Nat) : State :=
  if before ≠ 3 ∧ s.g R.spare_DEGRADE_STEP = 3 then s.releaseFault 4 false else s

/-- Steps 1 to 3 of R25. DEDUCED, log entry 86. -/
def State.windowConfig (s : State) : State :=
  ((s.memWindow.windowAction).portLossStop).degradedFault (s.g R.spare_DEGRADE_STEP)

/-- Step 4 of R25: the state, and the beds whose spare took over. -/
def State.windowBeds (s : State) (q : QuietIn) : State × List Nat :=
  let t := forAll (List.range 24) s fun s b => s.rotateBed q.rot b
  let handed := (List.range 24).filter fun b =>
    (s.spareOf b).isSome && (t.spareOf b).isSome && s.spareOf b != t.spareOf b
  (t.tuneFilter, handed)

/-- The actions of a window of at least 64 slots, in the order of R25; a line check comes after the reloads, one of which may make
it wait (R447). DEDUCED, log entry 81. -/
def State.windowActions (s : State) (q : QuietIn) : State :=
  let switched := (List.range 8).filter fun m => (s.mp m).mig == 3
  let s := if s.trellis.prevWin.isSome then s.prevUpdate else s
  let older := ((s.switchTick, s.prevRegs) :: s.olderRegs).filter fun x => decide (s.trellis.tick ≤ x.1 + 4096)
  let s := { s with prevRegs := s.regs, switchTick := s.trellis.tick, olderRegs := older }.followerKeep
  let s := s.tr fun t =>
    { t with
      winTick := t.tick, winLen := t.qwLen, pfDone := false
      prevWin := if t.pfDone || decide (t.winLen < 64) then none else some (t.winTick, t.winLen) }
  let s := s.windowConfig.followerApply
  let (s, handed) := s.windowBeds q
  let s := forAll (List.range 24) (s.tendWindow handed) fun s b => s.lineCheckRun q.line b
  let s := (forAll (List.range 8) s State.startMigration).retrainStart.memPause switched
  s.calibrateApply.rotatorStep

/-- The quiet window of an orbit starts. DESIGN CHOICE, log entry 64. DEDUCED, log entry 81. DEDUCED, log entry 92. -/
def State.quietWindow (s : State) (q : QuietIn) : State :=
  match s.toWindow with
  | none => s
  | some s =>
    let s := s.orbitEdge.tr fun t => { t with inWindow := true }
    if s.trellis.qwLen < 64 then s else s.windowActions q

/-! ## Meanings -/

/-- COLLECTOR_CYCLE. -/
def execCollectorCycle (c : CycleIn) (s : State) : Host.Outcome State Fault Refusal :=
  match s.toCycle with
  | some s => .next (s.cycle c)
  | none => .next s

/-- ORBIT_BOUNDARY; the wrap of the orbit number is one the manual gives no behaviour (R28).
DESIGN CHOICE, log entry 115. -/
def execOrbitBoundary (s : State) : Host.Outcome State Fault Refusal :=
  if !s.orbitEnds then .next s
  else if 2 ^ 48 ≤ s.trellis.orbit + 1 then .fault .orbitWrap
  else .next s.orbitBoundary

/-- MFRAME_BOUNDARY, where the boundary just passed starts a frame. -/
def execMframeBoundary (m : MonitorIn) (s : State) : Host.Outcome State Fault Refusal :=
  .next (if s.trellis.frameDue then s.frameBoundary m else s)

/-- QUIET_WINDOW_START. -/
def execQuietWindowStart (q : QuietIn) (s : State) : Host.Outcome State Fault Refusal := .next (s.quietWindow q)

end Sys2Proof.Machine
end

