-- ==== Sys2Proof/Machine/Dispatch.lean ====
section
/-! DEFINITION. Each command goes to its meaning. -/
namespace Sys2Proof.Machine

/-- The effect of a command on everything but the queue. -/
def exec (i : Instr) (s : State) : Host.Outcome State Fault Refusal :=
  match i with
  | .ping h data => Sys2Proof.Machine.execPing h data s
  | .ident h lease => Sys2Proof.Machine.execIdent h lease s
  | .regRead h addr count fixed => Sys2Proof.Machine.execRegRead h addr count fixed s
  | .regWrite h addr fixed words => Sys2Proof.Machine.execRegWrite h addr fixed words s
  | .regModify h addr mask value => Sys2Proof.Machine.execRegModify h addr mask value s
  | .imageLoad h offset total bytes => Sys2Proof.Machine.execImageLoad h offset total bytes s
  | .imageLoadComplete flash => Sys2Proof.Machine.execImageLoadComplete flash s
  | .overlayStage h mode => Sys2Proof.Machine.execOverlayStage h mode s
  | .overlayCommit h orbit named => Sys2Proof.Machine.execOverlayCommit h orbit named s
  | .overlayRevert h => Sys2Proof.Machine.execOverlayRevert h s
  | .budgetCheck h => Sys2Proof.Machine.execBudgetCheck h s
  | .streamStart h orbit named => Sys2Proof.Machine.execStreamStart h orbit named s
  | .streamStop h orbit named => Sys2Proof.Machine.execStreamStop h orbit named s
  | .lookback h furrow kind first last => Sys2Proof.Machine.execLookback h furrow kind first last s
  | .ackWindow h us => Sys2Proof.Machine.execAckWindow h us s
  | .timeSet h sec ns frac => Sys2Proof.Machine.execTimeSet h sec ns frac s
  | .phaseCalibrate h => Sys2Proof.Machine.execPhaseCalibrate h s
  | .phaseCalibrateDone => Sys2Proof.Machine.execPhaseCalibrateDone s
  | .graftArm h pref peer => Sys2Proof.Machine.execGraftArm h pref peer s
  | .graftDrill h => Sys2Proof.Machine.execGraftDrill h s
  | .graftStatus h => Sys2Proof.Machine.execGraftStatus h s
  | .rankRetire h port slot => Sys2Proof.Machine.execRankRetire h port slot s
  | .memHealth h => Sys2Proof.Machine.execMemHealth h s
  | .nvmRead h area offset len => Sys2Proof.Machine.execNvmRead h area offset len s
  | .nvmWrite h offset bytes => Sys2Proof.Machine.execNvmWrite h offset bytes s
  | .nvmWriteDone pulses failed => Sys2Proof.Machine.execNvmWriteDone pulses failed s
  | .logRead h source max start => Sys2Proof.Machine.execLogRead h source max start s
  | .tendingReport h => Sys2Proof.Machine.execTendingReport h s
  | .marginApply h resource value => Sys2Proof.Machine.execMarginApply h resource value s
  | .slowConfig h ch cfg p0 p1 p2 => Sys2Proof.Machine.execSlowConfig h ch cfg p0 p1 p2 s
  | .tripClear h safe power => Sys2Proof.Machine.execTripClear h safe power s
  | .selftest h tests => Sys2Proof.Machine.execSelftest h tests s
  | .selftestDone failed => Sys2Proof.Machine.execSelftestDone failed s
  | .reset h kind => Sys2Proof.Machine.execReset h kind s
  | .zcsUnknownOpcode h opcode => Sys2Proof.Machine.execZcsUnknownOpcode h opcode s
  | .sessionLeaseExpiry session => Sys2Proof.Machine.execSessionLeaseExpiry session s
  | .orbitLoadArm w => Sys2Proof.Machine.execOrbitLoadArm w s
  | .lineCheckStart bed w => Sys2Proof.Machine.execLineCheckStart bed w s
  | .fcReqWrite w => Sys2Proof.Machine.execFcReqWrite w s
  | .scTxWrite w => Sys2Proof.Machine.execScTxWrite w s
  | .scRxRead => Sys2Proof.Machine.execScRxRead s
  | .csDataAccess a => Sys2Proof.Machine.execCsDataAccess a s
  | .coefAccess a => Sys2Proof.Machine.execCoefAccess a s
  | .maskAccess a => Sys2Proof.Machine.execMaskAccess a s
  | .memberAccess a => Sys2Proof.Machine.execMemberAccess a s
  | .retDataRead => Sys2Proof.Machine.execRetDataRead s
  | .sentinelRearmRequest w => Sys2Proof.Machine.execSentinelRearmRequest w s
  | .measPcountRead => Sys2Proof.Machine.execMeasPcountRead s
  | .lanePwrReq harvest w => Sys2Proof.Machine.execLanePwrReq harvest w s
  | .eyeScanStart harvest w => Sys2Proof.Machine.execEyeScanStart harvest w s
  | .mapOrderWrite w => Sys2Proof.Machine.execMapOrderWrite w s
  | .budgetReserveWrite who w => Sys2Proof.Machine.execBudgetReserveWrite who w s
  | .ackWinWrite who w => Sys2Proof.Machine.execAckWinWrite who w s
  | .scrubPeriodWrite who w => Sys2Proof.Machine.execScrubPeriodWrite who w s
  | .storedOnlyClear w => Sys2Proof.Machine.execStoredOnlyClear w s
  | .vexcFaultClear w => Sys2Proof.Machine.execVexcFaultClear w s
  | .safeForce w => Sys2Proof.Machine.execSafeForce w s
  | .hdgTxWrite w => Sys2Proof.Machine.execHdgTxWrite w s
  | .hdgRxRead => Sys2Proof.Machine.execHdgRxRead s
  | .shadowDiscard who page w => Sys2Proof.Machine.execShadowDiscard who page w s
  | .errClear page => Sys2Proof.Machine.execErrClear page s
  | .counterClear page => Sys2Proof.Machine.execCounterClear page s
  | .pdReqWrite w => Sys2Proof.Machine.execPdReqWrite w s
  | .xspiModeWrite w => Sys2Proof.Machine.execXspiModeWrite w s
  | .registerWrite who addr w => Sys2Proof.Machine.execRegisterWrite who addr w s
  | .collectorCycle c => Sys2Proof.Machine.execCollectorCycle c s
  | .orbitBoundary => Sys2Proof.Machine.execOrbitBoundary s
  | .mframeBoundary m => Sys2Proof.Machine.execMframeBoundary m s
  | .quietWindowStart q => Sys2Proof.Machine.execQuietWindowStart q s
  | .orbitMarker => Sys2Proof.Machine.execOrbitMarker s
  | .orbitMarkerMiss => Sys2Proof.Machine.execOrbitMarkerMiss s
  | .orbitLockAcquire => Sys2Proof.Machine.execOrbitLockAcquire s
  | .orbitLockLoss => Sys2Proof.Machine.execOrbitLockLoss s
  | .bclkFault stopped hz => Sys2Proof.Machine.execBclkFault stopped hz s
  | .bcPllLock => Sys2Proof.Machine.execBcPllLock s
  | .srcReturnH00 => Sys2Proof.Machine.execSrcReturnH00 s
  | .probeLaunch slot frac => Sys2Proof.Machine.execProbeLaunch slot frac s
  | .alignLost => Sys2Proof.Machine.execAlignLost s
  | .alignHold => Sys2Proof.Machine.execAlignHold s
  | .referenceClockPresent cd => Sys2Proof.Machine.execReferenceClockPresent cd s
  | .clockDomainLoss cd => Sys2Proof.Machine.execClockDomainLoss cd s
  | .clampConduct ch => Sys2Proof.Machine.execClampConduct ch s
  | .termDisconnect ch => Sys2Proof.Machine.execTermDisconnect ch s
  | .termReconnect ch => Sys2Proof.Machine.execTermReconnect ch s
  | .bedPowerUpCal bed => Sys2Proof.Machine.execBedPowerUpCal bed s
  | .bedCalDone bed cals => Sys2Proof.Machine.execBedCalDone bed cals s
  | .pedestalFollowerUpdate => Sys2Proof.Machine.execPedestalFollowerUpdate s
  | .sentinelFreeze sn => Sys2Proof.Machine.execSentinelFreeze sn s
  | .rxBlock lane symbols => Sys2Proof.Machine.execRxBlock lane symbols s
  | .blockLockAcquire lane => Sys2Proof.Machine.execBlockLockAcquire lane s
  | .blockLockLoss lane => Sys2Proof.Machine.execBlockLockLoss lane s
  | .frameLockAcquire lane => Sys2Proof.Machine.execFrameLockAcquire lane s
  | .frameLockLoss lane => Sys2Proof.Machine.execFrameLockLoss lane s
  | .laneRetrainEnd lane => Sys2Proof.Machine.execLaneRetrainEnd lane s
  | .laneDeepExitStart => Sys2Proof.Machine.execLaneDeepExitStart s
  | .laneExitComplete lane tx => Sys2Proof.Machine.execLaneExitComplete lane tx s
  | .shallowIdleBurst lane => Sys2Proof.Machine.execShallowIdleBurst lane s
  | .eyeScanDone lane low mid high complete => Sys2Proof.Machine.execEyeScanDone lane low mid high complete s
  | .tribFrame port herr bits => Sys2Proof.Machine.execTribFrame port herr bits s
  | .portDrainEnd port => Sys2Proof.Machine.execPortDrainEnd port s
  | .trigEdge input rising tdc => Sys2Proof.Machine.execTrigEdge input rising tdc s
  | .markBucketRefill bucket => Sys2Proof.Machine.execMarkBucketRefill bucket s
  | .segmentAgeClose furrow => Sys2Proof.Machine.execSegmentAgeClose furrow s
  | .memoryAccess m => Sys2Proof.Machine.execMemoryAccess m s
  | .refreshCommand port slot pair => Sys2Proof.Machine.execRefreshCommand port slot pair s
  | .mr4Poll port slot temps field => Sys2Proof.Machine.execMr4Poll port slot temps field s
  | .rdTableClear => Sys2Proof.Machine.execRdTableClear s
  | .memRetrainEnd port failed windows => Sys2Proof.Machine.execMemRetrainEnd port failed windows s
  | .memRetrainUnlocked port => Sys2Proof.Machine.execMemRetrainUnlocked port s
  | .scrubGranule errs => Sys2Proof.Machine.execScrubGranule errs s
  | .ceWindowEnd => Sys2Proof.Machine.execCeWindowEnd s
  | .migrationCopyDone port => Sys2Proof.Machine.execMigrationCopyDone port s
  | .coherentRequest line writeback requests => Sys2Proof.Machine.execCoherentRequest line writeback requests s
  | .segmentDispatch => Sys2Proof.Machine.execSegmentDispatch s
  | .compressJobDone eng step => Sys2Proof.Machine.execCompressJobDone eng step s
  | .segmentTxDone lane => Sys2Proof.Machine.execSegmentTxDone lane s
  | .laneMarkSend lane block => Sys2Proof.Machine.execLaneMarkSend lane block s
  | .backlogWaitTrigger => Sys2Proof.Machine.execBacklogWaitTrigger s
  | .laneDarken => Sys2Proof.Machine.execLaneDarken s
  | .returnFrame lane frame => Sys2Proof.Machine.execReturnFrame lane frame s
  | .laneDropTimeout lane => Sys2Proof.Machine.execLaneDropTimeout lane s
  | .returnChannelDown => Sys2Proof.Machine.execReturnChannelDown s
  | .slowCoarseResult r => Sys2Proof.Machine.execSlowCoarseResult r s
  | .slowFineResult r => Sys2Proof.Machine.execSlowFineResult r s
  | .slowModCalDone mod => Sys2Proof.Machine.execSlowModCalDone mod s
  | .slowClamp pin => Sys2Proof.Machine.execSlowClamp pin s
  | .vexcOverloadTrip load => Sys2Proof.Machine.execVexcOverloadTrip load s
  | .ixCompliance ix => Sys2Proof.Machine.execIxCompliance ix s
  | .ilPeriodEnd il => Sys2Proof.Machine.execIlPeriodEnd il s
  | .ilStale il => Sys2Proof.Machine.execIlStale il s
  | .safeNAssert lowNs => Sys2Proof.Machine.execSafeNAssert lowNs s
  | .ethFrame f => Sys2Proof.Machine.execEthFrame f s
  | .reasmTimeout src id => Sys2Proof.Machine.execReasmTimeout src id s
  | .ethLinkChange port up module => Sys2Proof.Machine.execEthLinkChange port up module s
  | .ptpMessage m => Sys2Proof.Machine.execPtpMessage m s
  | .ptpAnnounceTimeout => Sys2Proof.Machine.execPtpAnnounceTimeout s
  | .coldframeTimeSet => Sys2Proof.Machine.execColdframeTimeSet s
  | .hedgerowTimerCycle => Sys2Proof.Machine.execHedgerowTimerCycle s
  | .hedgerowFrameRx f => Sys2Proof.Machine.execHedgerowFrameRx f s
  | .hedgerowNodeTimeout node => Sys2Proof.Machine.execHedgerowNodeTimeout node s
  | .lockstepMismatch pair => Sys2Proof.Machine.execLockstepMismatch pair s
  | .pairRestartDone pair => Sys2Proof.Machine.execPairRestartDone pair s
  | .watchdogExpiry => Sys2Proof.Machine.execWatchdogExpiry s
  | .sramScrubPass corrected fatal => Sys2Proof.Machine.execSramScrubPass corrected fatal s
  | .romRecheck ok => Sys2Proof.Machine.execRomRecheck ok s
  | .graftSyncSend => Sys2Proof.Machine.execGraftSyncSend s
  | .graftSyncRx bytes crc onTime => Sys2Proof.Machine.execGraftSyncRx bytes crc onTime s
  | .graftReplySend => Sys2Proof.Machine.execGraftReplySend s
  | .graftReplyRx bytes crc => Sys2Proof.Machine.execGraftReplyRx bytes crc s
  | .graftRelease => Sys2Proof.Machine.execGraftRelease s
  | .graftTokenSeenReleased early => Sys2Proof.Machine.execGraftTokenSeenReleased early s
  | .graftTakeover => Sys2Proof.Machine.execGraftTakeover s
  | .graftListenEnd heard => Sys2Proof.Machine.execGraftListenEnd heard s
  | .catchUpDone => Sys2Proof.Machine.execCatchUpDone s
  | .tendingReplan => Sys2Proof.Machine.execTendingReplan s
  | .trimReloadDone block => Sys2Proof.Machine.execTrimReloadDone block s
  | .vinChange a b => Sys2Proof.Machine.execVinChange a b s
  | .railFault rail => Sys2Proof.Machine.execRailFault rail s
  | .pdStartAdmit => Sys2Proof.Machine.execPdStartAdmit s
  | .pdRampEnd pd ok => Sys2Proof.Machine.execPdRampEnd pd ok s
  | .ptripNAssert lowNs inDead => Sys2Proof.Machine.execPtripNAssert lowNs inDead s
  | .converterTrip cause => Sys2Proof.Machine.execConverterTrip cause s
  | .pfailDetect vhold => Sys2Proof.Machine.execPfailDetect vhold s
  | .emergencySaveDone ok => Sys2Proof.Machine.execEmergencySaveDone ok s
  | .powerRestore => Sys2Proof.Machine.execPowerRestore s
  | .powerLoss => Sys2Proof.Machine.execPowerLoss s
  | .coldframeToMain => Sys2Proof.Machine.execColdframeToMain s
  | .coldframeToVbat => Sys2Proof.Machine.execColdframeToVbat s
  | .vbatLow mv => Sys2Proof.Machine.execVbatLow mv s
  | .xspiRegRead addr count fixed ready done broken => Sys2Proof.Machine.execXspiRegRead addr count fixed ready done broken s
  | .xspiRegWrite addr count fixed ready words broken => Sys2Proof.Machine.execXspiRegWrite addr count fixed ready words broken s
  | .xspiStatus => Sys2Proof.Machine.execXspiStatus s
  | .xspiZcsWrite len bytes => Sys2Proof.Machine.execXspiZcsWrite len bytes s
  | .xspiZcsRead max finished => Sys2Proof.Machine.execXspiZcsRead max finished s
  | .xspiUnknownCmd cmd => Sys2Proof.Machine.execXspiUnknownCmd cmd s
  | .xspiAbort cmd mid ready => Sys2Proof.Machine.execXspiAbort cmd mid ready s
  | .xipRead offset timeouts => Sys2Proof.Machine.execXipRead offset timeouts s
  | .startupVinGood vhold => Sys2Proof.Machine.execStartupVinGood vhold s
  | .startupVintStart vint ok => Sys2Proof.Machine.execStartupVintStart vint ok s
  | .startupPd01On strap => Sys2Proof.Machine.execStartupPd01On strap s
  | .startupCanaryCheck intact => Sys2Proof.Machine.execStartupCanaryCheck intact s
  | .startupRomBoot => Sys2Proof.Machine.execStartupRomBoot s
  | .startupTrimLoad ok1 ok2 same => Sys2Proof.Machine.execStartupTrimLoad ok1 ok2 same s
  | .startupStoreScan => Sys2Proof.Machine.execStartupStoreScan s
  | .startupImageSource f flash => Sys2Proof.Machine.execStartupImageSource f flash s
  | .startupDomains => Sys2Proof.Machine.execStartupDomains s
  | .startupTrainAndApply failed ms flash => Sys2Proof.Machine.execStartupTrainAndApply failed ms flash s
  | .startupLaneBringup => Sys2Proof.Machine.execStartupLaneBringup s
  | .startupTimeLock => Sys2Proof.Machine.execStartupTimeLock s
  | .startupBudgetCheck => Sys2Proof.Machine.execStartupBudgetCheck s
  | .ready => Sys2Proof.Machine.execReady s
  | .resetNAssert lowNs => Sys2Proof.Machine.execResetNAssert lowNs s
  | .resetNRelease strap => Sys2Proof.Machine.execResetNRelease strap s
  | .resetTakeEffect => Sys2Proof.Machine.execResetTakeEffect s
  | .safeNRelease => Sys2Proof.Machine.execSafeNRelease s
  | .ptripNRelease => Sys2Proof.Machine.execPtripNRelease s

end Sys2Proof.Machine
end

