-- ==== Sys2Proof/Machine/Step.lean ====
section
/-! DEFINITION. One step: the command at the front of the queue acts; on an empty queue a cycle of CD01 passes. -/
namespace Sys2Proof.Machine

/-- What a step does on an empty queue: 40 ns, one cycle of CD01, pass (DESIGN CHOICE, log entry 1). -/
def State.idle (s : State) : State := s.elapse 40

/-- One step of the hub. DESIGN CHOICE, log entry 1. DESIGN CHOICE, log entry 19. -/
def step (s : State) : Host.Outcome State Fault Refusal :=
  match s.pending with
  | [] => .next s.idle
  | c :: cs => exec c { s with pending := cs }

/-- The state with the command a table word spells at the front of its queue; unchanged where it spells none.
DESIGN CHOICE, log entry 19. -/
def State.withFetchWord (s : State) (nbits w : Nat) : State :=
  match decodeTableWord nbits w with
  | some c => { s with pending := c :: s.pending }
  | none => s

end Sys2Proof.Machine
end

