-- ==== Sys2Proof/Safety.lean ====
section
/-! DEFINITION. Runs of the hub, what counts as a safe one, and the frames that claims are stated with. -/
namespace Sys2Proof.Machine

/-- The state after a number of steps; none where a step stops before. -/
def State.after? : Nat → State → Option State
  | 0, s => some s
  | n + 1, s =>
    match step s with
    | .next t => State.after? n t
    | _ => none

/-- The first steps from a state all answer a next state. -/
def State.Safe (n : Nat) (s : State) : Prop := (State.after? n s).isSome

/-- The state with commands put before those that wait. DESIGN CHOICE, log entry 19. -/
def State.given (s : State) (cs : List Instr) : State := { s with pending := cs ++ s.pending }

/-- Every register field instance of `t` holds what it holds in `s`, but for the instances listed. -/
def State.regsBut (s t : State) (l : List (Fld × Nat)) : Prop :=
  ∀ (g : Fld) (j : Nat), (∀ x ∈ l, g.base ≠ x.1.base ∨ j % 2 ^ 20 ≠ x.2 % 2 ^ 20) → t.gi g j = s.gi g j

/-- Every instance of every register field of `t` holds what it holds in `s`, but for the fields listed. -/
def State.fieldsBut (s t : State) (l : List Fld) : Prop :=
  ∀ (g : Fld) (j : Nat), (∀ f ∈ l, g.base ≠ f.base) → t.gi g j = s.gi g j

/-- The hub-log entries made: those written, and those that wait for the tending pair (R393, R399). -/
def State.entriesMade (s : State) : Nat := s.cpu.lseq + s.cpu.waiting.length

/-- The header fields that an error counted on a page changes (R381). -/
def errFields : List Fld :=
  [R.hdr_ERR_COUNT_COUNT, R.hdr_ERR_CAPT_CAUSE, R.hdr_ERR_CAPT_WHAT, R.hdr_ERR_CAPT_INDEX, R.hdr_IRQ_STAT_ERR]

/-- Every byte of stream memory of `t` is that of `s`, but for `n` bytes from an address up. -/
def State.bytesBut (s t : State) (a n : Nat) : Prop :=
  ∀ b, (b < a ∨ a + n ≤ b) → memGet t.mem.cells b = memGet s.mem.cells b

/-- Every RWS field of every page holds in `t` what it holds in `s`. -/
def State.sameStaged (s t : State) : Prop :=
  ∀ (p : Nat) (g : Fld) (j : Nat), g ∈ tableOf p → g.acc = .rws → t.gi g j = s.gi g j

end Sys2Proof.Machine
end

