-- ==== Sys2Proof/Certificates/Slice0/Obligations.lean ====
section
/-! DEFINITION. The statements about the model. A frame names what may differ: `t = { s with … := t.… }` says that every
part of the state but those named is unchanged, `regsBut` that every register field but those listed is, and `bytesBut`
that every byte of stream memory but those stored to is. -/
open Sys2Proof Sys2Proof.Machine

/-! ## The block -/

/-- A step with a command at the front of the queue is that command's effect on the state with the queue's rest. -/
def Obligations.StepRunsFrontCommand : Prop :=
  ∀ (c : Instr) (cs : List Instr) (s : State), step { s with pending := c :: cs } = exec c { s with pending := cs }

/-- On an empty queue a step lets 40 ns pass and nothing else: local time counts them and the wall clock advances by them
at its rate, where the reference of its clock is present, and stands still where it is not (R336; log entry 1). -/
def Obligations.IdleStepPassesTime : Prop :=
  ∀ s : State, s.pending = [] →
    ∃ t, step s = .next t ∧ t = { s with nowNs := t.nowNs, wall := t.wall } ∧ t.nowNs = s.nowNs + 40
      ∧ (s.wall.ns < 10 ^ 9 → s.wall.frac < 2 ^ 48 → s.wall.sec < 2 ^ 48 →
          (s.on R.clocks_REF_STAT_HREF 0 = true → s.wall.rate = 0 →
            t.wall.sec * 10 ^ 9 + t.wall.ns = (s.wall.sec * 10 ^ 9 + s.wall.ns + 40) % (2 ^ 48 * 10 ^ 9)
              ∧ t.wall.frac = s.wall.frac)
          ∧ (s.on R.clocks_REF_STAT_HREF 0 = false → t.wall = s.wall))

/-- At reset the register map and stream memory are in the form that makes equal contents equal data; no command waits, no
session is open and start-up has done no step; every register field instance holds its reset value: the one its table
gives (STATE 0, M 48, G 0x4000, every channel in class 0), and 0, the model's choice, where a table gives none (log entry
66). -/
def Obligations.ResetState : Prop :=
  State.reset.Inv ∧ State.reset.pending = [] ∧ State.reset.zcs.sessions = [] ∧ State.reset.boot.step = 0
  ∧ State.reset.mem.cells = [] ∧ (∀ (f : Fld) (j : Nat), State.reset.gi f j = f.resetOf j)
  ∧ State.reset.g R.global_STATE_STATE = 0 ∧ State.reset.g R.trellis_MFRAME_MF_ORBITS = 48
  ∧ (∀ ch, State.reset.gi R.sieve_GAIN_G ch = 0x4000) ∧ (∀ j, State.reset.gi R.cwin_CS_DATA_CLASSES j = 0)

/-- Every step from a state in canonical form answers, where it answers a next state, one in canonical form. -/
def Obligations.StepKeepsInvariant : Prop := ∀ s t : State, s.Inv → step s = .next t → t.Inv

/-- Every command of every state in canonical form completes with a next state, in canonical form and with the queue of
waiting commands as it was; but for a memory access beyond the capacity in service and an orbit boundary at the greatest
orbit number, which stop (R28, R223, R226; log entry 115). -/
def Obligations.CommandsKeepQueue : Prop :=
  (∀ (c : Instr) (s t : State), s.Inv → exec c s = .next t → t.pending = s.pending)
  ∧ ∀ (c : Instr) (s : State), s.Inv → (∀ m, c = .memoryAccess m → m.addr < s.memBytes) →
      (c = .orbitBoundary → s.trellis.orbit + 1 < 2 ^ 48) →
      ∃ t, exec c s = .next t ∧ t.pending = s.pending ∧ t.Inv

/-- The commands that can change the configuration: the accesses to registers, commits and overlays, the image, the
settings of management frames and quiet windows, the folding of rings after a loss of memory, power failure, and resets. -/
def mayConfigure : Instr → Bool
  | .memoryAccess .. | .memRetrainEnd .. | .scrubGranule .. | .migrationCopyDone ..
  | .lockstepMismatch .. | .watchdogExpiry .. | .sramScrubPass .. | .romRecheck .. | .railFault ..
  | .pdRampEnd .. | .ptripNAssert .. | .converterTrip .. | .pfailDetect .. | .powerRestore .. | .powerLoss .. | .regWrite ..
  | .regModify .. | .fcReqWrite .. | .scTxWrite .. | .csDataAccess .. | .coefAccess .. | .maskAccess ..
  | .memberAccess .. | .lanePwrReq .. | .eyeScanStart .. | .mapOrderWrite .. | .budgetReserveWrite ..
  | .ackWinWrite .. | .scrubPeriodWrite .. | .storedOnlyClear .. | .vexcFaultClear .. | .safeForce ..
  | .hdgTxWrite .. | .shadowDiscard .. | .errClear .. | .counterClear .. | .xspiModeWrite .. | .registerWrite ..
  | .xspiRegWrite .. | .imageLoadComplete .. | .overlayCommit .. | .overlayRevert ..
  | .ackWindow .. | .startupTrainAndApply .. | .resetNAssert .. | .resetTakeEffect .. | .mframeBoundary ..
  | .quietWindowStart .. => true
  | _ => false

/-- Every other command leaves every RWS field of every page as it is (R11: a staged value takes effect at a commit). -/
def Obligations.OtherCommandsKeepConfiguration : Prop :=
  ∀ (c : Instr) (s t : State), s.Inv → mayConfigure c = false → exec c s = .next t → s.sameStaged t

/-! ## Registers and stream memory -/

/-- A field written reads back cut to its width, and every other instance of every field reads as before; bytes stored in
stream memory read back, and every byte outside them reads as before. Both keep the canonical form. -/
def Obligations.WritesReadBack : Prop :=
  (∀ (s : State) (f : Fld) (i v : Nat), s.Inv →
    (s.pi f i v).gi f i = v % 2 ^ f.width ∧ s.regsBut (s.pi f i v) [(f, i)] ∧ (s.pi f i v).Inv)
  ∧ (∀ (s : State) (a : Nat) (l : List Byte), s.Inv →
    (s.poke a l).peek a l.length = l ∧ s.bytesBut (s.poke a l) a l.length ∧ (s.poke a l).Inv)

/-! ## Machine time -/

/-- The fields that a loss of machine timing writes, with the spare of each bed whose rotation stops (R35, R74). -/
def lossFields : List (Fld × Nat) :=
  [(R.trellis_TSTAT_TIMING_LOST, 0), (R.trellis_TSTAT_HOLDOVER, 0)]
    ++ (List.range 24).map fun b => (R.bed_ROT_STAT_NEXT_CH, b * 64)

/-- ORBIT_LOAD_HI takes bits 15 to 0 of the word with the low half written before and, with bit 31, arms the load in PIN mode
(R30). In PIN mode a marker is noted with its slot's place. Once the orbit is locked, one in MARK_SLOT confirms the orbit
and loads an armed number, and one in another slot is counted and otherwise ignored (R30, R31). The first marker after a
relock of the clock decides the phase: in another slot than MARK_SLOT the counters restart there (R36). The marker slot of
a locked orbit passing without its marker is counted once and makes the orbit bad (R31). A marker of the running counters
loads an armed number before the lock too (the model's reading, log entry 120); a graft standby loads none (R414). The
orbit-time record that a load held back goes with it (R338). -/
def Obligations.OrbitMarkers : Prop :=
  (∀ (w : Word) (s : State), s.Inv → ∃ t, exec (.orbitLoadArm w) s = .next t
    ∧ t = { s with held := t.held, regs := t.regs
                   trellis := { s.trellis with loadArmed := s.trellis.loadArmed || (w.getLsbD 31 && !s.embedded) } }
    ∧ s.regsBut t [(R.trellis_ORBIT_LOAD_LO_ORBIT_LO, 0), (R.trellis_ORBIT_LOAD_HI_ORBIT_HI, 0)]
    ∧ t.g R.trellis_ORBIT_LOAD_LO_ORBIT_LO
      = aget (s.g R.trellis_ORBIT_LOAD_LO_ORBIT_LO) s.held 0x001050 % 2 ^ R.trellis_ORBIT_LOAD_LO_ORBIT_LO.width
    ∧ t.g R.trellis_ORBIT_LOAD_HI_ORBIT_HI = w.toNat % 2 ^ 16)
  ∧ (∀ s : State, s.Inv → ∃ t, exec .orbitMarker s = .next t
    ∧ t = { s with freeCtr := t.freeCtr, furrows := t.furrows, hist := t.hist, hubQ := t.hubQ, mem := t.mem
                   regs := t.regs, trellis := t.trellis, wall := t.wall }
    ∧ s.regsBut t [(R.trellis_ORBIT_SLIP_COUNT, 0), (R.harv_BACKLOG_MAX_BYTES, 0)]
    ∧ (s.embedded = true → t = s)
    ∧ (s.embedded = false → t.trellis.lastMark = some s.trellis.tick
      ∧ t.trellis.markRun = (if s.trellis.lastMark.map (· + s.nSlot) = some s.trellis.tick then s.trellis.markRun + 1 else 1)
      ∧ (s.locked = true → s.trellis.restartDue = false → s.trellis.slot = s.g R.trellis_ORBIT_CFG_MARK_SLOT →
          t = { s with hubQ := t.hubQ, trellis := t.trellis, wall := t.wall } ∧ t.trellis.marked = true
          ∧ t.trellis.slot = s.trellis.slot
          ∧ t.trellis.orbit
            = (if s.trellis.loadArmed && s.counting && !s.standby then s.loadValue else s.trellis.orbit))
      ∧ (s.locked = true → s.trellis.restartDue = false → s.trellis.slot ≠ s.g R.trellis_ORBIT_CFG_MARK_SLOT →
          t = { s with regs := t.regs, trellis := t.trellis } ∧ t.trellis.orbitBad = true
          ∧ t.trellis.marked = s.trellis.marked ∧ t.trellis.slot = s.trellis.slot ∧ t.trellis.orbit = s.trellis.orbit
          ∧ t.trellis.loadArmed = s.trellis.loadArmed
          ∧ t.g R.trellis_ORBIT_SLIP_COUNT
            = cap (2 ^ R.trellis_ORBIT_SLIP_COUNT.width - 1) (s.g R.trellis_ORBIT_SLIP_COUNT + 1))
      ∧ (s.locked = true → s.trellis.restartDue = true → s.regsBut t [(R.harv_BACKLOG_MAX_BYTES, 0)]
          ∧ t.trellis.restartDue = false
          ∧ t.trellis.slot = s.g R.trellis_ORBIT_CFG_MARK_SLOT
          ∧ (s.lost = true → s.bcLock = true → t.trellis.clearDue = true)
          ∧ (s.trellis.slot ≠ s.g R.trellis_ORBIT_CFG_MARK_SLOT → t.trellis.restartOrbit = some t.trellis.orbit
              ∧ ∀ f, (t.fur f).cur = none))
      ∧ (s.locked = false → t = { s with hubQ := t.hubQ, trellis := t.trellis, wall := t.wall }
          ∧ t.trellis.orbit
            = (if s.trellis.loadArmed && s.counting && !s.standby then s.loadValue else s.trellis.orbit))))
  ∧ (∀ s : State, s.Inv → ∃ t, exec .orbitMarkerMiss s = .next t
    ∧ t = { s with regs := t.regs
                   trellis := { s.trellis with missed := t.trellis.missed, orbitBad := t.trellis.orbitBad } }
    ∧ s.regsBut t [(R.trellis_ORBIT_MISS_COUNT, 0)]
    ∧ (s.locked = true → s.counting = true → s.g R.trellis_ORBIT_CFG_MARK_SLOT ≤ s.trellis.slot →
        s.trellis.marked = false → s.trellis.missed = false → t.trellis.missed = true ∧ t.trellis.orbitBad = true
        ∧ t.g R.trellis_ORBIT_MISS_COUNT
          = cap (2 ^ R.trellis_ORBIT_MISS_COUNT.width - 1) (s.g R.trellis_ORBIT_MISS_COUNT + 1))
    ∧ (s.locked = false ∨ s.trellis.marked = true ∨ s.trellis.missed = true
        ∨ s.trellis.slot < s.g R.trellis_ORBIT_CFG_MARK_SLOT → t = s))

/-- At the fourth consecutive marker spaced N_slot, in the marker's slot, the orbit locks (R30, R31). The first time, SLOT_NOW
takes MARK_SLOT, numbers run from the armed number or 0 (in EMBEDDED mode from the return channel's or 0; a graft standby takes
no load, R414), and the quiet window and M in effect are the committed ones; with the clock locked the anti-alias filters are
tuned to k and f_BC, a free value while BC_NOMINAL is 0 (R59; log entry 136). After a change
of NSLOT or MARK_SLOT the numbers go on from the last orbit counted. A relock in agreement with the flywheel continues, and
one in disagreement restarts the counters at MARK_SLOT (R36). After four consecutive bad orbits ORBIT_LOCK clears and
machine timing is lost (R31, R35). -/
def Obligations.OrbitLockAndLoss : Prop :=
  (∀ s : State, s.Inv → ∃ t, exec .orbitLockAcquire s = .next t
    ∧ t = { s with freeCtr := t.freeCtr, furrows := t.furrows, graft := t.graft, hist := t.hist, hubQ := t.hubQ
                   mem := t.mem, regs := t.regs, trellis := t.trellis, wall := t.wall }
    ∧ s.regsBut t [(R.trellis_TSTAT_ORBIT_LOCK, 0), (R.harv_BACKLOG_MAX_BYTES, 0)]
    ∧ (s.locked = true ∨ s.trellis.markRun < 4 ∨ s.trellis.lastMark ≠ some s.trellis.tick → t = s)
    ∧ (s.locked = false → 4 ≤ s.trellis.markRun → s.trellis.lastMark = some s.trellis.tick →
        t.g R.trellis_TSTAT_ORBIT_LOCK = 1
        ∧ (s.trellis.filter = none → s.bcLock = true →
            ∃ hz, t.trellis.filter = some (s.k, hz) ∧ (s.fBC ≠ 0 → hz = s.fBC))
        ∧ (s.lost = true → s.bcLock = true → t.trellis.clearDue = true)
        ∧ (s.trellis.everLocked = false → t.trellis.everLocked = true ∧ t.mem = s.mem ∧ t.furrows = s.furrows
            ∧ t.trellis.slot = s.g R.trellis_ORBIT_CFG_MARK_SLOT
            ∧ t.trellis.loadArmed = (s.trellis.loadArmed && (s.embedded || s.standby))
            ∧ t.trellis.orbit = (if s.embedded then s.trellis.embOrbit.getD 0
                else if s.trellis.loadArmed && !s.standby then s.loadValue else 0)
            ∧ t.trellis.qwFirst = s.g R.trellis_QUIET_QW_FIRST ∧ t.trellis.qwLen = s.g R.trellis_QUIET_QW_LEN
            ∧ t.trellis.mNow = s.g R.trellis_MFRAME_MF_ORBITS)
        ∧ (∀ last, s.trellis.everLocked = true → s.trellis.renumber = some last → t.trellis.renumber = none
            ∧ t.mem = s.mem ∧ t.furrows = s.furrows ∧ t.trellis.slot = s.g R.trellis_ORBIT_CFG_MARK_SLOT
            ∧ t.trellis.orbit = (if s.embedded then s.trellis.embOrbit.getD (last + 1)
                else if s.trellis.loadArmed && !s.standby then s.loadValue else last + 1))
        ∧ (s.trellis.everLocked = true → s.trellis.renumber = none →
            (s.phaseNow = true → t = { s with freeCtr := t.freeCtr, graft := t.graft, regs := t.regs, trellis := t.trellis }
                ∧ t.trellis.slot = s.trellis.slot ∧ t.trellis.orbit = s.trellis.orbit)
            ∧ (s.phaseNow = false → t.trellis.slot = s.g R.trellis_ORBIT_CFG_MARK_SLOT
                ∧ t.trellis.restartOrbit = some t.trellis.orbit))))
  ∧ (∀ s : State, s.Inv → ∃ t, exec .orbitLockLoss s = .next t
    ∧ t = { s with beds := t.beds, cpu := t.cpu, freeCtr := t.freeCtr, graft := t.graft, hubQ := t.hubQ
                   regs := t.regs, trellis := t.trellis }
    ∧ s.regsBut t ((R.trellis_TSTAT_ORBIT_LOCK, 0) :: lossFields)
    ∧ (s.locked = false ∨ s.trellis.badRun < 4 → t = s)
    ∧ (s.locked = true → 4 ≤ s.trellis.badRun → t.g R.trellis_TSTAT_ORBIT_LOCK = 0 ∧ t.trellis.badRun = 0
        ∧ t.trellis.clearDue = false
        ∧ (s.lost = true → t.g R.trellis_TSTAT_TIMING_LOST = s.g R.trellis_TSTAT_TIMING_LOST)
        ∧ (s.lost = false → t.g R.trellis_TSTAT_TIMING_LOST = 1 ∧ t.g R.trellis_TSTAT_HOLDOVER = 1
            ∧ t.entriesMade = s.entriesMade + 1)))

/-- A bunch clock that stops, or departs by more than 500 ppm from BC_NOMINAL as checked against CD49, clears BC_LOCK and
loses machine timing in PIN mode (R35). The PLL locking sets BC_LOCK; with timing lost and the orbit locked the next marker
decides the relock (R36, R45), by the model's reading in log entry 120. At a
quiet window the bunch-clock source returns to H00, once that has held block lock for 1,024 orbits (R34). A clock domain
that runs, and stops, shows in LOSS with its page's interrupt; a reference that comes back shows in REF_STAT (R43, R392). With
CD62 the master serial port changes its mode and clock (R475). -/
def Obligations.BunchClockAndDomains : Prop :=
  (∀ (stopped : Bool) (hz : Nat) (s : State), s.Inv → ∃ t, exec (.bclkFault stopped hz) s = .next t
    ∧ t = { s with beds := t.beds, cpu := t.cpu, freeCtr := t.freeCtr, graft := t.graft, hubQ := t.hubQ
                   regs := t.regs, trellis := t.trellis }
    ∧ s.regsBut t ([(R.clocks_LOSS_LO_CD, 0), (R.clocks_LOSS_HI_CD, 0), (R.hdr_IRQ_STAT_EVENT, 0x002),
        (R.trellis_TSTAT_BC_LOCK, 0)] ++ lossFields)
    ∧ (s.embedded = true → t = s)
    ∧ (s.embedded = false → stopped = true → t.g R.trellis_TSTAT_BC_LOCK = 0 ∧ t.lost = true ∧ t.trellis.bclk = false
        ∧ (s.pd 1 = true → bitAt (t.g R.clocks_LOSS_LO_CD) 2 = true ∧ t.gi R.hdr_IRQ_STAT_EVENT 0x002 = 1))
    ∧ (s.embedded = false → stopped = false → s.fBC = 0 ∨ s.g R.clocks_REF_STAT_HREF = 0 → t = s)
    ∧ (s.embedded = false → stopped = false → s.fBC ≠ 0 → s.g R.clocks_REF_STAT_HREF ≠ 0 →
        (500 * s.fBC < (if hz < s.fBC then s.fBC - hz else hz - s.fBC) * 1000000 →
          t.g R.trellis_TSTAT_BC_LOCK = 0 ∧ t.lost = true ∧ t.trellis.bclk = s.trellis.bclk)
        ∧ ((if hz < s.fBC then s.fBC - hz else hz - s.fBC) * 1000000 ≤ 500 * s.fBC → t = s)))
  ∧ (∀ s : State, s.Inv → ∃ t, exec .bcPllLock s = .next t
    ∧ t = { s with freeCtr := t.freeCtr, regs := t.regs, trellis := t.trellis } ∧ s.regsBut t [(R.trellis_TSTAT_BC_LOCK, 0)]
    ∧ (s.bcLock = true ∨ (s.embedded = true ∧ s.blockLock 32 = false ∧ s.blockLock 33 = false) → t = s)
    ∧ (s.bcLock = false → s.embedded = false ∨ s.blockLock 32 = true ∨ s.blockLock 33 = true → t.bcLock = true
        ∧ (s.trellis.filter = none → s.locked = true →
            ∃ hz, t.trellis.filter = some (s.k, hz) ∧ (s.fBC ≠ 0 → hz = s.fBC))
        ∧ t.trellis.restartDue = (s.lost && s.locked) ∧ t.trellis.clearDue = s.trellis.clearDue))
  ∧ (∀ s : State, s.Inv → ∃ t, exec .srcReturnH00 s = .next t
    ∧ t = { s with regs := t.regs } ∧ s.regsBut t [(R.trellis_TSTAT_SRC_H01, 0)]
    ∧ t.g R.trellis_TSTAT_SRC_H01 = (if s.blockLock 32 = true ∧ 1024 ≤ s.trellis.h00Orbits ∧ s.inQuiet = true then 0
        else s.g R.trellis_TSTAT_SRC_H01))
  ∧ (∀ (cd : Nat) (s : State), s.Inv → ∃ t, exec (.clockDomainLoss cd) s = .next t
    ∧ t = { s with beds := t.beds, cpu := t.cpu, freeCtr := t.freeCtr, graft := t.graft, hubQ := t.hubQ
                   regs := t.regs, trellis := t.trellis, wall := { s.wall with anchors := t.wall.anchors } }
    ∧ s.regsBut t ([(R.clocks_LOSS_LO_CD, 0), (R.clocks_LOSS_HI_CD, 0), (R.hdr_IRQ_STAT_EVENT, 0x002),
        (R.trellis_TSTAT_BC_LOCK, 0), (R.clocks_REF_STAT_XTAL32, 0), (R.clocks_REF_STAT_HREF, 0),
        (R.clocks_REF_STAT_ON_CD01, 0), (R.xspi_MST_CFG_DIV, 0), (R.xspi_MST_STAT_DDR, 0), (R.xspi_MST_STAT_MHZ, 0)]
          ++ lossFields)
    ∧ (64 ≤ cd ∨ s.cdRuns cd = false → t = s)
    ∧ (cd < 64 → s.cdRuns cd = true → t.gi R.hdr_IRQ_STAT_EVENT 0x002 = 1
        ∧ (cd < 32 → bitAt (t.g R.clocks_LOSS_LO_CD) cd = true)
        ∧ (32 ≤ cd → bitAt (t.g R.clocks_LOSS_HI_CD) (cd - 32) = true)
        ∧ (cd = 2 ∨ cd = 3 → t.bcLock = false) ∧ (cd = 2 → s.embedded = false → t.lost = true)
        ∧ (cd ≠ 2 ∨ s.embedded = true → cd ∈ t.trellis.stopped ∧ t.lost = s.lost)
        ∧ (cd = 0 → t.g R.clocks_REF_STAT_XTAL32 = 0)
        ∧ (cd = 49 → t.g R.clocks_REF_STAT_HREF = 0 ∧ t.g R.clocks_REF_STAT_ON_CD01 = 1)))
  ∧ (∀ (cd : Nat) (s : State), s.Inv → ∃ t, exec (.referenceClockPresent cd) s = .next t
    ∧ t = { s with regs := t.regs, trellis := t.trellis, wall := { s.wall with anchors := t.wall.anchors } }
    ∧ s.fieldsBut t [R.clocks_REF_STAT_HREF, R.clocks_REF_STAT_ON_CD01, R.xspi_MST_CFG_DIV, R.xspi_MST_STAT_DDR,
        R.xspi_MST_STAT_MHZ]
    ∧ (cd = 49 → t.g R.clocks_REF_STAT_HREF = 1 ∧ t.g R.clocks_REF_STAT_ON_CD01 = 0
        ∧ t.trellis.stopped.contains 49 = false)
    ∧ (cd ≠ 49 → cd ≠ 62 → t = s))

/-- A probe leaves on H00 in EMBEDDED mode at slot 0 of the first orbit of each probe interval, with the next SEQ, the hub's
number and its time of departure, and one still waiting is counted as missed (R47, R50, R391). Four consecutive outliers
set ALIGN_LOST and 16 consecutive missed probes ALIGN_HOLD (R51). A calibration that has its 16 reports ends: a delay that
the range of R46 or the stream does not allow is not taken, another becomes the target of the next quiet window (R52). -/
def Obligations.ProbeEchoLoop : Prop :=
  (∀ (slot frac : Nat) (s : State), s.Inv → ∃ t, exec (.probeLaunch slot frac) s = .next t
    ∧ t = { s with freeCtr := t.freeCtr, harvest := { s.harvest with tx := t.harvest.tx }, lanesH := t.lanesH
                   outbox := t.outbox, regs := t.regs, trellis := { s.trellis with probe := t.trellis.probe } }
    ∧ s.regsBut t [(R.trellis_PROBE_CNT_MISS, 0)]
    ∧ (s.embedded = false ∨ s.g R.global_HUB_ID_ID = 0 ∨ s.trellis.slot ≠ 0 ∨ s.trellis.ran = true
        ∨ s.trellis.probe.lastOrbit = some s.trellis.orbit → t = s)
    ∧ (s.embedded = true → s.g R.global_HUB_ID_ID ≠ 0 → s.counting = true → s.trellis.orbit % s.probeInterval = 0 →
        s.trellis.slot = 0 → s.trellis.ran = false →
        (s.laneOf 32).tx = 0 ∨ (s.standby = true ∧ (s.laneOf 32).tx = 1) →
        s.trellis.probe.lastOrbit ≠ some s.trellis.orbit →
        t.trellis.probe.waiting = true ∧ t.trellis.probe.seq = (s.trellis.probe.seq + 1) % 256
        ∧ (∃ l bytes, t.outbox = s.outbox ++ l ++ [.priority 0 0x11 bytes]
            ∧ leAt bytes 0 2 = s.g R.global_HUB_ID_ID % 2 ^ 16 ∧ leAt bytes 2 1 = t.trellis.probe.seq
            ∧ leAt bytes 4 6 = s.trellis.orbit % 2 ^ 48 ∧ leAt bytes 10 2 = slot % 2 ^ 14
            ∧ leAt bytes 12 4 = frac % 2 ^ 32)
        ∧ t.g R.trellis_PROBE_CNT_MISS = (if s.trellis.probe.waiting then
            cap (2 ^ R.trellis_PROBE_CNT_MISS.width - 1) (s.g R.trellis_PROBE_CNT_MISS + 1)
          else s.g R.trellis_PROBE_CNT_MISS)))
  ∧ (∀ s : State, s.Inv → ∃ t, exec .alignLost s = .next t
    ∧ t = { s with regs := t.regs } ∧ s.regsBut t [(R.trellis_TSTAT_ALIGN_LOST, 0)]
    ∧ t.g R.trellis_TSTAT_ALIGN_LOST
      = (if 4 ≤ s.trellis.probe.outlierRun then 1 else s.g R.trellis_TSTAT_ALIGN_LOST))
  ∧ (∀ s : State, s.Inv → ∃ t, exec .alignHold s = .next t
    ∧ t = { s with regs := t.regs } ∧ s.regsBut t [(R.trellis_TSTAT_ALIGN_HOLD, 0)]
    ∧ t.g R.trellis_TSTAT_ALIGN_HOLD = (if 16 ≤ s.trellis.probe.missRun then 1 else s.g R.trellis_TSTAT_ALIGN_HOLD))
  ∧ (∀ s : State, s.Inv → ∃ t, exec .phaseCalibrateDone s = .next t
    ∧ t = { s with freeCtr := t.freeCtr, harvest := t.harvest, lanesH := t.lanesH, outbox := t.outbox, regs := t.regs
                   trellis := { s.trellis with probe := t.trellis.probe }, xspi := t.xspi, zcs := t.zcs }
    ∧ s.fieldsBut t (errFields ++ [R.trellis_DDOWN_D_DOWN, R.trellis_ALIGN_APPLIED_STEPS,
        R.trellis_ALIGN_APPLIED_SAMPLES, R.xspi_SLV_CNT_RESP_LOST])
    ∧ (s.trellis.probe.calib = none → t = s)
    ∧ (∀ l, s.trellis.probe.calib = some l → l.length < 16 → t = s)
    ∧ (∀ l, s.trellis.probe.calib = some l → 16 ≤ l.length →
        let d := s.delaySteps (sumInt l) l.length
        let refused := !delayInRange d || (s.streaming && decide (4096 ≤ (d - (s.trellis.probe.applied : Int)).natAbs))
        t.trellis.probe.calib = none
        ∧ (refused = true → t.trellis.probe.calibApply = s.trellis.probe.calibApply
            ∧ t.trellis.probe.target = s.trellis.probe.target)
        ∧ (refused = false → t.trellis.probe.calibApply = some d.toNat ∧ t.trellis.probe.target = d.toNat)))

/-! ## Serial lanes -/

/-- A receiver takes the 64 symbols of a block, and no configuration, queue or memory changes; an unpowered one takes none. In
the shallow state the flywheel of a locked one counts the block that passes (R135, R136, R142). Each block of a receiver
that looks for lock with an invalid header moves its candidate position by one, and each valid one counts; the header is
the first symbol's bit pair, after polarity and precoding (R127 to R131, R135). Precoding goes on from the symbol before: the
last of the block before, or after a move the one skipped, which leads the list or is a free value (R129; log entry 137). -/
def Obligations.ReceiversTakeBlocks : Prop :=
  ∀ (lane : Nat) (symbols : List Nat) (s : State), s.Inv → ∃ t, exec (.rxBlock lane symbols) s = .next t
    ∧ t = { s with freeCtr := t.freeCtr, lanesH := t.lanesH, lanesT := t.lanesT, regs := t.regs, tend := t.tend }
    ∧ s.regsBut t [(R.lane_EQ_NOW_CTLE, lane), (R.lane_EQ_NOW_H1, lane), (R.lane_HDR_ERR_COUNT, lane),
        (R.lane_LANE_STAT_BOUND_HIT, lane)]
    ∧ (34 ≤ lane ∨ s.pd (laneDomain lane) = false → t = s)
    ∧ (symbols.length ≠ 64 → (symbols.length = 65 → (s.laneOf lane).slipped = false) → t = s)
    ∧ ((s.laneOf lane).rx ≠ 0 → (s.laneOf lane).blk ≠ 2 → t = s)
    ∧ (∀ m, m ≠ lane → t.laneOf m = s.laneOf m)
    ∧ ((s.laneOf lane).blk ≠ 2 → t.regs = s.regs ∧ ((s.laneOf lane).slipped = false → t.freeCtr = s.freeCtr))
    ∧ (lane < 34 → s.pd (laneDomain lane) = true →
        symbols.length = 64 ∨ ((s.laneOf lane).slipped = true ∧ symbols.length = 65) →
        ((s.laneOf lane).rx ≠ 0 → (s.laneOf lane).blk = 2 → t.laneOf lane = (s.laneOf lane).passBlock ∧ t.regs = s.regs)
        ∧ ((s.laneOf lane).rx = 0 → (s.laneOf lane).discard = false → (s.laneOf lane).blk < 2 →
            let line := symbols.map fun v => if s.on R.lane_LANE_CFG_RX_INV lane then 3 - v % 4 else v % 4
            let x := (line.drop (symbols.length - 64)).headD 0
            ∃ last, (symbols.length = 65 → last = line.headD 0)
              ∧ ((s.laneOf lane).slipped = false → last = (s.laneOf lane).lastIn % 4)
              ∧ let y := if s.on R.lane_LANE_CFG_RX_PRECODE lane then (x + last) % 4 else x
                (y % 2 = 1 → (t.laneOf lane).blk = 1 ∧ (t.laneOf lane).slip = (s.laneOf lane).slip
                  ∧ (t.laneOf lane).slipped = false
                  ∧ (t.laneOf lane).valid = (if (s.laneOf lane).blk = 0 then 1 else (s.laneOf lane).valid + 1))
                ∧ (y % 2 = 0 → (t.laneOf lane).blk = 0 ∧ (t.laneOf lane).slip = ((s.laneOf lane).slip + 1) % 64
                  ∧ (t.laneOf lane).slipped = true)))

/-- Sixty-four consecutive valid headers set BLOCK_LOCK; 16 invalid ones within 64 blocks clear it with FRAME_LOCK, and
count. Sixteen frames in their place set FRAME_LOCK, and four in error clear it and count (R135, R137). A retraining pause
ends and is counted (R141). The first waiting deep exit begins where fewer than two began in the last 10 µs (R145), and an
exit that does not wait reaches its state (R143). A transmitter in the shallow state sends 64 IDLE IDLE blocks (R144), and an
eye scan that ends shows its result, that of the worst eye, of at most 64 phase positions (R147; which eye is the worst is
the model's choice, log entry 129). -/
def Obligations.LaneLocksPowerAndEye : Prop :=
  (∀ (lane : Nat) (s : State), s.Inv → ∃ t, exec (.blockLockAcquire lane) s = .next t
    ∧ t = { s with lanesH := t.lanesH, lanesT := t.lanesT, regs := t.regs, trellis := t.trellis }
    ∧ s.regsBut t [(R.lane_LANE_STAT_BLOCK_LOCK, lane), (R.trellis_TSTAT_SRC_H01, 0)]
    ∧ ((s.laneOf lane).blk = 1 → 64 ≤ (s.laneOf lane).valid → t.gi R.lane_LANE_STAT_BLOCK_LOCK lane = 1
        ∧ (s.embedded = true → lane = 33 → s.blockLock 32 = false → t.g R.trellis_TSTAT_SRC_H01 = 1)
        ∧ (s.embedded = true → lane = 32 → s.blockLock 33 = false → t.g R.trellis_TSTAT_SRC_H01 = 0))
    ∧ ((s.laneOf lane).blk ≠ 1 ∨ (s.laneOf lane).valid < 64 → t = s))
  ∧ (∀ (lane : Nat) (s : State), s.Inv → lane < 48 → ∃ t, exec (.blockLockLoss lane) s = .next t
    ∧ t = { s with beds := t.beds, cpu := t.cpu, freeCtr := t.freeCtr, graft := t.graft, hubQ := t.hubQ
                   lanesH := t.lanesH, lanesT := t.lanesT, ports := t.ports, regs := t.regs, trellis := t.trellis }
    ∧ s.regsBut t ([(R.clocks_LOSS_LO_CD, 0), (R.clocks_LOSS_HI_CD, 0), (R.hdr_IRQ_STAT_EVENT, 0x002),
        (R.lane_LANE_STAT_BLOCK_LOCK, lane), (R.lane_LANE_STAT_FRAME_LOCK, lane), (R.lane_LOCK_LOSS_BLOCK, lane),
        (R.lane_LOCK_LOSS_FRAME, lane), (R.trellis_TSTAT_BC_LOCK, 0), (R.trellis_TSTAT_SRC_H01, 0)] ++ lossFields)
    ∧ ((s.laneOf lane).blk = 2 → 16 ≤ ((s.laneOf lane).recent.filter (! ·)).length →
        t.gi R.lane_LANE_STAT_BLOCK_LOCK lane = 0 ∧ t.gi R.lane_LANE_STAT_FRAME_LOCK lane = 0
        ∧ (s.blockLock lane = true → t.gi R.lane_LOCK_LOSS_BLOCK lane
            = cap (2 ^ R.lane_LOCK_LOSS_BLOCK.width - 1) (s.gi R.lane_LOCK_LOSS_BLOCK lane + 1)))
    ∧ ((s.laneOf lane).blk ≠ 2 ∨ ((s.laneOf lane).recent.filter (! ·)).length < 16 → t = s))
  ∧ (∀ (lane : Nat) (s : State), s.Inv → ∃ t, exec (.frameLockAcquire lane) s = .next t
    ∧ t = { s with lanesH := t.lanesH, lanesT := t.lanesT, regs := t.regs }
    ∧ s.regsBut t [(R.lane_LANE_STAT_FRAME_LOCK, lane)]
    ∧ (lane < 34 → (s.laneOf lane).blk = 2 → 16 ≤ (s.laneOf lane).good → t.frameLock lane = true)
    ∧ (34 ≤ lane ∨ (s.laneOf lane).good < 16 → t = s))
  ∧ (∀ (lane : Nat) (s : State), s.Inv → ∃ t, exec (.frameLockLoss lane) s = .next t
    ∧ t = { s with lanesH := t.lanesH, lanesT := t.lanesT, ports := t.ports, regs := t.regs }
    ∧ s.regsBut t [(R.lane_LANE_STAT_FRAME_LOCK, lane), (R.lane_LOCK_LOSS_FRAME, lane)]
    ∧ (s.frameLock lane = true → 4 ≤ (s.laneOf lane).bad → t.gi R.lane_LANE_STAT_FRAME_LOCK lane = 0
        ∧ t.gi R.lane_LOCK_LOSS_FRAME lane
          = cap (2 ^ R.lane_LOCK_LOSS_FRAME.width - 1) (s.gi R.lane_LOCK_LOSS_FRAME lane + 1))
    ∧ (s.frameLock lane = false → t = s))
  ∧ (∀ (lane : Nat) (s : State), s.Inv → ∃ t, exec (.laneRetrainEnd lane) s = .next t
    ∧ t = { s with lanesH := t.lanesH, lanesT := t.lanesT, regs := t.regs, tend := { s.tend with pauses := t.tend.pauses } }
    ∧ s.regsBut t [(R.lane_RETRAIN_COUNT, lane), (R.lane_EYE_RESULT_VALID, lane)]
    ∧ (s.inPause lane = true → t.gi R.lane_RETRAIN_COUNT lane
          = (s.gi R.lane_RETRAIN_COUNT lane + 1) % 2 ^ R.lane_RETRAIN_COUNT.width
        ∧ (t.laneOf lane).pausing = false ∧ (t.laneOf lane).bank = !(s.laneOf lane).bank)
    ∧ (s.inPause lane = false → t = s))
  ∧ (∀ s : State, s.Inv → ∃ t, exec .laneDeepExitStart s = .next t
    ∧ t = { s with lanesH := t.lanesH, lanesT := t.lanesT, power := { s.power with wakes := t.power.wakes } }
    ∧ (s.wakeRoom = false → t = s)
    ∧ ((∀ m, (s.laneOf m).txWait = false ∧ (s.laneOf m).rxWait = false) → t = s)
    ∧ (s.wakeRoom = true → (s.laneOf 32).txWait = true → s.nowNs ∈ t.power.wakes ∧ (t.laneOf 32).txWait = false
        ∧ ∀ m, m ≠ 32 → t.laneOf m = s.laneOf m))
  ∧ (∀ (lane : Nat) (tx : Bool) (s : State), s.Inv → ∃ t, exec (.laneExitComplete lane tx) s = .next t
    ∧ t = { s with freeCtr := t.freeCtr, harvest := { s.harvest with tx := t.harvest.tx }, lanesH := t.lanesH
                   lanesT := t.lanesT, outbox := t.outbox, regs := t.regs }
    ∧ s.regsBut t [(R.harv_LIGHT_MAX_US, 0)]
    ∧ (tx = false ∨ lane < 32 → t.outbox = s.outbox)
    ∧ ((s.laneOf lane).tx = 3 → (s.laneOf lane).txWait = false → tx = true →
        (t.laneOf lane).tx = (s.laneOf lane).txTo)
    ∧ ((s.laneOf lane).rx = 3 → (s.laneOf lane).rxWait = false → tx = false →
        (t.laneOf lane).rx = (s.laneOf lane).rxTo ∧ t.regs = s.regs)
    ∧ (tx = true → (s.laneOf lane).txWait = true → t = s) ∧ (tx = false → (s.laneOf lane).rxWait = true → t = s))
  ∧ (∀ (lane : Nat) (s : State), s.Inv → ∃ t, exec (.shallowIdleBurst lane) s = .next t
    ∧ t = { s with harvest := { s.harvest with tx := t.harvest.tx }, lanesH := t.lanesH, outbox := t.outbox }
    ∧ (lane < 32 ∨ 48 ≤ lane ∨ (s.laneOf lane).tx ≠ 1 → t = s)
    ∧ (32 ≤ lane → lane < 48 → (s.laneOf lane).tx = 1 → ∃ symbols, symbols.length = 64
        ∧ t.outbox = s.outbox ++ [.line (lane - 32) symbols (s.ffe lane), .control (lane - 32) 0x01 0 64]))
  ∧ (∀ (lane : Nat) (low mid high : EyeIn) (complete : Bool) (s : State), s.Inv →
      ∃ t, exec (.eyeScanDone lane low mid high complete) s = .next t
    ∧ t = { s with lanesH := t.lanesH, lanesT := t.lanesT, regs := t.regs, tend := { s.tend with eyes := t.tend.eyes } }
    ∧ s.regsBut t [(R.lane_EYE_RESULT_WIDTH, lane), (R.lane_EYE_RESULT_HEIGHT, lane), (R.lane_EYE_RESULT_WORST, lane),
        (R.lane_EYE_RESULT_VALID, lane)]
    ∧ ((s.laneOf lane).scan = false → t = s)
    ∧ ((s.laneOf lane).scan = true → complete = false ∨ s.inPause lane = true →
        t.gi R.lane_EYE_RESULT_VALID lane = 0)
    ∧ ((s.laneOf lane).scan = true → complete = true → s.inPause lane = false →
        let worst := eyeWorst (s.gi R.lane_EYE_CTRL_DWELL lane) low mid high
        t.gi R.lane_EYE_RESULT_VALID lane = 1
        ∧ t.gi R.lane_EYE_RESULT_WIDTH lane = cap 127 worst.2.1 % 2 ^ R.lane_EYE_RESULT_WIDTH.width
        ∧ t.gi R.lane_EYE_RESULT_HEIGHT lane = cap 255 worst.2.2 % 2 ^ R.lane_EYE_RESULT_HEIGHT.width
        ∧ t.gi R.lane_EYE_RESULT_WORST lane = worst.1 % 2 ^ R.lane_EYE_RESULT_WORST.width))

/-! ## Direct inputs -/

/-- START in LINECHK requests a line check of the channel; in an armed graft, or while one waits, it is an error of
the bed's page and changes nothing else (R76, R77). A conducting clamp sets its channel's bit (R60). In 100 Ω mode an
overvoltage disconnects the termination, which reconnects at an orbit boundary (R61). A started bed calibrates its 33
slices; when the calibration completes, their offsets, gains and skews are published and the bed is no longer
uncalibrated (R68). -/
def Obligations.Beds : Prop :=
  (∀ (bed : Nat) (w : Word) (s : State), s.Inv → ∃ t, exec (.lineCheckStart bed w) s = .next t
    ∧ t = { s with beds := t.beds, regs := t.regs }
    ∧ s.regsBut t ((R.bed_LINECHK_CH, bed * 64) :: errFields.map (·, bedPage bed))
    ∧ (24 ≤ bed ∨ s.bedOn bed = false → t = s)
    ∧ (bed < 24 → s.bedOn bed = true → t.gi R.bed_LINECHK_CH (bed * 64) = w.toNat % 32)
    ∧ (bed < 24 → s.bedOn bed = true → w.getLsbD 7 = true → s.armed = false → (s.bedOf bed).lineReq = none →
        s.regsBut t [(R.bed_LINECHK_CH, bed * 64)]
        ∧ t.beds = modAt s.beds bed fun x => { x with lineReq := some (w.toNat % 32) })
    ∧ (w.getLsbD 7 = false ∨ s.armed = true ∨ (s.bedOf bed).lineReq.isSome = true → t.beds = s.beds)
    ∧ (bed < 24 → s.bedOn bed = true → w.getLsbD 7 = true → s.armed = true →
        t.gi R.hdr_ERR_CAPT_CAUSE (bedPage bed) = 2 ∧ t.gi R.hdr_ERR_CAPT_WHAT (bedPage bed) = 0x074)
    ∧ (bed < 24 → s.bedOn bed = true → w.getLsbD 7 = true → s.armed = false → (s.bedOf bed).lineReq.isSome = true →
        t.gi R.hdr_ERR_CAPT_CAUSE (bedPage bed) = 3 ∧ t.gi R.hdr_ERR_CAPT_WHAT (bedPage bed) = 0x074))
  ∧ (∀ (ch : Nat) (s : State), s.Inv → ∃ t, exec (.clampConduct ch) s = .next t
    ∧ t = { s with regs := t.regs } ∧ s.regsBut t [(R.bed_CLAMP_CH, ch / 32 * 64)]
    ∧ (768 ≤ ch ∨ s.bedOn (ch / 32) = false → t = s)
    ∧ (ch < 768 → s.bedOn (ch / 32) = true → ∀ i, i < 32 → bitAt (t.gi R.bed_CLAMP_CH (ch / 32 * 64)) i
        = (bitAt (s.gi R.bed_CLAMP_CH (ch / 32 * 64)) i || i == ch % 32)))
  ∧ (∀ (ch : Nat) (s : State), s.Inv → ∃ t, exec (.termDisconnect ch) s = .next t
    ∧ t = { s with beds := t.beds, regs := t.regs } ∧ s.regsBut t [(R.bed_TERM_OPEN_CH, ch / 32 * 64)]
    ∧ (768 ≤ ch ∨ s.bedOn (ch / 32) = false ∨ s.terminated ch = false → t = s)
    ∧ (ch < 768 → s.bedOn (ch / 32) = true → s.terminated ch = true →
        t.beds = modAt s.beds (ch / 32) (fun x => { x with opened := setBit x.opened (ch % 32) })
        ∧ ∀ i, i < 32 → bitAt (t.gi R.bed_TERM_OPEN_CH (ch / 32 * 64)) i
          = (bitAt (s.gi R.bed_TERM_OPEN_CH (ch / 32 * 64)) i || i == ch % 32)))
  ∧ (∀ (ch : Nat) (s : State), s.Inv → ∃ t, exec (.termReconnect ch) s = .next t
    ∧ (768 ≤ ch ∨ s.trellis.slot ≠ 0 → t = s)
    ∧ (ch < 768 → s.trellis.slot = 0 → t = { s with beds := t.beds }
        ∧ t.beds = modAt s.beds (ch / 32) fun x => { x with opened := clrBit x.opened (ch % 32) }))
  ∧ (∀ (bed : Nat) (s : State), s.Inv → ∃ t, exec (.bedPowerUpCal bed) s = .next t
    ∧ t = { s with beds := t.beds }
    ∧ (24 ≤ bed ∨ s.bedOn bed = false ∨ (s.bedOf bed).uncal = false → t = s)
    ∧ (bed < 24 → s.bedOn bed = true → (s.bedOf bed).uncal = true →
        t.beds = modAt s.beds bed fun x => { x with calRun := true }))
  ∧ (∀ (bed : Nat) (cals : List CalIn) (s : State), s.Inv → ∃ t, exec (.bedCalDone bed cals) s = .next t
    ∧ t = { s with beds := t.beds, regs := t.regs }
    ∧ s.fieldsBut t [R.bed_SLICE_OFFSET_OFFSET, R.bed_SLICE_GAIN_GAIN, R.bed_SLICE_SKEW_SKEW]
    ∧ ((s.bedOf bed).calRun = false → t = s)
    ∧ ((s.bedOf bed).calRun = true → (t.bedOf bed).uncal = false ∧ (t.bedOf bed).calRun = false
        ∧ (∀ i c, i < 33 → cals[i]? = some c →
          t.gi R.bed_SLICE_OFFSET_OFFSET (bed * 64 + i) = c.offset.toNat % 2 ^ R.bed_SLICE_OFFSET_OFFSET.width
          ∧ t.gi R.bed_SLICE_GAIN_GAIN (bed * 64 + i) = c.gain.toNat % 2 ^ R.bed_SLICE_GAIN_GAIN.width
          ∧ t.gi R.bed_SLICE_SKEW_SKEW (bed * 64 + i) = c.skew.toNat % 2 ^ R.bed_SLICE_SKEW_SKEW.width)))

/-- After a quiet window's last label each channel whose chain runs takes the window's means, a window that another has
followed first, and then only a channel that has not taken it before a label of the later one: too few values are counted and
skipped; an unseeded follower takes the means; a jump beyond JUMP is discarded and counted, the eighth in a row taken;
otherwise the follower moves towards the means by 2^-TAU (R107, R108). -/
def Obligations.PedestalFollowers : Prop :=
  ∀ s : State, s.Inv → ∃ t, exec .pedestalFollowerUpdate s = .next t
    ∧ t = { s with cpu := t.cpu, followers := t.followers, freeCtr := t.freeCtr, hubQ := t.hubQ, regs := t.regs
                   trellis := { s.trellis with pfDone := t.trellis.pfDone, prevDone := t.trellis.prevDone
                                               prevWin := t.trellis.prevWin } }
    ∧ s.regsBut t [(R.rec_PF_STAT_SKIP, 0), (R.rec_PF_STAT_JUMPS, 0)]
    ∧ (let due := match s.trellis.prevWin with
        | some w => s.passed (w.1 + w.2)
        | none => !s.trellis.pfDone && decide (64 ≤ s.trellis.winLen) && s.passed (s.trellis.winTick + s.trellis.winLen)
      (due = false → t = s)
      ∧ (due = true → t.trellis.prevWin = none
        ∧ t.trellis.pfDone = (s.trellis.pfDone || s.trellis.prevWin.isNone)
        ∧ (∀ ch, ch ∉ s.liveChannels ∨ (s.trellis.prevWin.isSome = true ∧ ch ∈ s.trellis.prevDone) → t.foll ch = s.foll ch)
        ∧ ∀ ch ∈ s.liveChannels, s.trellis.prevWin = none ∨ ch ∉ s.trellis.prevDone →
            let f := s.foll ch
            let m4 := roundDiv f.s4 f.n4
            let m0 := roundDiv f.s0 (max 1 f.n0)
            let tau := s.g R.rec_PF_CFG_TAU
            (t.foll ch).n4 = 0 ∧ (t.foll ch).s4 = 0 ∧ (t.foll ch).n0 = 0 ∧ (t.foll ch).s0 = 0
            ∧ (f.n4 < 32 → (t.foll ch).p0 = f.p0 ∧ (t.foll ch).b4 = f.b4 ∧ (t.foll ch).seeded = f.seeded
                ∧ (t.foll ch).run = f.run)
            ∧ (32 ≤ f.n4 → f.seeded = false → (t.foll ch).p0 = m0 ∧ (t.foll ch).b4 = m4 ∧ (t.foll ch).seeded = true)
            ∧ (32 ≤ f.n4 → f.seeded = true → (m4 - f.b4).natAbs ≤ s.g R.rec_PF_CFG_JUMP → (t.foll ch).run = 0
                ∧ (t.foll ch).p0 = f.p0 + roundShift (m0 - f.p0) tau
                ∧ (t.foll ch).b4 = f.b4 + roundShift (m4 - f.b4) tau)
            ∧ (32 ≤ f.n4 → f.seeded = true → s.g R.rec_PF_CFG_JUMP < (m4 - f.b4).natAbs → f.run + 1 ≠ 8 →
                (t.foll ch).run = f.run + 1 ∧ (t.foll ch).p0 = f.p0 ∧ (t.foll ch).b4 = f.b4)
            ∧ (32 ≤ f.n4 → f.seeded = true → s.g R.rec_PF_CFG_JUMP < (m4 - f.b4).natAbs → f.run + 1 = 8 →
                (t.foll ch).run = 0 ∧ (t.foll ch).p0 = m0 ∧ (t.foll ch).b4 = m4)))

/-! ## Tributary ports -/

/-- The frame that the last four blocks of a port in use have brought is counted, once; one whose first block has a header
error is dropped, a filler frame is counted and dropped (R151, R161), and one of an origin that has not passed its deadline
waits in the aligner to be delivered LAT slots after its origin (R161, R163). A draining port's timeline ends once its last
deadline has passed (R528). -/
def Obligations.TributaryFrames : Prop :=
  (∀ (n herr : Nat) (f : BitVec 504) (s : State), s.Inv → ∃ t, exec (.tribFrame n herr f) s = .next t
    ∧ t = { s with lanesH := t.lanesH, lanesT := t.lanesT, ports := t.ports, regs := t.regs }
    ∧ s.fieldsBut t [R.ing_CNT_FRAMES_FRAMES, R.ing_CNT_FRAMES_FILLER, R.ing_CNT_HERR_HERR, R.ing_CNT_LATE_DUP,
        R.ing_CNT_LATE_LATE, R.ing_CNT_MISC_BADO, R.ing_CNT_MISC_SC_OVF, R.ing_DROP_COUNT_COUNT, R.ing_PORT_STAT_STATUS]
    ∧ (∀ m, m ≠ n → t.portOf m = s.portOf m)
    ∧ (s.portInUse n = false ∨ s.pd 11 = false ∨ s.lastFrame n ≠ some (herr, f.toNat) → t = s)
    ∧ (s.portInUse n = true → s.pd 11 = true → s.lastFrame n = some (herr, f.toNat) →
        (n < 32 → n < s.lanesT.length → t.lastFrame n = none) ∧
        t.gi R.ing_CNT_FRAMES_FRAMES n
          = cap (2 ^ R.ing_CNT_FRAMES_FRAMES.width - 1) (s.gi R.ing_CNT_FRAMES_FRAMES n + 1)
        ∧ (bitAt herr 0 = true → t.ports = s.ports
            ∧ s.regsBut t [(R.ing_CNT_FRAMES_FRAMES, n), (R.ing_CNT_HERR_HERR, n)]
            ∧ t.gi R.ing_CNT_HERR_HERR n = cap (2 ^ R.ing_CNT_HERR_HERR.width - 1) (s.gi R.ing_CNT_HERR_HERR n + 1))
        ∧ (bitAt herr 0 = false → t.gi R.ing_PORT_STAT_STATUS n = frameStatus f % 2 ^ R.ing_PORT_STAT_STATUS.width)
        ∧ (bitAt herr 0 = false → frameOrigin f = 0x3FFF → t.ports = s.ports
            ∧ s.regsBut t [(R.ing_CNT_FRAMES_FRAMES, n), (R.ing_CNT_FRAMES_FILLER, n), (R.ing_PORT_STAT_STATUS, n)]
            ∧ t.gi R.ing_CNT_FRAMES_FILLER n
              = cap (2 ^ R.ing_CNT_FRAMES_FILLER.width - 1) (s.gi R.ing_CNT_FRAMES_FILLER n + 1))
        ∧ (∀ q, bitAt herr 0 = false → frameOrigin f ≠ 0x3FFF → frameOrigin f < s.nSlot → s.intake = true →
            n < s.ports.length → (s.portOf n).first = some q → (s.portOf n).drain = none →
            let a := (s.trellis.slot + s.nSlot - frameOrigin f) % max 1 s.nSlot
            let lat := s.g R.ing_ALIGN_LAT
            a + 4 ≤ lat → q + a ≤ s.trellis.tick →
            (∀ g ∈ (s.portOf n).onTime, g.at_ ≠ s.trellis.tick - a + lat) →
            ∃ bytes, (t.portOf n).onTime = (s.portOf n).onTime
                ++ [⟨if frameOrigin f ≤ s.trellis.slot then s.trellis.orbit else s.trellis.orbit - 1, frameOrigin f,
                    s.trellis.tick - a + lat, bytes⟩]
              ∧ leAt bytes 0 8 % 2 ^ 14 = frameOrigin f % 2 ^ 14)))
  ∧ (∀ (n : Nat) (s : State), s.Inv → ∃ t, exec (.portDrainEnd n) s = .next t
    ∧ t = { s with ports := t.ports }
    ∧ ((s.portOf n).drain = none → t = s)
    ∧ (∀ q, (s.portOf n).drain = some q → s.trellis.tick < q + s.g R.ing_ALIGN_LAT + 4 ∨ (s.portOf n).late ≠ [] → t = s)
    ∧ (∀ q, (s.portOf n).drain = some q → q + s.g R.ing_ALIGN_LAT + 4 ≤ s.trellis.tick → (s.portOf n).late = [] →
        t.ports = modAt s.ports n fun p => { p with onTime := [], late := [], first := none, drain := none }))

/-! ## Marks and sentinels -/

/-- At the end of its refill interval a bucket gains a token up to its capacity (R183). An edge at a trigger input is
time-stamped and becomes known three slots later (R180, R181). One that TRIG_CFG then selects, not in the input's dead
time, starts that time and, where SRC_EN allows, waits to become a mark (R181, R182, R188). -/
def Obligations.TriggersAndRation : Prop :=
  (∀ (b : Nat) (s : State), s.Inv → ∃ t, exec (.markBucketRefill b) s = .next t
    ∧ t = { s with dibber := { s.dibber with buckets := t.dibber.buckets } }
    ∧ (10 ≤ b ∨ s.trellis.tick < (s.bucket b).last + (bucketOf b).2 → t = s)
    ∧ (b < 10 → (s.bucket b).last + (bucketOf b).2 ≤ s.trellis.tick → t.dibber.buckets = modAt s.dibber.buckets b
        fun x => { x with tokens := min (bucketOf b).1 (x.tokens + 1), last := x.last + (bucketOf b).2 }))
  ∧ (∀ (input : Nat) (rising : Bool) (tdc : Nat) (s : State), s.Inv → ∃ t, exec (.trigEdge input rising tdc) s = .next t
    ∧ t = { s with dibber := { s.dibber with edges := t.dibber.edges } }
    ∧ (8 ≤ input ∨ s.pd 10 = false ∨ s.counting = false → t = s)
    ∧ (input < 8 → s.pd 10 = true → s.counting = true →
        t.dibber.edges = s.dibber.edges ++ [⟨s.trellis.tick, s.pos, input, rising, tdc % 4096⟩]))
  ∧ (∀ s : State, s.dibber.edges = [] → s.knowEdges = s)
  ∧ (∀ (e : Edge) (s : State), s.dibber.edges = [e] →
      (s.trellis.tick < e.tick + 3 → s.knowEdges = s)
      ∧ (e.tick + 3 ≤ s.trellis.tick → s.knowEdges = ({ s with dibber := { s.dibber with edges := [] } } : State).knowEdge e))
  ∧ (∀ (e : Edge) (s : State), s.Inv →
      let t := s.knowEdge e
      t = { s with dibber := { s.dibber with dead := t.dibber.dead, waiting := t.dibber.waiting }, regs := t.regs
                   sentinels := t.sentinels }
      ∧ s.fieldsBut t [R.dib_DROP_TRIG_DEAD, R.sent_REF_SKIP_COUNT, R.sent_SN_STAT_STATE]
      ∧ (s.pd 10 = false ∨ 2 < s.gi R.dib_TRIG_CFG_EDGE e.input
          ∨ (s.gi R.dib_TRIG_CFG_EDGE e.input = 0 ∧ e.rising = false)
          ∨ (s.gi R.dib_TRIG_CFG_EDGE e.input = 1 ∧ e.rising = true) → t = s)
      ∧ (s.pd 10 = true → s.gi R.dib_TRIG_CFG_EDGE e.input = 2 ∨ s.gi R.dib_TRIG_CFG_EDGE e.input = b2n (!e.rising) →
          (e.tick * 4096 + e.tdc < s.dibber.dead.getD e.input 0 → t = { s with regs := t.regs }
            ∧ t.g R.dib_DROP_TRIG_DEAD = cap (2 ^ R.dib_DROP_TRIG_DEAD.width - 1) (s.g R.dib_DROP_TRIG_DEAD + 1))
          ∧ (s.dibber.dead.getD e.input 0 ≤ e.tick * 4096 + e.tdc →
              t.dibber.dead = setAt s.dibber.dead e.input
                (e.tick * 4096 + e.tdc + 4096 * s.gi R.dib_TRIG_CFG_DEAD e.input)
              ∧ (bitAt (s.g R.dib_SRC_EN_TRIG) e.input = false ∨ s.intake = false → t.dibber.waiting = s.dibber.waiting)
              ∧ (bitAt (s.g R.dib_SRC_EN_TRIG) e.input = true → s.intake = true →
                  ∃ m, t.dibber.waiting = s.dibber.waiting ++ [m] ∧ m.known = e.tick + 3 ∧ m.source = 0
                    ∧ m.sid = e.input ∧ m.typ = b2n (!e.rising)
                    ∧ (0 < s.nSlot → ((m.orbit * s.nSlot + m.slot) * 65536 + m.fine : Int)
                      = 16 * (((e.pos * 4096 : Nat) + (e.tdc : Int) - Config.tdcLatency.toNat
                        + sext 16 (s.gi R.dib_TRIG_OFFSET_OFFSET e.input)) % (2 ^ 48 * s.nSlot * 4096 : Nat)))))))

/-- A violated sentinel freezes once SN_POST further samples are in its ring: its snapshot number rises and eight records
enter the sentinel furrow (R117, R118). A write of REARM marks the frozen sentinels it names (R119). -/
def Obligations.SentinelsFreezeAndRearm : Prop :=
  (∀ (n : Nat) (s : State), s.Inv → ∃ t, exec (.sentinelFreeze n) s = .next t
    ∧ t = { s with hubQ := t.hubQ, regs := t.regs, sentinels := t.sentinels }
    ∧ s.regsBut t [(R.sent_SN_STAT_SNAP, n), (R.sent_SN_STAT_STATE, n)]
    ∧ (∀ m, m ≠ n → t.sn m = s.sn m)
    ∧ ((s.sn n).state ≠ 2 ∨ s.newest < (s.sn n).vSample + (s.sn n).post → t = s)
    ∧ ((s.sn n).state = 2 → (s.sn n).vSample + (s.sn n).post ≤ s.newest → (t.sn n).state = 3
        ∧ t.gi R.sent_SN_STAT_STATE n = 3 ∧ t.gi R.sent_SN_STAT_SNAP n = (s.gi R.sent_SN_STAT_SNAP n + 1) % 65536
        ∧ (s.intake = false → t.hubQ = s.hubQ)
        ∧ (s.intake = true → ∃ l, t.hubQ = s.hubQ ++ l ∧ l.length = 8
            ∧ ∀ r ∈ l, r.furrow = 5 ∧ leAt r.bytes 0 1 = n % 256)))
  ∧ (∀ (w : Word) (s : State), s.Inv → ∃ t, exec (.sentinelRearmRequest w) s = .next t
    ∧ t = { s with sentinels := t.sentinels }
    ∧ ∀ n, t.sn n = { s.sn n with
        rearm := (s.sn n).rearm || (decide (n < 16) && bitAt w.toNat n && (s.sn n).state == 3) })

/-! ## Segments -/

/-- An open segment that has been open for 64 × AGE collector cycles closes: the header of R206 and the payload stand at the
segment's place, no segment is open and the next one has the next SEQ (R203, R205, R206); BACKLOG_MAX follows (R309). With an
engine free, the one segment due goes to it, bound to the lane that its furrow's mask allows: four chunks are taken and
RD_SEQ passes it (R271, R272, R275, R297). A stopping hub with nothing left to send is READY again (R216). A stage of an
engine ends (R269): the compressor's job is sent stored where it is damaged, at level 0, in an engine in stored-only mode or
not shortened, and compressed where it is not to be verified; otherwise it goes on to the decompressor, and a poisoned one to
the copy unit. The decompressor's job is sent where the block is sound and goes on to the copy unit where not; the copy
unit's job is sent stored. The figures of the ratio grow with each (R274 to R278, R288). -/
def Obligations.SegmentsCloseAndReachEngines : Prop :=
  (∀ (f : Nat) (s : State), s.Inv → ∃ t, exec (.segmentAgeClose f) s = .next t
     ∧ t = { s with freeCtr := t.freeCtr, furrows := t.furrows, mem := { s.mem with bad := t.mem.bad, cells := t.mem.cells }
                    regs := t.regs }
     ∧ s.regsBut t [(R.harv_BACKLOG_MAX_BYTES, 0)]
     ∧ (∀ g, g ≠ f → t.fur g = s.fur g)
     ∧ ((s.fur f).cur = none → t = s)
     ∧ (∀ o, (s.fur f).cur = some o →
         s.trellis.ran = false ∨ s.trellis.tick + 1 < o.opened + 64 * s.gi R.fwin_D_CFG_AGE f → t = s)
     ∧ (∀ o, (s.fur f).cur = some o → s.trellis.ran = true → o.opened + 64 * s.gi R.fwin_D_CFG_AGE f ≤ s.trellis.tick + 1 →
         (t.fur f).cur = none ∧ (t.fur f).wr = seqAdd o.seq (1 + (s.fur f).bump)
         ∧ (o.lost = true → t.mem = s.mem)
         ∧ (∀ orbit slot, o.lost = false → o.first = some (orbit, slot) →
             let addr := s.segAddr f (o.seq + 2 ^ 40 - (s.fur f).shift)
             let payload := o.bytes ++ o.marks.flatMap (le 2)
             s.bytesBut t addr (32 + payload.length)
             ∧ t.peek addr 32 = segHeader f ((if o.marks = [] then 0 else 4) + (if o.late then 8 else 0)
                 + (if o.lossy then 16 else 0)) o.seq o.cls orbit slot payload.length (crc32c payload).toNat
                 (s.g R.global_HUB_ID_ID) (s.g R.graft_STAT_EPOCH) o.marks.length o.wall
             ∧ t.peek (addr + 32) payload.length = payload)))
  ∧ (∀ s : State, s.Inv → ∃ t, exec .segmentDispatch s = .next t
    ∧ t = { s with engines := t.engines, furrows := t.furrows, harvest := t.harvest, lanesH := t.lanesH
                   lanesT := t.lanesT, looks := t.looks, power := { s.power with wakes := t.power.wakes }, regs := t.regs }
    ∧ s.fieldsBut t [R.comp_CHUNK_FREE_FREE, R.comp_CHUNK_LOW_LOW, R.harv_LIT_LIT, R.harv_REPLAY_COUNT,
        R.global_STATE_STATE]
    ∧ (s.standby = true ∨ s.pd 22 = false ∨ s.pd 14 = false ∨ s.g R.global_STATE_STATE = 0 →
        s.g R.global_STATE_STATE ≠ 3 → t = s)
    ∧ (s.g R.global_STATE_STATE = 3 → s.intake = false → s.looks = [] → s.dueResends = [] → s.dueFirsts = [] →
        (∀ x ∈ s.furrows, x.2.rd = x.2.wr) → t.g R.global_STATE_STATE = 1)
    ∧ (∀ eng x n, s.standby = false → s.pd 22 = true → s.pd 14 = true → s.g R.global_STATE_STATE ≠ 0 → s.looks = [] →
        s.dueResends = [] → s.dueFirsts = [x] → s.freeEngine = some eng → s.laneFor x.furrow = some n →
        (t.fur x.furrow).rd = seqAdd x.seg.seq 1 ∧ t.harvest.chunks = s.harvest.chunks - 4
        ∧ ∃ j, t.engines = modAt s.engines eng (fun e => { e with comp := some j }) ∧ j.furrow = x.furrow ∧ j.seq = x.seg.seq
          ∧ j.lane = n ∧ j.payload = s.peek (x.seg.addr + 32) (payloadLen (s.peek x.seg.addr 32))
          ∧ j.level = if s.on R.comp_ENG_STAT_STORED_ONLY eng then 0 else s.gi R.fwin_D_CFG_EFFORT x.furrow))
  ∧ (∀ (eng : Nat) (step : JobStep) (s : State), s.Inv → ∃ t, exec (.compressJobDone eng step) s = .next t
    ∧ t = { s with cpu := t.cpu, engines := t.engines, freeCtr := t.freeCtr, harvest := t.harvest, hubQ := t.hubQ
                   lanesH := t.lanesH, mem := { s.mem with bad := t.mem.bad, cells := t.mem.cells }, outbox := t.outbox
                   regs := t.regs }
    ∧ s.fieldsBut t [R.comp_CHUNK_FREE_FREE, R.comp_CHUNK_LOW_LOW, R.comp_ENG_JOBS_COUNT, R.comp_ENG_STAT_CONSEC_FAIL,
        R.comp_ENG_STAT_STORED_ONLY, R.comp_INPUT_CRC_COUNT, R.comp_STORED_COUNT, R.comp_VERIFY_FAIL_COUNT,
        R.hdr_ERR_CAPT_CAUSE, R.hdr_ERR_CAPT_INDEX, R.hdr_ERR_CAPT_WHAT, R.hdr_IRQ_STAT_EVENT, R.scrub_UE_ALL_POISONED])
  ∧ (∀ (eng : Nat) (tokens : List Byte) (s : State), s.Inv → ∃ t, exec (.compressJobDone eng (.compressed tokens)) s = .next t
    ∧ ((s.engineOf eng).comp = none → t = s)
    ∧ (∀ j, (s.engineOf eng).comp = some j →
        let leaves := fun (sent : Nat) => t.engines = modAt s.engines eng (fun e => { e with comp := none })
          ∧ t.gi R.comp_ENG_JOBS_COUNT eng = (s.gi R.comp_ENG_JOBS_COUNT eng + 1) % 2 ^ R.comp_ENG_JOBS_COUNT.width
          ∧ t.harvest.inBytes = s.harvest.inBytes + j.payload.length ∧ t.harvest.outBytes = s.harvest.outBytes + sent
        (j.poison = true → ((s.engineOf eng).copy ≠ none → t = s)
          ∧ ((s.engineOf eng).copy = none → t = { s with
              engines := modAt s.engines eng fun e => { e with comp := none, copy := some j } }))
        ∧ (j.poison = false → (crc32c j.payload).toNat ≠ j.check → leaves j.payload.length
            ∧ t.g R.comp_INPUT_CRC_COUNT
              = cap (2 ^ R.comp_INPUT_CRC_COUNT.width - 1) (s.g R.comp_INPUT_CRC_COUNT + 1))
        ∧ (j.poison = false → (crc32c j.payload).toNat = j.check → j.level = 0 ∨ s.on R.comp_ENG_STAT_STORED_ONLY eng = true →
            leaves j.payload.length)
        ∧ (j.poison = false → (crc32c j.payload).toNat = j.check → j.level ≠ 0 → s.on R.comp_ENG_STAT_STORED_ONLY eng = false →
            (j.payload.length ≤ 8 + tokens.length → leaves j.payload.length ∧ t.g R.comp_STORED_COUNT
              = cap (2 ^ R.comp_STORED_COUNT.width - 1) (s.g R.comp_STORED_COUNT + 1))
            ∧ (8 + tokens.length < j.payload.length → j.verify = false → leaves (8 + tokens.length))
            ∧ (8 + tokens.length < j.payload.length → j.verify = true →
              ((s.engineOf eng).ver ≠ none → t = s)
              ∧ ((s.engineOf eng).ver = none → t = { s with
                  engines := modAt s.engines eng fun e => { e with comp := none, ver := some (j, j.block tokens) } })))))
  ∧ (∀ (eng : Nat) (s : State), s.Inv → ∃ t, exec (.compressJobDone eng .verified) s = .next t
    ∧ ((s.engineOf eng).ver = none → t = s)
    ∧ (∀ j block, (s.engineOf eng).ver = some (j, block) →
        (∀ l, loamCheck block j.check = .ok l → t.gi R.comp_ENG_STAT_CONSEC_FAIL eng = 0
          ∧ t.engines = modAt s.engines eng (fun e => { e with ver := none })
          ∧ t.harvest.outBytes = s.harvest.outBytes + block.length)
        ∧ (∀ e, loamCheck block j.check = .error e → ((s.engineOf eng).copy ≠ none → t = s)
          ∧ ((s.engineOf eng).copy = none →
              t.engines = modAt s.engines eng (fun e => { e with ver := none, copy := some j })
              ∧ t.harvest = s.harvest
              ∧ t.g R.comp_VERIFY_FAIL_COUNT
                = cap (2 ^ R.comp_VERIFY_FAIL_COUNT.width - 1) (s.g R.comp_VERIFY_FAIL_COUNT + 1)
              ∧ (15 ≤ s.gi R.comp_ENG_STAT_CONSEC_FAIL eng → s.gi R.comp_ENG_STAT_STORED_ONLY eng = 0 →
                t.gi R.comp_ENG_STAT_STORED_ONLY eng = 1)))))
  ∧ (∀ (eng : Nat) (s : State), s.Inv → ∃ t, exec (.compressJobDone eng .copied) s = .next t
    ∧ ((s.engineOf eng).copy = none → t = s)
    ∧ (∀ j, (s.engineOf eng).copy = some j → t.engines = modAt s.engines eng (fun e => { e with copy := none })
        ∧ t.gi R.comp_ENG_JOBS_COUNT eng = (s.gi R.comp_ENG_JOBS_COUNT eng + 1) % 2 ^ R.comp_ENG_JOBS_COUNT.width
        ∧ t.harvest.inBytes = s.harvest.inBytes + j.payload.length
        ∧ t.harvest.outBytes = s.harvest.outBytes + j.payload.length))

/-! ## Stream memory -/

/-- The fields that the retirement of a rank slot writes (R256 to R258). -/
def retireFields : List Fld :=
  [R.spare_SLOT_HEALTH_CAUSE, R.spare_SLOT_HEALTH_PAIR_SUSPECT, R.mport_SLOT_STAT_A, R.mport_SLOT_STAT_B,
   R.mport_SLOT_STAT_C, R.mport_RANK_MAP_SPARE, R.spare_MIG_STAT_ACTIVE, R.spare_MIG_STAT_FAST]

/-- What a port that serves its queues writes beside them (R231, R236, R248, R256). -/
def servedFields : List Fld :=
  retireFields ++ [R.mport_LAT_MAX_NS, R.mport_RD_TRIG_COUNT, R.memctl_RD_TRIG_COUNT, R.spare_SLOT_HEALTH_CA]

/-- An access beyond the capacity in service stops: no such address exists (R223, R226). Within it, a slot that is off or in
self-refresh takes none (R239). A granule written holds the bytes given and every other byte is as before; the write waits
in its port's write buffer, issued with the fifteen others of its batch (R224, R230). A read of a granule that a waiting
write changes is forwarded from the buffer, and one in a pause waits (R230, R241). A clean read, or one with a parity
failure, leaves every byte; one channel in error counts as corrected, two as uncorrectable, and then the bytes of the other
channels are as they were stored (R224, R247 to R249). -/
def Obligations.MemoryAccesses : Prop :=
  (∀ (m : MemIn) (s : State), s.memBytes ≤ m.addr → exec (.memoryAccess m) s = .fault .noAddress)
  ∧ (∀ (m : MemIn) (s : State), s.Inv → m.addr < s.memBytes → ∃ t, exec (.memoryAccess m) s = .next t ∧
    let a := m.addr / 256 * 256
    let p := s.locate a
    let slot := s.slotOf p.port p.rank
    let ready := slot < 3 ∧ s.memUp p.port = true ∧ (s.rank p.port slot).selfRef = false
    let forwarded := ∃ r ∈ (s.mp p.port).writes, r.req.addr / 256 = m.addr / 256
    (¬ ready → t = s)
    ∧ (∀ l, m.data = some l → ready → s.paused p.port = true ∨ (s.mp p.port).reads = [] →
        t = { s with cpu := t.cpu, freeCtr := t.freeCtr, hubQ := t.hubQ
                     mem := { s.mem with bad := t.mem.bad, cells := t.mem.cells, ports := t.mem.ports, ranks := t.mem.ranks }
                     regs := t.regs }
        ∧ s.fieldsBut t servedFields ∧ s.bytesBut t a 256
        ∧ (m.ca = .failure → t.mem.cells = s.mem.cells)
        ∧ (m.ca ≠ .failure → t.peek a 256 = padTo 256 (l.take 256))
        ∧ (s.paused p.port = true ∨ (s.mp p.port).writes.length < 15 → t.regs = s.regs
            ∧ t.mem.ports = modAt s.mem.ports p.port fun q => { q with writes := q.writes ++ [⟨m, 0⟩] }))
    ∧ (m.data = none → ready → forwarded →
        t = { s with regs := t.regs } ∧ s.regsBut t [(R.mport_LAT_MAX_NS, mInst p.port)])
    ∧ (m.data = none → ready → ¬ forwarded → s.paused p.port = true → t = { s with mem := { s.mem with
        ports := modAt s.mem.ports p.port fun q => { q with reads := q.reads ++ [⟨m, 0⟩] } } })
    ∧ (m.data = none → ready → ¬ forwarded → s.paused p.port = false → (s.mp p.port).reads = [] →
        (s.mp p.port).writes.length < 16 → p.port < s.mem.ports.length →
        let errs := ((m.errs.filter (· < 5)).eraseDups).length
        (t.mp p.port).reads = []
        ∧ (m.ca = .failure ∨ errs < 2 →
            t = { s with cpu := t.cpu, freeCtr := t.freeCtr, hubQ := t.hubQ
                         mem := { s.mem with ports := t.mem.ports, ranks := t.mem.ranks }, regs := t.regs })
        ∧ (m.ca = .failure ∨ errs = 0 → s.fieldsBut t servedFields)
        ∧ (m.ca ≠ .failure → errs = 1 → t.g R.scrub_CE_ALL_COUNT
            = cap (2 ^ R.scrub_CE_ALL_COUNT.width - 1) (s.g R.scrub_CE_ALL_COUNT + 1))
        ∧ (m.ca ≠ .failure → errs = 2 → t.g R.scrub_UE_ALL_COUNT
              = cap (2 ^ R.scrub_UE_ALL_COUNT.width - 1) (s.g R.scrub_UE_ALL_COUNT + 1)
            ∧ t.g R.scrub_UE_CAPT_LO_ADDR_LO = a % 2 ^ 32
            ∧ (0x1600000 ≤ a → ∀ x, 0x600000 ≤ x → x < a ∨ a + 256 ≤ x ∨ x % 256 / 64 ∉ m.errs →
                memGet t.mem.cells x = memGet s.mem.cells x))))

/-- The scrubber reads the granule at its position and moves on, counting its passes; it stops at a pausing port (R250). What
a waiting write changes comes from its buffer (R230). A granule with errors in one channel counts in CE_ALL, one with errors
in two in UE_ALL, which captures its address (R247, R249, R253). A refresh closes the rows of its pair of banks (R229, R232),
and up to seven of a slot are postponed during a pause (R235); a spare that fills is refreshed too (R259). A command and
address that fails its parity check counts for its slot, and one that fails twice is not taken (R248). The hottest reading of
a poll sets a slot's refresh rate and its HOT and OVER bits, which fall only after readings that stay cool (R233, R234). A
refresh window clears every activation count (R236), and a window of corrected errors that ends restarts their counts (R255).
-/
def Obligations.MemoryUpkeep : Prop :=
  (∀ (errs : List Nat) (ca : CaOutcome) (s : State), s.Inv → ∃ t, exec (.scrubGranule ⟨errs, ca⟩) s = .next t ∧
    let g := s.g R.scrub_POS_GRANULE
    let p := s.locate (256 * g)
    let n := ((errs.filter (· < 5)).eraseDups).length
    (s.takes p.port (s.slotOf p.port p.rank) = false ∨ 3 ≤ s.slotOf p.port p.rank → t = s)
    ∧ (s.takes p.port (s.slotOf p.port p.rank) = true → s.slotOf p.port p.rank < 3 →
        t = { s with cpu := t.cpu, freeCtr := t.freeCtr, hubQ := t.hubQ, image := t.image, mem := t.mem, regs := t.regs
                     xspi := t.xspi }
        ∧ t.g R.scrub_POS_GRANULE
          = (if s.memBytes / 256 ≤ g + 1 then 0 else (g + 1) % 2 ^ R.scrub_POS_GRANULE.width)
        ∧ t.g R.scrub_PASSES_COUNT = (if s.memBytes / 256 ≤ g + 1 then
            (s.g R.scrub_PASSES_COUNT + 1) % 2 ^ R.scrub_PASSES_COUNT.width else s.g R.scrub_PASSES_COUNT)
        ∧ (s.writeWaits g = true → t = { s with regs := t.regs }
            ∧ s.fieldsBut t [R.scrub_POS_GRANULE, R.scrub_PASSES_COUNT])
        ∧ (n < 2 ∨ ca = .failure → t.mem.cells = s.mem.cells ∧ t.image = s.image ∧ t.xspi = s.xspi)
        ∧ (n = 0 ∨ ca = .failure → s.fieldsBut t ([R.scrub_POS_GRANULE, R.scrub_PASSES_COUNT] ++ servedFields))
        ∧ (n = 1 → ca ≠ .failure → s.writeWaits g = false → t.g R.scrub_CE_ALL_COUNT
            = cap (2 ^ R.scrub_CE_ALL_COUNT.width - 1) (s.g R.scrub_CE_ALL_COUNT + 1))
        ∧ (n = 2 → ca ≠ .failure → s.writeWaits g = false → t.g R.scrub_UE_ALL_COUNT
              = cap (2 ^ R.scrub_UE_ALL_COUNT.width - 1) (s.g R.scrub_UE_ALL_COUNT + 1)
            ∧ t.g R.scrub_UE_CAPT_LO_ADDR_LO = 256 * g % 2 ^ 32)))
  ∧ (∀ (m slot pair : Nat) (ca : CaOutcome) (s : State), s.Inv → ∃ t, exec (.refreshCommand m slot ⟨pair, ca⟩) s = .next t ∧
    let due := (s.inService m slot || s.target m slot) && s.memUp m && !(s.rank m slot).selfRef
    let closed := modAt s.mem.ports m fun p => { p with rows := p.rows.filter fun x => x.1 / 2 != slot * 8 + pair }
    t = { s with cpu := t.cpu, freeCtr := t.freeCtr, hubQ := t.hubQ
                 mem := { s.mem with ports := t.mem.ports, ranks := t.mem.ranks }, regs := t.regs }
    ∧ (due = false → t = s)
    ∧ (due = true → s.paused m = true → 7 ≤ (s.rank m slot).postponed.length → t = s)
    ∧ (due = true → s.paused m = true → (s.rank m slot).postponed.length < 7 →
        t = { s with mem := { s.mem with ranks := t.mem.ranks } }
        ∧ t.mem.ranks = modAt s.mem.ranks (m * 3 + slot) fun k => { k with postponed := k.postponed ++ [(pair, ca)] })
    ∧ (due = true → s.paused m = false → t.mem.ranks = s.mem.ranks
        ∧ (ca = .ok → t.regs = s.regs ∧ t.mem.ports = closed)
        ∧ (ca = .error → s.fieldsBut t (R.spare_SLOT_HEALTH_CA :: retireFields)
            ∧ t.gi R.spare_SLOT_HEALTH_CA (hInst m slot)
              = cap (2 ^ R.spare_SLOT_HEALTH_CA.width - 1) (s.gi R.spare_SLOT_HEALTH_CA (hInst m slot) + 1))
        ∧ (ca = .failure → s.fieldsBut t retireFields ∧ (t.mp m).rows = (s.mp m).rows)))
  ∧ (∀ (m slot : Nat) (temps : List Int) (field : Nat) (ca : CaOutcome) (s : State), s.Inv →
      ∃ t, exec (.mr4Poll m slot temps ⟨field, ca⟩) s = .next t ∧
    let temp := [(R.mport_TEMP_MR4, mInst m), (R.mport_TEMP_HOT, mInst m), (R.mport_TEMP_OVER, mInst m),
      (R.hdr_IRQ_STAT_EVENT, 0x041 + m)]
    t = { s with cpu := t.cpu, freeCtr := t.freeCtr, hubQ := t.hubQ
                 mem := { s.mem with ports := t.mem.ports, ranks := t.mem.ranks }, regs := t.regs }
    ∧ (ca = .ok → s.regsBut t temp ∧ t.mem.ports = s.mem.ports)
    ∧ s.fieldsBut t (temp.map (·.1) ++ R.spare_SLOT_HEALTH_CA :: retireFields)
    ∧ (s.inService m slot = false ∨ s.takes m slot = false ∨ temps = [] → t = s)
    ∧ (ca = .failure → s.fieldsBut t retireFields ∧ t.mem.ranks = s.mem.ranks)
    ∧ (s.inService m slot = true → s.takes m slot = true → temps ≠ [] → ca ≠ .failure → m * 3 + slot < s.mem.ranks.length →
        let hot := temps.foldl max (-273)
        t.gi R.mport_TEMP_MR4 (mInst m) = field % 2 ^ R.mport_TEMP_MR4.width
        ∧ (105 < hot → t.gi R.hdr_IRQ_STAT_EVENT (0x041 + m) = 1 ∧ (ca = .ok → t.entriesMade = s.entriesMade + 1)
            ∧ bitAt (t.gi R.mport_TEMP_HOT (mInst m)) slot = true
            ∧ bitAt (t.gi R.mport_TEMP_OVER (mInst m)) slot = true ∧ (t.rank m slot).rate = 2)
        ∧ (85 < hot → hot ≤ 105 → (s.rank m slot).rate ≠ 2 → bitAt (t.gi R.mport_TEMP_HOT (mInst m)) slot = true
            ∧ (t.rank m slot).rate = 1)
        ∧ (hot ≤ 105 → (s.rank m slot).rate = 2 → 1 ≤ (s.rank m slot).calm →
            bitAt (t.gi R.mport_TEMP_OVER (mInst m)) slot = false ∧ (t.rank m slot).rate = 1)
        ∧ (hot ≤ 105 → (s.rank m slot).rate = 2 → (s.rank m slot).calm = 0 → (t.rank m slot).rate = 2
            ∧ t.gi R.mport_TEMP_OVER (mInst m) = s.gi R.mport_TEMP_OVER (mInst m))
        ∧ (hot < 80 → (s.rank m slot).rate = 1 → 1 ≤ (s.rank m slot).cool →
            bitAt (t.gi R.mport_TEMP_HOT (mInst m)) slot = false ∧ (t.rank m slot).rate = 0)
        ∧ (hot ≤ 85 → (s.rank m slot).rate = 1 → 80 ≤ hot ∨ (s.rank m slot).cool = 0 → (t.rank m slot).rate = 1)))
  ∧ (∀ s : State, s.Inv → ∃ t, exec .rdTableClear s = .next t
    ∧ t = { s with mem := { s.mem with ranks := t.mem.ranks } }
    ∧ ∀ m slot, (t.rank m slot) = { s.rank m slot with table := [] })
  ∧ (∀ s : State, s.Inv → ∃ t, exec .ceWindowEnd s = .next t
    ∧ t = { s with regs := t.regs } ∧ s.fieldsBut t [R.spare_SLOT_HEALTH_CE]
    ∧ (s.trellis.everLocked = false → ∀ m slot, m < 8 → slot < 3 → t.gi R.spare_SLOT_HEALTH_CE (hInst m slot) = 0)
    ∧ (s.trellis.slot = 0 → s.trellis.mNow = s.g R.trellis_MFRAME_MF_ORBITS → 0 < s.trellis.mNow →
        0 < s.g R.spare_CE_LIMIT_WINDOW → s.trellis.orbit % s.trellis.mNow = 0 →
        s.trellis.orbit / s.trellis.mNow % s.g R.spare_CE_LIMIT_WINDOW = 0 →
        ∀ m slot, m < 8 → slot < 3 → t.gi R.spare_SLOT_HEALTH_CE (hInst m slot) = 0)
    ∧ (s.trellis.everLocked = true → s.trellis.slot ≠ 0 → t = s))

/-- A retraining pause ends: it is counted unless it was a first half, and its windows are published, which tending reads at its
next frame (R433); a slot that failed is
counted and retired; the refresh commands and requests that waited follow (R235, R241, R243). While the orbit has never
locked one port at a time pauses (R242). A copy that completes waits for its map switch, its reads having passed the error
code (R249, R259; that they come together with its end is the model's choice, log entry 139). A written-back line is in
memory; each requester in turn has the line, the last one owns it (R266), lines being numbered as log entry 132 says. -/
def Obligations.RetrainingAndCopies : Prop :=
  (∀ (m : Nat) (failed : List Nat) (windows : List (Nat × Nat)) (s : State), s.Inv →
      ∃ t, exec (.memRetrainEnd m failed windows) s = .next t
    ∧ (s.paused m = false → t = s)
    ∧ (s.paused m = true →
        t = { s with cpu := t.cpu, freeCtr := t.freeCtr, hubQ := t.hubQ, image := t.image, mem := t.mem, regs := t.regs
                     tend := { s.tend with portPauses := t.tend.portPauses }, xspi := t.xspi }
        ∧ t.tend.portPauses = s.tend.portPauses ++ (if (s.mp m).pause = 2 then [] else [m])
        ∧ ((s.mp m).reads = [] → t.image = s.image ∧ t.xspi = s.xspi
            ∧ t.mem = { s.mem with ports := t.mem.ports, ranks := t.mem.ranks }
            ∧ s.fieldsBut t (servedFields ++ [R.mport_RT_STAT_COUNT, R.mport_RT_STAT_FAIL, R.mport_WIN_RD, R.mport_WIN_WR,
                R.mport_WIN_CA]))
        ∧ (t.mp m).pause = 0
        ∧ (∀ slot, slot < 3 → (t.rank m slot).postponed = [])
        ∧ t.gi R.mport_RT_STAT_COUNT (mInst m) = (if (s.mp m).pause = 2 then s.gi R.mport_RT_STAT_COUNT (mInst m) else
            (s.gi R.mport_RT_STAT_COUNT (mInst m) + 1) % 2 ^ R.mport_RT_STAT_COUNT.width)
        ∧ (∀ w ∈ windows, (windows.map (·.1)).Nodup → w.1 / 8 < 3 → w.1 % 8 < 5 →
            t.gi R.mport_WIN_RD (mInst m + w.1) = bitsAt w.2 0 8 % 2 ^ R.mport_WIN_RD.width
            ∧ t.gi R.mport_WIN_WR (mInst m + w.1) = bitsAt w.2 8 8 % 2 ^ R.mport_WIN_WR.width
            ∧ t.gi R.mport_WIN_CA (mInst m + w.1) = bitsAt w.2 16 8 % 2 ^ R.mport_WIN_CA.width)
        ∧ (∀ x, x < 3 → failed = [x] → t.gi R.mport_RT_STAT_FAIL (mInst m)
            = cap (2 ^ R.mport_RT_STAT_FAIL.width - 1) (s.gi R.mport_RT_STAT_FAIL (mInst m) + 1)
          ∧ t.gi R.spare_SLOT_HEALTH_CAUSE (hInst m x) = (if s.gi R.spare_SLOT_HEALTH_CAUSE (hInst m x) = 0 then 5
              else s.gi R.spare_SLOT_HEALTH_CAUSE (hInst m x)))))
  ∧ (∀ (m : Nat) (s : State), s.Inv → ∃ t, exec (.memRetrainUnlocked m) s = .next t
    ∧ t = { s with mem := { s.mem with ports := t.mem.ports } }
    ∧ (s.trellis.everLocked = true ∨ s.memUp m = false ∨ m ∉ s.memPorts ∨ (∃ p ∈ s.mem.ports, p.pause ≠ 0) → t = s)
    ∧ (s.trellis.everLocked = false → s.memUp m = true → m ∈ s.memPorts → (∀ p ∈ s.mem.ports, p.pause = 0) →
        t.mem.ports = modAt s.mem.ports m fun p => { p with pause := 1, pauseAt := s.trellis.tick, rows := [] }))
  ∧ (∀ (m : Nat) (reads : List (Nat × List Nat)) (s : State), s.Inv → ∃ t, exec (.migrationCopyDone ⟨m, reads⟩) s = .next t
    ∧ t = { s with cpu := t.cpu, freeCtr := t.freeCtr, hubQ := t.hubQ, image := t.image, mem := t.mem, regs := t.regs
                   xspi := t.xspi }
    ∧ ((s.mp m).mig ≠ 2 → t = s)
    ∧ ((s.mp m).mig = 2 → (t.mp m).mig = 3 ∧ (t.mp m).src = (s.mp m).src ∧ (∀ k, k ≠ m → t.mp k = s.mp k))
    ∧ ((s.mp m).mig = 2 → reads = [] → t = { s with mem := { s.mem with ports := t.mem.ports } })
    ∧ (∀ a errs, (s.mp m).mig = 2 → reads = [(a, errs)] → a < s.memBytes → (s.locate (a / 256 * 256)).port = m →
        s.slotOf m (s.locate (a / 256 * 256)).rank = (s.mp m).src → s.writeWaits (a / 256) = false →
        (((errs.filter (· < 5)).eraseDups).length = 1 → t.g R.scrub_CE_ALL_COUNT
            = cap (2 ^ R.scrub_CE_ALL_COUNT.width - 1) (s.g R.scrub_CE_ALL_COUNT + 1))
        ∧ (((errs.filter (· < 5)).eraseDups).length = 2 → t.g R.scrub_UE_ALL_COUNT
            = cap (2 ^ R.scrub_UE_ALL_COUNT.width - 1) (s.g R.scrub_UE_ALL_COUNT + 1))))
  ∧ (∀ (line : Nat) (writeback : Option (Nat × List Byte)) (requests : List Nat) (s : State), s.Inv →
      ∃ t, exec (.coherentRequest line writeback requests) s = .next t ∧
    let data := fun (l : List Byte) => padTo 64 (l.take 64)
    let lines := tableLines + sramLines
    t = { s with mem := { s.mem with bad := t.mem.bad, cells := t.mem.cells, owners := t.mem.owners, sram := t.mem.sram } }
    ∧ (lines ≤ line → t = s) ∧ (writeback = none → (∀ a ∈ requests, 6 ≤ a) → t = s)
    ∧ (writeback = none → t.mem.cells = s.mem.cells ∧ t.mem.sram = s.mem.sram ∧ t.mem.bad = s.mem.bad)
    ∧ (∀ k, k ≠ line → t.mem.owners.find? (fun x => x.1 == k) = s.mem.owners.find? (fun x => x.1 == k))
    ∧ (∀ o l, line < lines → writeback = some (o, l) → t.lineAt line = data l
        ∧ (line < tableLines → s.bytesBut t (64 * line) 64 ∧ t.mem.sram = s.mem.sram)
        ∧ (tableLines ≤ line → t.mem.cells = s.mem.cells ∧ ∀ k, k < lines → k ≠ line → t.lineAt k = s.lineAt k))
    ∧ (∀ a ∈ requests, line < lines → a < 6 → (∀ b ∈ requests, b < 6 → b ≤ a) →
        ∃ l, t.mem.owners.find? (fun x => x.1 == line) = some (line, ⟨a, l⟩)
          ∧ (writeback = none → l = match s.mem.owners.find? (fun x => x.1 == line) with
              | some x => x.2.line
              | none => s.lineAt line)
          ∧ (∀ o w, writeback = some (o, w) → (∀ x ∈ s.mem.owners, x.1 = line → x.2.agent = o) → l = data w)))

/-! ## Compression and the Harvest link -/

/-- The last block of a lane's segment leaves with its packet: its chunks are free and its segment counts as sent (R275). A
lane mark takes the place of every 1,024th block, or of the first that a priority packet leaves after it, and tells the next
offset, the hub and the lit lanes (R293). Segments that have waited 64 slots light every dark lane; a lane no longer needed,
highest first, takes no new segment and goes dark once it holds none (R300), the lanes of a mask with a re-send pending apart
(R308). -/
def Obligations.LanesSendAndLight : Prop :=
  (∀ (n : Nat) (s : State), s.Inv → ∃ t, exec (.segmentTxDone n) s = .next t
    ∧ t = { s with freeCtr := t.freeCtr, furrows := t.furrows, harvest := t.harvest, lanesH := t.lanesH
                   outbox := t.outbox, regs := t.regs }
    ∧ s.fieldsBut t [R.comp_CHUNK_FREE_FREE, R.comp_CHUNK_LOW_LOW, R.harv_LIT_LIT]
    ∧ ((s.txOf n).sending = [] ∨ (s.laneOf (32 + n)).tx ≠ 0 → t = s)
    ∧ (∀ h rest, (s.txOf n).sending = h :: rest → h.isZcs = false → (s.laneOf (32 + n)).tx = 0 →
        t.harvest.chunks = s.harvest.chunks + h.chunks
        ∧ ((∀ x ∈ rest, x.isZcs = false) →
            (t.txOf n).sending.map (fun x => { x with out := 0 }) = rest.map fun x => { x with out := 0 })
        ∧ t.harvest.bytesOrbit = s.harvest.bytesOrbit + (h.packet.getD []).length
        ∧ (∃ l l', t.outbox = s.outbox ++ l ++ Emit.packet n (h.packet.getD []) :: l')
        ∧ (∀ f, f ≠ h.furrow → t.fur f = s.fur f)
        ∧ (∀ g ∈ (t.fur h.furrow).segs, g.seq = h.seq → g.sent = true ∧ g.sentNs = s.nowNs)
        ∧ ((s.txOf n).draining = false → (t.laneOf (32 + n)).tx = 0 ∧ t.g R.harv_LIT_LIT = s.g R.harv_LIT_LIT)))
  ∧ (∀ (n block : Nat) (s : State), s.Inv → ∃ t, exec (.laneMarkSend n block) s = .next t
    ∧ t = { s with harvest := { s.harvest with tx := t.harvest.tx }, lanesH := t.lanesH, outbox := t.outbox }
    ∧ ((s.laneOf (32 + n)).tx ≠ 0 ∨ block ≠ max 1024 ((s.txOf n).blocks + 1) → t = s)
    ∧ ((s.laneOf (32 + n)).tx = 0 → block = max 1024 ((s.txOf n).blocks + 1) →
        let room := 1023 - (s.txOf n).blocks
        let marked := fun (off : Nat) => (t.txOf n).blocks = 0 ∧ ∃ l, t.outbox = s.outbox ++ l ++ [Emit.control n 0x12
          (n + 2 ^ 8 * s.g R.global_HUB_ID_ID + 2 ^ 24 * (off % 65536) + 2 ^ 40 * s.g R.harv_LIT_LIT) 1]
        ((s.txOf n).sending = [] → marked 0)
        ∧ (∀ h rest, (s.txOf n).sending = h :: rest →
            (h.bits.length ≤ 126 * room → t = s)
            ∧ (126 * room < h.bits.length → n < s.harvest.tx.length →
                (t.txOf n).sending = { h with out := h.out + 126 * room } :: rest
                ∧ marked (if h.out + 126 * room = 0 then 0 else h.bits.length - 126 * room)))))
  ∧ (∀ s : State, s.Inv → ∃ t, exec .backlogWaitTrigger s = .next t
    ∧ t = { s with harvest := { s.harvest with tx := t.harvest.tx }, lanesH := t.lanesH, lanesT := t.lanesT
                   power := { s.power with wakes := t.power.wakes }, regs := t.regs }
    ∧ s.regsBut t [(R.harv_FORE_WAIT_TRIG, 0), (R.harv_LIT_LIT, 0)]
    ∧ (s.waited = false ∨ s.standby = true → t = s)
    ∧ (s.waited = true → s.standby = false →
        t.g R.harv_FORE_WAIT_TRIG = cap (2 ^ R.harv_FORE_WAIT_TRIG.width - 1) (s.g R.harv_FORE_WAIT_TRIG + 1)
        ∧ ∀ n, n < 16 → s.pd (laneDomain (32 + n)) = true → (s.laneOf (32 + n)).tx = 2 → s.litLane n = false →
            t.litLane n = true))
  ∧ (∀ s : State, s.Inv → ∃ t, exec .laneDarken s = .next t
    ∧ t = { s with harvest := { s.harvest with darkened := t.harvest.darkened, tx := t.harvest.tx }, lanesH := t.lanesH
                   lanesT := t.lanesT, outbox := t.outbox, regs := t.regs }
    ∧ s.regsBut t [(R.harv_LIT_LIT, 0)]
    ∧ (s.harvest.ovr < s.g R.harv_CFG_DARK_HOLD ∨ s.harvest.darkened = true ∨ s.waited = true ∨ s.scheduling = false →
        t = s)
    ∧ (∀ n, s.g R.harv_CFG_DARK_HOLD ≤ s.harvest.ovr → s.harvest.darkened = false → s.waited = false →
        s.scheduling = true → 2 ≤ n → n < 16 → n < s.harvest.tx.length → s.litLane n = true → (s.txOf n).draining = false →
        s.resendOn n = false →
        (∀ m, n < m → m < 16 → s.litLane m = false ∨ (s.txOf m).draining = true ∨ s.resendOn m = true) →
        t.harvest.darkened = true ∧ (0 < s.heldBy n → (t.txOf n).draining = true ∧ t.lanesH = s.lanesH)
        ∧ (s.heldBy n = 0 → s.pd (laneDomain (32 + n)) = true → (s.laneOf (32 + n)).tx = 0 →
            t.litLane n = false ∧ (t.laneOf (32 + n)).tx = 2)))

/-- The frame that a return lane's last four blocks have brought is acted on, once. One that fails its CRC is counted; a
valid one ends RC_DOWN. One whose ORBIT or SLOT differs from the hub's counters is counted (R302; that it does nothing more
is the model's reading, log entry 134); the first copy of another is acted on: an acknowledgement between ACK_SEQ and RD_SEQ
advances ACK_SEQ (R212, R303 to R307). A lane not reported locked within 200 µs of becoming usable counts as dropped, and
what its furrows sent unacknowledged is marked for re-send where another lane can take it (R307, R308); 64 slots without a
valid frame set RC_DOWN (R307). -/
def Obligations.ReturnChannel : Prop :=
  (∀ (lane : Nat) (b : List Byte) (s : State), s.Inv → ∃ t, exec (.returnFrame lane b) s = .next t
    ∧ t = { s with beds := t.beds, closes := t.closes, cpu := t.cpu, dibber := t.dibber, followers := t.followers
                   freeCtr := t.freeCtr, furrows := t.furrows, graft := t.graft, harvest := t.harvest, hist := t.hist
                   hubQ := t.hubQ, lanesH := t.lanesH, lanesT := t.lanesT, mem := t.mem, outbox := t.outbox
                   ports := t.ports, power := t.power, regs := t.regs, trellis := t.trellis, wall := t.wall
                   xspi := t.xspi, zcs := t.zcs }
    ∧ (2 ≤ lane ∨ (s.lastFrame (32 + lane)).map (·.2) ≠ some (natOfBits (bitsOfBytes b)) ∨ s.pd 14 = false → t = s)
    ∧ (lane < 2 → (s.lastFrame (32 + lane)).map (·.2) = some (natOfBits (bitsOfBytes b)) → s.pd 14 = true →
        let taken := modAt s.lanesH lane fun x => { x with up := none }
        (bitsOfBytes (slice b 61 2) ≠ crcBits (crc16 (bitsOfBytes (b.take 61))) →
          t = { s with harvest := t.harvest, lanesH := taken, regs := t.regs }
          ∧ t.g (if lane = 0 then R.harv_RC_CRC_H00 else R.harv_RC_CRC_H01)
            = cap (2 ^ (if lane = 0 then R.harv_RC_CRC_H00 else R.harv_RC_CRC_H01).width - 1)
              (s.g (if lane = 0 then R.harv_RC_CRC_H00 else R.harv_RC_CRC_H01) + 1))
        ∧ (b.length = 63 → bitsOfBytes (slice b 61 2) = crcBits (crc16 (bitsOfBytes (b.take 61))) →
          t.g R.harv_RC_STAT_RC_DOWN = 0 ∧ t.harvest.lastTick = some s.trellis.tick
          ∧ (leAt b 4 6 * s.nSlot + leAt b 10 2 % 2 ^ 14 ∈ s.harvest.seen →
              t = { s with harvest := t.harvest, lanesH := taken, regs := t.regs }
              ∧ s.regsBut t [(R.harv_RC_STAT_RC_DOWN, 0)])
          ∧ (leAt b 4 6 * s.nSlot + leAt b 10 2 % 2 ^ 14 ∉ s.harvest.seen → s.embedded = false →
              (leAt b 4 6 ≠ s.trellis.orbit ∨ leAt b 10 2 % 2 ^ 14 ≠ s.trellis.slot →
                t = { s with harvest := t.harvest, lanesH := taken, regs := t.regs } ∧ t.g R.harv_RC_MISC_MISMATCH
                  = cap (2 ^ R.harv_RC_MISC_MISMATCH.width - 1) (s.g R.harv_RC_MISC_MISMATCH + 1))
              ∧ (leAt b 4 6 = s.trellis.orbit → leAt b 10 2 % 2 ^ 14 = s.trellis.slot →
                t.g R.harv_RC_STAT_DROPS = leAt b 3 1 % 2 ^ R.harv_RC_STAT_DROPS.width
                ∧ ∀ f a, b.getD 12 0 = 1 → leAt b 13 2 = f → leAt b 15 5 = a → b.getD 20 0 = 0 →
                  f ≠ s.g R.fsum_CTRL_FURROW → s.standby = false → s.gi R.fwin_D_CFG_ENABLE f = 1 →
                  seqLater (s.fur f).ack a = true → seqLater a (s.fur f).rd = true → (t.fur f).ack = a)))))
  ∧ (∀ (n : Nat) (s : State), s.Inv → ∃ t, exec (.laneDropTimeout n) s = .next t
    ∧ t = { s with furrows := t.furrows, harvest := { s.harvest with tx := t.harvest.tx }, lanesH := t.lanesH
                   lanesT := t.lanesT, power := { s.power with wakes := t.power.wakes }, regs := t.regs }
    ∧ s.regsBut t [(R.harv_LIT_LIT, 0), (R.harv_RC_STAT_DROPPED, 0)]
    ∧ (s.usable n = false ∨ (s.txOf n).locked = true ∨
        s.nowNs < max (s.laneOf (32 + n)).upNs (s.txOf n).backNs + 200000 → t = s)
    ∧ (s.usable n = true → (s.txOf n).locked = false →
        max (s.laneOf (32 + n)).upNs (s.txOf n).backNs + 200000 ≤ s.nowNs →
        (n < 16 → bitAt (t.g R.harv_RC_STAT_DROPPED) n = true) ∧ (n < s.harvest.tx.length → (t.txOf n).dropped = true)
        ∧ ∀ f ∈ s.furrowsOn n, s.otherUsable n f = true → ∀ g ∈ (s.fur f).segs,
            g.handed = true → g.old = false → g.dup = false → seqLater (s.fur f).ack g.seq = true →
            seqLater g.seq (s.fur f).rd = true → { g with resend := true, dropped := true } ∈ (t.fur f).segs))
  ∧ (∀ s : State, s.Inv → ∃ t, exec .returnChannelDown s = .next t
    ∧ t = { s with harvest := { s.harvest with lossDue := t.harvest.lossDue }, regs := t.regs }
    ∧ s.regsBut t [(R.harv_RC_STAT_RC_DOWN, 0)]
    ∧ t.harvest.lossDue = (s.harvest.lossDue || decide (s.harvest.lastTick.getD 0 + 64 ≤ s.trellis.tick))
    ∧ t.g R.harv_RC_STAT_RC_DOWN
      = if s.harvest.lastTick.getD 0 + 64 ≤ s.trellis.tick then 1 else s.g R.harv_RC_STAT_RC_DOWN)

/-! ## Slow sensors and the interlock -/

/-- A coarse result of a channel with COARSE_EN leaves a record with its code and value; a fine result leaves one and is
the channel's latest value, which ends the staleness of the outputs it feeds (R314, R320 to R322, R326). The code is the
input's share of the channel's full scale, OR is set beyond 1.02 of it, and VALUE is that of the channel's curve (R312, R320;
how a code is rounded and what the manual leaves of the curves are the model's, log entries 4 and 10). -/
def Obligations.SlowResults : Prop :=
  (∀ (r : SlowIn) (s : State), s.Inv → ∃ t, exec (.slowCoarseResult r) s = .next t ∧
    let k := s.scanOf r.group
    t = { s with regs := t.regs
                 slow := { s.slow with recs := t.slow.recs, scans := t.slow.scans, vexcBad := t.slow.vexcBad
                                       vexcLoad := t.slow.vexcLoad } }
    ∧ s.fieldsBut t [R.slow_FLAG_BITS_CH]
    ∧ (k.chan = none ∨ k.coarse = true ∨ s.slowRuns = false ∨ s.slow.scanning = false → t = s)
    ∧ (∀ c, k.chan = some c → k.coarse = false → s.slowRuns = true → s.slow.scanning = true →
        let code := s.codeOf k.set r.pv
        (t.scanOf r.group).coarse = true
        ∧ (s.vexcOn = true → t.slow.vexcLoad = cap 255 r.vexcLoad ∧ t.slow.vexcBad = decide (5000 < r.vexcDev))
        ∧ (k.set.getD 5 0 ≠ 1 → t.slow.recs = s.slow.recs ∧ t.regs = s.regs)
        ∧ (k.set.getD 5 0 = 1 → ∃ b, t.slow.recs = s.slow.recs ++ [(c, s.trellis.tick, b)] ∧ leAt b 0 1 = c % 256
            ∧ leAt b 2 2 % 2 = 0 ∧ leAt b 4 3 = code.toNat ∧ leAt b 8 4 = (s.curve c k.set code).1.toNat)))
  ∧ (∀ (r : SlowIn) (s : State), s.Inv → ∃ t, exec (.slowFineResult r) s = .next t ∧
    let k := s.scanOf r.group
    t = { s with cpu := t.cpu, freeCtr := t.freeCtr, hubQ := t.hubQ, regs := t.regs, slow := t.slow
                 tend := { s.tend with events := t.tend.events } }
    ∧ s.fieldsBut t [R.slow_FLAG_BITS_CH, R.slow_GROUP_MAP_MOD, R.slow_GROUP_MAP_SPARE, R.slow_ROT_STAT_MISMATCH,
        R.slow_ROT_STAT_MOD_FAULT, R.slow_ROT_STAT_FAULT_MOD, R.slow_ROT_STAT_NEXT_GROUP]
    ∧ (k.chan = none ∨ s.slowRuns = false ∨ s.slow.scanning = false → t = s)
    ∧ (∀ c, k.chan = some c → s.slowRuns = true → s.slow.scanning = true →
        let code := s.codeOf k.set r.pv
        (∃ f, t.fineOf c = some f ∧ f.code = code ∧ f.ns = s.nowNs ∧ f.value = (s.curve c k.set code).1
          ∧ ∃ b, t.slow.recs = s.slow.recs ++ [(c, s.trellis.tick, b)] ∧ leAt b 0 1 = c % 256 ∧ leAt b 2 2 = f.flags
            ∧ leAt b 4 3 = code.toNat ∧ leAt b 8 4 = f.value.toNat ∧ bitAt f.flags 0 = true
            ∧ bitAt f.flags 1 = (r.overload || s.overRange k.set r.pv))
        ∧ ∀ i, i < 8 → s.gi R.il_IL_CFG_SRC i = c → (t.ilOf i).stale = false))
  ∧ (∀ (m : Nat) (s : State), s.Inv → ∃ t, exec (.slowModCalDone m) s = .next t
    ∧ t = { s with regs := t.regs, slow := { s.slow with rot := t.slow.rot }
                   tend := { s.tend with ended := t.tend.ended, mods := t.tend.mods } }
    ∧ s.regsBut t [(R.slow_GROUP_MAP_SPARE, 0)]
    ∧ (s.slow.rot = .calibrating m → s.pd 23 = true → t.slow.rot = .idle
        ∧ t.g R.slow_GROUP_MAP_SPARE = m % 2 ^ R.slow_GROUP_MAP_SPARE.width)
    ∧ (s.slow.rot ≠ .calibrating m ∨ s.pd 23 = false → t = s))

/-- A conducting pin sets its channel's clamp bit, the even channel's where the pair is differential (R313). An overload
turns VEXC off (R317), and a source beyond compliance sets its bit (R318). At the end of its period an output takes its
source's value within its limits, or its fault code with the cause (R326, R327); a source without a fine value for STALE ms
is stale. -/
def Obligations.SlowFaultsAndOutputs : Prop :=
  (∀ (pin : Nat) (s : State), s.Inv → ∃ t, exec (.slowClamp pin) s = .next t
    ∧ t = { s with regs := t.regs, slow := { s.slow with scans := t.slow.scans } } ∧ s.fieldsBut t [R.slow_FLAG_BITS_CH]
    ∧ (96 ≤ pin ∨ s.pd 23 = false → t = s)
    ∧ (pin < 96 → s.pd 23 = true → s.gi R.slow_CH_CFG_DIFF (pin - pin % 2) = 0 →
        bitAt (t.gi R.slow_FLAG_BITS_CH (pin / 32)) (pin % 32) = true)
    ∧ (pin < 96 → s.pd 23 = true → s.gi R.slow_CH_CFG_DIFF (pin - pin % 2) = 1 →
        bitAt (t.gi R.slow_FLAG_BITS_CH ((pin - pin % 2) / 32)) ((pin - pin % 2) % 32) = true))
  ∧ (∀ (load : Nat) (s : State), s.Inv → ∃ t, exec (.vexcOverloadTrip load) s = .next t
    ∧ t = { s with regs := t.regs
                   slow := { s.slow with scans := t.slow.scans, vexcBad := t.slow.vexcBad, vexcHold := t.slow.vexcHold
                                         vexcLoad := t.slow.vexcLoad } }
    ∧ s.regsBut t [(R.slow_VEXC_STAT_EXC_FAULT, 0)]
    ∧ (s.vexcOn = false → t = s)
    ∧ (s.vexcOn = true → t.g R.slow_VEXC_STAT_EXC_FAULT = 1 ∧ t.slow.vexcLoad = cap 255 load ∧ t.vexcOn = false))
  ∧ (∀ (i : Nat) (s : State), s.Inv → ∃ t, exec (.ixCompliance i) s = .next t
    ∧ t = { s with regs := t.regs, slow := { s.slow with scans := t.slow.scans } }
    ∧ s.regsBut t [(R.slow_IX_STAT_COMPLY, 0)]
    ∧ (8 ≤ i ∨ s.driven = false ∨ s.gi R.slow_IX_CFG_LEVEL i = 0 → t = s)
    ∧ (i < 8 → s.driven = true → s.gi R.slow_IX_CFG_LEVEL i ≠ 0 → bitAt (t.g R.slow_IX_STAT_COMPLY) i = true))
  ∧ (∀ (i : Nat) (s : State), s.Inv → ∃ t, exec (.ilPeriodEnd i) s = .next t
    ∧ t = { s with regs := t.regs, slow := { s.slow with ils := t.slow.ils } }
    ∧ s.regsBut t [(R.il_IL_STAT_FAULT, i), (R.il_IL_STAT_CAUSE, i), (R.il_IL_STAT_LIMIT, i), (R.il_IL_STAT_OUT, i)]
    ∧ (s.ilCause i ≠ 0 → t.gi R.il_IL_STAT_FAULT i = 1 ∧ t.gi R.il_IL_STAT_CAUSE i = s.ilCause i
        ∧ t.gi R.il_IL_STAT_LIMIT i = 0
        ∧ t.gi R.il_IL_STAT_OUT i = (if s.ilCause i ≠ 5 ∧ s.on R.il_IL_CFG_MODE i = true then 250 else 0))
    ∧ (s.ilCause i = 0 → s.gi R.il_IL_STAT_FAULT i ≠ 0 → (s.ilOf i).good = false → t = s)
    ∧ (s.ilCause i = 0 → s.gi R.il_IL_STAT_FAULT i = 0 ∨ (s.ilOf i).good = true →
        t.gi R.il_IL_STAT_FAULT i = 0 ∧ t.gi R.il_IL_STAT_CAUSE i = 0
        ∧ (s.on R.il_IL_CFG_MODE i = true → 1000 ≤ t.gi R.il_IL_STAT_OUT i ∧ t.gi R.il_IL_STAT_OUT i ≤ 9000)
        ∧ (s.on R.il_IL_CFG_MODE i = false → 10000 ≤ t.gi R.il_IL_STAT_OUT i ∧ t.gi R.il_IL_STAT_OUT i ≤ 1000000)))
  ∧ (∀ (i : Nat) (s : State), s.Inv → ∃ t, exec (.ilStale i) s = .next t
    ∧ t = { s with slow := { s.slow with ils := t.slow.ils } }
    ∧ (∀ f, s.fineOf (s.gi R.il_IL_CFG_SRC i) = some f → s.nowNs < f.ns + s.gi R.il_IL_CFG_STALE i * 1000000 → t = s)
    ∧ ((∀ f, s.fineOf (s.gi R.il_IL_CFG_SRC i) = some f → f.ns + s.gi R.il_IL_CFG_STALE i * 1000000 ≤ s.nowNs) →
        t.slow.ils = modAt s.slow.ils i fun x => { x with stale := true }))

/-- A low on SAFE_N of 1.0 µs, or a write of FORCE, sets the SAFE latch: excitation is off and every output sends its
fault code; a low under 0.5 µs does not act. The pin reads high again while the latch stays (R328, R329). -/
def Obligations.SafeLatch : Prop :=
  (∀ (lowNs : Nat) (s : State), s.Inv → ∃ t, exec (.safeNAssert lowNs) s = .next t
    ∧ t = { s with cpu := t.cpu, freeCtr := t.freeCtr, hubQ := t.hubQ, regs := t.regs, slow := t.slow }
    ∧ s.fieldsBut t [R.il_SAFE_STAT_PIN, R.il_SAFE_STAT_EDGES, R.il_SAFE_STAT_LATCH, R.slow_IX_STAT_COMPLY,
        R.il_IL_STAT_FAULT, R.il_IL_STAT_CAUSE, R.il_IL_STAT_LIMIT, R.il_IL_STAT_OUT, R.hdr_IRQ_STAT_EVENT]
    ∧ t.g R.il_SAFE_STAT_PIN = 0
    ∧ (lowNs < 500 → t = { s with regs := t.regs } ∧ s.regsBut t [(R.il_SAFE_STAT_PIN, 0)])
    ∧ (1000 ≤ lowNs → t.g R.il_SAFE_STAT_LATCH = 1 ∧ t.driven = false ∧ t.vexcOn = false
        ∧ t.slow.safeLow = some s.nowNs ∧ t.gi R.hdr_IRQ_STAT_EVENT 0x00F = 1
        ∧ t.g R.il_SAFE_STAT_EDGES = cap (2 ^ R.il_SAFE_STAT_EDGES.width - 1) (s.g R.il_SAFE_STAT_EDGES + 1)
        ∧ ∀ i, i < 8 → t.gi R.il_IL_STAT_FAULT i = 1)
    ∧ (t.g R.il_SAFE_STAT_LATCH = 1 ∨ t.g R.il_SAFE_STAT_LATCH = s.g R.il_SAFE_STAT_LATCH))
  ∧ (∀ s : State, s.Inv → ∃ t, exec .safeNRelease s = .next t
    ∧ t = { s with regs := t.regs, slow := { s.slow with safeHigh := t.slow.safeHigh } }
    ∧ s.regsBut t [(R.il_SAFE_STAT_PIN, 0)]
    ∧ (s.g R.il_SAFE_STAT_PIN ≠ 0 → t = s)
    ∧ (s.g R.il_SAFE_STAT_PIN = 0 → t.g R.il_SAFE_STAT_PIN = 1 ∧ t.slow.safeHigh = s.nowNs))
  ∧ (∀ (w : Word) (s : State), s.Inv → ∃ t, exec (.safeForce w) s = .next t
    ∧ t = { s with cpu := t.cpu, freeCtr := t.freeCtr, hubQ := t.hubQ, regs := t.regs, slow := t.slow }
    ∧ (s.pd 23 = false ∨ w.getLsbD 0 = false → t = s)
    ∧ (s.pd 23 = true → w.getLsbD 0 = true → t.g R.il_SAFE_STAT_LATCH = 1 ∧ t.driven = false
        ∧ t.g R.il_SAFE_STAT_EDGES = s.g R.il_SAFE_STAT_EDGES ∧ ∀ i, i < 8 → t.gi R.il_IL_STAT_FAULT i = 1))

/-! ## Registers whose accesses act -/

/-- While the front-end domain is off the front-end registers do nothing. FC_REQ queues a fast command at the indexed port,
or at every enabled one; a code that it does not take is an error of the page (R158, R177). SC_TX queues a byte of slow
control, SC_RX takes the oldest reply byte (R155, R160). HEDGEROW.TX queues a byte and RX takes one (R351). -/
def Obligations.ByteQueueRegisters : Prop :=
  (∀ (w : Word) (s : State), s.Inv → ∃ t, exec (.fcReqWrite w) s = .next t
    ∧ t = { s with ports := t.ports, regs := t.regs }
    ∧ s.fieldsBut t (R.ing_CNT_CMD_REQ :: errFields)
    ∧ (s.pd 11 = false → t = s)
    ∧ (s.pd 11 = true → w.toNat % 128 = 4 ∨ w.toNat % 128 = 5 ∨ (16 ≤ w.toNat % 128 ∧ w.toNat % 128 ≤ 31) →
        (w.getLsbD 7 = false → (s.portOf (s.g R.ing_PORT_INDEX_PORT)).reqs.length < 16 →
          t.regs = s.regs ∧ t.ports = modAt s.ports (s.g R.ing_PORT_INDEX_PORT)
            fun p => { p with reqs := p.reqs ++ [(w.toNat % 128, false)] })
        ∧ (w.getLsbD 7 = true → ∀ n, n < 32 → n < s.ports.length → s.gi R.ing_PORT_CFG_ENABLE n ≠ 0 →
            (s.portOf n).reqs.length < 16 → (t.portOf n).reqs = (s.portOf n).reqs ++ [(w.toNat % 128, false)])
        ∧ (∀ n, (if w.getLsbD 7 then n < 32 ∧ s.gi R.ing_PORT_CFG_ENABLE n ≠ 0 else n = s.g R.ing_PORT_INDEX_PORT) →
            16 ≤ (s.portOf n).reqs.length → t.portOf n = s.portOf n
            ∧ t.gi R.ing_CNT_CMD_REQ n = cap (2 ^ R.ing_CNT_CMD_REQ.width - 1) (s.gi R.ing_CNT_CMD_REQ n + 1)))
    ∧ (s.pd 11 = true → w.toNat % 128 ≠ 4 → w.toNat % 128 ≠ 5 → w.toNat % 128 < 16 ∨ 31 < w.toNat % 128 →
        t.ports = s.ports ∧ t.gi R.hdr_ERR_CAPT_CAUSE 0x032 = 1 ∧ t.gi R.hdr_ERR_CAPT_WHAT 0x032 = 0x058))
  ∧ (∀ (w : Word) (s : State), s.Inv → ∃ t, exec (.scTxWrite w) s = .next t
    ∧ t = { s with ports := t.ports, regs := t.regs } ∧ s.fieldsBut t errFields
    ∧ (s.pd 11 = false → t = s)
    ∧ (s.pd 11 = true → (s.portOf (s.g R.ing_PORT_INDEX_PORT)).txq.length < 256 → t.regs = s.regs
        ∧ t.ports = modAt s.ports (s.g R.ing_PORT_INDEX_PORT) fun p => { p with txq := p.txq ++ [w.toNat % 1024] })
    ∧ (s.pd 11 = true → 256 ≤ (s.portOf (s.g R.ing_PORT_INDEX_PORT)).txq.length → t.ports = s.ports
        ∧ t.gi R.hdr_ERR_CAPT_CAUSE 0x032 = 3 ∧ t.gi R.hdr_ERR_CAPT_WHAT 0x032 = 0x05C))
  ∧ (∀ s : State, s.Inv → ∃ t, exec .scRxRead s = .next t ∧ t = { s with ports := t.ports }
    ∧ (s.pd 11 = false ∨ (s.portOf (s.g R.ing_PORT_INDEX_PORT)).rxq = [] → t = s)
    ∧ (∀ e rest, s.pd 11 = true → (s.portOf (s.g R.ing_PORT_INDEX_PORT)).rxq = e :: rest →
        t.ports = modAt s.ports (s.g R.ing_PORT_INDEX_PORT) fun p => { p with rxq := rest }))
  ∧ (∀ (w : Word) (s : State), s.Inv → ∃ t, exec (.hdgTxWrite w) s = .next t
    ∧ t = { s with hdg := t.hdg, regs := t.regs } ∧ s.fieldsBut t errFields
    ∧ (s.pd 1 = false → t = s)
    ∧ (s.pd 1 = true → w.getLsbD 8 = true → s.hdg.bcast.length < 256 →
        t.regs = s.regs ∧ t.hdg = { s.hdg with bcast := s.hdg.bcast ++ [w.toNat % 256] })
    ∧ (s.pd 1 = true → w.getLsbD 8 = false → (s.hnode (s.g R.hdg_NODE_INDEX_NODE)).txq.length < 256 →
        t.regs = s.regs ∧ t.hdg = { s.hdg with nodes := t.hdg.nodes }
        ∧ t.hdg.nodes = modAt s.hdg.nodes (s.g R.hdg_NODE_INDEX_NODE) fun x => { x with txq := x.txq ++ [w.toNat % 256] })
    ∧ (s.pd 1 = true → (if w.getLsbD 8 then 256 ≤ s.hdg.bcast.length else
          256 ≤ (s.hnode (s.g R.hdg_NODE_INDEX_NODE)).txq.length) →
        t.hdg = s.hdg ∧ t.gi R.hdr_ERR_CAPT_CAUSE 0x00D = 3 ∧ t.gi R.hdr_ERR_CAPT_WHAT 0x00D = 0x060))
  ∧ (∀ s : State, s.Inv → ∃ t, exec .hdgRxRead s = .next t ∧ t = { s with hdg := t.hdg }
    ∧ (s.pd 1 = false ∨ (s.hnode (s.g R.hdg_NODE_INDEX_NODE)).rxq = [] → t = s)
    ∧ (∀ e rest, s.pd 1 = true → (s.hnode (s.g R.hdg_NODE_INDEX_NODE)).rxq = e :: rest →
        t.hdg = { s.hdg with nodes := t.hdg.nodes }
        ∧ t.hdg.nodes = modAt s.hdg.nodes (s.g R.hdg_NODE_INDEX_NODE) fun x => { x with rxq := rest }))

/-- A read of RET_DATA moves RET_INDEX to the next of 64 words (R388, R472). A read of MEAS_PCOUNT clears the count and
starts the extremes again (R112, R124). -/
def Obligations.ReadsThatAct : Prop :=
  (∀ s : State, s.Inv → ∃ t, exec .retDataRead s = .next t
    ∧ t = { s with regs := t.regs } ∧ s.regsBut t [(R.coldframe_RET_INDEX_WORD, 0)]
    ∧ (s.pd 0 = false → t = s)
    ∧ (s.pd 0 = true → t.g R.coldframe_RET_INDEX_WORD = (s.g R.coldframe_RET_INDEX_WORD + 1) % 64))
  ∧ (∀ s : State, s.Inv → ∃ t, exec .measPcountRead s = .next t
    ∧ t = { s with regs := t.regs }
    ∧ s.regsBut t [(R.rec_MEAS_PCOUNT_COUNT, s.g R.rec_MEAS_INDEX_CH), (R.rec_MEAS_PMIN_PMIN, s.g R.rec_MEAS_INDEX_CH),
        (R.rec_MEAS_PMAX_PMAX, s.g R.rec_MEAS_INDEX_CH)]
    ∧ (s.pd 10 = false ∨ 768 ≤ s.g R.rec_MEAS_INDEX_CH → t = s)
    ∧ (s.pd 10 = true → s.g R.rec_MEAS_INDEX_CH < 768 → t.gi R.rec_MEAS_PCOUNT_COUNT (s.g R.rec_MEAS_INDEX_CH) = 0
        ∧ t.gi R.rec_MEAS_PMIN_PMIN (s.g R.rec_MEAS_INDEX_CH) = 0xFFFFFFFF
        ∧ t.gi R.rec_MEAS_PMAX_PMAX (s.g R.rec_MEAS_INDEX_CH) = 0))

/-- The values `l` are staged in `t` for an actor, who owns the stage, and every other staged value is that of `s`. -/
def stagedBy (s t : State) (who : Actor) (l : List Staged) : Prop :=
  t.zcs.owner = some who ∧ (∀ w ∈ l, w ∈ t.zcs.staged)
    ∧ ∀ x, (∀ w ∈ l, x.fld ≠ w.fld ∨ x.idx ≠ w.idx) → (x ∈ t.zcs.staged ↔ x ∈ s.zcs.staged)

/-- A window register stages what is written for its instance, in the name of the actor who owns the stage, and advances
its index after every access (R367, R386 to R388); another actor's write, and any access while the domain is off, changes
nothing but the slave port's lease. Class words beyond 4,096 are not staged (R170). -/
def Obligations.WindowsStageAndAdvance : Prop :=
  (∀ (a : Access) (s : State), s.Inv → ∃ t, exec (.coefAccess a) s = .next t
    ∧ t = { s with regs := t.regs
                   zcs := { s.zcs with owner := t.zcs.owner, slaveNs := t.zcs.slaveNs, staged := t.zcs.staged } }
    ∧ s.fieldsBut t (R.coef_TAP_INDEX_TAP :: errFields)
    ∧ (s.pd 10 = false → t.regs = s.regs ∧ t.zcs.staged = s.zcs.staged)
    ∧ (a = .read → t.zcs = s.zcs)
    ∧ (s.pd 10 = true → (∀ who w, a = .write who w → s.notOwner who = false) → t.g R.coef_TAP_INDEX_TAP
        = if s.g R.coef_TAP_INDEX_TAP = 39 then 0 else (s.g R.coef_TAP_INDEX_TAP + 1) % 64)
    ∧ (∀ who w, a = .write who w → s.pd 10 = true → s.g R.coef_TAP_INDEX_TAP < 40 → s.notOwner who = false →
        stagedBy s t who [⟨0x029, R.coef_COEF_VALUE, s.g R.coef_BANK_INDEX_BANK * 64 + s.g R.coef_TAP_INDEX_TAP,
          w.toNat % 2 ^ 16⟩])
    ∧ (∀ who w, a = .write who w → s.g R.coef_TAP_INDEX_TAP < 40 → s.notOwner who = true →
        t.regs = s.regs ∧ t.zcs.staged = s.zcs.staged))
  ∧ (∀ (a : Access) (s : State), s.Inv → ∃ t, exec (.maskAccess a) s = .next t
    ∧ t = { s with regs := t.regs
                   zcs := { s.zcs with owner := t.zcs.owner, slaveNs := t.zcs.slaveNs, staged := t.zcs.staged } }
    ∧ s.fieldsBut t [R.sent_MASK_INDEX_I]
    ∧ (s.pd 10 = false → t.regs = s.regs ∧ t.zcs.staged = s.zcs.staged)
    ∧ (a = .read → t.zcs = s.zcs)
    ∧ (s.pd 10 = true → (∀ who w, a = .write who w → s.notOwner who = false) →
        t.g R.sent_MASK_INDEX_I = (s.g R.sent_MASK_INDEX_I + 1) % 64)
    ∧ (∀ who w, a = .write who w → s.pd 10 = true → s.notOwner who = false →
        stagedBy s t who
          [⟨0x02B, R.sent_MASK_UPPER, s.g R.sent_SN_INDEX_SN * 64 + s.g R.sent_MASK_INDEX_I, bitsAt w.toNat 0 14⟩,
           ⟨0x02B, R.sent_MASK_LOWER, s.g R.sent_SN_INDEX_SN * 64 + s.g R.sent_MASK_INDEX_I, bitsAt w.toNat 16 14⟩])
    ∧ (∀ who w, a = .write who w → s.notOwner who = true → t.regs = s.regs ∧ t.zcs.staged = s.zcs.staged))
  ∧ (∀ (a : Access) (s : State), s.Inv → ∃ t, exec (.memberAccess a) s = .next t
    ∧ t = { s with regs := t.regs
                   zcs := { s.zcs with owner := t.zcs.owner, slaveNs := t.zcs.slaveNs, staged := t.zcs.staged } }
    ∧ s.fieldsBut t [R.fsum_MEMBER_INDEX_MEMBER]
    ∧ (s.pd 10 = false → t.regs = s.regs ∧ t.zcs.staged = s.zcs.staged)
    ∧ (a = .read → t.zcs = s.zcs)
    ∧ (s.pd 10 = true → (∀ who w, a = .write who w → s.notOwner who = false) →
        t.g R.fsum_MEMBER_INDEX_MEMBER = (s.g R.fsum_MEMBER_INDEX_MEMBER + 1) % 32)
    ∧ (∀ who w, a = .write who w → s.pd 10 = true → s.notOwner who = false →
        stagedBy s t who
          [⟨0x035, R.fsum_MEMBER_CH, s.g R.fsum_SUM_INDEX_SUM * 32 + s.g R.fsum_MEMBER_INDEX_MEMBER, bitsAt w.toNat 0 10⟩,
           ⟨0x035, R.fsum_MEMBER_W, s.g R.fsum_SUM_INDEX_SUM * 32 + s.g R.fsum_MEMBER_INDEX_MEMBER, bitsAt w.toNat 16 4⟩])
    ∧ (∀ who w, a = .write who w → s.notOwner who = true → t.regs = s.regs ∧ t.zcs.staged = s.zcs.staged))
  ∧ (∀ (a : Access) (s : State), s.Inv → ∃ t, exec (.csDataAccess a) s = .next t
    ∧ t = { s with regs := t.regs
                   zcs := { s.zcs with owner := t.zcs.owner, slaveNs := t.zcs.slaveNs, staged := t.zcs.staged } }
    ∧ s.fieldsBut t (R.cwin_CS_INDEX_WORD :: R.cwin_CS_INDEX_PORT :: errFields)
    ∧ (s.pd 11 = false → t.regs = s.regs ∧ t.zcs.staged = s.zcs.staged)
    ∧ (a = .read → t.zcs = s.zcs)
    ∧ (s.pd 11 = true → (∀ who w, a = .write who w → s.notOwner who = false) →
        t.g R.cwin_CS_INDEX_WORD = (s.g R.cwin_CS_INDEX_WORD + 1) % 32768
        ∧ t.g R.cwin_CS_INDEX_PORT = (s.g R.cwin_CS_INDEX_PORT + (s.g R.cwin_CS_INDEX_WORD + 1) / 32768) % 32)
    ∧ (∀ who w, a = .write who w → s.pd 11 = true → s.notOwner who = false → s.classesStaged < 4096 →
        stagedBy s t who [⟨0x033, R.cwin_CS_DATA_CLASSES,
          s.g R.cwin_CS_INDEX_PORT * 32768 + s.g R.cwin_CS_INDEX_WORD, w.toNat⟩])
    ∧ (∀ who w, a = .write who w → s.pd 11 = true → s.notOwner who = false → 4096 ≤ s.classesStaged →
        (∀ x ∈ s.zcs.staged, x.fld ≠ R.cwin_CS_DATA_CLASSES
          ∨ x.idx ≠ s.g R.cwin_CS_INDEX_PORT * 32768 + s.g R.cwin_CS_INDEX_WORD) →
        t.zcs.staged = s.zcs.staged ∧ t.gi R.hdr_ERR_CAPT_CAUSE 0x033 = 3)
    ∧ (∀ who w, a = .write who w → s.notOwner who = true → t.regs = s.regs ∧ t.zcs.staged = s.zcs.staged))

/-- A power request waits for the orbit boundary (R146, R148): while the hub streams a lane in use takes one for its active
state only, and a standby's transmitters one for the state they are kept in (R416); what is ignored of a write is counted once,
with cause 2. An eye scan starts on an active receiver that does not pause, has no result
where it cannot run, and is refused while one runs; DWELL outside 10 to 24 is not taken (R147, R148). -/
def Obligations.LaneRequests : Prop :=
  (∀ (harvest : Bool) (w : Word) (s : State), s.Inv → ∃ t, exec (.lanePwrReq harvest w) s = .next t ∧
    let base := if harvest then 32 else 0
    let lane := base + s.gi R.lane_LANE_INDEX_LANE base
    let txFree := if harvest = true ∧ s.standby = true then w.toNat % 4 = (if lane < 34 then 1 else 2)
      else s.laneInUse lane = false ∨ w.toNat % 4 = 0
    let rxFree := s.laneInUse lane = false ∨ w.toNat / 4 % 4 = 0
    (s.reachable (0x030 + b2n harvest) = false → t = s)
    ∧ (s.pd (laneDomain lane) = true → lane < 48 → (harvest = true ∨ lane < 32) → s.trellis.everLocked = true →
        t = { s with lanesH := t.lanesH, lanesT := t.lanesT, regs := t.regs }
        ∧ (w.toNat % 4 ≠ 3 → txFree → s.streaming = false ∨ lane < 34 →
            t.gi R.lane_PWR_REQ_TX_REQ lane = w.toNat % 4)
        ∧ (w.toNat / 4 % 4 ≠ 3 → rxFree → lane < 34 →
            t.gi R.lane_PWR_REQ_RX_REQ lane = w.toNat / 4 % 4)
        ∧ (w.toNat % 4 ≠ 3 → w.toNat / 4 % 4 ≠ 3 → txFree → rxFree → lane < 34 →
            s.regsBut t [(R.lane_PWR_REQ_TX_REQ, lane), (R.lane_PWR_REQ_RX_REQ, lane)]
            ∧ (lane - base < (if harvest then s.lanesH else s.lanesT).length →
              t.laneOf lane = { s.laneOf lane with rxDue := true, txDue := true }))
        ∧ (w.toNat % 4 ≠ 3 → ¬ txFree → w.toNat / 4 % 4 ≠ 3 → lane < 34 →
            (t.laneOf lane).txDue = (s.laneOf lane).txDue
            ∧ t.gi R.hdr_ERR_CAPT_CAUSE (0x030 + b2n harvest) = 2
            ∧ t.gi R.hdr_ERR_COUNT_COUNT (0x030 + b2n harvest) = cap (2 ^ R.hdr_ERR_COUNT_COUNT.width - 1)
              (s.gi R.hdr_ERR_COUNT_COUNT (0x030 + b2n harvest) + 1)
            ∧ (rxFree → s.regsBut t ((R.lane_PWR_REQ_RX_REQ, lane) :: errFields.map (·, 0x030 + b2n harvest)))
            ∧ (¬ rxFree → s.regsBut t (errFields.map (·, 0x030 + b2n harvest)) ∧ t.laneOf lane = s.laneOf lane))
        ∧ (34 ≤ lane → w.toNat / 4 % 4 = 2 → w.toNat % 4 ≠ 3 → txFree → s.streaming = false →
            s.regsBut t [(R.lane_PWR_REQ_TX_REQ, lane)])))
  ∧ (∀ (harvest : Bool) (w : Word) (s : State), s.Inv → ∃ t, exec (.eyeScanStart harvest w) s = .next t ∧
    let base := if harvest then 32 else 0
    let lane := base + s.gi R.lane_LANE_INDEX_LANE base
    t = { s with lanesH := t.lanesH, lanesT := t.lanesT, regs := t.regs }
    ∧ s.fieldsBut t (R.lane_EYE_CTRL_DWELL :: R.lane_EYE_RESULT_VALID :: errFields)
    ∧ (s.reachable (0x030 + b2n harvest) = false → t = s)
    ∧ (s.pd (laneDomain lane) = true → lane < 34 → (harvest = true ∨ lane < 32) →
        (10 ≤ bitsAt w.toNat 1 5 → bitsAt w.toNat 1 5 ≤ 24 → t.gi R.lane_EYE_CTRL_DWELL lane = bitsAt w.toNat 1 5)
        ∧ (bitsAt w.toNat 1 5 < 10 ∨ 24 < bitsAt w.toNat 1 5 →
            t.gi R.lane_EYE_CTRL_DWELL lane = s.gi R.lane_EYE_CTRL_DWELL lane)
        ∧ (w.getLsbD 0 = false → t.laneOf lane = s.laneOf lane)
        ∧ (w.getLsbD 0 = true → (s.laneOf lane).scan = true → t.laneOf lane = s.laneOf lane
            ∧ t.gi R.hdr_ERR_CAPT_CAUSE (0x030 + b2n harvest) = 3)
        ∧ (w.getLsbD 0 = true → (s.laneOf lane).scan = false → s.inPause lane = true ∨ (s.laneOf lane).rx ≠ 0 →
            t.laneOf lane = s.laneOf lane ∧ t.gi R.lane_EYE_RESULT_VALID lane = 0)
        ∧ (w.getLsbD 0 = true → (s.laneOf lane).scan = false → s.inPause lane = false → (s.laneOf lane).rx = 0 →
            t.laneOf lane = { s.laneOf lane with scan := true })))

/-- MAP.ORDER takes orders 0 to 2 and refuses 3 (R227, R245). A one written to STORED_ONLY or EXC_FAULT clears it (R278,
R317); an ENG_INDEX beyond the last engine makes that write do nothing, by the model's reading of its row (R387; log entry 142).
A change of the slave port's mode drops the prefetch lines (R474). -/
def Obligations.ControlRegisters : Prop :=
  (∀ (w : Word) (s : State), s.Inv → ∃ t, exec (.mapOrderWrite w) s = .next t ∧ t = { s with regs := t.regs }
    ∧ (s.pd 18 = false → t = s)
    ∧ (s.pd 18 = true → w.toNat % 4 ≠ 3 → s.regsBut t [(R.memctl_MAP_ORDER, 0)] ∧ t.g R.memctl_MAP_ORDER = w.toNat % 4)
    ∧ (s.pd 18 = true → w.toNat % 4 = 3 → s.regsBut t (errFields.map (·, 0x040))
        ∧ t.gi R.hdr_ERR_CAPT_CAUSE 0x040 = 1 ∧ t.gi R.hdr_ERR_CAPT_WHAT 0x040 = 0x040))
  ∧ (∀ (w : Word) (s : State), s.Inv → ∃ t, exec (.storedOnlyClear w) s = .next t ∧ t = { s with regs := t.regs }
    ∧ (s.pd 22 = false → t = s)
    ∧ (s.pd 22 = true → s.g R.comp_ENG_INDEX_ENG < 36 →
        s.regsBut t [(R.comp_ENG_STAT_STORED_ONLY, s.g R.comp_ENG_INDEX_ENG)]
        ∧ (w.getLsbD 1 = true → t.gi R.comp_ENG_STAT_STORED_ONLY (s.g R.comp_ENG_INDEX_ENG) = 0)
        ∧ (w.getLsbD 1 = false → t.gi R.comp_ENG_STAT_STORED_ONLY (s.g R.comp_ENG_INDEX_ENG)
            = s.gi R.comp_ENG_STAT_STORED_ONLY (s.g R.comp_ENG_INDEX_ENG) % 2))
    ∧ (s.pd 22 = true → 36 ≤ s.g R.comp_ENG_INDEX_ENG → t = s))
  ∧ (∀ (w : Word) (s : State), s.Inv → ∃ t, exec (.vexcFaultClear w) s = .next t ∧ t = { s with regs := t.regs }
    ∧ s.regsBut t [(R.slow_VEXC_STAT_EXC_FAULT, 0)]
    ∧ (s.pd 23 = false → t = s)
    ∧ (s.pd 23 = true → w.getLsbD 1 = true → t.g R.slow_VEXC_STAT_EXC_FAULT = 0)
    ∧ (s.pd 23 = true → w.getLsbD 1 = false →
        t.g R.slow_VEXC_STAT_EXC_FAULT = s.g R.slow_VEXC_STAT_EXC_FAULT % 2))
  ∧ (∀ (w : Word) (s : State), s.Inv → ∃ t, exec (.xspiModeWrite w) s = .next t
    ∧ t = { s with regs := t.regs, xspi := { s.xspi with abandoned := t.xspi.abandoned, lines := t.xspi.lines } }
    ∧ s.regsBut t [(R.xspi_CFG_MODE, 0), (R.xspi_MST_STAT_CONT_ACTIVE, 0)]
    ∧ (s.pd 1 = false ∨ s.g R.xspi_CFG_MODE = w.toNat % 2 → t = s)
    ∧ (s.pd 1 = true → s.g R.xspi_CFG_MODE ≠ w.toNat % 2 → t.g R.xspi_CFG_MODE = w.toNat % 2
        ∧ t.g R.xspi_MST_STAT_CONT_ACTIVE = 0 ∧ t.xspi.lines = []))

/-- ERR_CLR clears the errors that a page counts and captures, CNT_CLR its error count and its counters (R380, R381);
DISCARD empties the page's staged values, releasing the owner when nothing stays staged, and is refused to another actor
(R367, R383). -/
def Obligations.PageHeaders : Prop :=
  (∀ (page : Nat) (s : State), s.Inv → ∃ t, exec (.errClear page) s = .next t ∧ t = { s with regs := t.regs }
    ∧ s.regsBut t [(R.hdr_ERR_COUNT_COUNT, page), (R.hdr_ERR_CAPT_WHAT, page), (R.hdr_ERR_CAPT_CAUSE, page),
        (R.hdr_ERR_CAPT_INDEX, page)]
    ∧ (pageExists page = false ∨ s.reachable page = false → t = s)
    ∧ (pageExists page = true → s.reachable page = true →
        t.gi R.hdr_ERR_COUNT_COUNT page = 0 ∧ t.gi R.hdr_ERR_CAPT_WHAT page = 0 ∧ t.gi R.hdr_ERR_CAPT_CAUSE page = 0
        ∧ t.gi R.hdr_ERR_CAPT_INDEX page = 0))
  ∧ (∀ (page : Nat) (s : State), s.Inv → ∃ t, exec (.counterClear page) s = .next t ∧ t = { s with regs := t.regs }
    ∧ s.fieldsBut t (R.hdr_ERR_COUNT_COUNT :: countersOf page)
    ∧ (pageExists page = false ∨ s.reachable page = false → t = s)
    ∧ (pageExists page = true → s.reachable page = true → t.gi R.hdr_ERR_COUNT_COUNT page = 0
        ∧ (∀ f i, f ∈ countersOf page → i < 2 ^ 20 → instanceOf page i = true → t.gi f i = f.resetOf i)
        ∧ (∀ f i, f ∈ countersOf page → i < 2 ^ 20 → instanceOf page i = false → t.gi f i = s.gi f i)))
  ∧ (∀ (who : Actor) (page : Nat) (w : Word) (s : State), s.Inv → ∃ t, exec (.shadowDiscard who page w) s = .next t
    ∧ t = { s with regs := t.regs
                   zcs := { s.zcs with owner := t.zcs.owner, slaveNs := t.zcs.slaveNs, staged := t.zcs.staged
                                       stagedMode := t.zcs.stagedMode } }
    ∧ s.regsBut t [(R.hdr_SHADOW_CTRL_READ_STAGED, page)]
    ∧ (pageExists page = false ∨ s.reachable page = false ∨ (w.getLsbD 1 = true ∧ s.notOwner who = true) →
        t = s.renewActor who)
    ∧ (pageExists page = true → s.reachable page = true → w.getLsbD 1 = false ∨ s.notOwner who = false →
        t.gi R.hdr_SHADOW_CTRL_READ_STAGED page = w.toNat % 2
        ∧ (w.getLsbD 1 = false → t.zcs.staged = s.zcs.staged ∧ t.zcs.owner = s.zcs.owner)
        ∧ (w.getLsbD 1 = true → t.zcs.staged = s.zcs.staged.filter (fun x => x.page != page)
            ∧ t.zcs.owner = (if t.zcs.staged.isEmpty then none else s.zcs.owner))))

/-- The registers whose write is a commit of its own, with the power domain of their page and the value. -/
def ownCommit : Instr → Option (Actor × Nat × Staged)
  | .budgetReserveWrite who w => some (who, 2, ⟨0x039, R.bud_RESERVE_LB, 0, w.toNat % 2 ^ 7⟩)
  | .ackWinWrite who w => some (who, 2, ⟨0x039, R.bud_ACK_WIN_WINDOW, 0, w.toNat % 2 ^ 17⟩)
  | .scrubPeriodWrite who w => some (who, 18, ⟨0x049, R.scrub_CFG_PERIOD, 0, w.toNat % 2 ^ 12⟩)
  | _ => none

/-- BUDGET_RESERVE_WRITE, ACK_WIN_WRITE and SCRUB_PERIOD_WRITE are checked and committed at once, like an overlay (R222,
R250): refused, they change nothing but the slave port's lease and, where the check failed, the record of that check (R210),
and so while the pair that makes the checks is halted (the model's choice, log entry 141); before the first lock of a hub
that does not stream they take effect, and otherwise they wait as the boundary action of a quiet window (R366). -/
def Obligations.RegistersThatCommit : Prop :=
  ∀ (c : Instr) (who : Actor) (d : Nat) (v : Staged) (s : State), s.Inv → ownCommit c = some (who, d, v) →
    ∃ t, exec c s = .next t
    ∧ (s.pd d = false ∨ s.notOwner who = true ∨ s.zcs.action.isSome = true
        ∨ s.budgetHeld = true ∨ (s.renewActor who).commitFault [v] ≠ none → t = s.renewActor who)
    ∧ (s.pd d = true → s.budgetHeld = false → s.notOwner who = false → s.zcs.action = none →
        (s.renewActor who).commitFault [v] = none →
        budgetFault ((s.renewActor who).runBudget ((s.renewActor who).after [v])).2 ≠ none →
        t = ((s.renewActor who).runBudget ((s.renewActor who).after [v])).1
        ∧ t = { s.renewActor who with cpu := t.cpu, freeCtr := t.freeCtr, hubQ := t.hubQ, regs := t.regs })
    ∧ (s.pd d = true → s.budgetHeld = false → s.notOwner who = false → s.zcs.action = none →
        (s.renewActor who).commitFault [v] = none →
        budgetFault ((s.renewActor who).runBudget ((s.renewActor who).after [v])).2 = none →
        (s.trellis.everLocked = false → s.live = false → t.gi v.fld v.idx = v.val ∧ t.zcs.action = none)
        ∧ (s.trellis.everLocked = true ∨ s.live = true → t.gi v.fld v.idx = s.gi v.fld v.idx
            ∧ ∃ o, t.zcs.action = some ⟨.commit, 0, none, o, [v], none⟩))

/-- The registers whose writes have a rule of their own. -/
def ownRule (p off : Nat) : Bool :=
  off == 0x008 || off == 0x020 || [(0x001, 0x050), (0x001, 0x054), (0x003, 0x060), (0x00A, 0x040), (0x00A, 0x054),
    (0x00C, 0x040), (0x00D, 0x060), (0x00F, 0x058), (0x010, 0x074), (0x02B, 0x060), (0x030, 0x048), (0x030, 0x064),
    (0x032, 0x058), (0x032, 0x05C), (0x040, 0x040)].contains (pageBase p, off)

/-- A write of a register: on a page that does not exist or is off, or at an address that is no word's, it does nothing; an
RW field takes its bits, a W1C field clears by them, and an RWS field is staged for the actor who may stage (R11, R365, R367,
R376, R379), but for the receive fields of H02 to H15 (R148) and, with the hub armed, a write of AFE_CFG with a TERM of 0,
which is ignored and counted (R77). -/
def Obligations.RegisterWrites : Prop :=
  ∀ (who : Actor) (addr : Nat) (w : Word) (s : State), s.Inv → ∃ t, exec (.registerWrite who addr w) s = .next t
    ∧ (addr % 4 ≠ 0 ∨ pageExists (addr / 4096) = false ∨ s.reachable (addr / 4096) = false
        ∨ fieldsAt (addr / 4096) (addr % 4096) = [] → t = s.renewActor who)
    ∧ (∀ i f, addr % 4 = 0 → pageExists (addr / 4096) = true → s.reachable (addr / 4096) = true →
        f ∈ fieldsAt (addr / 4096) (addr % 4096) → s.laneOff (addr / 4096) (addr % 4096) = false →
        s.inst (addr / 4096) (addr % 4096) = some i →
        (f.acc = .rws → deadReceive f i = false → s.notOwner who = true → t = s.renewActor who)
        ∧ (f = R.bed_AFE_CFG_TERM → s.armed = true → bitsAt w.toNat f.lsb f.width = 0 → s.notOwner who = false →
            (∀ x, x.fld ∈ fieldsAt (addr / 4096) (addr % 4096) → x.idx = i → (x ∈ t.zcs.staged ↔ x ∈ s.zcs.staged))
            ∧ t.gi R.hdr_ERR_CAPT_CAUSE (addr / 4096) = 2)
        ∧ (f.acc = .rws → deadReceive f i = false → s.notOwner who = false →
            commitsItself (addr / 4096) (addr % 4096) = false → s.classesStaged < 4096 →
            (R.bed_AFE_CFG_TERM ∈ fieldsAt (addr / 4096) (addr % 4096) → s.armed = false
              ∨ bitsAt w.toNat R.bed_AFE_CFG_TERM.lsb R.bed_AFE_CFG_TERM.width ≠ 0) →
            ⟨addr / 4096, f, i, bitsAt w.toNat f.lsb f.width⟩ ∈ t.zcs.staged ∧ t.zcs.owner = some who)
        ∧ (f.acc = .rw → ownRule (addr / 4096) (addr % 4096) = false →
            (∀ g ∈ fieldsAt (addr / 4096) (addr % 4096), g.acc ≠ .rws) → f.takes (bitsAt w.toNat f.lsb f.width) = true →
            s.fixedWrite f i (bitsAt w.toNat f.lsb f.width) = false → t.gi f i = bitsAt w.toNat f.lsb f.width)
        ∧ (f.acc = .w1c → ownRule (addr / 4096) (addr % 4096) = false →
            (∀ g ∈ fieldsAt (addr / 4096) (addr % 4096), g.acc ≠ .rws) → t.gi f i
              = w1c (s.gi f i) (bitsAt w.toNat f.lsb f.width) % 2 ^ f.width))

/-! ## The octal serial port -/

/-- A read through the window that a prefetch line holds is a hit; another is a miss that fills its line and the next one
(R478). In DDR four DQS timeouts abandon the fill, which is counted with the page's interrupt (R476, R477). -/
def Obligations.XipWindow : Prop :=
  ∀ (offset timeouts : Nat) (s : State), s.Inv → ∃ t, exec (.xipRead offset timeouts) s = .next t
    ∧ t = { s with outbox := t.outbox, regs := t.regs
                   xspi := { s.xspi with abandoned := t.xspi.abandoned, lines := t.xspi.lines } }
    ∧ s.regsBut t [(R.hdr_IRQ_STAT_EVENT, 0x00A), (R.xspi_MST_ERR_ABANDONED, 0), (R.xspi_MST_ERR_DQS_TIMEOUT, 0),
        (R.xspi_MST_STAT_CONT_ACTIVE, 0), (R.xspi_PF_STAT_HIT, 0), (R.xspi_PF_STAT_MISS, 0)]
    ∧ (s.xspi.dev = none ∨ s.xspiMaster = false ∨ 2 ^ 28 ≤ offset → t = s)
    ∧ (∀ d, s.xspi.dev = some d → s.imageDevice d = false → t = s)
    ∧ (∀ d, s.xspi.dev = some d → s.imageDevice d = true → s.xspiMaster = true → offset < 2 ^ 28 →
        (offset / 256 ∈ s.xspi.lines → t.outbox = s.outbox ++ [Emit.xip offset true]
          ∧ t.g R.xspi_PF_STAT_HIT = cap (2 ^ R.xspi_PF_STAT_HIT.width - 1) (s.g R.xspi_PF_STAT_HIT + 1)
          ∧ t.xspi.lines = offset / 256 :: s.xspi.lines.filter (· != offset / 256))
        ∧ (offset / 256 ∉ s.xspi.lines → s.g R.xspi_MST_STAT_DDR = 0 ∨ timeouts < 4 →
            t.outbox = s.outbox ++ [Emit.xip offset true] ∧ t.xspi.abandoned = s.xspi.abandoned
            ∧ t.g R.xspi_PF_STAT_MISS = cap (2 ^ R.xspi_PF_STAT_MISS.width - 1) (s.g R.xspi_PF_STAT_MISS + 1)
            ∧ offset / 256 ∈ t.xspi.lines ∧ (offset / 256 + 1 < 2 ^ 20 → s.xspi.lines.length ≤ 3 →
              offset / 256 + 1 ∈ t.xspi.lines))
        ∧ (offset / 256 ∉ s.xspi.lines → s.g R.xspi_MST_STAT_DDR = 1 → 4 ≤ timeouts →
            t.outbox = s.outbox ++ [Emit.xip offset false] ∧ t.xspi.abandoned = true ∧ t.xspi.lines = s.xspi.lines
            ∧ t.g R.xspi_MST_ERR_ABANDONED
              = cap (2 ^ R.xspi_MST_ERR_ABANDONED.width - 1) (s.g R.xspi_MST_ERR_ABANDONED + 1)
            ∧ t.gi R.hdr_IRQ_STAT_EVENT 0x00A = 1))

/-- A transaction that takes effect is counted, toggles SEQ and leaves its LAST_ERR (R485). -/
def counted (s t : State) (e : Nat) : Prop :=
  t.g R.xspi_SLV_STAT_LAST_ERR = e ∧ t.g R.xspi_SLV_STAT_SEQ = 1 - s.g R.xspi_SLV_STAT_SEQ
    ∧ t.g R.xspi_SLV_TRANS_COUNT = (s.g R.xspi_SLV_TRANS_COUNT + 1) % 2 ^ R.xspi_SLV_TRANS_COUNT.width

/-- The slave port's register reads and writes: nothing while the port is not up or the count lies outside 1 to 64; with
READY clear LAST_ERR 4 and zeros; a read sends its words, and a written word is the write that REGISTER_WRITE by the port
is, refused with LAST_ERR 2 or 3 where a page or an address forbids it; a rise of CS in the middle aborts (R483 to R486). -/
def Obligations.SlaveRegisterTransactions : Prop :=
  (∀ (addr count done : Nat) (fixed ready broken : Bool) (s : State), s.Inv →
      ∃ t, exec (.xspiRegRead addr count fixed ready done broken) s = .next t
    ∧ t = { s with freeCtr := t.freeCtr, hdg := t.hdg, latches := t.latches, outbox := t.outbox, ports := t.ports
                   regs := t.regs, zcs := { s.zcs with slaveNs := t.zcs.slaveNs } }
    ∧ (s.slaveUp = false ∨ count = 0 ∨ 64 < count → t = s)
    ∧ (s.slaveUp = true → 1 ≤ count → count ≤ 64 →
        (∃ b, t.outbox = s.outbox ++ [Emit.slave (s.slaveStatus ready) b] ∧ b.length = 4 * min done count)
        ∧ t.zcs.slaveNs = s.nowNs
        ∧ (ready = false → t.g R.xspi_SLV_STAT_LAST_ERR = 4 ∧ s.regsBut t [(R.xspi_SLV_STAT_LAST_ERR, 0)])
        ∧ (ready = true → broken = true → done < count → t.g R.xspi_SLV_STAT_LAST_ERR = 5
            ∧ t.gi R.hdr_IRQ_STAT_EVENT 0x00A = 1)
        ∧ (ready = true → count = 1 → 1 ≤ done → (s.renewActor .xspi).accessErr addr ≠ 0 →
            counted s t ((s.renewActor .xspi).accessErr addr) ∧ t.outbox = s.outbox ++ [Emit.slave (s.slaveStatus true) (le 4 0)])
        ∧ (ready = true → count = 1 → 1 ≤ done → (s.renewActor .xspi).accessErr addr = 0 →
            t.outbox = s.outbox ++ [Emit.slave (s.slaveStatus true) (le 4 ((s.renewActor .xspi).readWord addr).2)]
            ∧ t.g R.xspi_SLV_STAT_LAST_ERR = 0)))
  ∧ (∀ (addr count : Nat) (fixed ready : Bool) (words : List Word) (broken : Bool) (s : State), s.Inv →
      ∃ t, exec (.xspiRegWrite addr count fixed ready words broken) s = .next t
    ∧ (s.slaveUp = false ∨ count = 0 ∨ 64 < count → t = s)
    ∧ (s.slaveUp = true → 1 ≤ count → count ≤ 64 →
        (ready = false → t = { s with outbox := t.outbox, regs := t.regs, zcs := { s.zcs with slaveNs := s.nowNs } }
          ∧ t.outbox = s.outbox ++ [Emit.slave (s.slaveStatus false) []]
          ∧ s.regsBut t [(R.xspi_SLV_STAT_LAST_ERR, 0)] ∧ t.g R.xspi_SLV_STAT_LAST_ERR = 4)
        ∧ (∀ w u, ready = true → count = 1 → words = [w] → (s.renewActor .xspi).accessErr addr = 0 →
            exec (.registerWrite .xspi addr w) { s with outbox := s.outbox ++ [Emit.slave (s.slaveStatus true) []] } = .next u →
            t = { u with regs := t.regs } ∧ counted u t 0
            ∧ u.regsBut t [(R.xspi_SLV_STAT_LAST_ERR, 0), (R.xspi_SLV_STAT_SEQ, 0), (R.xspi_SLV_TRANS_COUNT, 0)])
        ∧ (∀ w, ready = true → count = 1 → words = [w] → (s.renewActor .xspi).accessErr addr ≠ 0 →
            t = { s with outbox := t.outbox, regs := t.regs, zcs := { s.zcs with slaveNs := s.nowNs } }
            ∧ counted s t ((s.renewActor .xspi).accessErr addr)
            ∧ s.regsBut t [(R.xspi_SLV_STAT_LAST_ERR, 0), (R.xspi_SLV_STAT_SEQ, 0), (R.xspi_SLV_TRANS_COUNT, 0)])))

/-- The other transactions of the slave port: its status; a message taken into the request buffer and, where it is whole
and sound, the queue of the command pair; the oldest response; unknown commands; and a broken one (R482 to R487). -/
def Obligations.SlaveMessages : Prop :=
  (∀ s : State, s.Inv → ∃ t, exec .xspiStatus s = .next t ∧ t = { s with outbox := t.outbox, regs := t.regs }
    ∧ s.regsBut t [(R.xspi_SLV_STAT_LAST_ERR, 0), (R.xspi_SLV_STAT_SEQ, 0), (R.xspi_SLV_TRANS_COUNT, 0)]
    ∧ (s.slaveUp = false → t = s)
    ∧ (s.slaveUp = true → counted s t 0
        ∧ t.outbox = s.outbox ++ [Emit.slave (s.slaveStatus true) (le 4 (s.wordAt 0x00A 0x048))]))
  ∧ (∀ (len : Nat) (bytes : List Byte) (s : State), s.Inv → ∃ t, exec (.xspiZcsWrite len bytes) s = .next t
    ∧ t = { s with outbox := t.outbox, regs := t.regs
                   xspi := { s.xspi with reqBuf := t.xspi.reqBuf, resps := t.xspi.resps }
                   zcs := { s.zcs with queue := t.zcs.queue, sessions := t.zcs.sessions } }
    ∧ t.zcs.sessions.map (·.id) = s.zcs.sessions.map (·.id)
    ∧ (s.slaveUp = false → t = s)
    ∧ (s.slaveUp = true → s.xspi.reqBuf.isSome = true → t = { s with outbox := t.outbox, regs := t.regs }
        ∧ t.g R.xspi_SLV_STAT_LAST_ERR = 6)
    ∧ (s.slaveUp = true → s.xspi.reqBuf = none → len < 16 ∨ 4096 < len →
        t = { s with outbox := t.outbox, regs := t.regs } ∧ t.g R.xspi_SLV_STAT_LAST_ERR = 7)
    ∧ (s.slaveUp = true → s.xspi.reqBuf = none → 16 ≤ len → len ≤ 4096 →
        t.g R.xspi_SLV_STAT_LAST_ERR = 0 ∧ t.g R.xspi_SLV_STAT_SEQ = 1 - s.g R.xspi_SLV_STAT_SEQ
        ∧ (bytes.length < 4 * ceilDiv len 4 → t = { s with outbox := t.outbox, regs := t.regs })
        ∧ (4 * ceilDiv len 4 ≤ bytes.length → s.g R.cpu_PAIR_STAT_CMD_RUN = 0 →
            t.xspi.reqBuf = some (bytes.take len) ∧ t.zcs = s.zcs)
        ∧ (4 * ceilDiv len 4 ≤ bytes.length → s.g R.cpu_PAIR_STAT_CMD_RUN = 1 → leAt bytes 0 1 = 0x32 →
            leAt bytes 1 1 % 2 = 0 → leAt bytes 2 2 ∈ opcodes → leAt bytes 12 2 = len →
            lengthAllowed (leAt bytes 2 2) ((bytes.take len).drop 16) = true → s.zcs.queue.length < 16 →
            t.xspi.reqBuf = some (bytes.take len) ∧ t.zcs.queue = s.zcs.queue
              ++ [⟨⟨.xspi, BitVec.ofNat 32 (leAt bytes 8 4), BitVec.ofNat 32 (leAt bytes 4 4)⟩, leAt bytes 2 2,
                  bytes.take len, s.nowNs⟩])))
  ∧ (∀ (max : Nat) (finished : Bool) (s : State), s.Inv → ∃ t, exec (.xspiZcsRead max finished) s = .next t
    ∧ t = { s with outbox := t.outbox, regs := t.regs, xspi := { s.xspi with resps := t.xspi.resps } }
    ∧ s.regsBut t [(R.xspi_SLV_STAT_LAST_ERR, 0), (R.xspi_SLV_STAT_SEQ, 0), (R.xspi_SLV_TRANS_COUNT, 0)]
    ∧ (s.slaveUp = false → t = s)
    ∧ (s.slaveUp = true → counted s t 0
        ∧ (s.xspi.resps = [] → t.xspi = s.xspi ∧ t.outbox = s.outbox ++ [Emit.slave (s.slaveStatus true) (le 4 0)])
        ∧ (∀ m rest, s.xspi.resps = m :: rest →
            (m.length ≤ max → t.xspi.resps = (if finished then rest else s.xspi.resps)
              ∧ t.outbox = s.outbox ++ [Emit.slave (s.slaveStatus true) (le 4 m.length ++ padTo (4 * ceilDiv m.length 4) m)])
            ∧ (max < m.length → t.xspi = s.xspi
              ∧ t.outbox = s.outbox ++ [Emit.slave (s.slaveStatus true) (le 4 m.length)]))))
  ∧ (∀ (cmd : Nat) (s : State), s.Inv → ∃ t, exec (.xspiUnknownCmd cmd) s = .next t
    ∧ t = { s with outbox := t.outbox, regs := t.regs } ∧ s.regsBut t [(R.xspi_SLV_STAT_LAST_ERR, 0)]
    ∧ (s.slaveUp = false ∨ cmd ∈ [0x0B, 0x02, 0x05, 0x12, 0x13] → t = s)
    ∧ (s.slaveUp = true → cmd ∉ [0x0B, 0x02, 0x05, 0x12, 0x13] → t.g R.xspi_SLV_STAT_LAST_ERR = 1
        ∧ t.outbox = s.outbox ++ [Emit.slave (s.slaveStatus false) []]))
  ∧ (∀ (cmd : Nat) (mid ready : Bool) (s : State), s.Inv → ∃ t, exec (.xspiAbort cmd mid ready) s = .next t
    ∧ t = { s with regs := t.regs }
    ∧ s.regsBut t ([(R.xspi_SLV_STAT_LAST_ERR, 0), (R.xspi_SLV_STAT_SEQ, 0), (R.xspi_SLV_TRANS_COUNT, 0),
        (R.xspi_SLV_CNT_SLAVE_ABORT, 0), (R.hdr_IRQ_STAT_EVENT, 0x00A)] ++ errFields.map (·, 0x00A))
    ∧ (s.slaveUp = false → t = s)
    ∧ (s.slaveUp = true → mid = true → t.g R.xspi_SLV_STAT_LAST_ERR = 5 ∧ t.gi R.hdr_IRQ_STAT_EVENT 0x00A = 1
        ∧ t.gi R.hdr_ERR_CAPT_CAUSE 0x00A = 5 ∧ t.g R.xspi_SLV_CNT_SLAVE_ABORT
          = cap (2 ^ R.xspi_SLV_CNT_SLAVE_ABORT.width - 1) (s.g R.xspi_SLV_CNT_SLAVE_ABORT + 1))
    ∧ (s.slaveUp = true → mid = false → cmd ∉ [0x0B, 0x02, 0x05, 0x12, 0x13] → t.g R.xspi_SLV_STAT_LAST_ERR = 1)
    ∧ (s.slaveUp = true → mid = false → cmd = 0x12 → s.xspi.reqBuf ≠ none → t.g R.xspi_SLV_STAT_LAST_ERR = 6)
    ∧ (s.slaveUp = true → mid = false → cmd ∈ [0x0B, 0x02, 0x05, 0x12, 0x13] → cmd ≠ 0x12 ∨ s.xspi.reqBuf = none →
        (ready = true → counted s t 0)
        ∧ (ready = false → t.g R.xspi_SLV_STAT_LAST_ERR = if cmd = 0x12 then 7 else 4)))

/-! ## Ethernet, PTP and the Hedgerow bus -/

/-- A message that passes every check of R355 and may wait for execution. -/
def sound (m : List Byte) : Prop :=
  16 ≤ m.length ∧ m.length ≤ 4096 ∧ leAt m 0 1 = 0x32 ∧ leAt m 1 1 % 2 = 0 ∧ leAt m 2 2 ∈ opcodes ∧ leAt m 12 2 = m.length
    ∧ lengthAllowed (leAt m 2 2) (m.drop 16) = true

/-- An enabled Ethernet port answers ARP and echo requests for its own address, counts bad frames, gives a sound ZCS
message to the command pair while its queue has room, and discards the rest, from step 7 of start-up on (R332, R333, R355, R360,
R490); a datagram incomplete after 100 ms is abandoned and counted (R333). A link that is lost moves PTP where it may (R334). -/
def Obligations.Ethernet : Prop :=
  (∀ (f : EthIn) (s : State), s.Inv → ∃ t, exec (.ethFrame f) s = .next t
    ∧ t = { s with outbox := t.outbox, regs := t.regs, wall := { s.wall with reasm := t.wall.reasm }
                   zcs := { s.zcs with queue := t.zcs.queue, sessions := t.zcs.sessions } }
    ∧ s.fieldsBut t (R.eth_RX_DROP_BAD :: R.eth_RX_DROP_REASM :: errFields)
    ∧ (2 ≤ f.port ∨ s.gi R.eth_PORT_CFG_EN f.port = 0 ∨ s.boot.step < 6 ∨ f.body = .other → t = s)
    ∧ (f.port < 2 → s.gi R.eth_PORT_CFG_EN f.port ≠ 0 → 6 ≤ s.boot.step →
        (f.body = .bad → t.outbox = s.outbox ∧ t.zcs = s.zcs ∧ t.gi R.eth_RX_DROP_BAD f.port
          = cap (2 ^ R.eth_RX_DROP_BAD.width - 1) (s.gi R.eth_RX_DROP_BAD f.port + 1))
        ∧ (∀ target sender, f.body = .arp target sender → t = { s with outbox := t.outbox } ∧ t.outbox = s.outbox
            ++ (if s.ownsIp f.port target then [Emit.arp f.port sender] else []))
        ∧ (∀ dst src data, f.body = .icmpEcho dst src data → t = { s with outbox := t.outbox } ∧ t.outbox = s.outbox
            ++ (if s.ownsIp f.port dst then [Emit.echo f.port src data] else []))
        ∧ (∀ dst src udp id offset more data, f.body = .zcs dst src udp id offset more data →
            s.ownsIp f.port dst = false → t = s)
        ∧ (∀ dst src udp id data, f.body = .zcs dst src udp id 0 false data → s.ownsIp f.port dst = true → sound data →
            s.g R.cpu_PAIR_STAT_CMD_RUN = 1 → s.zcs.queue.length < 16 →
            t = { s with zcs := { s.zcs with queue := t.zcs.queue, sessions := t.zcs.sessions } } ∧ t.zcs.queue = s.zcs.queue
              ++ [⟨⟨.udp f.port src udp, BitVec.ofNat 32 (leAt data 8 4), BitVec.ofNat 32 (leAt data 4 4)⟩, leAt data 2 2,
                  data, s.nowNs⟩]
            ∧ ∀ x ∈ s.zcs.sessions, x.id = BitVec.ofNat 32 (leAt data 8 4) → { x with last := s.nowNs } ∈ t.zcs.sessions)))
  ∧ (∀ (src id : Nat) (s : State), s.Inv → ∃ t, exec (.reasmTimeout src id) s = .next t
    ∧ t = { s with regs := t.regs, wall := { s.wall with reasm := t.wall.reasm } } ∧ s.fieldsBut t [R.eth_RX_DROP_REASM]
    ∧ ((∀ r ∈ s.wall.reasm, r.src ≠ src ∨ r.id ≠ id ∨ s.nowNs < r.ns + 100000000) → t = s)
    ∧ (∀ r, s.wall.reasm = [r] → r.src = src → r.id = id → r.ns + 100000000 ≤ s.nowNs →
        t.wall.reasm = [] ∧ t.gi R.eth_RX_DROP_REASM r.port
        = cap (2 ^ R.eth_RX_DROP_REASM.width - 1) (s.gi R.eth_RX_DROP_REASM r.port + 1)))
  ∧ (∀ (port : Nat) (up module : Bool) (s : State), s.Inv → ∃ t, exec (.ethLinkChange port up module) s = .next t
    ∧ t = { s with regs := t.regs
                   wall := { s.wall with annNs := t.wall.annNs, best := t.wall.best, isMaster := t.wall.isMaster
                                         syncNs := t.wall.syncNs } }
    ∧ s.regsBut t [(R.eth_PORT_STAT_LINK, port), (R.eth_PORT_STAT_MODULE, port), (R.ptp_STAT_PORT_NOW, 0)]
    ∧ (2 ≤ port → t = s)
    ∧ (port < 2 → t.gi R.eth_PORT_STAT_LINK port = b2n up ∧ t.gi R.eth_PORT_STAT_MODULE port = b2n module
        ∧ (up = true ∨ s.gi R.eth_PORT_STAT_LINK port = 0 ∨ s.g R.ptp_CFG_EN = 0 ∨ s.g R.ptp_STAT_PORT_NOW ≠ port
            ∨ s.g R.ptp_CFG_FAILOVER = 0 → t.wall = s.wall ∧ t.g R.ptp_STAT_PORT_NOW = s.g R.ptp_STAT_PORT_NOW)
        ∧ (up = false → s.gi R.eth_PORT_STAT_LINK port = 1 → s.g R.ptp_CFG_EN = 1 → s.g R.ptp_STAT_PORT_NOW = port →
            s.g R.ptp_CFG_FAILOVER = 1 → t.g R.ptp_STAT_PORT_NOW = 1 - port ∧ t.wall.best = none ∧ t.wall.isMaster = false)))

/-- PTP handles the messages of its port, transport and domain while the tending pair runs: an announcement of a better master
than the one followed and than the hub's own clock gives the master and its UTC offset, and a hub that is not slave only and better
than it becomes the master; a Sync of the master whose offset exceeds STEP_LIM steps the clock, which is then valid, and a
smaller one sets a RATE within 500 ppm; a delay request is answered by a master with its receive time (R334 to R337; how the
best master is chosen in detail is the model's, log entry 140). Without a master the clock holds its mean RATE, and a hub that
may be one and has no port to move to becomes the master. -/
def Obligations.PtpClock : Prop :=
  (∀ (m : PtpIn) (s : State), s.Inv → ∃ t, exec (.ptpMessage m) s = .next t
    ∧ t = { s with cpu := t.cpu, freeCtr := t.freeCtr, hubQ := t.hubQ, outbox := t.outbox, regs := t.regs, wall := t.wall }
    ∧ s.fieldsBut t [R.ptp_OFFSET_OFFSET, R.ptp_STAT_HOLDOVER, R.ptp_STAT_TIME_VALID, R.ptp_RATE_RATE, R.ptp_STAT_SYNC,
        R.ptp_STAT_UTC_OFFSET]
    ∧ (s.g R.cpu_PAIR_STAT_TND_RUN = 0 ∨ s.g R.ptp_CFG_EN = 0 ∨ m.port ≠ s.g R.ptp_STAT_PORT_NOW
        ∨ s.gi R.eth_PORT_CFG_EN m.port = 0 ∨ b2n m.ieee8023 ≠ s.g R.ptp_CFG_TRANSPORT
        ∨ m.domain ≠ s.g R.ptp_CFG_DOMAIN → t = s)
    ∧ (s.g R.cpu_PAIR_STAT_TND_RUN = 1 → s.g R.ptp_CFG_EN = 1 → m.port = s.g R.ptp_STAT_PORT_NOW →
        s.gi R.eth_PORT_CFG_EN m.port = 1 → b2n m.ieee8023 = s.g R.ptp_CFG_TRANSPORT → m.domain = s.g R.ptp_CFG_DOMAIN →
        let followed := ∃ b, s.wall.best = some b ∧ b.getLast? = some m.sender
        (∀ utc data, m.body = .announce utc data →
          let rank := data ++ [m.sender]
          let own := s.g R.ptp_CFG_SLAVE_ONLY = 0 ∧ better ownDataset rank = true
          t = { s with regs := t.regs, wall := t.wall }
          ∧ (¬ own → s.wall.best = none ∨ followed ∨ (∃ b, s.wall.best = some b ∧ better rank b = true) →
              t.wall.best = some rank ∧ t.wall.isMaster = false
              ∧ t.g R.ptp_STAT_UTC_OFFSET = utc % 2 ^ R.ptp_STAT_UTC_OFFSET.width)
          ∧ (own → s.wall.best = none ∨ followed → t.wall.best = none ∧ t.wall.isMaster = true ∧ t.regs = s.regs)
          ∧ (∀ b, s.wall.best = some b → ¬ followed → better rank b = false ∨ own → t = s))
        ∧ (∀ o, m.body = .syncDone o → m.logSync < -7 ∨ 1 < m.logSync ∨ ¬ followed → t = s)
        ∧ (∀ o, m.body = .syncDone o → -7 ≤ m.logSync → m.logSync ≤ 1 → followed →
            t.g R.ptp_STAT_HOLDOVER = 0
            ∧ (4 * (s.g R.ptp_SERVO_LOCK_NS * 256) < (s.compensated m.port o).natAbs → t.g R.ptp_STAT_SYNC = 0)
            ∧ (s.g R.ptp_SERVO_STEP_LIM * 256000 < (s.compensated m.port o).natAbs →
                t.g R.ptp_STAT_TIME_VALID = 1 ∧ t.wall.stepped = true ∧ t.wall.setCold = true
                ∧ t.wall.rate = s.wall.rate
                ∧ t.wall.ns = (s.wall.forward (-((s.compensated m.port o) * (2 ^ 40 : Nat)))).ns
                ∧ t.wall.sec = (s.wall.forward (-((s.compensated m.port o) * (2 ^ 40 : Nat)))).sec)
            ∧ ((s.compensated m.port o).natAbs ≤ s.g R.ptp_SERVO_STEP_LIM * 256000 →
                t.wall.sec = s.wall.sec ∧ t.wall.ns = s.wall.ns ∧ t.wall.frac = s.wall.frac
                ∧ t.wall.rate.natAbs ≤ rateMax))
        ∧ (∀ seq, m.body = .delayReq seq → t = { s with outbox := t.outbox } ∧ t.outbox = s.outbox
            ++ (if s.wall.isMaster = true then
                  [Emit.ptp m.port (.delayResp seq m.sender (s.stampNow - s.ingress m.port))] else []))))
  ∧ (∀ s : State, s.Inv → ∃ t, exec .ptpAnnounceTimeout s = .next t
    ∧ t = { s with regs := t.regs
                   wall := { s.wall with anchors := t.wall.anchors, annNs := t.wall.annNs, best := t.wall.best
                                         inLock := t.wall.inLock, isMaster := t.wall.isMaster, rate := t.wall.rate
                                         syncNs := t.wall.syncNs } }
    ∧ s.regsBut t [(R.ptp_STAT_PORT_NOW, 0), (R.ptp_RATE_RATE, 0), (R.ptp_STAT_HOLDOVER, 0), (R.ptp_STAT_SYNC, 0)]
    ∧ (s.g R.ptp_CFG_EN = 0 ∨ s.g R.cpu_PAIR_STAT_TND_RUN = 0 → t = s)
    ∧ (s.g R.ptp_CFG_EN = 1 → s.g R.cpu_PAIR_STAT_TND_RUN = 1 →
        (s.wall.isMaster = true → t.wall.isMaster = true ∧ t.g R.ptp_STAT_PORT_NOW = s.g R.ptp_STAT_PORT_NOW)
        ∧ (s.wall.isMaster = false → t.wall.best = none
            ∧ (t.wall.isMaster = true ↔ s.g R.ptp_CFG_SLAVE_ONLY = 0 ∧ (s.g R.ptp_CFG_FAILOVER = 0 ∨ s.wall.best = none))
            ∧ (s.g R.ptp_CFG_FAILOVER = 0 → t.g R.ptp_STAT_PORT_NOW = s.g R.ptp_STAT_PORT_NOW)
            ∧ (s.g R.ptp_CFG_FAILOVER = 1 → s.g R.ptp_STAT_PORT_NOW ≤ 1 →
                t.g R.ptp_STAT_PORT_NOW = 1 - s.g R.ptp_STAT_PORT_NOW))
        ∧ (s.wall.best ≠ none ∨ (s.wall.rates ≠ [] ∧ s.g R.ptp_STAT_HOLDOVER = 0) → t.g R.ptp_STAT_HOLDOVER = 1
            ∧ t.g R.ptp_STAT_SYNC = 0
            ∧ (s.wall.rates = [] → t.wall.rate = s.wall.rate)
            ∧ (s.wall.rates ≠ [] → Int.fdiv (sumInt s.wall.rates) s.wall.rates.length ≤ t.wall.rate
                ∧ t.wall.rate ≤ Int.fdiv (sumInt s.wall.rates) s.wall.rates.length + 1))))

/-- A bus cycle sends its beacon as R340 forms a transmission, counts, and lets the last cycle's quarantines and grant take
effect (R341, R342, R346, R347); only before the orbit first locks does the timer start it, and a hub whose HUB_ID is 0 sends
none (R391). A transmission is taken by the first case of R345 that covers it, and an admission request that can be met is
granted (R345 to R347). A node silent for 16 cycles is released (R346). -/
def Obligations.HedgerowBus : Prop :=
  (∀ s : State, s.Inv → ∃ t, exec .hedgerowTimerCycle s = .next t
    ∧ t = { s with freeCtr := t.freeCtr, hdg := t.hdg, outbox := t.outbox, regs := t.regs
                   wall := { s.wall with annNs := t.wall.annNs, ptpSeq := t.wall.ptpSeq, syncNs := t.wall.syncNs } }
    ∧ s.fieldsBut t [R.hdg_NODE_STAT_ACTIVE, R.hdg_NODE_STAT_QUAR, R.hdg_NODE_STAT_OVR_RUN, R.hdg_UID_LO_UID, R.hdg_UID_HI_UID,
        R.hdg_CYCLE_COUNT]
    ∧ (s.trellis.everLocked = true → t = s)
    ∧ (s.g R.hdg_CTRL_EN = 0 ∨ s.standby = true ∨ s.pd 1 = false ∨ s.g R.global_HUB_ID_ID = 0 →
        t = { s with outbox := t.outbox, wall := t.wall } ∧ (s.wall.isMaster = false → t = s))
    ∧ (s.trellis.everLocked = false → s.g R.hdg_CTRL_EN = 1 → s.standby = false → s.pd 1 = true →
        s.g R.global_HUB_ID_ID ≠ 0 → (∀ m uid, s.hdg.grant = some (m, uid) → m < 32) →
        t.hdg.grant = none ∧ t.g R.hdg_CYCLE_COUNT
          = (s.g R.hdg_CYCLE_COUNT + 1) % 2 ^ R.hdg_CYCLE_COUNT.width
        ∧ (∃ l b, t.outbox = s.outbox ++ l ++ [Emit.hedgerow b (busLine b)] ∧ (s.wall.isMaster = false → l = [])
          ∧ leAt b 0 1 = 0x80
          ∧ leAt b 2 2 = s.g R.global_HUB_ID_ID % 2 ^ 16 ∧ leAt b 16 4 = s.wall.ns % 2 ^ 32)
        ∧ ∀ n, n < 32 →
            (∀ uid, s.hdg.grant = some (n, uid) → t.gi R.hdg_NODE_STAT_ACTIVE n = 1 ∧ t.gi R.hdg_NODE_STAT_QUAR n = 0
              ∧ t.gi R.hdg_NODE_STAT_OVR_RUN n = 0 ∧ t.nodeUid n = uid % 2 ^ 64)
            ∧ ((∀ uid, s.hdg.grant ≠ some (n, uid)) → (s.hnode n).quarDue = true →
              t.gi R.hdg_NODE_STAT_ACTIVE n = 0 ∧ t.gi R.hdg_NODE_STAT_QUAR n = 1)
            ∧ ((∀ uid, s.hdg.grant ≠ some (n, uid)) → (s.hnode n).quarDue = false →
              t.gi R.hdg_NODE_STAT_ACTIVE n = s.gi R.hdg_NODE_STAT_ACTIVE n)
            ∧ (t.hnode n).quarDue = false ∧ (t.hnode n).heard = false))
  ∧ (∀ (f : HdgIn) (s : State), s.Inv → ∃ t, exec (.hedgerowFrameRx f) s = .next t ∧
    let bytes := noCrc f.raw
    let good := crcGood f.raw
    t = { s with cpu := t.cpu, freeCtr := t.freeCtr, hdg := t.hdg, hubQ := t.hubQ, regs := t.regs }
    ∧ s.fieldsBut t [R.hdg_BUS_ERR_ADMIT_FAIL, R.hdg_BUS_ERR_STRAY, R.hdg_NODE_STATUS_STATUS, R.hdg_NODE_STATUS_RX_OVF,
        R.hdg_NODE_STAT_OFFSET, R.hdg_NODE_STAT_SKEW_WARN, R.hdg_NODE_STAT_OVR_RUN, R.hdg_NODE_STAT_ACTIVE,
        R.hdg_NODE_STAT_QUAR, R.hdg_NODE_ERR_OVERRUN, R.hdg_NODE_ERR_CRC, R.hdg_UID_LO_UID, R.hdg_UID_HI_UID]
    ∧ (s.g R.hdg_CTRL_EN = 0 ∨ 33 < f.slot → t = s)
    ∧ (s.g R.hdg_CTRL_EN = 1 → s.standby = false →
        (f.slot = 32 → good = false → t.hdg = s.hdg ∧ t.g R.hdg_BUS_ERR_ADMIT_FAIL
          = cap (2 ^ R.hdg_BUS_ERR_ADMIT_FAIL.width - 1) (s.g R.hdg_BUS_ERR_ADMIT_FAIL + 1))
        ∧ (∀ n, f.slot = 32 → good = true → leAt bytes 0 1 = 2 → bytes.length = 16 →
            s.admits (leAt bytes 1 1) (leAt bytes 8 8) = some n →
            s.fieldsBut t [R.hdg_NODE_STAT_OVR_RUN] ∧ t.hdg = { s.hdg with grant := some (n, leAt bytes 8 8) })
        ∧ (f.slot < 32 → f.overrun = true → t.gi R.hdg_NODE_ERR_OVERRUN f.slot
            = cap (2 ^ R.hdg_NODE_ERR_OVERRUN.width - 1) (s.gi R.hdg_NODE_ERR_OVERRUN f.slot + 1))
        ∧ (f.slot < 32 → f.overrun = false → t.gi R.hdg_NODE_STAT_OVR_RUN f.slot = 0
            ∧ (good = false ∨ bytes.length ≠ 8 + leAt bytes 3 1 → t.hdg = s.hdg
              ∧ t.gi R.hdg_NODE_ERR_CRC f.slot = cap (2 ^ R.hdg_NODE_ERR_CRC.width - 1) (s.gi R.hdg_NODE_ERR_CRC f.slot + 1)))
        ∧ (f.slot < 32 → f.slot < s.hdg.nodes.length → f.overrun = false → good = true →
            bytes.length = 8 + leAt bytes 3 1 → s.gi R.hdg_NODE_STAT_ACTIVE f.slot = 1 →
            s.gi R.hdg_NODE_STAT_QUAR f.slot = 0 → leAt bytes 0 1 = 1 →
            t.gi R.hdg_NODE_STATUS_STATUS f.slot = leAt bytes 4 2 % 2 ^ R.hdg_NODE_STATUS_STATUS.width
            ∧ (t.hnode f.slot).heard = true
            ∧ ((s.hnode f.slot).seq = some (leAt bytes 2 1) → (t.hnode f.slot).rxq = (s.hnode f.slot).rxq)
            ∧ ((s.hnode f.slot).seq ≠ some (leAt bytes 2 1) →
                (s.hnode f.slot).rxq.length + (bytes.length - 8) ≤ 512 → (t.hnode f.slot).seq = some (leAt bytes 2 1)
                ∧ (t.hnode f.slot).rxq.map (· % 256)
                  = (s.hnode f.slot).rxq.map (· % 256) ++ (bytes.drop 8).map (·.toNat)))))
  ∧ (∀ (n : Nat) (s : State), s.Inv → ∃ t, exec (.hedgerowNodeTimeout n) s = .next t
    ∧ t = { s with regs := t.regs }
    ∧ s.regsBut t [(R.hdg_NODE_STAT_ACTIVE, n), (R.hdg_UID_LO_UID, n), (R.hdg_UID_HI_UID, n)]
    ∧ (32 ≤ n ∨ s.gi R.hdg_NODE_STAT_ACTIVE n = 0 ∨ (s.hnode n).silent < 16 → t = s)
    ∧ (n < 32 → s.gi R.hdg_NODE_STAT_ACTIVE n = 1 → 16 ≤ (s.hnode n).silent →
        t.gi R.hdg_NODE_STAT_ACTIVE n = 0 ∧ t.nodeUid n = 0))

/-! ## Processors and resets -/

/-- The bounds and intervals that MARGIN_APPLY pins (R437, R439). -/
def pinnedFields : List Fld :=
  [R.lane_CTLE_BOUND_MIN, R.lane_CTLE_BOUND_MAX, R.lane_DFE_BOUND_H1_MAX, R.lane_DFE_BOUND_HN_MAX, R.lane_RETRAIN_INTERVAL,
   R.memctl_RT_CFG_INTERVAL]

/-- The fields that a write of the field store changes where it is cut short (R402). -/
def storeFields : List Fld := [R.nvm_SEC_STAT_STATE, R.nvm_SEC_STAT_LOGICAL, R.nvm_SEC_ERASES_COUNT, R.nvm_STORE_STAT_FREE]

/-- A reset of a kind has acted: everything is as after power-on but what R501 keeps (time, outputs sent, the cold frame,
the token line, the field store without the writes under way, of which the first has erased its transfer sector, and, under a warm
or watchdog reset, the wall clock, stream memory with the retained segments, the image copy, the slices out of use and what
MARGIN_APPLY has pinned); start-up stands at the kind's first step and RESET_CAUSE names it; every register
field instance outside those named reads as before where the kind keeps it and holds its reset value elsewhere. -/
def wasReset (kind : Nat) (s t : State) : Prop :=
  t = { State.reset with pending := s.pending, regs := t.regs, prevRegs := t.prevRegs, nowNs := s.nowNs
                         freeCtr := t.freeCtr, outbox := s.outbox
                         wall := if warmKind kind then { s.wall with anchors := [] } else State.reset.wall
                         nvm := { s.nvm with ops := [], ageBuf := [], ageCount := 0, sectors := t.nvm.sectors
                                             transfer := t.nvm.transfer }
                         graft := { State.reset.graft with highNs := t.graft.highNs, lineLow := s.graft.lineLow }
                         cold := t.cold, tend := t.tend, slow := t.slow, beds := t.beds
                         furrows := if warmKind kind then s.furrows.map (fun x => (x.1, x.2.afterReset)) else []
                         mem := t.mem, image := t.image, power := t.power, boot := t.boot }
  ∧ (s.writing = false → t.nvm.sectors = s.nvm.sectors ∧ t.nvm.transfer = s.nvm.transfer)
  ∧ (s.writing = true → t.gi R.nvm_SEC_ERASES_COUNT s.nvm.transfer
      = (s.gi R.nvm_SEC_ERASES_COUNT s.nvm.transfer + 1) % 2 ^ R.nvm_SEC_ERASES_COUNT.width)
  ∧ t.mem.cells = (if warmKind kind then s.mem.cells else [])
  ∧ t.image.copy = (if warmKind kind then s.image.copy else none)
  ∧ t.slow.safe = !s.on R.il_SAFE_STAT_PIN 0
  ∧ t.boot.step = (if warmKind kind then 4 else if kind = 0 then 0 else 2)
  ∧ t.g R.global_RESET_CAUSE_KIND = kind % 2 ^ R.global_RESET_CAUSE_KIND.width
  ∧ t.g R.global_PD_STAT_ON = (if warmKind kind then 3 + (s.g R.global_PD_STAT_ON &&& (15 * 2 ^ 18)) else 3)
  ∧ (∀ (f : Fld) (j : Nat),
      (∀ x ∈ [R.global_RESET_CAUSE_KIND, R.global_PD_STAT_ON, R.il_SAFE_STAT_LATCH, R.mport_SLOT_STAT_A,
        R.mport_SLOT_STAT_B, R.mport_SLOT_STAT_C], f.base ≠ x.base) →
      (warmKind kind = true → f.base ≠ R.bed_SLICE_MAP_CH.base ∧ f.base ≠ R.bed_ROT_STAT_SPARE.base) →
      (s.writing = true → ∀ x ∈ storeFields, f.base ≠ x.base) →
      (warmKind kind = true → s.tend.pins ≠ [] ∨ s.tend.wide ≠ [] → ∀ x ∈ pinnedFields, f.base ≠ x.base) →
      t.gi f j = if keptKey kind (f.key j) then s.gi f j else f.resetOf j)
  ∧ (warmKind kind = true → ∀ b, b < 24 →
      ((∀ i, i < 33 → s.gi R.bed_SLICE_MAP_CH (b * 64 + i) ≠ 63) →
        ∀ i, i < 33 → t.gi R.bed_SLICE_MAP_CH (b * 64 + i) = R.bed_SLICE_MAP_CH.resetOf (b * 64 + i))
      ∧ (∀ x, x < 33 → s.gi R.bed_SLICE_MAP_CH (b * 64 + x) = 63 →
          (∀ i, i < x → s.gi R.bed_SLICE_MAP_CH (b * 64 + i) ≠ 63) →
          t.gi R.bed_SLICE_MAP_CH (b * 64 + x) = 63 ∧ t.gi R.bed_ROT_STAT_SPARE (b * 64) = 63
          ∧ (x < 32 → t.gi R.bed_SLICE_MAP_CH (b * 64 + 32) = x)))

/-- A lockstep mismatch stops its pair and leaves its record and its count in the retention SRAM: the active hub gives up
its token at the next orbit, the command pair loses its sessions, waiting commands and staged values, the tending pair the
boundary action that waits; a second one within 1 s, a watchdog expiry, a word of SRAM that cannot be corrected and a ROM
that no longer matches are watchdog resets (R394 to R398). A pair whose restart ends runs again and its log entry follows, with
the orbit and slot of the mismatch; the tending pair then writes the entries that have waited for it (R393, R399).
Corrected words are counted and the last one's address is kept (R397). -/
def Obligations.ProcessorFaults : Prop :=
  (∀ (pair : Nat) (s : State), s.Inv → ∃ t, exec (.lockstepMismatch pair) s = .next t
    ∧ (2 ≤ pair → t = s)
    ∧ (pair < 2 → t.cold = { s.cold with ret := t.cold.ret }
      ∧ (s.cold.ret.length = 256 → t.cold.retOk = true ∧ slice t.cold.ret 80 12 = le 1 pair ++ le 1 0
          ++ le 2 s.trellis.slot ++ le 6 s.trellis.orbit ++ le 2 (leAt s.cold.ret 90 2 + 1)))
    ∧ (pair < 2 → (∃ m, s.cpu.mismNs = some m ∧ s.nowNs < m + 1000000000) → wasReset 4 s t)
    ∧ (pair < 2 → (∀ m, s.cpu.mismNs = some m → m + 1000000000 ≤ s.nowNs) →
        t = { s with regs := t.regs, cold := t.cold, cpu := t.cpu, freeCtr := t.freeCtr, graft := t.graft
                     harvest := t.harvest, image := t.image, lanesH := t.lanesH, nvm := t.nvm, outbox := t.outbox
                     trellis := t.trellis, xspi := t.xspi, zcs := t.zcs }
        ∧ s.fieldsBut t (errFields ++ [R.cpu_MISMATCH_CMD, R.cpu_MISMATCH_TND, R.cpu_PAIR_STAT_CMD_RUN,
            R.cpu_PAIR_STAT_TND_RUN, R.xspi_SLV_CNT_RESP_LOST])
        ∧ (∃ es, t.cpu = { s.cpu with mismNs := some s.nowNs, restarting := setBit s.cpu.restarting pair
                                      found := s.cpu.found ++ [(pair, es)] }
          ∧ es.length = 1 ∧ (s.trellis.everLocked = true → ∀ e ∈ es, e.orbit = s.trellis.orbit ∧ e.slot = s.trellis.slot))
        ∧ (s.role = 1 → s.graft.releaseCause = 0 ∨ s.graft.releaseCause = 7 → t.graft.releaseCause = 1
            ∧ t.graft.releaseOrbit = some (s.trellis.orbit + 1))
        ∧ (s.role ≠ 1 → t.graft = s.graft)
        ∧ (pair = 0 → t.g R.cpu_PAIR_STAT_CMD_RUN = 0 ∧ t.g R.cpu_MISMATCH_CMD = cap 65535 (s.g R.cpu_MISMATCH_CMD + 1)
            ∧ t.zcs.sessions = [] ∧ t.zcs.queue = [] ∧ t.zcs.staged = [] ∧ t.zcs.action = none ∧ t.zcs.long = none
            ∧ t.trellis = { s.trellis with probe := t.trellis.probe } ∧ t.trellis.probe.calibApply = none
            ∧ t = { t with harvest := s.harvest, lanesH := s.lanesH, outbox := s.outbox })
        ∧ (pair = 1 → t.g R.cpu_PAIR_STAT_TND_RUN = 0 ∧ t.g R.cpu_MISMATCH_TND = cap 65535 (s.g R.cpu_MISMATCH_TND + 1)
            ∧ t.zcs = { s.zcs with sessions := t.zcs.sessions, action := none } ∧ t.trellis = s.trellis
            ∧ t.image = s.image ∧ t.nvm = s.nvm)))
  ∧ (∀ (pair : Nat) (s : State), s.Inv → ∃ t, exec (.pairRestartDone pair) s = .next t
    ∧ t = { s with regs := t.regs, cpu := t.cpu, freeCtr := t.freeCtr, hubQ := t.hubQ, xspi := t.xspi, zcs := t.zcs
                   outbox := t.outbox }
    ∧ s.fieldsBut t (errFields ++ [R.cpu_PAIR_STAT_CMD_RUN, R.cpu_PAIR_STAT_TND_RUN, R.xspi_SLV_CNT_RESP_LOST])
    ∧ (2 ≤ pair ∨ bitAt s.cpu.restarting pair = false → t = s)
    ∧ (pair < 2 → bitAt s.cpu.restarting pair = true → t.cpu.restarting = clrBit s.cpu.restarting pair
        ∧ t.entriesMade = s.entriesMade + ((s.cpu.found.filter fun x => x.1 == pair).flatMap (·.2)).length
        ∧ t.cpu.found = s.cpu.found.filter (fun x => x.1 != pair) ∧ (pair = 1 → t.cpu.waiting = [])
        ∧ t.g (if pair = 0 then R.cpu_PAIR_STAT_CMD_RUN else R.cpu_PAIR_STAT_TND_RUN) = 1))
  ∧ (∀ s : State, s.Inv → ∃ t, exec .watchdogExpiry s = .next t ∧ wasReset 4 s t ∧ t.cold = s.cold
      ∧ (s.writing = false → t.freeCtr = s.freeCtr))
  ∧ (∀ (corrected : List Nat) (fatal : Option Nat) (s : State), s.Inv → ∃ t,
      exec (.sramScrubPass corrected fatal) s = .next t
    ∧ (fatal = none → t = { s with regs := t.regs }
        ∧ s.regsBut t [(R.cpu_SRAM_CE_COUNT, 0), (R.cpu_SRAM_CE_ADDR_WORD, 0)]
        ∧ (corrected = [] → t = s)
        ∧ (∀ w, corrected.getLast? = some w →
            t.g R.cpu_SRAM_CE_COUNT = cap 65535 (s.g R.cpu_SRAM_CE_COUNT + corrected.length)
            ∧ t.g R.cpu_SRAM_CE_ADDR_WORD = w % 2 ^ R.cpu_SRAM_CE_ADDR_WORD.width))
    ∧ (∀ off, fatal = some off → wasReset 4 s t ∧ t.cold = { s.cold with ret := t.cold.ret }
        ∧ (s.cold.ret.length = 256 → t.cold.retOk = true
            ∧ slice t.cold.ret 96 8 = le 4 off ++ le 4 s.trellis.orbit)))
  ∧ (∀ (ok : Bool) (s : State), s.Inv → ∃ t, exec (.romRecheck ok) s = .next t
    ∧ (ok = true ∨ s.g R.cpu_PAIR_STAT_TND_RUN = 0 → t = s)
    ∧ (ok = false → s.g R.cpu_PAIR_STAT_TND_RUN = 1 → wasReset 4 s t ∧ t.cold = s.cold))

/-- RESET_N low for 10 µs resets the hub and holds it, for less than 1 µs does nothing, and in between does one or the
other; during an emergency save, and without power, it does nothing (R499). Its rise samples the strap of the serial port
and lets start-up run (R473, R498). A requested reset acts when it is due, a warm one of a hub that streams after its open
segments have closed; the reset after a TRIP_CLEAR starts the converter first (R463, R499, R502). -/
def Obligations.Resets : Prop :=
  (∀ (low : Nat) (s : State), s.Inv → ∃ t, exec (.resetNAssert low) s = .next t
    ∧ (low < 1000 → t = s)
    ∧ (s.power.unpowered = true ∨ s.power.saving.isSome = true → t = { s with freeCtr := t.freeCtr })
    ∧ (s.power.unpowered = false → s.power.saving = none → 1000 ≤ low →
        (t = { s with freeCtr := s.freeCtr + 1 } ∧ low < 10000)
        ∨ (wasReset 1 s t ∧ t.cold = s.cold ∧ t.boot.held = true))
    ∧ (s.power.unpowered = false → s.power.saving = none → 10000 ≤ low →
        wasReset 1 s t ∧ t.cold = s.cold ∧ t.boot.held = true))
  ∧ (∀ (strap : Bool) (s : State), s.Inv → ∃ t, exec (.resetNRelease strap) s = .next t
    ∧ t = { s with regs := t.regs, boot := { s.boot with held := false } } ∧ s.regsBut t [(R.xspi_CFG_MODE, 0)]
    ∧ (s.boot.held = false → t = s)
    ∧ (s.boot.held = true → t.g R.xspi_CFG_MODE = if strap then 0 else 1))
  ∧ (∀ s : State, s.Inv → ∃ t, exec .resetTakeEffect s = .next t
    ∧ (s.boot.restart = true → ∃ u, u = { s with regs := u.regs }
        ∧ s.regsBut u [(R.power_CONV_STAT_VINT_OK, 0), (R.power_CONV_STAT_VINT, 0)]
        ∧ u.g R.power_CONV_STAT_VINT_OK = 1 ∧ 4900 ≤ u.g R.power_CONV_STAT_VINT ∧ u.g R.power_CONV_STAT_VINT ≤ 5100
        ∧ wasReset 2 u t ∧ t.cold = s.cold)
    ∧ (s.boot.restart = false → s.boot.req = none → t = s)
    ∧ (∀ c o, s.boot.restart = false → s.boot.req = some (c, o) →
        (s.live = true → s.trellis.orbit < o → t = s)
        ∧ (s.live = false ∨ o ≤ s.trellis.orbit →
            wasReset c (if s.live && c == 3 then s.closeAll.writeDescriptors else s) t ∧ t.cold = s.cold)))

/-! ## Grafting -/

/-- The fields that follow a standby's eligibility (R418), with the interrupt of their page. -/
def eligFields : List Fld :=
  [R.graft_STAT_ELIGIBLE, R.hdr_IRQ_STAT_EVENT]

/-- The fields of the interlock outputs and excitation that a change of role or the safe state changes. -/
def outFields : List Fld :=
  [R.il_IL_STAT_CAUSE, R.il_IL_STAT_FAULT, R.il_IL_STAT_LIMIT, R.il_IL_STAT_OUT, R.slow_IX_STAT_COMPLY]

/-- The hub has released the token (R420, R421): it is a standby, its transmitters stop and its engines idle, and RELEASED
keeps it from taking the token back, but after a drill (cause 7); a release of R422 (cause 0) leaves CAUSE. -/
def released (cause : Nat) (s t : State) : Prop :=
  t = { s with cpu := t.cpu, engines := t.engines, freeCtr := t.freeCtr, furrows := t.furrows, graft := t.graft
               harvest := t.harvest, hdg := { s.hdg with grant := none }, hubQ := t.hubQ, lanesT := t.lanesT
               lanesH := t.lanesH, looks := [], outbox := t.outbox, power := t.power, regs := t.regs, slow := t.slow }
  ∧ s.fieldsBut t (eligFields ++ outFields ++ [R.graft_STAT_ROLE, R.graft_STAT_RELEASED, R.graft_STAT_DEAD_TIME,
      R.graft_STAT_CAUSE, R.graft_STAT_PEER_ELIGIBLE, R.graft_INELIG_RELEASED,
      R.graft_REL_LO_ORBIT_LO, R.graft_REL_HI_ORBIT_HI, R.graft_REL_HI_RELEASES, R.comp_CHUNK_FREE_FREE,
      R.comp_CHUNK_LOW_LOW, R.harv_LIT_LIT])
  ∧ t.g R.graft_STAT_ROLE = 2 ∧ t.g R.graft_STAT_RELEASED = 1 ∧ t.graft.highNs = some s.nowNs
  ∧ t.g R.graft_STAT_DEAD_TIME = 1 ∧ t.on R.graft_STAT_PEER_ELIGIBLE 0 = false
  ∧ t.g R.graft_STAT_CAUSE = (if cause = 0 then s.g R.graft_STAT_CAUSE else cause % 2 ^ R.graft_STAT_CAUSE.width)
  ∧ (cause ≠ 7 → t.g R.graft_INELIG_RELEASED = 1 ∧ t.on R.graft_STAT_ELIGIBLE 0 = false)
  ∧ t.g R.graft_REL_LO_ORBIT_LO = s.trellis.orbit % 2 ^ 32
  ∧ t.g R.graft_REL_HI_ORBIT_HI = s.trellis.orbit / 2 ^ 32 % 2 ^ 16
  ∧ t.g R.graft_REL_HI_RELEASES = (s.g R.graft_REL_HI_RELEASES + 1) % 2 ^ 16
  ∧ t.graft.releaseOrbit = none ∧ t.graft.lastRelease = some s.trellis.orbit ∧ t.graft.listening = false
  ∧ t.slow.roleOff = true ∧ (∀ e ∈ t.engines, e.comp = none ∧ e.ver = none ∧ e.copy = none)

/-- The active hub sends its sync frame once, in slot 0 of each interval's first orbit, but while it listens, and the standby
answers the frame of its interval (R411 to R413). A frame whose CRC fails is counted and one of another kind or length ignored; a
valid one in time and of this orbit shows the peer's EPOCH and SYNC_OK and calls off a takeover (R412 to R415). A release that is
due takes place, and a standby that sees it, eligible, takes the token at slot 0 of its orbit 2 or 3 later, one later still
beside an eligible standby of a lower HUB_ID, and not within 16 orbits of a release of its own; a hub that then hears another
active frame gives it up again (R420 to R423). CATCH_UP ends with
the last segment of the takeover, and its time is shown in µs (R426). -/
def Obligations.Grafting : Prop :=
  (∀ s : State, s.Inv → ∃ t, exec .graftSyncSend s = .next t
    ∧ t = { s with outbox := t.outbox, graft := { s.graft with entryPos := t.graft.entryPos, sentOrbit := t.graft.sentOrbit } }
    ∧ (s.role ≠ 1 ∨ s.graft.listening = true ∨ s.trellis.orbit % s.syncOrbits ≠ 0 ∨ s.trellis.slot ≠ 0
        ∨ s.graft.sentOrbit = some s.trellis.orbit → t = s)
    ∧ (s.role = 1 → s.graft.listening = false → s.trellis.orbit % s.syncOrbits = 0 → s.trellis.slot = 0 →
        s.graft.sentOrbit ≠ some s.trellis.orbit → t.graft.sentOrbit = some s.trellis.orbit ∧
        ∃ b, t.outbox = s.outbox ++ [.graft b (busLine b)] ∧ b.length = 24 + 8 * leAt b 11 1 ∧ leAt b 11 1 ≤ 8 ∧ leAt b 0 1 = 0xA1
          ∧ leAt b 1 1 = s.g R.graft_STAT_EPOCH % 256 ∧ leAt b 2 2 = s.g R.global_HUB_ID_ID % 2 ^ 16
          ∧ leAt b 4 6 = s.trellis.orbit % 2 ^ 48 ∧ leAt b 12 1 = s.g R.global_STATE_MODE % 256
          ∧ leAt b 16 4 = s.image.crc % 2 ^ 32 ∧ leAt b 20 4 = s.g R.global_COMMIT_LO_ORBIT_LO % 2 ^ 32))
  ∧ (∀ (b : List Byte) (crc : Word) (onTime : Bool) (s : State), s.Inv → ∃ t, exec (.graftSyncRx b crc onTime) s = .next t ∧
    let sync := leAt b 0 1 = 0xA1 ∧ b.length = 24 + 8 * leAt b 11 1
    (s.armed = false → t = s)
    ∧ (s.armed = true → crc32c b ≠ crc → t = { s with regs := t.regs } ∧ s.regsBut t [(R.graft_SYNC_ERR_CRC, 0)]
        ∧ t.g R.graft_SYNC_ERR_CRC = cap (2 ^ R.graft_SYNC_ERR_CRC.width - 1) (s.g R.graft_SYNC_ERR_CRC + 1))
    ∧ (crc32c b = crc → ¬ sync → t = s)
    ∧ (s.standby = false → crc32c b = crc → s.role ≠ 1 ∨ s.graft.listening = false → t = s)
    ∧ (s.armed = true → crc32c b = crc → sync → s.role = 1 → s.graft.listening = true → released 0 s t)
    ∧ (s.armed = true → s.standby = true → crc32c b = crc → sync →
        t = { s with cpu := t.cpu, freeCtr := t.freeCtr, furrows := t.furrows, graft := t.graft, hubQ := t.hubQ
                     regs := t.regs, slow := t.slow, trellis := { s.trellis with orbit := t.trellis.orbit } }
        ∧ s.fieldsBut t (eligFields ++ outFields ++ [R.graft_SEQ_FIX_COUNT, R.graft_STAT_DEAD_TIME, R.graft_STAT_EPOCH,
            R.graft_STAT_SEQ_AGREE, R.graft_STAT_SYNC_OK, R.il_SAFE_STAT_LATCH]) ∧
        (s.embedded = false → s.on R.trellis_TSTAT_ORBIT_LOCK 0 = true → s.graft.orbitLoaded = false →
          t.trellis.orbit = leAt b 4 6 ∧ t.graft.orbitLoaded = true)
        ∧ (s.embedded = true ∨ s.on R.trellis_TSTAT_ORBIT_LOCK 0 = false ∨ s.graft.orbitLoaded = true →
          t.trellis.orbit = s.trellis.orbit ∧ (onTime = false ∨ leAt b 4 6 ≠ s.trellis.orbit → t = s))
        ∧ (onTime = true → t.trellis.orbit = leAt b 4 6 →
          t.graft.heardNow = true ∧ t.graft.standbyInts = 0 ∧ t.graft.peerEpoch = some (leAt b 1 1)
          ∧ t.graft.answer = some (leAt b 4 6) ∧ t.graft.takeAt = none
          ∧ t.graft.peerCfg = some (leAt b 16 4, leAt b 12 1, leAt b 20 4)
          ∧ t.g R.graft_STAT_EPOCH = leAt b 1 1 ∧ t.g R.graft_STAT_SYNC_OK = 1
          ∧ t.g R.graft_STAT_DEAD_TIME = 0 ∧ (bitAt (leAt b 10 1) 1 = true → t.on R.il_SAFE_STAT_LATCH 0 = true))))
  ∧ (∀ s : State, s.Inv → ∃ t, exec .graftReplySend s = .next t
    ∧ (s.standby = false ∨ s.graft.answer = none → t = s)
    ∧ (∀ o, s.standby = true → s.graft.answer = some o →
        t = { s with outbox := t.outbox, graft := { s.graft with answer := none } }
        ∧ ∃ b, t.outbox = s.outbox ++ [.graft b (busLine b)] ∧ b.length = 16 ∧ leAt b 0 1 = 0xA2
          ∧ leAt b 1 1 = s.g R.graft_STAT_EPOCH % 256 ∧ leAt b 2 2 = s.g R.global_HUB_ID_ID % 2 ^ 16
          ∧ leAt b 4 6 = o % 2 ^ 48))
  ∧ (∀ (b : List Byte) (crc : Word) (s : State), s.Inv → ∃ t, exec (.graftReplyRx b crc) s = .next t ∧
    t = { s with cpu := t.cpu, freeCtr := t.freeCtr, hubQ := t.hubQ, regs := t.regs
                 graft := { s.graft with replySeen := t.graft.replySeen, replyMiss := t.graft.replyMiss } }
    ∧ s.regsBut t [(R.graft_SYNC_ERR_CRC, 0), (R.graft_STAT_PEER_ELIGIBLE, 0), (R.hdr_IRQ_STAT_EVENT, 0x006)]
    ∧ (s.role ≠ 1 → t = s)
    ∧ (s.role = 1 → crc32c b ≠ crc → t = { s with regs := t.regs }
        ∧ t.g R.graft_SYNC_ERR_CRC = cap (2 ^ R.graft_SYNC_ERR_CRC.width - 1) (s.g R.graft_SYNC_ERR_CRC + 1))
    ∧ (crc32c b = crc → leAt b 0 1 ≠ 0xA2 ∨ b.length ≠ 16 → t = s)
    ∧ (s.role = 1 → crc32c b = crc → leAt b 0 1 = 0xA2 → b.length = 16 → t.graft.replySeen = true ∧ t.graft.replyMiss = 0
        ∧ t.on R.graft_STAT_PEER_ELIGIBLE 0 = bitAt (leAt b 10 1) 0
        ∧ t.g R.graft_SYNC_ERR_CRC = s.g R.graft_SYNC_ERR_CRC))
  ∧ (∀ s : State, s.Inv → ∃ t, exec .graftRelease s = .next t
    ∧ (s.graft.releaseOrbit = none → t = s)
    ∧ (∀ o, s.graft.releaseOrbit = some o →
        (s.role ≠ 1 ∨ s.trellis.orbit < o → t = s)
        ∧ (s.role = 1 → o ≤ s.trellis.orbit → released s.graft.releaseCause s t)))
  ∧ (∀ (early peer : Bool) (s : State), s.Inv → ∃ t, exec (.graftTokenSeenReleased ⟨early, peer⟩) s = .next t
    ∧ t = { s with cpu := t.cpu, freeCtr := t.freeCtr, hubQ := t.hubQ, regs := t.regs
                   graft := { s.graft with highNs := t.graft.highNs, takeAt := t.graft.takeAt } }
    ∧ s.fieldsBut t (R.graft_STAT_DEAD_TIME :: eligFields)
    ∧ (s.standby = false ∨ s.graft.lineLow = true → t = s)
    ∧ (s.standby = true → s.graft.lineLow = false → t.tokenFree = true ∧ t.g R.graft_STAT_DEAD_TIME = 1
        ∧ (s.eligible = false → t.graft.takeAt = s.graft.takeAt)
        ∧ (s.eligible = true → t.graft.takeAt = some (max (match s.graft.lastRelease with
              | some r => r + 16
              | none => 0) (s.trellis.orbit + (if early then 2 else 3)
            + (if peer = true ∧ s.g R.graft_CFG_PEER_ID < s.g R.global_HUB_ID_ID then 1 else 0))))))
  ∧ (∀ s : State, s.Inv → ∃ t, exec .graftTakeover s = .next t
    ∧ t = { s with cpu := t.cpu, freeCtr := t.freeCtr, furrows := t.furrows, graft := t.graft, harvest := t.harvest
                   hubQ := t.hubQ, lanesT := t.lanesT, lanesH := t.lanesH, mem := t.mem, outbox := t.outbox
                   power := t.power, regs := t.regs, slow := t.slow }
    ∧ s.fieldsBut t (eligFields ++ outFields ++ [R.graft_STAT_ROLE, R.graft_STAT_EPOCH, R.graft_STAT_DEAD_TIME,
        R.graft_STAT_CATCH_UP, R.graft_REPLAYED_COUNT, R.graft_TAKE_LO_ORBIT_LO, R.graft_TAKE_HI_ORBIT_HI,
        R.graft_TAKE_HI_TAKEOVERS, R.harv_BACKLOG_MAX_BYTES, R.harv_LIT_LIT])
    ∧ (s.graft.takeAt ≠ some s.trellis.orbit ∨ s.trellis.slot ≠ 0 ∨ s.trellis.ran = true ∨ s.standby = false
        ∨ s.eligible = false ∨ s.tokenFree = false → t = s)
    ∧ (s.graft.takeAt = some s.trellis.orbit → s.trellis.slot = 0 → s.trellis.ran = false → s.standby = true →
        s.eligible = true → s.tokenFree = true →
        t.g R.graft_STAT_ROLE = 1 ∧ t.tokenFree = false ∧ t.g R.graft_STAT_DEAD_TIME = 0
        ∧ t.g R.graft_STAT_EPOCH = (s.graft.peerEpoch.getD (s.g R.graft_STAT_EPOCH) + 1) % 256
        ∧ t.g R.graft_TAKE_LO_ORBIT_LO = s.trellis.orbit % 2 ^ 32
        ∧ t.g R.graft_TAKE_HI_ORBIT_HI = s.trellis.orbit / 2 ^ 32 % 2 ^ 16
        ∧ t.g R.graft_TAKE_HI_TAKEOVERS = (s.g R.graft_TAKE_HI_TAKEOVERS + 1) % 2 ^ 16
        ∧ (t.g R.graft_STAT_CATCH_UP = 1 ∨ t.g R.graft_REPLAYED_COUNT = 0)
        ∧ t.graft.takeAt = none ∧ t.graft.listening = true ∧ t.graft.takeNs = s.nowNs))
  ∧ (∀ (heard : Bool) (s : State), s.Inv → ∃ t, exec (.graftListenEnd heard) s = .next t
    ∧ (s.role ≠ 1 ∨ s.graft.listening = false → t = s)
    ∧ (s.role = 1 → s.graft.listening = true →
        (heard = false → t = { s with graft := { s.graft with listening := false } })
        ∧ (heard = true → released 0 s t)))
  ∧ (∀ s : State, s.Inv → ∃ t, exec .catchUpDone s = .next t
    ∧ t = { s with regs := t.regs } ∧ s.regsBut t [(R.graft_STAT_CATCH_UP, 0), (R.graft_CATCH_US_US, 0)]
    ∧ (s.on R.graft_STAT_CATCH_UP 0 = false ∨ s.epochWaiting = true → t = s)
    ∧ (s.on R.graft_STAT_CATCH_UP 0 = true → s.epochWaiting = false → t.g R.graft_STAT_CATCH_UP = 0
        ∧ (s.nowNs - s.graft.takeNs < 4 * 10 ^ 12 → (s.nowNs - s.graft.takeNs) / 1000 ≤ t.g R.graft_CATCH_US_US
            ∧ t.g R.graft_CATCH_US_US ≤ (s.nowNs - s.graft.takeNs) / 1000 + 1)))

/-! ## Tending -/

/-- The tending pair re-plans once at each frame boundary whose frame number is a multiple of 65,536 (R434): the plan
keeps to the ranges of R437 and applies 50 ms later at the earliest (R435), the snapshot leads the sixteen kept and goes to
the TENDING furrow as a TYPE 1 record (R440), REPLAN_COUNT counts, and BOUND_HIT clears. A trim reload that has rewritten
all its slices, or its block, is counted, and no other; its latches then hold the SRAM copy (R445 to R447). -/
def Obligations.Tending : Prop :=
  (∀ s : State, s.Inv → ∃ t, exec .tendingReplan s = .next t
    ∧ t = { s with cold := { s.cold with ret := t.cold.ret }, freeCtr := t.freeCtr, hubQ := t.hubQ, nvm := t.nvm
                   regs := t.regs, tend := t.tend }
    ∧ s.fieldsBut t [R.lane_LANE_STAT_BOUND_HIT, R.tending_AVS_AVS_LIMIT, R.tending_REPLAN_COUNT]
    ∧ (s.tndRuns = false ∨ s.trellis.everLocked = false ∨ s.trellis.mNow = 0
        ∨ s.trellis.mNow ≠ s.g R.trellis_MFRAME_MF_ORBITS
        ∨ s.trellis.orbit % (65536 * s.trellis.mNow) ≠ 0 ∨ s.tend.lastOrbit = some s.trellis.orbit → t = s)
    ∧ (s.tndRuns = true → s.trellis.everLocked = true → s.trellis.mNow ≠ 0 →
        s.trellis.mNow = s.g R.trellis_MFRAME_MF_ORBITS →
        s.trellis.orbit % (65536 * s.trellis.mNow) = 0 → s.tend.lastOrbit ≠ some s.trellis.orbit →
        t.g R.tending_REPLAN_COUNT = (s.g R.tending_REPLAN_COUNT + 1) % 2 ^ 16
        ∧ (∀ l, l < 34 → t.gi R.lane_LANE_STAT_BOUND_HIT l = 0)
        ∧ t.tend.lastOrbit = some s.trellis.orbit ∧ t.tend.planNs = some (s.nowNs + 50000000) ∧ t.tend.count = 0
        ∧ (∃ b, t.tend.snaps = (b :: s.tend.snaps).take 16 ∧ leAt b 0 6 = s.trellis.orbit % 2 ^ 48 ∧ leAt b 6 1 = 1
            ∧ (s.intake = true → t.hubQ = s.hubQ ++ [⟨3, b⟩]))
        ∧ (∀ l v, (0, l, v) ∈ t.tend.plan → (s.monNow.margins = [] → v = s.g R.tending_AVS_TARGET)
            ∧ (s.monNow.margins ≠ [] → v ≤ 80))
        ∧ (∀ l v, (4, l, v) ∈ t.tend.plan → 4 ≤ v ∧ v ≤ 24)
        ∧ (∀ l v, (5, l, v) ∈ t.tend.plan → v = max 64 (s.gi R.lane_RETRAIN_INTERVAL l / 2)
            ∨ v = min 4096 (2 * s.gi R.lane_RETRAIN_INTERVAL l))
        ∧ (∀ l v, (6, l, v) ∈ t.tend.plan → 1 ≤ v ∧ s.retrainMin ≤ v ∧ v ≤ max 1024 s.retrainMin)))
  ∧ (∀ (block : Nat) (s : State), s.Inv → ∃ t, exec (.trimReloadDone block) s = .next t
    ∧ t = { s with beds := t.beds, regs := t.regs, tend := { s.tend with ended := t.tend.ended, latches := t.tend.latches } }
    ∧ s.regsBut t [(R.tending_TRIM_FIX_RELOADS, 0), (R.tending_STAT_RELOAD_BUSY, 0), (R.tending_STAT_RELOAD_BED, 0)]
    ∧ (∀ b, b ≠ block → t.bedOf b = s.bedOf b)
    ∧ (block < 24 → ((∃ n f, (s.bedOf block).reload = .covered n f ∧ 33 ≤ n)
          ∨ ∃ f, (s.bedOf block).reload = .uncovered 0 f) →
        t.bedOf block = { s.bedOf block with reload := .none } ∧ t.tend = { s.tend with latches := t.tend.latches }
        ∧ (block < s.tend.latches.length → t.trimGood block = true)
        ∧ t.g R.tending_TRIM_FIX_RELOADS = cap 65535 (s.g R.tending_TRIM_FIX_RELOADS + 1))
    ∧ (block < 24 → ((∃ n f, (s.bedOf block).reload = .covered n f ∧ n < 33) ∨ (s.bedOf block).reload = .none
          ∨ (∃ f, (s.bedOf block).reload = .waiting f) ∨ ∃ n f, (s.bedOf block).reload = .uncovered (n + 1) f) → t = s)
    ∧ (24 ≤ block → block ∈ s.tend.ended → t.beds = s.beds ∧ t.tend.ended = s.tend.ended.erase block
        ∧ t.g R.tending_TRIM_FIX_RELOADS = cap 65535 (s.g R.tending_TRIM_FIX_RELOADS + 1))
    ∧ (24 ≤ block → block ∉ s.tend.ended → t = s))

/-! ## Power -/

/-- PD_REQ asks that a domain it clears keeps on while the hub streams and uses it (R459). -/
def keepsOn (s : State) (w : Word) (d : Nat) : Bool :=
  !w.getLsbD d && decide (3 < d) && s.streaming && bitAt (s.g R.power_PD_REQ_ON) d && s.domainsUsed.contains d

/-- The power trip has acted (R461, R462): its latch and the converter's are set, VINT is gone, PD04 to PD23 are off, and
the record of the event waits to be saved, but in a hub that a power failure holds in reset (log entry 73). A write of the field
store under way is aborted, and its transfer sector is erased (R403). -/
def tripped (typ : Nat) (s t : State) : Prop :=
  t.g R.trip_PTRIP_STAT_LATCH = 1 ∧ t.g R.power_CONV_STAT_LATCHED = 1 ∧ t.g R.power_CONV_STAT_VINT_OK = 0
  ∧ t.g R.power_CONV_STAT_VINT = 0 ∧ (∀ d, 4 ≤ d → d < 24 → t.pd d = false)
  ∧ (s.power.pfail = false → ∃ r, t.power.saving = some r ∧ leAt r 0 1 = typ)
  ∧ (s.power.pfail = true → t.power.saving = s.power.saving) ∧ t.pending = s.pending ∧ t.nowNs = s.nowNs
  ∧ (s.writing = false → t.nvm.sectors = s.nvm.sectors)

/-- Both inputs are reported in 20 mV, and the higher feeds (R449). A write of PD_REQ asks for its domains at the next orbit
boundary, and keeps PD00 to PD03 and, while streaming, those in use, with an error (R459). Starts are admitted one by one
within the rails' charge budgets (R457); a ramp that ends in regulation turns its domain on, and one that does not, like
a rail fault, turns off the domains of the rail and records them in PD_FAULT (R457, R460). -/
def Obligations.PowerDomains : Prop :=
  (∀ (w : Word) (s : State), s.Inv → ∃ t, exec (.pdReqWrite w) s = .next t
    ∧ (s.pd 1 = false → t = s)
    ∧ (s.pd 1 = true →
        (∀ d, d < 4 → bitAt (t.g R.power_PD_REQ_ON) d = true)
        ∧ (∀ d, 4 ≤ d → d < 24 → bitAt (t.g R.power_PD_REQ_ON) d = (w.getLsbD d || keepsOn s w d))
        ∧ (w.toNat % 16 = 15 → (∀ d, d < 24 → keepsOn s w d = false) → s.trellis.everLocked = true →
            t = { s with regs := t.regs, power := { s.power with reqDue := true } }
            ∧ s.regsBut t [(R.power_PD_REQ_ON, 0)])
        ∧ (s.trellis.everLocked = true →
            t = { s with regs := t.regs, power := { s.power with reqDue := true } }
            ∧ s.regsBut t ([(R.power_PD_REQ_ON, 0)] ++ errFields.map (fun f => (f, 0x003))))
        ∧ (s.trellis.everLocked = true → (∃ d, d < 24 ∧ keepsOn s w d = true) →
            t.gi R.hdr_ERR_CAPT_CAUSE 0x003 = 2 ∧ t.gi R.hdr_ERR_CAPT_WHAT 0x003 = 0x060)
        ∧ (s.trellis.everLocked = true → w.toNat % 16 ≠ 15 → (∀ d, d < 24 → keepsOn s w d = false) →
            t.gi R.hdr_ERR_CAPT_CAUSE 0x003 = 1 ∧ t.gi R.hdr_ERR_CAPT_WHAT 0x003 = 0x060)
        ∧ (s.trellis.everLocked = false → t.power.reqDue = false
            ∧ ∀ d, 4 ≤ d → d < 24 → bitAt (t.g R.power_PD_REQ_ON) d = false → t.pd d = false)))
  ∧ (∀ (a b : Nat) (s : State), s.Inv → ∃ t, exec (.vinChange a b) s = .next t
    ∧ t = { s with regs := t.regs, freeCtr := t.freeCtr }
    ∧ s.regsBut t [(R.power_VIN_STAT_VIN_A, 0), (R.power_VIN_STAT_VIN_B, 0), (R.power_VIN_STAT_A_FEEDS, 0),
        (R.power_VIN_STAT_B_FEEDS, 0)]
    ∧ t.g R.power_VIN_STAT_VIN_A = cap 4095 (a / 20) ∧ t.g R.power_VIN_STAT_VIN_B = cap 4095 (b / 20)
    ∧ (b < a → t.g R.power_VIN_STAT_A_FEEDS = 1 ∧ t.g R.power_VIN_STAT_B_FEEDS = 0)
    ∧ (a < b → t.g R.power_VIN_STAT_A_FEEDS = 0 ∧ t.g R.power_VIN_STAT_B_FEEDS = 1)
    ∧ (a = b → t.g R.power_VIN_STAT_A_FEEDS + t.g R.power_VIN_STAT_B_FEEDS = if a = 0 then 0 else 1))
  ∧ (∀ (r : Nat) (s : State), s.Inv → ∃ t, exec (.railFault r) s = .next t
    ∧ (12 ≤ r → t = s)
    ∧ (r < 12 → s.role ≠ 1 → s.pd 2 = false ∨ r ≠ 1 → (∀ x ∈ s.power.ramping, x.1 ≠ 2 ∨ r ≠ 1) →
        bitAt (t.g R.power_RAIL_FAULT_RAIL) r = true
        ∧ (∀ d, d < 24 → t.pd d = (s.pd d && !(railFeeds r).contains d))
        ∧ (∀ d, d < 24 → bitAt (t.g R.power_PD_FAULT_FAULT) d = (bitAt (s.g R.power_PD_FAULT_FAULT) d
            || ((railFeeds r).contains d && (s.pd d || s.power.ramping.any (·.1 == d))))))
    ∧ (r < 12 → s.role = 1 → (∃ d ∈ railFeeds r, s.pd d = true) → t.g R.global_RESET_CAUSE_KIND = 5)
    ∧ (s.role ≠ 1 → s.pd 2 = true → r = 1 → t.g R.global_RESET_CAUSE_KIND = 4))
  ∧ (∀ s : State, s.Inv → ∃ t, exec .pdStartAdmit s = .next t
    ∧ t = { s with regs := t.regs, power := { s.power with ramping := t.power.ramping } }
    ∧ s.regsBut t [(R.power_PD_WAIT_WAIT, 0)]
    ∧ (s.nextStart = none → t = s)
    ∧ (∀ d, s.nextStart = some d → 4 ≤ d → s.on R.power_CONV_STAT_VINT_OK 0 = false → t = s)
    ∧ (∀ d, s.nextStart = some d → d < 4 ∨ s.on R.power_CONV_STAT_VINT_OK 0 = true →
        bitAt (s.g R.power_PD_WAIT_WAIT) d = true ∧ bitAt (t.g R.power_PD_WAIT_WAIT) d = false
        ∧ t.power.ramping = s.power.ramping ++ [(d, s.nowNs)]
        ∧ ∀ c ∈ inrush d, s.charging c.1 + c.2 ≤ railBudget c.1))
  ∧ (∀ (d : Nat) (ok : Bool) (s : State), s.Inv → ∃ t, exec (.pdRampEnd d ok) s = .next t
    ∧ ((∀ x ∈ s.power.ramping, x.1 ≠ d) → t = s)
    ∧ (ok = true → t = { s with beds := t.beds, regs := t.regs, slow := t.slow
                                power := { s.power with ramping := t.power.ramping } }
        ∧ (∀ b, t.bedOf b = s.bedOf b ∨ (4 ≤ d ∧ b / 4 = d - 4 ∧ t.bedOf b = { s.bedOf b with since := s.trellis.tick }))
        ∧ s.regsBut t [(R.global_PD_STAT_ON, 0), (R.power_START_MAX_US, 0)]
        ∧ (d < 24 → (∃ x ∈ s.power.ramping, x.1 = d) → t.pd d = true
            ∧ t.power.ramping = s.power.ramping.filter (·.1 != d)))
    ∧ (ok = false → 4 ≤ d → d < 24 → s.role ≠ 1 → (∃ x ∈ s.power.ramping, x.1 = d) →
        t.pd d = false ∧ bitAt (t.g R.power_PD_FAULT_FAULT) d = true))

/-- A low of 200 ns on PTRIP_N sets its cause and the trip latch, one under 50 ns does not, and in between either happens;
an internal fault of the converter does the same under its own cause (R461, R462). A trip that finds the latch set leaves
the domains. The pin's rise is timed for TRIP_CLEAR (R463). -/
def Obligations.PowerTrip : Prop :=
  (∀ (low : Nat) (inDead : Bool) (s : State), s.Inv → ∃ t, exec (.ptripNAssert low inDead) s = .next t
    ∧ t.g R.trip_PTRIP_STAT_PIN = 0
    ∧ (low < 50 ∨ s.power.unpowered = true → t = { s with regs := t.regs, freeCtr := t.freeCtr }
        ∧ s.regsBut t [(R.trip_PTRIP_STAT_PIN, 0)])
    ∧ (s.power.unpowered = false → 50 ≤ low →
        (low < 200 ∧ t = { s with regs := t.regs, freeCtr := t.freeCtr } ∧ s.regsBut t [(R.trip_PTRIP_STAT_PIN, 0)])
        ∨ (t.g R.trip_CAUSE_PTRIP = 1 ∧ t.on R.trip_PTRIP_STAT_LATCH 0 = true
          ∧ (s.on R.trip_PTRIP_STAT_LATCH 0 = false → tripped 2 s t)
          ∧ (s.on R.trip_PTRIP_STAT_LATCH 0 = true → t = { s with regs := t.regs, freeCtr := t.freeCtr }
            ∧ s.regsBut t [(R.trip_PTRIP_STAT_PIN, 0), (R.trip_PTRIP_STAT_EDGES, 0), (R.trip_PTRIP_STAT_IN_DEAD, 0),
                (R.trip_CAUSE_PTRIP, 0), (R.hdr_IRQ_STAT_EVENT, 0x005)]
            ∧ t.g R.trip_PTRIP_STAT_EDGES = cap 255 (s.g R.trip_PTRIP_STAT_EDGES + 1)
            ∧ t.g R.trip_PTRIP_STAT_IN_DEAD = if inDead then 1 else 0))))
  ∧ (∀ (cause : Nat) (s : State), s.Inv → ∃ t, exec (.converterTrip cause) s = .next t
    ∧ (s.power.unpowered = true ∨ cause = 0 ∨ 3 < cause → t = s)
    ∧ (s.power.unpowered = false → 1 ≤ cause → cause ≤ 3 →
        t.g (if cause = 1 then R.trip_CAUSE_VINT_OV else if cause = 2 then R.trip_CAUSE_PHASE_OC else R.trip_CAUSE_OVERTEMP)
          = 1
        ∧ t.on R.trip_PTRIP_STAT_LATCH 0 = true
        ∧ (s.on R.trip_PTRIP_STAT_LATCH 0 = false → tripped 3 s t)
        ∧ (s.on R.trip_PTRIP_STAT_LATCH 0 = true → t = { s with regs := t.regs }
            ∧ s.regsBut t [(R.trip_PTRIP_STAT_EDGES, 0), (R.trip_PTRIP_STAT_IN_DEAD, 0), (R.trip_CAUSE_VINT_OV, 0),
                (R.trip_CAUSE_PHASE_OC, 0), (R.trip_CAUSE_OVERTEMP, 0), (R.hdr_IRQ_STAT_EVENT, 0x005)])))
  ∧ (∀ s : State, s.Inv → ∃ t, exec .ptripNRelease s = .next t
    ∧ t = { s with regs := t.regs, power := { s.power with ptripHigh := t.power.ptripHigh } }
    ∧ s.regsBut t [(R.trip_PTRIP_STAT_PIN, 0)]
    ∧ (s.on R.trip_PTRIP_STAT_PIN 0 = true → t = s)
    ∧ (s.on R.trip_PTRIP_STAT_PIN 0 = false → t.g R.trip_PTRIP_STAT_PIN = 1 ∧ t.power.ptripHigh = s.nowNs))

/-- VHOLD below the threshold of PFAIL_CFG records the event, starts the emergency save and holds everything else in reset,
with PD04 to PD23 off (R464, R465); the save stores the record in the next of its 16 sectors and reserves another, or its
sector fails, is retired and the failure is kept for the next start (R403, R405). Power that comes back restarts the hub as
from power-on, and power lost leaves the cold frame and the field store (R464), a save under way without its record. The cold
frame runs from VINT while that is in regulation and from VBAT after it; VBAT is measured on main, VBAT_LOW tells one below
2.2 V, and the counter is set from the wall clock when that has stepped or synchronised (R467). -/
def Obligations.PowerFailureAndColdFrame : Prop :=
  (∀ (vhold : Nat) (s : State), s.Inv → ∃ t, exec (.pfailDetect vhold) s = .next t
    ∧ (s.power.pfail = true ∨ s.power.unpowered = true ∨ 10 * s.g R.power_PFAIL_CFG_THRESH ≤ vhold → t = s)
    ∧ (s.power.pfail = false → s.power.unpowered = false → vhold < 10 * s.g R.power_PFAIL_CFG_THRESH →
        t.g R.power_VIN_STAT_PFAIL = 1 ∧ t.gi R.hdr_IRQ_STAT_EVENT 0x003 = 1 ∧ t.power.pfail = true
        ∧ t.power.ramping = [] ∧ t.g R.power_PD_WAIT_WAIT = 0
        ∧ (∀ d, 4 ≤ d → d < 24 → t.pd d = false) ∧ (∀ d, d < 4 → t.pd d = s.pd d)
        ∧ (∃ r, t.power.saving = some r ∧ leAt r 0 1 = 1 ∧ leAt r 26 2 = vhold % 2 ^ 16)
        ∧ t.zcs.sessions = [] ∧ t.zcs.queue = [] ∧ t.g R.cpu_PAIR_STAT_CMD_RUN = 0 ∧ t.g R.cpu_PAIR_STAT_TND_RUN = 0
        ∧ t.g R.global_STATE_STATE = 0 ∧ t.boot.step = 2 ∧ t.nvm.ops = [] ∧ t.mem.cells = [] ∧ t.furrows = []
        ∧ t.g R.global_RESET_CAUSE_KIND = s.g R.global_RESET_CAUSE_KIND % 2 ^ R.global_RESET_CAUSE_KIND.width
        ∧ t.role ≠ 1 ∧ t.pending = s.pending ∧ t.nowNs = s.nowNs))
  ∧ (∀ (ok : Bool) (s : State), s.Inv → ∃ t, exec (.emergencySaveDone ok) s = .next t
    ∧ t = { s with cold := { s.cold with saveFailed := t.cold.saveFailed }, cpu := t.cpu, freeCtr := t.freeCtr
                   hubQ := t.hubQ, nvm := t.nvm, power := { s.power with saving := none }, regs := t.regs }
    ∧ s.fieldsBut t [R.hdr_IRQ_STAT_EVENT, R.nvm_RETIRED_COUNT, R.nvm_SEC_ERASES_COUNT, R.nvm_SEC_STAT_LAST_PULSES,
        R.nvm_SEC_STAT_LOGICAL, R.nvm_SEC_STAT_STATE, R.nvm_STORE_STAT_AGE_RAM, R.nvm_STORE_STAT_AGE_SECT,
        R.nvm_STORE_STAT_DECIM, R.nvm_STORE_STAT_FREE, R.nvm_STORE_STAT_WORN, R.nvm_WRITES_COUNT]
    ∧ (s.power.saving = none → t = s)
    ∧ (s.power.saving.isSome = true → s.pd 3 = false ∨ 544 ≤ s.nvm.save →
        t = { s with cold := { s.cold with saveFailed := true }, power := { s.power with saving := none } })
    ∧ (s.power.saving.isSome = true → ok = false → s.pd 3 = true → s.nvm.save < 544 →
        t.cold.saveFailed = true ∧ t.secState s.nvm.save = 3 ∧ t.gi R.hdr_IRQ_STAT_EVENT 0x009 = 1)
    ∧ (∀ r, s.power.saving = some r → ok = true → s.pd 3 = true → s.nvm.save < 544 →
        t.cold = s.cold ∧ t.nvm.peNext = (s.nvm.peNext + 1) % 16
        ∧ t.g R.nvm_WRITES_COUNT = (s.g R.nvm_WRITES_COUNT + 1) % 2 ^ R.nvm_WRITES_COUNT.width
        ∧ (s.secState s.nvm.save = 2 → s.nvm.peNext < 16 → (∀ l ∈ s.nvm.age, l < 496) →
            (t.sectorAt s.nvm.save).data = r ∧ (t.sectorAt s.nvm.save).ok = true ∧ t.secState s.nvm.save = 0
            ∧ t.gi R.nvm_SEC_STAT_LOGICAL s.nvm.save = 496 + s.nvm.peNext)))
  ∧ (∀ s : State, s.Inv → ∃ t, exec .powerRestore s = .next t
    ∧ ((s.power.pfail = true ∧ s.power.saving = none) ∨ s.power.unpowered = true → wasReset 0 s t ∧ t.cold = s.cold)
    ∧ ((s.power.pfail = false ∨ s.power.saving.isSome = true) → s.power.unpowered = false → t = s))
  ∧ (∀ s : State, s.Inv → ∃ t, exec .powerLoss s = .next t
    ∧ (s.power.unpowered = true → t = s)
    ∧ (s.power.unpowered = false → ∃ v u,
        v = { s with cold := { s.cold with saveFailed := s.cold.saveFailed || s.power.saving.isSome }
                     freeCtr := v.freeCtr, nvm := { s.nvm with sectors := v.nvm.sectors, save := v.nvm.save }
                     power := { s.power with saving := none }, regs := v.regs }
        ∧ s.fieldsBut v storeFields ∧ (s.power.saving = none → v = s)
        ∧ wasReset 0 v u ∧ u.cold = v.cold
        ∧ t = { u with regs := t.regs, power := { u.power with unpowered := true } }
        ∧ u.regsBut t [(R.global_PD_STAT_ON, 0), (R.coldframe_CF_STAT_ON_MAIN, 0)]
        ∧ t.g R.global_PD_STAT_ON = 1 ∧ t.g R.coldframe_CF_STAT_ON_MAIN = 0))
  ∧ (∀ s : State, s.Inv → ∃ t, exec .coldframeToMain s = .next t
    ∧ t = { s with regs := t.regs } ∧ s.regsBut t [(R.coldframe_CF_STAT_ON_MAIN, 0)]
    ∧ t.g R.coldframe_CF_STAT_ON_MAIN = (if s.on R.power_CONV_STAT_VINT_OK 0 then 1 else s.g R.coldframe_CF_STAT_ON_MAIN))
  ∧ (∀ s : State, s.Inv → ∃ t, exec .coldframeToVbat s = .next t
    ∧ t = { s with regs := t.regs } ∧ s.regsBut t [(R.coldframe_CF_STAT_ON_MAIN, 0)]
    ∧ t.g R.coldframe_CF_STAT_ON_MAIN = (if s.on R.power_CONV_STAT_VINT_OK 0 then s.g R.coldframe_CF_STAT_ON_MAIN else 0))
  ∧ (∀ (mv : Nat) (s : State), s.Inv → ∃ t, exec (.vbatLow mv) s = .next t
    ∧ t = { s with regs := t.regs } ∧ s.regsBut t [(R.coldframe_VBAT_MV, 0), (R.coldframe_CF_STAT_VBAT_LOW, 0)]
    ∧ t.g R.coldframe_CF_STAT_VBAT_LOW = (if mv < 2200 then 1 else 0)
    ∧ t.g R.coldframe_VBAT_MV
      = (if s.on R.coldframe_CF_STAT_ON_MAIN 0 then cap 4095 mv else s.g R.coldframe_VBAT_MV))
  ∧ (∀ s : State, s.Inv → ∃ t, exec .coldframeTimeSet s = .next t
    ∧ t = { s with regs := t.regs, cold := t.cold, wall := { s.wall with setCold := false } }
    ∧ s.regsBut t [(R.coldframe_CF_STAT_TIME_VALID, 0)]
    ∧ (s.wall.setCold = false → t = s)
    ∧ (s.wall.setCold = true → t.g R.coldframe_CF_STAT_TIME_VALID = 1
        ∧ t.cold = { s.cold with sec := s.wall.sec, sub := s.wall.ns * 32768 / 10 ^ 9, baseNs := s.nowNs }))

/-! ## Start-up -/

/-- Step `n` of start-up may run: the step before it is complete, RESET_N is high, the hub is powered and no power failure holds
it in reset (R464), and from step 9 on HREF is present (R489, R490). -/
def mayRun (s : State) (n : Nat) : Prop :=
  s.boot.step = n - 1 ∧ s.boot.held = false ∧ s.power.pfail = false ∧ s.power.unpowered = false
  ∧ (9 ≤ n → s.on R.clocks_REF_STAT_HREF 0 = true)

/-- Step `n` is complete, and the last log entry says so; while the tending pair does not run yet, it waits for it (R393, R489,
R525). -/
def stepEnds (n : Nat) (t : State) : Prop :=
  t.boot.step = n ∧ ∃ e, (if t.on R.cpu_PAIR_STAT_TND_RUN 0 then t.cpu.ring.head? = some e else t.cpu.waiting.getLast? = some e)
    ∧ e.page = 0xFFF ∧ e.reg = 0x01 ∧ leAt e.detail 0 1 = n

/-- Steps 1 to 7 (R489 to R491): VHOLD good; VINT in regulation; PD01, CD00 and at power-on the strap (R473); the canary,
which decides what the cold frame holds, the wall clock's seconds and the count of power-ons, each loss with its interrupt (R467
to R469, R472); PD02, where a bad ROM stops the sequence (R398) and the tending pair writes the log entries that wait for it; the
two copies of the trim, loaded into the blocks' latches, or none with an interrupt (R444, R448); PD03, the store, whose logical
sectors are mapped to their newest sound copies (R402), and its boot record. A step whose
turn it is not does nothing. -/
def Obligations.StartupToTheStore : Prop :=
  (∀ (vhold : Nat) (s : State), s.Inv → ∃ t, exec (.startupVinGood vhold) s = .next t
    ∧ t = { s with boot := { s.boot with step := t.boot.step }, cpu := t.cpu, freeCtr := t.freeCtr, hubQ := t.hubQ }
    ∧ (¬ mayRun s 1 ∨ vhold < 9000 → t = s) ∧ (mayRun s 1 → 9000 ≤ vhold → stepEnds 1 t))
  ∧ (∀ (vint : Nat) (ok : Bool) (s : State), s.Inv → ∃ t, exec (.startupVintStart vint ok) s = .next t
    ∧ t = { s with boot := { s.boot with step := t.boot.step }, cpu := t.cpu, freeCtr := t.freeCtr, hubQ := t.hubQ
                   regs := t.regs }
    ∧ s.regsBut t [(R.power_CONV_STAT_VINT, 0), (R.power_CONV_STAT_VINT_OK, 0), (R.power_CONV_STAT_VKA_OK, 0)]
    ∧ (¬ mayRun s 2 → t = s)
    ∧ (mayRun s 2 → t.g R.power_CONV_STAT_VINT = cap 65535 vint
        ∧ (ok = false → t = { s with regs := t.regs })
        ∧ (ok = true → stepEnds 2 t ∧ t.g R.power_CONV_STAT_VINT_OK = 1 ∧ t.g R.power_CONV_STAT_VKA_OK = 1)))
  ∧ (∀ (strap : Bool) (s : State), s.Inv → ∃ t, exec (.startupPd01On strap) s = .next t
    ∧ t = { s with boot := { s.boot with step := t.boot.step }, cpu := t.cpu, freeCtr := t.freeCtr, hubQ := t.hubQ
                   regs := t.regs }
    ∧ s.regsBut t [(R.global_PD_STAT_ON, 0), (R.clocks_REF_STAT_XTAL32, 0), (R.xspi_CFG_MODE, 0)]
    ∧ (¬ mayRun s 3 → t = s)
    ∧ (mayRun s 3 → stepEnds 3 t ∧ t.pd 1 = true ∧ t.g R.clocks_REF_STAT_XTAL32 = 1
        ∧ t.g R.xspi_CFG_MODE
          = (if s.g R.global_RESET_CAUSE_KIND = 0 then (if strap then 0 else 1) else s.g R.xspi_CFG_MODE)))
  ∧ (∀ (intact : Bool) (s : State), s.Inv → ∃ t, exec (.startupCanaryCheck intact) s = .next t
    ∧ t = { s with boot := { s.boot with step := t.boot.step }, cold := t.cold, cpu := t.cpu, freeCtr := t.freeCtr
                   hubQ := t.hubQ, regs := t.regs, wall := { s.wall with sec := t.wall.sec, ns := t.wall.ns, frac := t.wall.frac } }
    ∧ s.regsBut t [(R.coldframe_CF_STAT_TIME_VALID, 0), (R.coldframe_CF_STAT_LOG_VALID, 0),
        (R.coldframe_CF_STAT_RETAIN_CRC, 0), (R.coldframe_CF_STAT_COLD_FRAME_LOST, 0), (R.coldframe_CF_STAT_SAVE_FAIL, 0),
        (R.ptp_STAT_TIME_VALID, 0), (R.hdr_IRQ_STAT_EVENT, 0x004)]
    ∧ (¬ mayRun s 4 → t = s)
    ∧ (mayRun s 4 → stepEnds 4 t ∧ t.g R.ptp_STAT_TIME_VALID = t.g R.coldframe_CF_STAT_TIME_VALID
        ∧ t.wall.ns = 0 ∧ t.wall.frac = 0 ∧ t.cold.saveFailed = false
        ∧ (s.cold.saveFailed = true → t.g R.coldframe_CF_STAT_SAVE_FAIL = 1)
        ∧ (s.cold.saveFailed = true ∨ intact = false ∨ s.cold.retOk = false → t.gi R.hdr_IRQ_STAT_EVENT 0x004 = 1)
        ∧ (s.cold.ret.length = 256 → t.cold.retOk = true)
        ∧ (intact = true → t.g R.coldframe_CF_STAT_TIME_VALID = 1 ∧ t.wall.sec = s.coldTime.1
            ∧ (s.cold.ret.length = 256 → leAt t.cold.ret 0 4
              = (leAt s.cold.ret 0 4 + if s.g R.global_RESET_CAUSE_KIND = 0 then 1 else 0) % 2 ^ 32)
            ∧ (s.cold.retOk = true → t.g R.coldframe_CF_STAT_LOG_VALID = 1)
            ∧ (s.cold.retOk = false → t.g R.coldframe_CF_STAT_LOG_VALID = 0 ∧ t.g R.coldframe_CF_STAT_RETAIN_CRC = 1))
        ∧ (intact = false → t.g R.coldframe_CF_STAT_TIME_VALID = 0 ∧ t.g R.coldframe_CF_STAT_LOG_VALID = 0
            ∧ t.g R.coldframe_CF_STAT_COLD_FRAME_LOST = 1 ∧ t.wall.sec = 0
            ∧ t.cold.sec = 0 ∧ t.cold.sub = 0 ∧ t.cold.baseNs = s.nowNs
            ∧ leAt t.cold.ret 0 4 = if s.g R.global_RESET_CAUSE_KIND = 0 then 1 else 0)))
  ∧ (∀ s : State, s.Inv → ∃ t, exec .startupRomBoot s = .next t
    ∧ t = { s with boot := { s.boot with step := t.boot.step }, cpu := t.cpu, freeCtr := t.freeCtr, hubQ := t.hubQ
                   regs := t.regs }
    ∧ s.regsBut t [(R.global_PD_STAT_ON, 0), (R.cpu_PAIR_STAT_ROM_OK, 0), (R.cpu_PAIR_STAT_CMD_RUN, 0),
        (R.cpu_PAIR_STAT_TND_RUN, 0)]
    ∧ (¬ mayRun s 5 → t = s)
    ∧ (mayRun s 5 → t.pd 2 = true
        ∧ ((stepEnds 5 t ∧ t.g R.cpu_PAIR_STAT_ROM_OK = 1 ∧ t.g R.cpu_PAIR_STAT_CMD_RUN = 1 ∧ t.g R.cpu_PAIR_STAT_TND_RUN = 1
            ∧ t.cpu.waiting = [] ∧ t.cpu.lseq = s.cpu.lseq + s.cpu.waiting.length + 1)
          ∨ (t.boot = s.boot ∧ t.g R.cpu_PAIR_STAT_ROM_OK = 0 ∧ t.cpu = s.cpu))))
  ∧ (∀ (ok1 ok2 same : Bool) (s : State), s.Inv → ∃ t, exec (.startupTrimLoad ok1 ok2 same) s = .next t
    ∧ t = { s with boot := { s.boot with step := t.boot.step }, cpu := t.cpu, freeCtr := t.freeCtr, hubQ := t.hubQ
                   regs := t.regs, tend := { s.tend with trimCopy := t.tend.trimCopy, latches := t.tend.latches } }
    ∧ s.regsBut t [(R.tending_STAT_TRIM_COPY2, 0), (R.tending_STAT_TRIM_DIFFER, 0), (R.tending_STAT_TRIM_INVALID, 0),
        (R.hdr_IRQ_STAT_EVENT, 0x007)]
    ∧ (¬ mayRun s 6 → t = s)
    ∧ (mayRun s 6 → stepEnds 6 t
        ∧ t.g R.tending_STAT_TRIM_COPY2 = (if ok1 && !ok2 then 1 else s.g R.tending_STAT_TRIM_COPY2)
        ∧ t.g R.tending_STAT_TRIM_DIFFER = (if ok1 && ok2 && !same then 1 else s.g R.tending_STAT_TRIM_DIFFER)
        ∧ t.g R.tending_STAT_TRIM_INVALID = (if !ok1 && !ok2 then 1 else s.g R.tending_STAT_TRIM_INVALID)
        ∧ t.tend.trimCopy = (if ok1 then 1 else if ok2 then 2 else 0)
        ∧ (ok1 = true ∨ ok2 = true → ∀ b, b < 28 → b < s.tend.latches.length → t.trimGood b = true)
        ∧ (ok1 = false → ok2 = false → t.tend.latches = s.tend.latches ∧ t.gi R.hdr_IRQ_STAT_EVENT 0x007 = 1)))
  ∧ (∀ s : State, s.Inv → ∃ t, exec .startupStoreScan s = .next t
    ∧ t = { s with boot := { s.boot with step := t.boot.step }, cpu := t.cpu, freeCtr := t.freeCtr, hubQ := t.hubQ
                   regs := t.regs }
    ∧ s.fieldsBut t [R.global_PD_STAT_ON, R.xspi_MST_CFG_CS, R.xspi_MST_CFG_IMG_OFF, R.eth_IP_ADDR_ADDR,
        R.eth_IP_MASK_MASK, R.eth_PORT_CFG_SPEED, R.eth_PORT_CFG_AN, R.nvm_SEC_STAT_STATE, R.nvm_SEC_STAT_LOGICAL,
        R.nvm_STORE_STAT_FREE]
    ∧ (¬ mayRun s 7 → t = s)
    ∧ (mayRun s 7 → stepEnds 7 t ∧ t.pd 3 = true
        ∧ ((s.nvm.sectors.map (·.1)).Nodup → (∀ x ∈ s.nvm.sectors, x.1 < 544) →
            ∀ x ∈ s.nvm.sectors, s.secState x.1 ≠ 3 → x.1 ≠ s.nvm.save →
              (x.2.ok = true → x.2.logical < 512 →
                (∀ y ∈ s.nvm.sectors, y.2.logical = x.2.logical → y.2.ok = true → s.secState y.1 ≠ 3 → y.1 ≠ s.nvm.save →
                  y.1 ≠ x.1 → y.2.version < x.2.version) →
                t.secState x.1 = 0 ∧ t.gi R.nvm_SEC_STAT_LOGICAL x.1 = x.2.logical)
              ∧ (x.2.ok = false → x.1 ≠ s.nvm.transfer → t.secState x.1 = 1))
        ∧ (∀ p, s.secState p = 3 → t.secState p = 3)
        ∧ (warmKind (s.g R.global_RESET_CAUSE_KIND) = true ∨ t.bootRecord = none →
            s.fieldsBut t [R.global_PD_STAT_ON, R.nvm_SEC_STAT_STATE, R.nvm_SEC_STAT_LOGICAL, R.nvm_STORE_STAT_FREE])
        ∧ (∀ b, warmKind (s.g R.global_RESET_CAUSE_KIND) = false → t.bootRecord = some b →
            t.g R.xspi_MST_CFG_CS = leAt b 7 1 % 4
            ∧ t.g R.xspi_MST_CFG_IMG_OFF = leAt b 8 2 % 2 ^ R.xspi_MST_CFG_IMG_OFF.width
            ∧ t.gi R.eth_IP_ADDR_ADDR 0 = leAt b 12 4 ∧ t.gi R.eth_IP_MASK_MASK 0 = leAt b 16 4
            ∧ t.gi R.eth_IP_ADDR_ADDR 1 = leAt b 20 4 ∧ t.gi R.eth_IP_MASK_MASK 1 = leAt b 24 4)))

/-- Steps 8 to 14 (R492 to R497): the image's source; the domains asked for; memory trained and the image, where R201 allows
its furrows, applied at once; the lanes brought up; time locked, in EMBEDDED mode with a calibration (R52); the budget
checked with nothing applied (R210), once the tending pair runs (log entry 141); READY, when GLOBAL.STATE becomes 1 and,
after a warm reset, retained segments go out again (R502). -/
def Obligations.StartupToReady : Prop :=
  (∀ (d : FlashIn) (flash : List Byte) (s : State), s.Inv → ∃ t, exec (.startupImageSource d flash) s = .next t
    ∧ t = { s with boot := { s.boot with step := t.boot.step, flash := t.boot.flash, want := t.boot.want }
                   cpu := t.cpu, freeCtr := t.freeCtr, hubQ := t.hubQ, regs := t.regs, xspi := t.xspi }
    ∧ s.fieldsBut t [R.comp_LOAM_ERR_CODE, R.comp_LOAM_ERR_OFFSET, R.hdr_IRQ_STAT_EVENT, R.xspi_MST_CFG_DIV,
        R.xspi_MST_STAT_CONT_ACTIVE, R.xspi_MST_STAT_DDR, R.xspi_MST_STAT_MHZ, R.xspi_MST_STAT_NO_FLASH,
        R.xspi_MST_STAT_PRESENT]
    ∧ (¬ mayRun s 8 → t = s)
    ∧ (mayRun s 8 → stepEnds 8 t
        ∧ (s.fromCopy = true → t.boot.flash = false ∧ t.xspi = s.xspi)
        ∧ (s.fromCopy = false → s.xspiMaster = false → t.boot.flash = false ∧ t.boot.want = 2 ^ 24 - 1)
        ∧ (t.boot.flash = true → s.xspiMaster = true ∧ ∃ ss, parseImage (flashImage flash) = .ok ss
            ∧ t.boot.want = domainsWanted ss)))
  ∧ (∀ s : State, s.Inv → ∃ t, exec .startupDomains s = .next t
    ∧ t = { s with boot := { s.boot with step := t.boot.step }, cpu := t.cpu, freeCtr := t.freeCtr, hubQ := t.hubQ
                   power := { s.power with burst := t.power.burst }, regs := t.regs }
    ∧ s.regsBut t [(R.power_PD_REQ_ON, 0), (R.power_PD_WAIT_WAIT, 0)]
    ∧ (¬ mayRun s 9 → t = s)
    ∧ (mayRun s 9 → t.g R.power_PD_REQ_ON = (s.boot.want ||| 15) % 2 ^ 24
        ∧ (∀ d, 4 ≤ d → d < 24 → bitAt (t.g R.power_PD_WAIT_WAIT) d = (bitAt (s.g R.power_PD_WAIT_WAIT) d
            || (bitAt s.boot.want d && !s.pd d && !bitAt (s.g R.power_PD_FAULT_FAULT) d
              && !s.power.ramping.any (·.1 == d)
              && !(s.on R.tending_STAT_TRIM_INVALID 0 && (decide (d = 23) || decide (d < 10))))))
        ∧ (t.g R.power_PD_WAIT_WAIT = 0 → s.power.ramping = [] → stepEnds 9 t)
        ∧ (t.g R.power_PD_WAIT_WAIT ≠ 0 ∨ s.power.ramping ≠ [] → t.boot = s.boot)))
  ∧ (∀ (failed : List Nat) (ms : Nat) (flash : List Byte) (s : State), s.Inv → ∃ t,
      exec (.startupTrainAndApply failed ms flash) s = .next t
    ∧ t.pending = s.pending ∧ t.nowNs = s.nowNs ∧ t.cold = s.cold ∧ t.nvm = s.nvm
    ∧ (¬ mayRun s 10 → t = s)
    ∧ (mayRun s 10 → t.boot.step = 10
        ∧ (warmKind s.resetKind = false → s.boot.flash = false → t.boot.applied = false ∧ t.image.copy = s.image.copy
            ∧ t.g R.memctl_TRAIN_STAT_TIME = cap 65535 ms)
        ∧ (∀ ss, warmKind s.resetKind = false → s.boot.flash = true → s.xspi.abandoned = false →
            parseImage (flashImage flash) = .ok ss →
            (((s.applyOrder.trainMemory failed ms).bt fun b => { b with step := 10, applied := false }).imageSound ss
                = true →
              t.boot.applied = true ∧ t.image.copy = some (flashImage flash) ∧ t.g R.global_STATE_MODE = 0xFF
              ∧ t.image.crc = leAt (flashImage flash) 12 4 ∧ t.zcs.staged = [])
            ∧ (((s.applyOrder.trainMemory failed ms).bt fun b => { b with step := 10, applied := false }).imageSound ss
                = false → t.boot.applied = false ∧ t.image.copy = s.image.copy))))
  ∧ (∀ s : State, s.Inv → ∃ t, exec .startupLaneBringup s = .next t
    ∧ t = { s with beds := t.beds, boot := { s.boot with step := t.boot.step }, cpu := t.cpu, freeCtr := t.freeCtr
                   graft := t.graft, harvest := t.harvest, hubQ := t.hubQ, lanesH := t.lanesH, lanesT := t.lanesT
                   outbox := t.outbox, ports := t.ports, power := t.power, regs := t.regs, trellis := t.trellis }
    ∧ (¬ mayRun s 11 ∨ s.boot.applied = false → t = s)
    ∧ (mayRun s 11 → s.boot.applied = true → (t.lanesReady = true → stepEnds 11 t)
        ∧ (t.lanesReady = false → t.boot = s.boot)))
  ∧ (∀ s : State, s.Inv → ∃ t, exec .startupTimeLock s = .next t
    ∧ t = { s with boot := { s.boot with step := t.boot.step }, cpu := t.cpu, freeCtr := t.freeCtr, hubQ := t.hubQ
                   trellis := { s.trellis with probe := t.trellis.probe } }
    ∧ (¬ mayRun s 12 ∨ s.locked = false → t = s)
    ∧ (mayRun s 12 → s.bcLock = true → s.locked = true →
        s.embedded = false ∨ s.on R.trellis_TSTAT_ALIGN_VALID 0 = true → stepEnds 12 t ∧ t.trellis = s.trellis)
    ∧ (mayRun s 12 → s.locked = true → s.embedded = true → s.on R.trellis_TSTAT_ALIGN_VALID 0 = false →
        s.trellis.probe.calib = none → s.trellis.probe.calibApply = none →
        t.trellis.probe = { s.trellis.probe with calib := some [], calibHdr := none } ∧ t.boot = s.boot))
  ∧ (∀ s : State, s.Inv → ∃ t, exec .startupBudgetCheck s = .next t
    ∧ t = { s with boot := { s.boot with step := t.boot.step }, cpu := t.cpu, freeCtr := t.freeCtr, hubQ := t.hubQ
                   regs := t.regs }
    ∧ s.fieldsBut t [R.bud_BSTAT_FAIL, R.bud_BSTAT_RING, R.bud_BSTAT_VALID, R.bud_BSTAT_ITEMS, R.bud_DEMAND_DEMAND,
        R.bud_CAPACITY_CAPACITY]
    ∧ (¬ mayRun s 13 ∨ s.budgetHeld = true → t = s)
    ∧ (mayRun s 13 → s.budgetHeld = false → stepEnds 13 t ∧ (s.fBC ≠ 0 → t.g R.bud_BSTAT_VALID = 1)
        ∧ (s.fBC = 0 → t.regs = s.regs)))
  ∧ (∀ s : State, s.Inv → ∃ t, exec .ready s = .next t
    ∧ t = { s with boot := { s.boot with step := t.boot.step, everReady := t.boot.everReady, resend := t.boot.resend }
                   cpu := t.cpu, freeCtr := t.freeCtr, furrows := t.furrows, hubQ := t.hubQ, regs := t.regs }
    ∧ s.regsBut t [(R.global_STATE_STATE, 0), (R.hdr_IRQ_STAT_EVENT, 0x000), (R.harv_BACKLOG_MAX_BYTES, 0)]
    ∧ (¬ mayRun s 14 → t = s)
    ∧ (mayRun s 14 → stepEnds 14 t ∧ t.g R.global_STATE_STATE = 1 ∧ t.gi R.hdr_IRQ_STAT_EVENT 0x000 = 1
        ∧ t.boot.everReady = true ∧ t.boot.resend = false ∧ (s.boot.resend = false → t.furrows = s.furrows)))

/-! ## Slots, orbits, frames and quiet windows -/

/-- A collector cycle runs once in each slot (R28, R120): the trellis counts the slot, a sample set with its label enters
the history, and at an orbit's last slot no more cycles run until the boundary. At the boundary the slot is 0, the orbit is
the next and requests wait no longer; where the number
would wrap the hub stops, the spec giving no behaviour (R28). A management frame ends with its record of tending (R440) and
the furrow entries that a power failure would save, hub furrows first (R464). A quiet window starts at QW_FIRST: one of at
least 64 slots keeps the registers as they were for labels before it, and those of windows up to 4,096 slots before (R95,
R170), takes the boundary action that is due (R366)
and runs its actions (R25); a shorter one runs none. Where the counters have entered an orbit at a marker, the first slot that
runs brings what an orbit boundary does (log entry 120). -/
def Obligations.SlotsOrbitsAndWindows : Prop :=
  (∀ (c : CycleIn) (s : State), s.Inv → ∃ t, exec (.collectorCycle c) s = .next t
    ∧ t.pending = s.pending ∧ t.boot = s.boot ∧ t.cold = s.cold ∧ t.nvm = s.nvm ∧ t.image = s.image ∧ t.tend = s.tend
    ∧ (s.trellis.edgeDue = false → t.graft = { s.graft with lineLow := t.graft.lineLow, highNs := t.graft.highNs }
        ∧ t.beds = s.beds ∧ t.engines = s.engines)
    ∧ t.hdg = s.hdg ∧ t.prevRegs = s.prevRegs ∧ t.trellis.orbit = s.trellis.orbit
    ∧ (s.trellis.ran = true → s.counting = true → s.nSlot ≤ s.trellis.slot + 1 → t = s)
    ∧ (s.trellis.ran = false ∨ s.counting = false ∨ s.trellis.slot + 1 < s.nSlot →
        t.trellis.ran = true ∧ t.trellis.edgeDue = false ∧ t.graft.lineLow = c.tokenLow
        ∧ t.power.lastOrbit = s.trellis.orbit ∧ t.power.lastSlot = t.trellis.slot
        ∧ t.trellis.tick = (if s.trellis.ran then s.trellis.tick + 1 else s.trellis.tick)
        ∧ t.trellis.slot = (if s.trellis.ran && s.counting then s.trellis.slot + 1 else s.trellis.slot)
        ∧ ∃ h, t.hist = (h :: s.hist).take histLen ∧ h.tick = t.trellis.tick ∧ h.orbit = t.trellis.orbit
          ∧ h.slot = t.trellis.slot))
  ∧ (∀ s : State, s.Inv → s.orbitEnds = true → 2 ^ 48 ≤ s.trellis.orbit + 1 →
      exec .orbitBoundary s = .fault .orbitWrap)
  ∧ (∀ s : State, s.Inv → s.orbitEnds = false ∨ s.trellis.orbit + 1 < 2 ^ 48 → ∃ t, exec .orbitBoundary s = .next t
    ∧ (s.counting = false ∨ s.trellis.ran = false ∨ s.trellis.slot + 1 < s.nSlot → t = s)
    ∧ (s.counting = true → s.trellis.ran = true → s.nSlot ≤ s.trellis.slot + 1 →
        t = { s with beds := t.beds, closes := t.closes, cpu := t.cpu, engines := t.engines, freeCtr := t.freeCtr
                     fsegs := t.fsegs, furrows := t.furrows, graft := t.graft, harvest := t.harvest, hubQ := t.hubQ
                     intake := t.intake, lanesH := t.lanesH, lanesT := t.lanesT, looks := t.looks, mem := t.mem
                     nowNs := t.nowNs, outbox := t.outbox, ports := t.ports, power := t.power, regs := t.regs
                     slow := t.slow, stopping := t.stopping, trellis := t.trellis, wall := t.wall, xspi := t.xspi
                     zcs := t.zcs }
        ∧ t.trellis.slot = 0 ∧ t.trellis.orbit = s.trellis.orbit + 1 ∧ t.trellis.tick = s.trellis.tick + 1
        ∧ t.trellis.ran = false ∧ t.trellis.inWindow = false ∧ t.trellis.clearDue = false ∧ t.power.reqDue = false
        ∧ t.trellis.badRun = (if s.trellis.orbitBad then s.trellis.badRun + 1 else 0)))
  ∧ (∀ (m : MonitorIn) (s : State), s.Inv → ∃ t, exec (.mframeBoundary m) s = .next t
    ∧ (s.trellis.frameDue = false → t = s)
    ∧ (s.trellis.frameDue = true →
        t = { s with beds := t.beds, cpu := t.cpu, freeCtr := t.freeCtr, harvest := t.harvest, hdg := t.hdg
                     hubQ := t.hubQ, lanesH := t.lanesH, lanesT := t.lanesT, mem := t.mem, outbox := t.outbox
                     power := t.power, regs := t.regs, sentinels := t.sentinels, slow := t.slow, sums := t.sums
                     tend := t.tend, trellis := t.trellis, wall := t.wall }
        ∧ t.trellis.frameDue = false ∧ t.trellis.orbit = s.trellis.orbit
        ∧ (t.power.ready.take 5).map (·.1) = [0, 1, 3, 4, 5]
        ∧ (s.tndRuns = false → t.tend = { s.tend with eyes := [], pauses := [], portPauses := [] })
        ∧ (s.tndRuns = true → (∃ b, t.tend.mon = some { keepLast m s.monNow with stale := b } ∧ (m.stale = true → b = true))
            ∧ t.tend.count = s.tend.count + 1
            ∧ t.g R.cpu_LOAD_CMD = m.cmdLoad % 256 ∧ t.g R.cpu_LOAD_TND = m.tndLoad % 256
            ∧ (s.intake = true → ∃ b, ⟨3, b⟩ ∈ t.hubQ ∧ leAt b 0 6 = s.trellis.orbit % 2 ^ 48 ∧ leAt b 6 1 = 0))))
  ∧ (∀ (q : QuietIn) (s : State), s.Inv → ∃ t, exec (.quietWindowStart q) s = .next t
    ∧ (s.counting = false ∨ s.trellis.inWindow = true
        ∨ (((s.trellis.ran = true ∧ s.trellis.edgeDue = false) ∨ s.trellis.slot ≠ s.trellis.qwFirst)
          ∧ (s.trellis.ran = false ∨ s.trellis.slot + 1 ≠ s.trellis.qwFirst ∨ s.nSlot ≤ s.trellis.slot + 1)) → t = s)
    ∧ (s.counting = true → s.trellis.inWindow = false →
        ((s.trellis.ran = false ∨ s.trellis.edgeDue = true) ∧ s.trellis.slot = s.trellis.qwFirst)
        ∨ (s.trellis.ran = true ∧ s.trellis.slot + 1 = s.trellis.qwFirst ∧ s.trellis.slot + 1 < s.nSlot) →
        t = { s with beds := t.beds, closes := t.closes, cold := t.cold, cpu := t.cpu, dibber := t.dibber
                     engines := t.engines, followers := t.followers, freeCtr := t.freeCtr, fsegs := t.fsegs
                     furrows := t.furrows, graft := t.graft, harvest := t.harvest, hubQ := t.hubQ, image := t.image, intake := t.intake
                     intakeFrom := t.intakeFrom, lanesH := t.lanesH, lanesT := t.lanesT, looks := t.looks, mem := t.mem
                     nowNs := t.nowNs, nvm := t.nvm, olderRegs := t.olderRegs, outbox := t.outbox, ports := t.ports
                     power := t.power, prevRegs := t.prevRegs, regs := t.regs, slow := t.slow, stopping := t.stopping, sums := t.sums
                     switchTick := t.switchTick
                     tend := t.tend, trellis := t.trellis, wall := t.wall, xspi := t.xspi, zcs := t.zcs }
        ∧ t.trellis.orbit = s.trellis.orbit
        ∧ t.trellis.tick = (if s.trellis.slot = s.trellis.qwFirst then s.trellis.tick else s.trellis.tick + 1)
        ∧ t.trellis.edgeDue = false ∧ t.trellis.inWindow = true
        ∧ (s.trellis.qwLen < 64 → s.trellis.edgeDue = false → t = { s with
            hubQ := t.hubQ, nowNs := t.nowNs, wall := t.wall, trellis := { s.trellis with
              slot := s.trellis.qwFirst, tick := t.trellis.tick, phase := t.trellis.phase, ran := false, inWindow := true
              discont := t.trellis.discont, timeDue := t.trellis.timeDue } })
        ∧ (64 ≤ s.trellis.qwLen → t.switchTick = t.trellis.tick
            ∧ (t.trellis.tick ≤ s.switchTick + 4096 → t.olderRegs.head? = some (s.switchTick, s.prevRegs))
            ∧ (s.trellis.edgeDue = false → ∀ (f : Fld) (i : Nat), f.base ≠ R.rec_PF_STAT_SKIP.base →
                f.base ≠ R.rec_PF_STAT_JUMPS.base → mapGet t.prevRegs f i = s.gi f i)
            ∧ ∀ a, s.zcs.action = some a → a.orbit ≤ s.trellis.orbit → t.zcs.action = none)))

/-! ## The command set -/

/-- The commands that arrive as ZCS messages, with their header and OPCODE (R364). -/
def zcs? : Instr → Option (Hdr × Nat)
  | .ping h _ => some (h, 0x0001)
  | .ident h _ => some (h, 0x0002)
  | .regRead h .. => some (h, 0x0010)
  | .regWrite h .. => some (h, 0x0011)
  | .regModify h .. => some (h, 0x0012)
  | .imageLoad h .. => some (h, 0x0020)
  | .overlayStage h _ => some (h, 0x0021)
  | .overlayCommit h .. => some (h, 0x0022)
  | .overlayRevert h => some (h, 0x0023)
  | .budgetCheck h => some (h, 0x0024)
  | .streamStart h .. => some (h, 0x0030)
  | .streamStop h .. => some (h, 0x0031)
  | .lookback h .. => some (h, 0x0032)
  | .ackWindow h _ => some (h, 0x0033)
  | .timeSet h .. => some (h, 0x0040)
  | .phaseCalibrate h => some (h, 0x0041)
  | .graftArm h .. => some (h, 0x0050)
  | .graftDrill h => some (h, 0x0051)
  | .graftStatus h => some (h, 0x0052)
  | .rankRetire h .. => some (h, 0x0060)
  | .memHealth h => some (h, 0x0061)
  | .nvmRead h .. => some (h, 0x0070)
  | .nvmWrite h .. => some (h, 0x0071)
  | .logRead h .. => some (h, 0x0072)
  | .tendingReport h => some (h, 0x0080)
  | .marginApply h .. => some (h, 0x0081)
  | .slowConfig h .. => some (h, 0x0090)
  | .tripClear h .. => some (h, 0x0091)
  | .selftest h _ => some (h, 0x00A0)
  | .reset h _ => some (h, 0x00FF)
  | _ => none

/-- The payload is no longer than the opcode allows (R355). -/
def payloadFits : Instr → Bool
  | .ping _ d => decide (d.length ≤ 64)
  | .imageLoad _ _ _ b => decide (b.length ≤ 4072)
  | _ => true

/-- A message has left on the transport of its request (R352): to the requester's address from the hub's, in fragments for its
1,500-byte MTU (R333), into the slave port's
queue of responses, or to the uplink: behind those that wait where its 8 MB/s admit no more (R296), and otherwise to the
lane of CFG.ZCS_LANE or the other one (R305), from which it goes at once where nothing is in front of it; with the
transmitters dark it is only counted. -/
def leaves (s t : State) (h : Hdr) (m : List Byte) : Prop :=
  match h.via with
  | .udp p a b => t = { s with outbox := s.outbox ++ [.zcs (.udp p a b) (s.gi R.eth_IP_ADDR_ADDR p) (mtuParts m)] }
  | .xspi => t = { s with regs := t.regs, xspi := { s.xspi with resps := t.xspi.resps } }
      ∧ s.regsBut t [(R.xspi_SLV_CNT_RESP_LOST, 0)] ∧ t.xspi.resps.getLast? = some m
      ∧ (s.xspi.resps.length < 8 → t.xspi.resps = s.xspi.resps ++ [m] ∧ t.regs = s.regs)
  | .rc =>
    if s.g R.harv_LIT_LIT = 0 then t = { s with regs := t.regs } ∧ s.regsBut t (errFields.map fun f => (f, 0x03A))
      ∧ t.gi R.hdr_ERR_CAPT_CAUSE 0x03A = 5
    else t = { s with freeCtr := t.freeCtr, harvest := t.harvest, lanesH := t.lanesH, outbox := t.outbox }
      ∧ (s.harvest.zcsQ = [] → 4100 * s.fBC + 8000000 < s.harvest.zcsSpent + (4 + m.length) * s.fBC →
          t = { s with harvest := { s.harvest with zcsQ := [m] } })
      ∧ (s.harvest.zcsQ = [] → s.harvest.zcsSpent + (4 + m.length) * s.fBC ≤ 4100 * s.fBC + 8000000 →
          t.harvest.zcsQ = [] ∧ t.harvest.zcsSpent = s.harvest.zcsSpent + (4 + m.length) * s.fBC
          ∧ (s.zcsLane < s.harvest.tx.length → (s.txOf s.zcsLane).sending = [] → (s.laneOf (32 + s.zcsLane)).tx = 0 →
              (∃ l, t.outbox = s.outbox ++ l ++ [.zcs .rc s.zcsLane [(0, m)]]) ∧ (t.txOf s.zcsLane).sending = []))

/-- Every ZCS command passes these gates in this order (R355 to R360, R393): with the command pair stopped nothing happens, nor where
the oldest message waiting spells another command, since they run in order of arrival (R360);
a payload too long is BAD_LENGTH; SESSION 0 runs five opcodes only; a fifth session, and a tag that still runs, are BUSY;
a cached tag is not executed again and is answered DUPLICATE with what is cached, its status in FLAGS. Responses leave on
the transport of their request, and what was executed in a session is cached with its status and payload. -/
def Obligations.CommandGates : Prop :=
  (∀ (c : Instr) (h : Hdr) (op : Nat) (s : State), s.Inv → zcs? c = some (h, op) →
    (s.on R.cpu_PAIR_STAT_CMD_RUN 0 = false ∨ s.turn c = false → exec c s = .next s)
    ∧ (s.on R.cpu_PAIR_STAT_CMD_RUN 0 = true → s.turn c = true → payloadFits c = false →
        exec c s = .next ((s.takeMsg h).respond h op 1 stBadLength []))
    ∧ (s.on R.cpu_PAIR_STAT_CMD_RUN 0 = true → s.turn c = true → payloadFits c = true → h.session = 0 →
        op ∉ session0Opcodes → exec c s = .next ((s.takeMsg h).respond h op 1 stDenied []))
    ∧ (s.on R.cpu_PAIR_STAT_CMD_RUN 0 = true → s.turn c = true → payloadFits c = true → h.session ≠ 0 →
        s.session h.session = none → 4 ≤ s.zcs.sessions.length →
        exec c s = .next ((s.takeMsg h).respond h op 1 stBusy []))
    ∧ (∀ x, s.on R.cpu_PAIR_STAT_CMD_RUN 0 = true → s.turn c = true → payloadFits c = true → h.session ≠ 0 →
        s.session h.session = some x → h.tag ∈ x.running →
        exec c s = .next ((s.takeMsg h).respond h op 1 stBusy []))
    ∧ (∀ x e, s.on R.cpu_PAIR_STAT_CMD_RUN 0 = true → s.turn c = true → payloadFits c = true → h.session ≠ 0 →
        s.session h.session = some x → h.tag ∉ x.running → x.cache.find? (fun e => e.tag == h.tag) = some e →
        exec c s = .next ((s.takeMsg h).respond h op (e.flags % 16 + 16 * (e.status % 16)) stDuplicate e.payload)))
  ∧ (∀ (h : Hdr) (op fl st : Nat) (b : List Byte) (s : State), s.Inv →
      leaves s (s.respond h op fl st b) h (zcsMessage h op fl st b))
  ∧ (∀ (h : Hdr) (op src st : Nat) (b : List Byte) (u : State) (x : Session), u.session h.session = some x →
      h.session ≠ 0 → ∃ y, (u.reply src h op (.done st b)).session h.session = some y ∧ y.last = x.last
        ∧ y.running = x.running ∧ y.cache.find? (fun e => e.tag == h.tag) = some ⟨h.tag, 1, st, b⟩)

/-- The command pair takes the message of a command as new: it runs, it is that command's turn, and no gate refuses it (R355 to
R360). -/
def takes (c : Instr) (h : Hdr) (op : Nat) (s : State) : Prop :=
  s.on R.cpu_PAIR_STAT_CMD_RUN 0 = true ∧ s.turn c = true
  ∧ (h.session = 0 → op ∈ session0Opcodes)
  ∧ (h.session ≠ 0 → s.session h.session = none → s.zcs.sessions.length < 4)
  ∧ (∀ x, h.session ≠ 0 → s.session h.session = some x → h.tag ∉ x.running ∧ ∀ e ∈ x.cache, e.tag ≠ h.tag)

/-- The state a command acts on: its message has left the queue, or comes now and renews its session's lease, and its session is
open (R356, R360). -/
def acting (h : Hdr) (s : State) : State :=
  let u := s.takeMsg h
  if h.session = 0 || (u.session h.session).isSome then u else u.openSession h.session

/-- The answer `r` follows the effect `u`, from the address the hub had before (R333). -/
def answer (s u : State) (h : Hdr) (op : Nat) (r : Reply) : State := u.reply (s.ownIp h) h op r

/-- The commands that report (R364). PING echoes; IDENT reports and sets the lease; REG_READ answers one word for each read;
BUDGET_CHECK runs the checks on the staged set and applies nothing (R210), or is BUSY while the tending pair cannot make them
(log entry 141); the factory area ends in its identity, whose last word is its CRC-32C (R400); GRAFT_STATUS answers twelve
words (R431); MEM_HEALTH, NVM_READ, LOG_READ and TENDING_REPORT answer from the state and change nothing. LOOKBACK selects
retained segments for sending again, those of an earlier stream only where their header still stands in memory (R217, R218).
-/
def Obligations.CommandsThatReport : Prop :=
  (∀ (h : Hdr) (data : List Byte) (s : State), s.Inv → takes (.ping h data) h 0x0001 s → data.length ≤ 64 →
    exec (.ping h data) s = .next (answer s (acting h s) h 0x0001 (.done stOk data)))
  ∧ (∀ (h : Hdr) (lease : Option Nat) (s : State), s.Inv → takes (.ident h lease) h 0x0002 s →
    ∃ u r b, exec (.ident h lease) s = .next (answer s u h 0x0002 r)
    ∧ (lease = none → u = acting h s ∧ r = .done stOk b)
    ∧ (∀ n, lease = some n → n = 0 ∨ 600 < n → u = acting h s ∧ r = .done stBadParam [])
    ∧ (∀ n, lease = some n → 0 < n → n ≤ 600 → r = .done stOk b
        ∧ u = (acting h s).sess h.session (fun x => { x with leaseNs := n * 1000000000 }))
    ∧ b.length = 34 ∧ leAt b 0 2 = 0x00C0 ∧ leAt b 2 2 = 0x0302 ∧ leAt b 20 2 = s.g R.global_HUB_ID_ID % 2 ^ 16
    ∧ leAt b 30 1 = s.g R.global_STATE_STATE % 2 ^ 8 ∧ leAt b 31 1 = s.role % 2 ^ 8
    ∧ leAt b 32 1 = s.g R.global_STATE_MODE % 2 ^ 8)
  ∧ (∀ (h : Hdr) (addr n : Nat) (fixed : Bool) (s : State), s.Inv → takes (.regRead h addr n fixed) h 0x0010 s →
    ∃ u r, exec (.regRead h addr n fixed) s = .next (answer s u h 0x0010 r)
    ∧ (∀ st, s.runFault addr n 256 fixed = some st → u = acting h s ∧ r = .done st [])
    ∧ (s.runFault addr n 256 fixed = none →
        (∃ b, r = .done stOk b ∧ b.length = 4 * n ∧ leAt b 0 4 = ((acting h s).readOnce addr).2 % 2 ^ 32)
        ∧ ∃ l f p d g, u = { acting h s with latches := l, freeCtr := f, ports := p, hdg := d, regs := g }))
  ∧ (∀ (h : Hdr) (s : State), s.Inv → takes (.budgetCheck h) h 0x0024 s →
    ∃ u r, exec (.budgetCheck h) s = .next (answer s u h 0x0024 r)
    ∧ (s.budgetHeld = true → u = acting h s ∧ r = .bad stBusy)
    ∧ (s.budgetHeld = false → fBCOf (applyStaged s.regs s.zcs.staged) = 0 → u = acting h s ∧ r = .done stBadParam [])
    ∧ (s.budgetHeld = false → fBCOf (applyStaged s.regs s.zcs.staged) ≠ 0 →
        u = { acting h s with regs := u.regs, cpu := u.cpu, freeCtr := u.freeCtr, hubQ := u.hubQ }
        ∧ s.fieldsBut u [R.bud_BSTAT_FAIL, R.bud_BSTAT_RING, R.bud_BSTAT_VALID, R.bud_BSTAT_ITEMS, R.bud_DEMAND_DEMAND,
            R.bud_CAPACITY_CAPACITY]
        ∧ u.g R.bud_BSTAT_VALID = 1
        ∧ r = .done (if (report (applyStaged s.regs s.zcs.staged)).result % 16 ≠ 0 then stBudget
              else if (report (applyStaged s.regs s.zcs.staged)).result ≠ 0 then stBadParam else stOk)
            (report (applyStaged s.regs s.zcs.staged)).bytes))
  ∧ (∀ (h : Hdr) (f kind first last : Nat) (s : State), s.Inv → takes (.lookback h f kind first last) h 0x0032 s →
    ∃ u r, exec (.lookback h f kind first last) s = .next (answer s u h 0x0032 r)
    ∧ u = { acting h s with furrows := u.furrows, looks := u.looks }
    ∧ (s.standby = true → r = .done stDenied [] ∧ u = acting h s)
    ∧ (s.standby = false → 2 ≤ kind ∨ 65536 ≤ f → r = .done stBadParam [] ∧ u = acting h s)
    ∧ (s.standby = false → kind = 1 → f < 65536 → first < 2 ^ 48 → last < 2 ^ 48 → f ≠ s.g R.fsum_CTRL_FURROW →
        s.g R.bud_RESERVE_LB ≠ 0 → s.looks.length < 16 →
        (∃ b, r = .done stOk b ∧ b.length = 14) ∧ u.furrows = (s.checkOld f).furrows
        ∧ (last < first → u.looks = s.looks)
        ∧ (((s.checkOld f).fur f).select 1 first last ≠ [] →
            u.looks = s.looks ++ [⟨f, (((s.checkOld f).fur f).select 1 first last).map (·.seq)⟩])
        ∧ (((s.checkOld f).fur f).select 1 first last = [] → u.looks = s.looks)))
  ∧ (∀ (h : Hdr) (s : State), s.Inv → takes (.graftStatus h) h 0x0052 s → ∃ l b,
      exec (.graftStatus h) s = .next (answer s { acting h s with latches := l } h 0x0052 (.done stOk b))
      ∧ b.length = 48 ∧ leAt b 0 4 = s.wordAt 0x006 0x040 % 2 ^ 32)
  ∧ (∀ (h : Hdr) (s : State), s.Inv → takes (.memHealth h) h 0x0061 s → ∃ b,
      exec (.memHealth h) s = .next (answer s (acting h s) h 0x0061
        (.done (if s.g R.spare_DEGRADE_STEP = 0 then stOk else stDegraded) b))
      ∧ (∀ m x, m < 8 → x < 3 → leAt b (4 * (3 * m + x)) 4 = s.slotHealth m x % 2 ^ 32)
      ∧ b.length = 108 + 2 * min 256 s.shedFurrows.length)
  ∧ (∀ (h : Hdr) (area off len : Nat) (s : State), s.Inv → takes (.nvmRead h area off len) h 0x0070 s →
    ∃ r, exec (.nvmRead h area off len) s = .next (answer s (acting h s) h 0x0070 r)
    ∧ (2 ≤ area ∨ len = 0 ∨ 1024 < len ∨ (if area = 0 then 65536 else 2097152) < off + len → r = .done stBadParam [])
    ∧ (area < 2 → 0 < len → len ≤ 1024 → off + len ≤ (if area = 0 then 65536 else 2097152) →
        (s.pd 3 = false → r = .done stDenied [])
        ∧ (s.pd 3 = true → area = 1 → r = .done stOk (s.storeBytes off len))
        ∧ (s.pd 3 = true → area = 0 → ∃ b, r = .done stOk b ∧ b.length = len
            ∧ (∀ i, i < len → 0x8100 ≤ off + i → b[i]? = some 0xFF)
            ∧ (off = 0x8000 → len = 256 → leAt b 252 4 = (crc32c (b.take 252)).toNat))))
  ∧ (∀ (h : Hdr) (source most start : Nat) (s : State), s.Inv → takes (.logRead h source most start) h 0x0072 s →
    ∃ r, exec (.logRead h source most start) s = .next (answer s (acting h s) h 0x0072 r)
    ∧ (3 ≤ source → r = .done stBadParam [])
    ∧ (source = 0 → r = .done stOk
        (logPage (s.cpu.ring.reverse.map LogE.bytes) (s.cpu.lseq - s.cpu.ring.length) start most 32))
    ∧ (source = 1 → ∃ b, r = .done stOk b ∧ (s.cold.ret.length = 256 → b.length % 16 = 4))
    ∧ (source = 2 → ∃ b, r = .done stOk b))
  ∧ (∀ (h : Hdr) (s : State), s.Inv → takes (.tendingReport h) h 0x0080 s → ∃ b,
      exec (.tendingReport h) s = .next (answer s (acting h s) h 0x0080 (.done stOk b))
      ∧ b.length = 872 ∧ leAt b 0 6 = s.tend.lastOrbit.getD 0 % 2 ^ 48 ∧ leAt b 6 2 = s.g R.tending_REPLAN_COUNT % 2 ^ 16
      ∧ leAt b 8 2 = s.vcore % 2 ^ 16 ∧ leAt b 10 2 = s.g R.tending_MARGIN_TARGET % 2 ^ 16
      ∧ leAt b 12 2 = s.g R.tending_MARGIN_WORST % 2 ^ 16 ∧ leAt b 16 2 = 70)

/-- A commit of these values passes every check that can be made on arrival, for the quiet window of orbit `o` (R20, R210,
R366). -/
def committable (s : State) (l : List Staged) (mode : Option Nat) (orbit : Nat) (named : Bool) (o : Nat) : Prop :=
  s.zcs.action = none ∧ s.budgetHeld = false
  ∧ (mode.isSome = true → s.on R.spare_DEGRADE_IMAGE_LOST 0 = false) ∧ s.commitFault l = none
  ∧ s.windowOrbit orbit named = some o ∧ budgetFault (s.runBudget (s.after l)).2 = none

/-- Only what a budget check reports, the staged set and the pending action differ. -/
def onlyChecked (e u : State) : Prop :=
  u = { e with regs := u.regs, cpu := u.cpu, freeCtr := u.freeCtr, hubQ := u.hubQ, zcs := { e.zcs with
          staged := u.zcs.staged, owner := u.zcs.owner, stagedMode := u.zcs.stagedMode, action := u.zcs.action } }
  ∧ e.fieldsBut u [R.bud_BSTAT_FAIL, R.bud_BSTAT_RING, R.bud_BSTAT_VALID, R.bud_BSTAT_ITEMS, R.bud_DEMAND_DEMAND,
      R.bud_CAPACITY_CAPACITY]

/-- Staging and the boundary actions (R366 to R369, R439): a stage owned by another is DENIED; a second action is BUSY; a
commit that passes its checks takes its snapshot and waits for its window with PENDING_QUIET, or takes effect at once
before the orbit has ever locked, and is answered DEGRADED while a degraded step is in effect (R361); STREAM_START, STREAM_STOP,
GRAFT_DRILL and MARGIN_APPLY wait for their window. While the tending pair cannot make the checks, what needs them is BUSY (the
model's choice, log entry 141). -/
def Obligations.BoundaryCommands : Prop :=
  (∀ (h : Hdr) (mode : Nat) (s : State), s.Inv → takes (.overlayStage h mode) h 0x0021 s →
    ∃ u r, exec (.overlayStage h mode) s = .next (answer s u h 0x0021 r)
    ∧ (s.notOwner (.session h.session) = true → u = acting h s ∧ r = .done stDenied [])
    ∧ (s.notOwner (.session h.session) = false → mode = 0xFE → r = .done stOk (le 4 0)
        ∧ u = { acting h s with zcs := { (acting h s).zcs with staged := [], owner := none, stagedMode := none } })
    ∧ (s.notOwner (.session h.session) = false → mode ≠ 0xFE → s.on R.spare_DEGRADE_IMAGE_LOST 0 = true →
        u = acting h s ∧ r = .done stImage [])
    ∧ (s.notOwner (.session h.session) = false → mode ≠ 0xFE → s.on R.spare_DEGRADE_IMAGE_LOST 0 = false →
        ((acting h s).modeValues mode = none → u = acting h s ∧ r = .done stBadParam [])
        ∧ ∀ v l, (acting h s).modeValues mode = some (v, l) → r = .done stOk (le 4 l.length)
          ∧ u.zcs.staged = l.foldl merge s.zcs.staged ∧ u.zcs.owner = some (.session h.session)
          ∧ u.zcs.stagedMode = some mode))
  ∧ (∀ (h : Hdr) (orbit : Nat) (named : Bool) (s : State), s.Inv → takes (.overlayCommit h orbit named) h 0x0022 s →
    ∃ u r, exec (.overlayCommit h orbit named) s = .next (answer s u h 0x0022 r)
    ∧ (s.zcs.action.isSome = true → u = acting h s ∧ r = .bad stBusy)
    ∧ (∀ o, committable (acting h s) s.zcs.staged s.zcs.stagedMode orbit named o →
        u.zcs.staged = [] ∧ u.zcs.owner = none
        ∧ (s.trellis.everLocked = false → s.live = false → u.zcs.action = none
            ∧ ∃ b, r = .done (if u.g R.spare_DEGRADE_STEP = 0 then stOk else stDegraded) b)
        ∧ (s.trellis.everLocked = true ∨ s.live = true → onlyChecked (acting h s) u
            ∧ r = .done stPending (le 6 o ++ le 1 (s.zcs.stagedMode.getD (s.g R.global_STATE_MODE)))
            ∧ u.zcs.action = some ⟨.commit, 0x0022, some h, o, s.zcs.staged, s.zcs.stagedMode⟩)))
  ∧ (∀ (h : Hdr) (s : State), s.Inv → takes (.overlayRevert h) h 0x0023 s →
    ∃ u r, exec (.overlayRevert h) s = .next (answer s u h 0x0023 r)
    ∧ (s.zcs.action.isSome = true ∨ s.zcs.staged ≠ [] → u = acting h s ∧ r = .bad stBusy)
    ∧ (s.zcs.action = none → s.zcs.staged = [] → s.image.hadMode = false → u = acting h s ∧ r = .done stDenied [])
    ∧ (∀ v l o, s.zcs.staged = [] → s.image.hadMode = true →
        (acting h s).modeValues (s.g R.global_STATE_MODE_PREV) = some (v, l) →
        committable (acting h s) l (some (s.g R.global_STATE_MODE_PREV)) 0 false o →
        s.trellis.everLocked = true ∨ s.live = true →
        (∃ b, r = .done stPending b)
        ∧ u.zcs.action = some ⟨.commit, 0x0023, some h, o, l, some (s.g R.global_STATE_MODE_PREV)⟩))
  ∧ (∀ (h : Hdr) (us : Nat) (s : State), s.Inv → takes (.ackWindow h us) h 0x0033 s →
    ∃ u r, exec (.ackWindow h us) s = .next (answer s u h 0x0033 r)
    ∧ (us < 100 ∨ 100000 < us → u = acting h s ∧ r = .done stBadParam [])
    ∧ (100 ≤ us → us ≤ 100000 → s.zcs.action.isSome = true → u = acting h s ∧ r = .bad stBusy)
    ∧ (∀ o, 100 ≤ us → us ≤ 100000 →
        committable (acting h s) [⟨0x039, R.bud_ACK_WIN_WINDOW, 0, us⟩] none 0 false o →
        u.zcs.staged = s.zcs.staged
        ∧ (s.trellis.everLocked = false → s.live = false → u.g R.bud_ACK_WIN_WINDOW = us ∧ ∃ b, r = .done stOk b)
        ∧ (s.trellis.everLocked = true ∨ s.live = true → onlyChecked (acting h s) u ∧ (∃ b, r = .done stPending b)
            ∧ u.zcs.action = some ⟨.commit, 0x0033, some h, o, [⟨0x039, R.bud_ACK_WIN_WINDOW, 0, us⟩], none⟩)))
  ∧ (∀ (h : Hdr) (orbit : Nat) (named : Bool) (s : State), s.Inv → takes (.streamStart h orbit named) h 0x0030 s →
    ∃ u r, exec (.streamStart h orbit named) s = .next (answer s u h 0x0030 r)
    ∧ (s.zcs.action.isSome = true → u = acting h s ∧ r = .bad stBusy)
    ∧ (s.zcs.action = none → (acting h s).startFault = some stDenied →
        u = acting h s ∧ r = .done stDenied [])
    ∧ (∀ o, s.zcs.action = none → (acting h s).startFault = none → (acting h s).windowOrbit orbit named = some o →
        s.budgetHeld = true → u = acting h s ∧ r = .bad stBusy)
    ∧ (∀ o p, s.zcs.action = none → s.budgetHeld = false → (acting h s).startFault = none →
        (acting h s).windowOrbit orbit named = some o →
        ((acting h s).runBudget ((acting h s).after [])).2 = some p → p.result = 0 →
        onlyChecked (acting h s) u ∧ r = .done stPending (le 6 o ++ le 1 (s.g R.global_STATE_MODE))
        ∧ u.zcs.action = some ⟨.start, 0x0030, some h, o, [], none⟩ ∧ u.zcs.staged = s.zcs.staged))
  ∧ (∀ (h : Hdr) (orbit : Nat) (named : Bool) (s : State), s.Inv → takes (.streamStop h orbit named) h 0x0031 s →
    ∃ u r, exec (.streamStop h orbit named) s = .next (answer s u h 0x0031 r)
    ∧ u = { acting h s with zcs := { (acting h s).zcs with action := u.zcs.action } }
    ∧ (s.zcs.action.isSome = true → r = .bad stBusy ∧ u.zcs.action = s.zcs.action)
    ∧ (s.zcs.action = none → s.g R.global_STATE_STATE ≠ 2 → r = .done stDenied [] ∧ u.zcs.action = none)
    ∧ (s.zcs.action = none → s.g R.global_STATE_STATE = 2 →
        (s.windowOrbit orbit named = none → r = .done stBadParam [] ∧ u.zcs.action = none)
        ∧ ∀ o, s.windowOrbit orbit named = some o → r = .done stPending (le 6 o ++ le 1 (s.g R.global_STATE_MODE))
          ∧ u.zcs.action = some ⟨.stop, 0x0031, some h, o, [], none⟩))
  ∧ (∀ (h : Hdr) (s : State), s.Inv → takes (.graftDrill h) h 0x0051 s →
    ∃ u r, exec (.graftDrill h) s = .next (answer s u h 0x0051 r)
    ∧ u = { acting h s with zcs := { (acting h s).zcs with action := u.zcs.action } }
    ∧ (s.zcs.action.isSome = true → r = .bad stBusy ∧ u.zcs.action = s.zcs.action)
    ∧ (s.zcs.action = none → s.armed = false ∨ s.role ≠ 1 ∨ s.on R.graft_STAT_PEER_ELIGIBLE 0 = false →
        r = .done stDenied [] ∧ u.zcs.action = none)
    ∧ (s.zcs.action = none → s.armed = true → s.role = 1 → s.on R.graft_STAT_PEER_ELIGIBLE 0 = true →
        ∃ o, s.windowOrbit 0 false = some o ∧ r = .done stPending (le 6 (o + 3))
          ∧ u.zcs.action = some ⟨.drill, 0x0051, some h, o, [], none⟩))
  ∧ (∀ (h : Hdr) (resource value : Nat) (s : State), s.Inv → takes (.marginApply h resource value) h 0x0081 s →
    ∃ u r, exec (.marginApply h resource value) s = .next (answer s u h 0x0081 r)
    ∧ u = { acting h s with zcs := { (acting h s).zcs with action := u.zcs.action } }
    ∧ (s.zcs.action.isSome = true → r = .bad stBusy ∧ u.zcs.action = s.zcs.action)
    ∧ (s.zcs.action = none → s.marginOk resource value = false → r = .done stBadParam [] ∧ u.zcs.action = none)
    ∧ (s.zcs.action = none → s.marginOk resource value = true →
        ∃ o, s.windowOrbit 0 false = some o ∧ r = .done stPending []
          ∧ u.zcs.action = some ⟨.margin resource value, 0x0081, some h, o, [], none⟩))

/-- The commands that act (R364). A run of writes, or a modification, that is refused changes nothing (R363) but, where a
check refused it, the record of that check (R210); chunks of an image are joined, and its checks start with the last, or with
a fetch from flash (R371); the store's write waits its turn (R403); RANK_RETIRE marks its slot (R256); TIME_SET steps the
clock while it is not synchronised (R337); GRAFT_ARM arms or disarms (R419), but not a hub whose HUB_ID is 0 (R391);
SLOW_CONFIG stages (R319); TRIP_CLEAR clears both latches or neither (R329, R463); RESET waits for its orbit (R499). -/
def Obligations.CommandsThatAct : Prop :=
  (∀ (h : Hdr) (addr : Nat) (fixed : Bool) (words : List Word) (s : State), s.Inv → takes (.regWrite h addr fixed words) h 0x0011 s →
    ∃ u st b, exec (.regWrite h addr fixed words) s = .next (answer s u h 0x0011 (replyOf st b))
    ∧ (∀ x, s.runFault addr words.length 1018 fixed = some x → st = x ∧ b = [])
    ∧ (st ≠ stOk → b = [] → u = acting h s)
    ∧ (st ≠ stOk → u = { acting h s with cpu := u.cpu, freeCtr := u.freeCtr, hubQ := u.hubQ, regs := u.regs }
        ∧ (acting h s).fieldsBut u [R.bud_BSTAT_FAIL, R.bud_BSTAT_RING, R.bud_BSTAT_VALID, R.bud_BSTAT_ITEMS,
          R.bud_DEMAND_DEMAND, R.bud_CAPACITY_CAPACITY])
    ∧ (st = stOk → b = [])
    ∧ (∀ w, addr = R.global_SCRATCH_DATA.addr → words = [w] → s.reachable 0x000 = true →
        st = stOk ∧ s.regsBut u [(R.global_SCRATCH_DATA, 0)] ∧ u.g R.global_SCRATCH_DATA = w.toNat))
  ∧ (∀ (h : Hdr) (addr : Nat) (mask value : Word) (s : State), s.Inv → takes (.regModify h addr mask value) h 0x0012 s →
    ∃ u r, exec (.regModify h addr mask value) s = .next (answer s u h 0x0012 r)
    ∧ (∀ x, s.runFault addr 1 1 true = some x → u = acting h s ∧ r = .done x [])
    ∧ (addr = R.global_SCRATCH_DATA.addr → s.reachable 0x000 = true → s.g R.global_SCRATCH_DATA < 2 ^ 32 →
        s.regsBut u [(R.global_SCRATCH_DATA, 0)]
        ∧ u.g R.global_SCRATCH_DATA
          = ((BitVec.ofNat 32 (s.g R.global_SCRATCH_DATA) &&& ~~~mask) ||| (value &&& mask)).toNat
        ∧ r = .done stOk (le 4 (s.g R.global_SCRATCH_DATA) ++ le 4 (u.g R.global_SCRATCH_DATA))))
  ∧ (∀ (h : Hdr) (offset total : Nat) (bytes : List Byte) (s : State), s.Inv →
      takes (.imageLoad h offset total bytes) h 0x0020 s → bytes.length ≤ 4072 →
    ∃ u r, exec (.imageLoad h offset total bytes) s = .next (answer s u h 0x0020 r)
    ∧ (s.live = true → u = acting h s ∧ r = .done stDenied [])
    ∧ (s.live = false → s.boot.step < 10 → u = acting h s ∧ r = .bad stBusy)
    ∧ (s.live = false → 10 ≤ s.boot.step →
        (offset = 0 → 0 < total → bytes.length < total →
          r = .done stOk (le 4 bytes.length) ∧ u.image.load = some (total, bytes) ∧ u.zcs = (acting h s).zcs)
        ∧ (offset = 0 → 0 < total → bytes.length = total →
          (s.zcs.long.isSome = true → r = .bad stBusy ∧ u = acting h s)
          ∧ (s.zcs.long = none → r = .long ∧ u.image.load = none ∧ u.image.checking = some bytes
            ∧ u.zcs.long = some (h, 0x0020)))
        ∧ (∀ got, 0 < offset → s.image.load = some (total, got) → got.length = offset → offset + bytes.length < total →
          r = .done stOk (le 4 (offset + bytes.length)) ∧ u.image.load = some (total, got ++ bytes))
        ∧ (∀ got, 0 < offset → s.image.load = some (total, got) → got.length = offset → offset + bytes.length = total →
          (s.zcs.long.isSome = true → r = .bad stBusy ∧ u = acting h s)
          ∧ (s.zcs.long = none → r = .long ∧ u.image.load = none ∧ u.image.checking = some (got ++ bytes)
            ∧ u.zcs.long = some (h, 0x0020)))
        ∧ (0 < offset → 0 < total → s.image.load = none → u = acting h s ∧ r = .done stBadParam [])
        ∧ (∀ n got, 0 < offset → 0 < total → s.image.load = some (n, got) →
            n ≠ total ∨ got.length ≠ offset ∨ total < offset + bytes.length →
            r = .done stBadParam [] ∧ u.image = { s.image with load := none })
        ∧ (total = 0 → bytes = [] →
          (s.xspiMaster = false → u = acting h s ∧ r = .done stDenied [])
          ∧ (s.xspiMaster = true → s.zcs.long.isSome = true → u = acting h s ∧ r = .bad stBusy)
          ∧ (s.xspiMaster = true → s.zcs.long = none → r = .long ∧ u.image.fetching = true ∧ u.image.load = none
            ∧ u.zcs.long = some (h, 0x0020)))))
  ∧ (∀ (h : Hdr) (sec ns frac : Nat) (s : State), s.Inv → takes (.timeSet h sec ns frac) h 0x0040 s →
    ∃ u r, exec (.timeSet h sec ns frac) s = .next (answer s u h 0x0040 r)
    ∧ (s.on R.ptp_STAT_SYNC 0 = true → u = acting h s ∧ r = .done stDenied [])
    ∧ (s.on R.ptp_STAT_SYNC 0 = false → 10 ^ 9 ≤ ns → u = acting h s ∧ r = .done stBadParam [])
    ∧ (s.on R.ptp_STAT_SYNC 0 = false → ns < 10 ^ 9 → r = .done stOk []
        ∧ u = { acting h s with regs := u.regs, cpu := u.cpu, freeCtr := u.freeCtr, hubQ := u.hubQ
                                wall := { s.wall with sec := sec % 2 ^ 48, ns := ns, frac := frac % 65536 * 2 ^ 32
                                                      anchors := u.wall.anchors, stepped := true, setCold := true } }
        ∧ s.regsBut u [(R.ptp_STAT_TIME_VALID, 0)] ∧ u.g R.ptp_STAT_TIME_VALID = 1))
  ∧ (∀ (h : Hdr) (s : State), s.Inv → takes (.phaseCalibrate h) h 0x0041 s →
    ∃ u r, exec (.phaseCalibrate h) s = .next (answer s u h 0x0041 r)
    ∧ (s.zcs.long.isSome = true ∨ s.trellis.probe.calibApply.isSome = true → u = acting h s ∧ r = .bad stBusy)
    ∧ (s.zcs.long = none → s.trellis.probe.calibApply = none → r = .long ∧ u.zcs.long = some (h, 0x0041)
        ∧ u.trellis = { s.trellis with probe := { s.trellis.probe with calib := some [], calibHdr := some h } }))
  ∧ (∀ (h : Hdr) (pref peer : Nat) (s : State), s.Inv → takes (.graftArm h pref peer) h 0x0050 s →
    ∃ u r, exec (.graftArm h pref peer) s = .next (answer s u h 0x0050 r)
    ∧ (3 ≤ pref ∨ s.g R.global_HUB_ID_ID = 0 → u = acting h s ∧ r = .done stBadParam [])
    ∧ (pref = 2 → s.g R.global_HUB_ID_ID ≠ 0 → s.live = true → u = acting h s ∧ r = .done stDenied [])
    ∧ (pref = 2 → s.g R.global_HUB_ID_ID ≠ 0 → s.live = false → r = .done stOk []
        ∧ u.g R.graft_CFG_ARMED = 0 ∧ u.g R.graft_CFG_PREF = 2
        ∧ u.g R.graft_STAT_ROLE = 0 ∧ u.g R.graft_STAT_PEER_ELIGIBLE = 0 ∧ u.graft.takeAt = none)
    ∧ (pref < 2 → peer = s.g R.global_HUB_ID_ID ∨ (s.p R.graft_CFG_ARMED 1).ringsOk = false →
        u = acting h s ∧ r = .done stBadParam [])
    ∧ (pref < 2 → s.g R.global_HUB_ID_ID ≠ 0 → peer ≠ s.g R.global_HUB_ID_ID → (s.p R.graft_CFG_ARMED 1).ringsOk = true →
        r = .done stOk [] ∧ u.g R.graft_CFG_ARMED = 1 ∧ u.g R.graft_CFG_PREF = pref
        ∧ u.g R.graft_CFG_PEER_ID = peer % 2 ^ 16 ∧ u.g R.graft_STAT_RELEASED = 0
        ∧ u.g R.graft_STAT_ROLE = if s.role = 1 then 1 else 2))
  ∧ (∀ (h : Hdr) (port slot : Nat) (s : State), s.Inv → takes (.rankRetire h port slot) h 0x0060 s →
    ∃ u r, exec (.rankRetire h port slot) s = .next (answer s u h 0x0060 r)
    ∧ (8 ≤ port ∨ 3 ≤ slot → u = acting h s ∧ r = .done stBadParam [])
    ∧ (port < 8 → slot < 3 → r = .done stOk [])
    ∧ (port < 8 → slot < 3 → s.trellis.everLocked = true →
        u = { acting h s with regs := u.regs, cpu := u.cpu, freeCtr := u.freeCtr, hubQ := u.hubQ, mem := u.mem }
        ∧ u.mem.cells = s.mem.cells
        ∧ u.gi R.spare_SLOT_HEALTH_CAUSE (hInst port slot) = (if s.gi R.spare_SLOT_HEALTH_CAUSE (hInst port slot) = 0
            then 6 else s.gi R.spare_SLOT_HEALTH_CAUSE (hInst port slot))))
  ∧ (∀ (h : Hdr) (offset : Nat) (bytes : List Byte) (s : State), s.Inv → takes (.nvmWrite h offset bytes) h 0x0071 s →
    ∃ u r, exec (.nvmWrite h offset bytes) s = .next (answer s u h 0x0071 r)
    ∧ (bytes.length = 0 ∨ 1024 < bytes.length ∨ 448 * 4096 < offset + bytes.length
        ∨ 4096 < offset % 4096 + bytes.length → u = acting h s ∧ r = .done stBadParam [])
    ∧ (0 < bytes.length → bytes.length ≤ 1024 → offset + bytes.length ≤ 448 * 4096 →
        offset % 4096 + bytes.length ≤ 4096 →
        (s.pd 3 = false → u = acting h s ∧ r = .done stDenied [])
        ∧ (s.pd 3 = true → s.on R.nvm_STORE_STAT_WORN 0 = true → u = acting h s ∧ r = .done stWorn [])
        ∧ (s.pd 3 = true → s.on R.nvm_STORE_STAT_WORN 0 = false → s.zcs.long.isSome = true →
            u = acting h s ∧ r = .bad stBusy)
        ∧ (s.pd 3 = true → s.on R.nvm_STORE_STAT_WORN 0 = false → s.zcs.long = none → r = .long
            ∧ u.zcs = { (acting h s).zcs with long := some (h, 0x0071) }
            ∧ u.nvm = { s.nvm with ops := s.nvm.ops.take 1 ++ ⟨offset / 4096,
                overwriteAt (s.sectorBytes (offset / 4096)) (offset % 4096) bytes, true⟩ :: s.nvm.ops.drop 1 })))
  ∧ (∀ (h : Hdr) (ch : Nat) (cfg p0 p1 p2 : Word) (s : State), s.Inv → takes (.slowConfig h ch cfg p0 p1 p2) h 0x0090 s →
    ∃ u r, exec (.slowConfig h ch cfg p0 p1 p2) s = .next (answer s u h 0x0090 r)
    ∧ (96 ≤ ch → u = acting h s ∧ r = .done stBadParam [])
    ∧ (ch < 96 → s.notOwner (.session h.session) = true → u = acting h s ∧ r = .done stDenied [])
    ∧ (ch < 96 → s.notOwner (.session h.session) = false → r = .done stOk []
        ∧ u.zcs.owner = some (.session h.session) ∧ s.regsBut u []
        ∧ (∀ f ∈ fieldsAt 0x00E 0x048, ⟨0x00E, f, ch, bitsAt cfg.toNat f.lsb f.width⟩ ∈ u.zcs.staged)
        ∧ ⟨0x00E, R.slow_PARAM_VALUE, ch * 4, p0.toNat⟩ ∈ u.zcs.staged
        ∧ ⟨0x00E, R.slow_PARAM_VALUE, ch * 4 + 1, p1.toNat⟩ ∈ u.zcs.staged
        ∧ ⟨0x00E, R.slow_PARAM_VALUE, ch * 4 + 2, p2.toNat⟩ ∈ u.zcs.staged))
  ∧ (∀ (h : Hdr) (safe power : Bool) (s : State), s.Inv → takes (.tripClear h safe power) h 0x0091 s →
    ∃ u r, exec (.tripClear h safe power) s = .next (answer s u h 0x0091 r)
    ∧ ((safe = true ∧ s.safeMayClear (s.arrivedAt h 0x0091) = false) ∨ (power = true ∧ s.tripMayClear = false) →
        r = .done stTrip [] ∧ u = { acting h s with regs := u.regs }
        ∧ s.regsBut u [(R.il_SAFE_STAT_REFUSED, 0), (R.trip_PTRIP_STAT_REFUSED, 0)])
    ∧ ((safe = false ∨ s.safeMayClear (s.arrivedAt h 0x0091) = true) → (power = false ∨ s.tripMayClear = true) →
        r = .done stOk []
        ∧ (safe = true → u.g R.il_SAFE_STAT_LATCH = 0)
        ∧ (power = true → u.g R.trip_PTRIP_STAT_LATCH = 0
            ∧ (s.on R.trip_PTRIP_STAT_LATCH 0 = true → u.boot = { s.boot with restart := true }
              ∧ u.g R.trip_CAUSE_PTRIP = 0 ∧ u.g R.trip_CAUSE_VINT_OV = 0 ∧ u.g R.trip_CAUSE_PHASE_OC = 0
              ∧ u.g R.trip_CAUSE_OVERTEMP = 0 ∧ u.g R.power_CONV_STAT_LATCHED = 0))
        ∧ (power = false → u.boot = s.boot ∧ u.g R.trip_PTRIP_STAT_LATCH = s.g R.trip_PTRIP_STAT_LATCH)))
  ∧ (∀ (h : Hdr) (tests : Word) (s : State), s.Inv → takes (.selftest h tests) h 0x00A0 s →
    ∃ u r, exec (.selftest h tests) s = .next (answer s u h 0x00A0 r)
    ∧ (s.live = true → u = acting h s ∧ r = .done stDenied [])
    ∧ (s.live = false → s.zcs.long.isSome = true → u = acting h s ∧ r = .bad stBusy)
    ∧ (s.live = false → s.zcs.long = none → r = .long ∧ u = { acting h s with
        zcs := { (acting h s).zcs with long := some (h, 0x00A0), tests := tests.toNat } }))
  ∧ (∀ (h : Hdr) (kind : Nat) (s : State), s.Inv → takes (.reset h kind) h 0x00FF s →
    ∃ u r, exec (.reset h kind) s = .next (answer s u h 0x00FF r)
    ∧ (1 < kind → u = acting h s ∧ r = .done stBadParam [])
    ∧ (kind ≤ 1 → s.armed = true → s.role = 1 → u = acting h s ∧ r = .done stDenied [])
    ∧ (kind ≤ 1 → s.armed = false ∨ s.role ≠ 1 → r = .done stOk [] ∧ u = { acting h s with
        boot := { s.boot with req := some (if kind = 1 ∧ s.boot.everReady = true then 3 else 2,
          if s.live then s.trellis.orbit + 1 else 0) } }))

/-- Long commands end and are answered, and their tag is free for a retry (R360). A loaded image that passes every check of
R371 is in effect at once: copied, with its CRC, the mode base and the staged set discarded; one that does not leaves the
image in effect. A fetch that is to restore a copy lost in memory does so (R253). A sector's write ends with its contents in
the transfer sector, under a sound check word and the next version, or retires it (R402 to R405). A session silent for longer
than its lease closes, and its staged values go (R356, R367). An opcode that R364 lacks is answered BAD_OPCODE (R355), which
renews its session's lease like any message (R356). -/
def Obligations.CommandsEnd : Prop :=
  (∀ (flash : Option (FlashIn × List Byte)) (s : State), s.Inv → ∃ t, exec (.imageLoadComplete flash) s = .next t
    ∧ (((∀ h, s.zcs.long ≠ some (h, 0x0020)) ∧ (flash = none ∨ s.image.refetch = false))
        ∨ ((∃ h, s.zcs.long = some (h, 0x0020)) ∧ ((s.image.fetching = false ∧ s.image.checking = none)
          ∨ (s.image.fetching = true ∧ flash = none))) → t = s)
    ∧ (∀ d b, (∀ h, s.zcs.long ≠ some (h, 0x0020)) → s.image.refetch = true → flash = some (d, b) →
        (s.discover d).imageDevice d = true → (s.discover d).xspi.abandoned = false →
        t.image = { s.image with copy := some (flashImage b), refetch := false })
    ∧ (∀ h l, s.zcs.long = some (h, 0x0020) → s.image.fetching = false → s.image.checking = some l →
        t.zcs.long = none ∧ t.image.checking = none
        ∧ (s.live = true → t.image.copy = s.image.copy ∧ t.zcs.staged = s.zcs.staged)
        ∧ (∀ ss, s.live = false → s.checkImage l = .ok ss → t.image.copy = some l ∧ t.image.crc = leAt l 12 4
            ∧ t.g R.global_STATE_MODE = 0xFF ∧ t.g R.global_STATE_MODE_PREV = 0xFF ∧ t.zcs.staged = []
            ∧ t.g R.spare_DEGRADE_IMAGE_LOST = 0)
        ∧ (∀ e, s.live = false → s.checkImage l = .error e → t.image = { s.image with checking := none }
            ∧ s.fieldsBut t (errFields ++ [R.comp_LOAM_ERR_CODE, R.comp_LOAM_ERR_OFFSET, R.xspi_SLV_CNT_RESP_LOST])
            ∧ t.zcs.staged = s.zcs.staged)))
  ∧ (∀ (pulses : Nat) (failed : Bool) (s : State), s.Inv → ∃ t, exec (.nvmWriteDone pulses failed) s = .next t
    ∧ t = { s with cpu := t.cpu, freeCtr := t.freeCtr, harvest := t.harvest, hubQ := t.hubQ, lanesH := t.lanesH
                   nvm := t.nvm, outbox := t.outbox, regs := t.regs, xspi := t.xspi, zcs := t.zcs }
    ∧ (s.writing = false → t = s)
    ∧ (∀ o l, s.nvm.ops = o :: l → s.writing = true →
        t.gi R.nvm_SEC_ERASES_COUNT s.nvm.transfer
          = (s.gi R.nvm_SEC_ERASES_COUNT s.nvm.transfer + 1) % 2 ^ R.nvm_SEC_ERASES_COUNT.width
        ∧ t.gi R.nvm_SEC_STAT_LAST_PULSES s.nvm.transfer = cap 255 pulses
        ∧ (failed = false → t.g R.nvm_WRITES_COUNT = (s.g R.nvm_WRITES_COUNT + 1) % 2 ^ R.nvm_WRITES_COUNT.width
            ∧ ((∀ p, s.physOf o.logical = some p → p ∉ s.nvm.worn ∧ p ≠ s.nvm.transfer) → t.nvm.ops = l
              ∧ (t.sectorAt s.nvm.transfer).data = o.data ∧ (t.sectorAt s.nvm.transfer).ok = true
              ∧ (t.sectorAt s.nvm.transfer).version = s.nextVersion o.logical ∧ t.secState s.nvm.transfer = 0)
            ∧ (o.zcs = true → ∀ h, s.zcs.long = some (h, 0x0071) → t.zcs.long = none))
        ∧ (failed = true → t.secState s.nvm.transfer = 3
            ∧ ((∃ p ∈ s.freeSecs, p ≠ s.nvm.transfer) → t.nvm.sectors = s.nvm.sectors ∧ t.nvm.ops = s.nvm.ops)
            ∧ (t.nvm.transfer = 1023 → o.zcs = true → ∀ h, s.zcs.long = some (h, 0x0071) → t.zcs.long = none))))
  ∧ (∀ (failed : Word) (s : State), s.Inv → ∃ t, exec (.selftestDone failed) s = .next t
    ∧ t = { s with freeCtr := t.freeCtr, harvest := t.harvest, lanesH := t.lanesH, outbox := t.outbox, regs := t.regs
                   xspi := t.xspi, zcs := t.zcs }
    ∧ ((∀ h, s.zcs.long ≠ some (h, 0x00A0)) → t = s)
    ∧ (∀ h, s.zcs.long = some (h, 0x00A0) → t.zcs.long = none
        ∧ ∃ u, leaves s u h (zcsMessage h 0x00A0 1 stOk (le 4 (failed.toNat &&& s.zcs.tests) ++ le 4 s.zcs.tests))
          ∧ t = { u with zcs := t.zcs }))
  ∧ (∀ (id : BitVec 32) (s : State), s.Inv → ∃ t, exec (.sessionLeaseExpiry id) s = .next t
    ∧ t = { s with cpu := t.cpu, freeCtr := t.freeCtr, hubQ := t.hubQ, zcs := t.zcs }
    ∧ (id ≠ 0 → s.session id = none → t = s)
    ∧ (∀ x, id ≠ 0 → s.session id = some x → s.nowNs ≤ x.last + x.leaseNs → t = s)
    ∧ (∀ x, id ≠ 0 → s.session id = some x → x.last + x.leaseNs < s.nowNs →
        t.session id = none ∧ (∀ j, j ≠ id → t.session j = s.session j)
        ∧ (s.zcs.owner = some (.session id) → t.zcs.staged = [] ∧ t.zcs.owner = none)
        ∧ (s.zcs.owner ≠ some (.session id) → t.zcs.staged = s.zcs.staged ∧ t.zcs.owner = s.zcs.owner))
    ∧ (id = 0 → s.nowNs ≤ s.zcs.slaveNs + 10000000000 ∨ s.zcs.owner ≠ some .xspi → t = s)
    ∧ (id = 0 → s.zcs.slaveNs + 10000000000 < s.nowNs → s.zcs.owner = some .xspi →
        t.zcs.staged = [] ∧ t.zcs.owner = none ∧ t.zcs.sessions = s.zcs.sessions))
  ∧ (∀ (h : Hdr) (op : Nat) (s : State), s.Inv → ∃ t, exec (.zcsUnknownOpcode h op) s = .next t
    ∧ (s.on R.cpu_PAIR_STAT_CMD_RUN 0 = false ∨ op ∈ opcodes → t = s)
    ∧ (s.on R.cpu_PAIR_STAT_CMD_RUN 0 = true → op ∉ opcodes → leaves (s.renew h.session) t h (zcsMessage h op 1 stBadOpcode [])))

/-- A new quiet window takes effect from the next orbit boundary; a window of the committing orbit starts at its old slot
and keeps its old length (R40). A new M takes effect at the first orbit that is a whole multiple of it: a frame starts there
and at no other boundary (R42, log entry 65). -/
def Obligations.QuietWindowAndFrameChanges : Prop :=
  (∀ s : State, s.Inv → s.counting = true → s.trellis.ran = true → s.nSlot ≤ s.trellis.slot + 1 →
    s.trellis.orbit + 1 < 2 ^ 48 → ∃ t, exec .orbitBoundary s = .next t
    ∧ t.trellis.qwFirst = s.g R.trellis_QUIET_QW_FIRST ∧ t.trellis.qwLen = s.g R.trellis_QUIET_QW_LEN
    ∧ (0 < s.g R.trellis_MFRAME_MF_ORBITS → (s.trellis.orbit + 1) % s.g R.trellis_MFRAME_MF_ORBITS = 0 →
        t.trellis.mNow = s.g R.trellis_MFRAME_MF_ORBITS ∧ t.trellis.frameDue = true)
    ∧ (s.g R.trellis_MFRAME_MF_ORBITS = 0 ∨ (s.trellis.orbit + 1) % s.g R.trellis_MFRAME_MF_ORBITS ≠ 0 →
        t.trellis.mNow = s.trellis.mNow ∧ t.trellis.frameDue = false))
  ∧ (∀ (q : QuietIn) (s : State), s.Inv → ∃ t, exec (.quietWindowStart q) s = .next t
    ∧ t.trellis.qwFirst = s.trellis.qwFirst ∧ t.trellis.qwLen = s.trellis.qwLen ∧ t.trellis.mNow = s.trellis.mNow
    ∧ (t.trellis.inWindow = true → s.trellis.inWindow = false → t.trellis.slot = s.trellis.qwFirst))

/-- A hub without sessions, caches and commands that wait for their answer or their window. -/
def noCommands (t : State) : Prop :=
  t.zcs.sessions = [] ∧ t.zcs.queue = [] ∧ t.zcs.action = none ∧ t.zcs.long = none ∧ t.zcs.staged = [] ∧ t.boot.req = none

/-- Every reset kind closes every session, whose caches go with it, and drops every command that waits for its quiet window
(R359): the operation that all resets share, and the commands that always reset. -/
def Obligations.ResetsCloseSessions : Prop :=
  (∀ (kind : Nat) (s : State), s.Inv → noCommands (s.resetTo kind))
  ∧ (∀ (low : Nat) (s : State), s.Inv → 10000 ≤ low → s.power.unpowered = false → s.power.saving = none →
    ∃ t, exec (.resetNAssert low) s = .next t ∧ noCommands t)
  ∧ (∀ (o : Nat × Nat) (s : State), s.Inv → s.boot.req = some o → s.live = false ∨ o.2 ≤ s.trellis.orbit →
    ∃ t, exec .resetTakeEffect s = .next t ∧ noCommands t)
  ∧ (∀ s : State, s.Inv → s.boot.restart = true → ∃ t, exec .resetTakeEffect s = .next t ∧ noCommands t)
  ∧ (∀ s : State, s.Inv → ∃ t, exec .watchdogExpiry s = .next t ∧ noCommands t)
  ∧ (∀ s : State, s.Inv → s.on R.cpu_PAIR_STAT_TND_RUN 0 = true →
    ∃ t, exec (.romRecheck false) s = .next t ∧ noCommands t)
  ∧ (∀ (l : List Nat) (w : Nat) (s : State), s.Inv → ∃ t, exec (.sramScrubPass l (some w)) s = .next t ∧ noCommands t)
  ∧ (∀ s : State, s.Inv → s.power.unpowered = true ∨ (s.power.pfail = true ∧ s.power.saving = none) →
    ∃ t, exec .powerRestore s = .next t ∧ noCommands t)
  ∧ (∀ s : State, s.Inv → s.power.unpowered = false → ∃ t, exec .powerLoss s = .next t ∧ noCommands t)

/-- TIMING.MODE selects the mode; while the hub streams, a write that would change it is ignored and counted (R32). -/
def Obligations.TimingModeFixedWhileStreaming : Prop :=
  (∀ s : State, s.embedded = decide (s.g R.trellis_TIMING_MODE ≠ 0))
  ∧ (∀ (who : Actor) (w : Word) (s : State), s.Inv → s.reachable 0x001 = true → s.notOwner who = false →
    ∃ t, exec (.registerWrite who 0x001040 w) s = .next t
    ∧ (s.live = true → s.g R.trellis_TIMING_MODE ≠ w.toNat % 2 →
        t.g R.trellis_TIMING_MODE = s.g R.trellis_TIMING_MODE ∧ t.embedded = s.embedded
        ∧ t.gi R.hdr_ERR_COUNT_COUNT 0x001 = cap 65535 (s.gi R.hdr_ERR_COUNT_COUNT 0x001 + 1)
        ∧ t.gi R.hdr_ERR_CAPT_CAUSE 0x001 = 2)
    ∧ (s.live = false ∨ s.g R.trellis_TIMING_MODE = w.toNat % 2 → t.g R.trellis_TIMING_MODE = w.toNat % 2
        ∧ t.gi R.hdr_ERR_COUNT_COUNT 0x001 = s.gi R.hdr_ERR_COUNT_COUNT 0x001))

/-- Retirement is decided per port: a slot retired is suspect on its partner port, whose slots stay as they are (R16, R257). -/
def Obligations.RetirementIsPerPort : Prop :=
  (∀ (m slot cause : Nat) (s : State), s.Inv → m < 8 → slot < 3 →
    (s.gi R.spare_SLOT_HEALTH_CAUSE (hInst m slot) ≠ 0 → s.retire m slot cause = s)
    ∧ (s.gi R.spare_SLOT_HEALTH_CAUSE (hInst m slot) = 0 →
        (s.retire m slot cause).gi R.spare_SLOT_HEALTH_CAUSE (hInst m slot)
          = cause % 2 ^ R.spare_SLOT_HEALTH_CAUSE.width
        ∧ (s.retire m slot cause).gi R.spare_SLOT_HEALTH_PAIR_SUSPECT
            (hInst (if m % 2 = 0 then m + 1 else m - 1) slot) = 1)
    ∧ ∀ n x, n < 8 → x < 3 → n ≠ m →
        (s.retire m slot cause).gi R.spare_SLOT_HEALTH_CAUSE (hInst n x) = s.gi R.spare_SLOT_HEALTH_CAUSE (hInst n x)
        ∧ (s.retire m slot cause).mp n = s.mp n
        ∧ ∀ f ∈ [R.mport_SLOT_STAT_A, R.mport_SLOT_STAT_B, R.mport_SLOT_STAT_C],
            (s.retire m slot cause).gi f (mInst n) = s.gi f (mInst n))
  ∧ (∀ (h : Hdr) (m slot : Nat) (s : State), s.Inv → takes (.rankRetire h m slot) h 0x0060 s → m < 8 → slot < 3 →
    ∃ u, exec (.rankRetire h m slot) s = .next (answer s u h 0x0060 (.done stOk []))
    ∧ (s.gi R.spare_SLOT_HEALTH_CAUSE (hInst m slot) = 0 →
        u.gi R.spare_SLOT_HEALTH_PAIR_SUSPECT (hInst (if m % 2 = 0 then m + 1 else m - 1) slot) = 1)
    ∧ ∀ n x, n < 8 → x < 3 → n ≠ m →
        u.gi R.spare_SLOT_HEALTH_CAUSE (hInst n x) = s.gi R.spare_SLOT_HEALTH_CAUSE (hInst n x))
end

