-- ==== Sys2Proof/Laws/Map.lean ====
section
/-! SUPPORT. Sparse maps: reads after writes, and the form that writes keep. -/
namespace Sys2Proof.Machine

theorem mwf_mono {lo lo' : Nat} {m : NMap} (hle : lo' ≤ lo) (h : mwf lo m = true) : mwf lo' m = true := by
  cases m with
  | nil => rfl
  | cons x m => simp only [mwf, Bool.and_eq_true, decide_eq_true_eq] at h ⊢; exact ⟨by omega, h.2⟩

/-- A key below every listed one is unlisted. -/
theorem mget_below {d lo key : Nat} {m : NMap} (h : mwf lo m = true) (hk : key < lo) : mget d m key = d := by
  cases m with
  | nil => rfl
  | cons x m =>
    simp only [mwf, Bool.and_eq_true, decide_eq_true_eq] at h
    simp only [mget]
    rw [if_neg (by omega), if_pos (by omega)]

/-- A write reads back. -/
theorem mget_mput_same {d lo key v : Nat} {m : NMap} (h : mwf lo m = true) : mget d (mput d m key v) key = v := by
  induction m generalizing lo with
  | nil => simp only [mput]; split <;> simp [mget, *]
  | cons x m ih =>
    simp only [mwf, Bool.and_eq_true, decide_eq_true_eq] at h
    simp only [mput]
    split
    · next e =>
      split
      · next hv => rw [mget_below h.2 (by omega), hv]
      · simp [mget, e]
    · split
      · split
        · next hv => simp [mget, *]
        · simp [mget]
      · simp only [mget]; rw [if_neg (by assumption), if_neg (by assumption)]; exact ih h.2

/-- A write leaves every other key. -/
theorem mget_mput_other {d d' lo key key' v : Nat} {m : NMap} (h : mwf lo m = true) (hk : key' ≠ key) :
    mget d' (mput d m key v) key' = mget d' m key' := by
  induction m generalizing lo with
  | nil => simp only [mput]; split <;> simp [mget]; omega
  | cons x m ih =>
    simp only [mwf, Bool.and_eq_true, decide_eq_true_eq] at h
    simp only [mput]
    split
    · next e =>
      split
      · simp only [mget]
        rw [if_neg (by omega)]
        split
        · exact mget_below h.2 (by omega)
        · rfl
      · simp only [mget, if_neg (show ¬ x.1 = key' by omega)]
    · split
      · split
        · rfl
        · simp only [mget]
          rw [if_neg (by omega)]
          split
          · rw [if_neg (by omega), if_pos (by omega)]
          · rfl
      · simp only [mget]
        split
        · rfl
        · split
          · rfl
          · exact ih h.2

/-- Writes keep the form. -/
theorem mwf_mput {d lo key v : Nat} {m : NMap} (h : mwf lo m = true) (hk : lo ≤ key) : mwf lo (mput d m key v) = true := by
  induction m generalizing lo with
  | nil => simp only [mput]; split <;> simp [mwf, hk]
  | cons x m ih =>
    simp only [mwf, Bool.and_eq_true, decide_eq_true_eq] at h
    simp only [mput]
    split
    · split
      · exact mwf_mono (by omega) h.2
      · simp only [mwf, Bool.and_eq_true, decide_eq_true_eq]; exact h
    · split
      · split
        · simp only [mwf, Bool.and_eq_true, decide_eq_true_eq]; exact h
        · simp only [mwf, Bool.and_eq_true, decide_eq_true_eq]; exact ⟨hk, by omega, h.2⟩
      · simp only [mwf, Bool.and_eq_true, decide_eq_true_eq]
        exact ⟨h.1, ih h.2 (by omega)⟩

/-- Dropping entries keeps the form. -/
theorem mwf_filter {lo : Nat} {m : NMap} (p : Nat × Nat → Bool) (h : mwf lo m = true) : mwf lo (m.filter p) = true := by
  induction m generalizing lo with
  | nil => rfl
  | cons x m ih =>
    simp only [mwf, Bool.and_eq_true, decide_eq_true_eq] at h
    simp only [List.filter]
    split
    · simp only [mwf, Bool.and_eq_true, decide_eq_true_eq]; exact ⟨h.1, ih h.2⟩
    · exact ih (mwf_mono (by omega) h.2)

theorem mwf_mapSet {m : NMap} (f : Fld) (idx v : Nat) (h : mwf 0 m = true) : mwf 0 (mapSet m f idx v) = true :=
  mwf_mput h (Nat.zero_le _)

theorem Fld.key_eq (f : Fld) (i : Nat) : f.key i = f.base * 2 ^ 20 + i % 2 ^ 20 := rfl

theorem Fld.key_ne_of_base {f g : Fld} {i j : Nat} (h : g.base ≠ f.base) : g.key j ≠ f.key i := by
  simp only [Fld.key_eq]
  have := Nat.mod_lt i (show 0 < 2 ^ 20 by decide)
  have := Nat.mod_lt j (show 0 < 2 ^ 20 by decide)
  omega

theorem Fld.key_ne_of_idx {f : Fld} {i j : Nat} (hi : i < 2 ^ 20) (hj : j < 2 ^ 20) (h : j ≠ i) : f.key j ≠ f.key i := by
  simp only [Fld.key_eq, Nat.mod_eq_of_lt hi, Nat.mod_eq_of_lt hj]; omega

/-- A field instance written reads back, cut to the field's width. -/
theorem State.gi_pi_same {s : State} (h : mwf 0 s.regs = true) (f : Fld) (i v : Nat) :
    (s.pi f i v).gi f i = v % 2 ^ f.width := mget_mput_same h

/-- A write of one field leaves the others. -/
theorem State.gi_pi_other {s : State} (h : mwf 0 s.regs = true) {f g : Fld} (hb : g.base ≠ f.base) (i j v : Nat) :
    (s.pi f i v).gi g j = s.gi g j := mget_mput_other h (Fld.key_ne_of_base hb)

/-- A write of one instance leaves the others. -/
theorem State.gi_pi_instance {s : State} (h : mwf 0 s.regs = true) {f : Fld} {i j : Nat} (hi : i < 2 ^ 20)
    (hj : j < 2 ^ 20) (hne : j ≠ i) (v : Nat) : (s.pi f i v).gi f j = s.gi f j :=
  mget_mput_other h (Fld.key_ne_of_idx hi hj hne)

end Sys2Proof.Machine
end

