-- ==== Sys2Proof/Laws/Memory.lean ====
section
/-! SUPPORT. Stream memory: every operation on bytes keeps the canonical form; reads after writes. -/
namespace Sys2Proof.Machine

theorem memWf_mono {lo lo' : Nat} {m : List Host.Cell} (hle : lo' ≤ lo) (h : memWf lo m = true) : memWf lo' m = true := by
  cases m with
  | nil => rfl
  | cons x m =>
    simp only [memWf, Bool.and_eq_true, decide_eq_true_eq] at h ⊢
    exact ⟨⟨by omega, h.1.2⟩, h.2⟩

theorem memGet_below {lo a : Nat} {m : List Host.Cell} (h : memWf lo m = true) (ha : a < lo) : memGet m a = memDefault a := by
  cases m with
  | nil => rfl
  | cons x m =>
    simp only [memWf, Bool.and_eq_true, decide_eq_true_eq] at h
    simp only [memGet]
    rw [if_neg (by omega), if_pos (by omega)]

/-- A byte written reads back. -/
theorem memGet_memPut_same {lo a : Nat} {v : Byte} {m : List Host.Cell} (h : memWf lo m = true) :
    memGet (memPut m a v) a = v := by
  induction m generalizing lo with
  | nil => simp only [memPut]; split <;> simp [memGet, *]
  | cons x m ih =>
    simp only [memWf, Bool.and_eq_true, decide_eq_true_eq] at h
    simp only [memPut]
    split
    · split
      · next hv => rw [memGet_below h.2 (by omega), hv]
      · simp [memGet, *]
    · split
      · split
        · next hv => simp [memGet, *]
        · simp [memGet]
      · simp only [memGet]; rw [if_neg (by assumption), if_neg (by assumption)]; exact ih h.2

/-- A byte written leaves every other byte. -/
theorem memGet_memPut_other {lo a b : Nat} {v : Byte} {m : List Host.Cell} (h : memWf lo m = true) (hb : b ≠ a) :
    memGet (memPut m a v) b = memGet m b := by
  induction m generalizing lo with
  | nil => simp only [memPut]; split <;> simp [memGet]; omega
  | cons x m ih =>
    simp only [memWf, Bool.and_eq_true, decide_eq_true_eq] at h
    simp only [memPut]
    split
    · split
      · simp only [memGet]
        rw [if_neg (by omega)]
        split
        · exact memGet_below h.2 (by omega)
        · rfl
      · simp only [memGet, if_neg (show ¬ x.1 = b by omega)]
    · split
      · split
        · rfl
        · simp only [memGet]
          rw [if_neg (by omega)]
          split
          · rw [if_neg (by omega), if_pos (by omega)]
          · rfl
      · simp only [memGet]
        split
        · rfl
        · split
          · rfl
          · exact ih h.2

/-- A byte written keeps the form. -/
theorem memWf_memPut {lo a : Nat} {v : Byte} {m : List Host.Cell} (h : memWf lo m = true) (ha : lo ≤ a) :
    memWf lo (memPut m a v) = true := by
  induction m generalizing lo with
  | nil =>
    simp only [memPut]
    split
    · rfl
    · next hv => simp [memWf, ha, bne_iff_ne, hv]
  | cons x m ih =>
    simp only [memWf, Bool.and_eq_true, decide_eq_true_eq] at h
    simp only [memPut]
    split
    · next hk =>
      subst hk
      split
      · exact memWf_mono (by omega) h.2
      · next hv => simp only [memWf, Bool.and_eq_true, decide_eq_true_eq, bne_iff_ne]; exact ⟨⟨h.1.1, hv⟩, h.2⟩
    · split
      · split
        · simp only [memWf, Bool.and_eq_true, decide_eq_true_eq]; exact h
        · next hv =>
          simp only [memWf, Bool.and_eq_true, decide_eq_true_eq]
          exact ⟨⟨ha, bne_iff_ne.mpr hv⟩, ⟨by omega, h.1.2⟩, h.2⟩
      · simp only [memWf, Bool.and_eq_true, decide_eq_true_eq]
        exact ⟨h.1, ih h.2 (by omega)⟩

/-- Bytes written keep the form. -/
theorem memWf_memWrite {m : List Host.Cell} (l : List Byte) (a : Nat) (h : memWf 0 m = true) :
    memWf 0 (memWrite m a l) = true := by
  induction l generalizing a m with
  | nil => exact h
  | cons b l ih => exact ih (a + 1) (memWf_memPut h (Nat.zero_le _))

/-- Cells dropped keep the form. -/
theorem memWf_filter {lo : Nat} {m : List Host.Cell} (p : Host.Cell → Bool) (h : memWf lo m = true) :
    memWf lo (m.filter p) = true := by
  induction m generalizing lo with
  | nil => rfl
  | cons x m ih =>
    simp only [memWf, Bool.and_eq_true, decide_eq_true_eq] at h
    simp only [List.filter]
    split
    · simp only [memWf, Bool.and_eq_true, decide_eq_true_eq]; exact ⟨h.1, ih h.2⟩
    · exact ih (memWf_mono (by omega) h.2)

/-- Bytes written read back, and every byte outside them reads as before. -/
theorem memGet_memWrite {m : List Host.Cell} (l : List Byte) (a b : Nat) (h : memWf 0 m = true) :
    memGet (memWrite m a l) b = if a ≤ b ∧ b < a + l.length then l.getD (b - a) (memDefault b) else memGet m b := by
  induction l generalizing a m with
  | nil => rw [if_neg (by simp only [List.length_nil]; omega)]; rfl
  | cons x l ih =>
    simp only [memWrite]
    rw [ih (a + 1) (memWf_memPut h (Nat.zero_le _))]
    by_cases hb : b = a
    · subst hb
      rw [if_neg (by omega), if_pos (by simp), memGet_memPut_same h]
      simp
    · simp only [List.length_cons]
      by_cases hin : a + 1 ≤ b ∧ b < a + 1 + l.length
      · rw [if_pos hin, if_pos (by omega)]
        obtain ⟨k, rfl⟩ : ∃ k, b = a + 1 + k := ⟨b - (a + 1), by omega⟩
        rw [show a + 1 + k - (a + 1) = k by omega, show a + 1 + k - a = k + 1 by omega]
        simp
      · rw [if_neg hin, if_neg (by omega), memGet_memPut_other h hb]

end Sys2Proof.Machine
end

