-- ==== Sys2Proof/Laws/Frame.lean ====
section
/-! SUPPORT. Reads after writes and the frames of Safety.lean, for each named operation on registers and memory. -/
namespace Sys2Proof.Machine

theorem Fld.key_ne {f g : Fld} {i j : Nat} (h : g.base ≠ f.base ∨ j % 2 ^ 20 ≠ i % 2 ^ 20) : g.key j ≠ f.key i := by
  simp only [Fld.key_eq]
  have := Nat.mod_lt i (show 0 < 2 ^ 20 by decide)
  have := Nat.mod_lt j (show 0 < 2 ^ 20 by decide)
  omega

/-- A write of a field instance leaves every other instance of every field. -/
theorem State.gi_pi_ne {s : State} (h : s.Inv) {f g : Fld} {i j : Nat} (hn : g.base ≠ f.base ∨ j % 2 ^ 20 ≠ i % 2 ^ 20)
    (v : Nat) : (s.pi f i v).gi g j = s.gi g j := mget_mput_other h.1 (Fld.key_ne hn)

theorem State.pi_inv {s : State} (h : s.Inv) (f : Fld) (i v : Nat) : (s.pi f i v).Inv := ⟨mwf_mapSet f i v h.1, h.2⟩

theorem State.gi_pi_eq {s : State} (h : s.Inv) (f : Fld) (i v : Nat) : (s.pi f i v).gi f i = v % 2 ^ f.width :=
  State.gi_pi_same h.1 f i v

/-- A counter raised holds the sum, or its greatest value where the sum is not below it. -/
theorem State.gi_inc_eq {s : State} (h : s.Inv) (f : Fld) (i n : Nat) :
    (s.inc f i n).gi f i = cap (2 ^ f.width - 1) (s.gi f i + n) := by
  unfold State.inc
  rw [State.gi_pi_eq h]
  apply Nat.mod_eq_of_lt
  have : 0 < 2 ^ f.width := Nat.two_pow_pos _
  unfold cap
  split <;> omega

theorem State.regsBut_refl (s : State) (l : List (Fld × Nat)) : s.regsBut s l := fun _ _ _ => rfl

/-- Only the register map matters to a register frame. -/
theorem State.regsBut_congr {s t u : State} {l : List (Fld × Nat)} (h : s.regsBut t l) (hr : u.regs = t.regs) :
    s.regsBut u l := fun g j hn => by
  have : u.gi g j = t.gi g j := by unfold State.gi; rw [hr]
  rw [this]; exact h g j hn

theorem State.regsBut_pi {s t : State} {l : List (Fld × Nat)} (ht : t.Inv) (h : s.regsBut t l) {f : Fld} {i : Nat}
    (hm : (f, i) ∈ l) (v : Nat) : s.regsBut (t.pi f i v) l := fun g j hn => by
  rw [State.gi_pi_ne ht (hn _ hm)]; exact h g j hn

theorem State.regsBut_mono {s t : State} {l l' : List (Fld × Nat)} (h : s.regsBut t l) (hs : ∀ x ∈ l, x ∈ l') :
    s.regsBut t l' := fun g j hn => h g j fun x hx => hn x (hs x hx)

theorem State.regsBut_trans {s t u : State} {l : List (Fld × Nat)} (h : s.regsBut t l) (h' : t.regsBut u l) :
    s.regsBut u l := fun g j hn => (h' g j hn).trans (h g j hn)

/-- Bytes written leave the bytes outside them. -/
theorem State.bytesBut_poke {s : State} (h : s.Inv) (a : Nat) (l : List Byte) : s.bytesBut (s.poke a l) a l.length :=
  fun b hb => by
    show memGet (memWrite s.mem.cells a l) b = _
    rw [memGet_memWrite l a b h.2]
    split
    · omega
    · rfl

end Sys2Proof.Machine
end

