-- ==== Sys2Proof/Laws/Keeps.lean ====
section
/-! SUPPORT. What an operation keeps: the invariant, the queue, and the fields of a set `K` of fields, named by what tells
fields apart (`Fld.base`). Through record updates, choices, lists and folds. -/
namespace Sys2Proof.Machine

/-- The bases of the RWS fields, of every table. -/
def stagedBases : List Nat :=
  [2048, 133121, 133136, 133248, 133376, 133392, 133504, 134784, 135296, 135552, 1705984, 1706112, 1706128, 1837056,
   1837057, 1837058, 1837059, 1837312, 1837313, 1837314, 1837317, 1837318, 1837322, 1837324, 1837325, 1837329,
   1837336, 1837568, 1837824, 1837832, 1838336, 1838352, 1968256, 1968257, 1968258, 1968259, 1968272, 1968384,
   1968512, 2099328, 2099329, 2099331, 2099840, 2099848, 2099852, 5245056, 5245060, 5245064, 5245068, 5245069,
   5245072, 5245184, 5245312, 5245440, 5376128, 5376132, 5376140, 5376144, 5376148, 5376152, 5376156, 5376157,
   5376384, 5507200, 5507202, 5507205, 5507206, 5507208, 5507216, 5507456, 5507459, 5507712, 5507840, 5507844,
   5507852, 5638272, 5638273, 5638274, 5638275, 5638277, 5638288, 5638400, 5638416, 5638528, 5638784, 5638800,
   6293632, 6293633, 6293634, 6293635, 6293640, 6293644, 6555776, 6555777, 6555778, 6555779, 6555780, 6555792,
   6555904, 6556032, 6556160, 6556176, 6556288, 6557824, 6557826, 6557836, 6557952, 6686848, 6817792, 6817800,
   6818048, 6818050, 6818056, 6818176, 6948864, 6948865, 6948866, 6948880, 6949120, 6949121, 6949122, 6949136,
   6949248, 6949504, 6949520, 7342208, 7342232, 7342336, 7342344, 7342347, 7342350, 7342352, 7342464, 7342592,
   7342720, 7473152, 7473280, 7604224, 7604232, 7604240, 7735296, 9570304]

/-- Every RWS field of every table is among them. -/
theorem staged_contains (p : Nat) : ((tableOf p).all fun f => f.acc != .rws || stagedBases.contains f.base) = true := by
  unfold tableOf
  split <;> first | rfl | decide

/-- A set of fields that holds RWS fields only. -/
def Quiet (K : Nat → Bool) : Prop := ∀ b, K b = true → stagedBases.contains b = true

/-- The set that holds no field. -/
def noField : Nat → Bool := fun _ => false

theorem quiet_no : Quiet noField := fun _ h => absurd (show false = true from h) (by decide)

/-- From `s` to `t` the queue stands and so does every field of `K`; `t` is in canonical form. -/
def Keeps (K : Nat → Bool) (s t : State) : Prop :=
  t.Inv ∧ t.pending = s.pending ∧ ∀ g j, K (Fld.base g) = true → t.gi g j = s.gi g j

theorem keeps_refl {K : Nat → Bool} {s : State} (h : s.Inv) : Keeps K s s := ⟨h, rfl, fun _ _ _ => rfl⟩

theorem keeps_none {K : Nat → Bool} {s t : State} (h : Keeps K s t) : Keeps noField s t :=
  ⟨h.1, h.2.1, fun _ _ e => absurd (show false = true from e) (by decide)⟩

/-- A record update of other parts. -/
theorem keeps_mk {K : Nat → Bool} {s t : State} (hI : Keeps K s t)
    {x_prevRegs : NMap} {x_switchTick : Nat} {x_olderRegs : List (Nat × NMap)} {x_latches : List (Nat × Nat)} {x_held : List (Nat × Nat)}
    {x_nowNs : Nat} {x_freeCtr : Nat} {x_outbox : List Emit} {x_trellis : Trellis} {x_hist : List SlotHist}
    {x_beds : List Bed} {x_followers : List (Nat × Follower)} {x_rises : List (Nat × Nat)} {x_shearTick : Nat} {x_behind : List (Nat × Nat)}
    {x_sentinels : List Sentinel} {x_lanesT : List Lane} {x_lanesH : List Lane} {x_ports : List Port}
    {x_dibber : Dibber} {x_sums : List (Nat × Sum)} {x_fsegs : List FSeg} {x_furrows : List (Nat × Furrow)}
    {x_hubQ : List HubRec} {x_looks : List Look} {x_closes : List (Nat × Nat)} {x_intake : Bool}
    {x_intakeFrom : Nat} {x_stopping : Option Hdr} {x_engines : List Engine} {x_harvest : Harvest} {x_zcs : Zcs}
    {x_image : Image} {x_slow : Slow} {x_wall : Wall} {x_hdg : Hdg} {x_nvm : Nvm} {x_cpu : Cpu} {x_graft : Graft}
    {x_tend : Tend} {x_power : Power} {x_cold : Cold} {x_xspi : Xspi} {x_boot : Boot} :
    Keeps K s (State.mk t.pending (t.regs) x_prevRegs x_switchTick x_olderRegs x_latches x_held x_nowNs x_freeCtr x_outbox x_trellis x_hist
    x_beds x_followers x_rises x_shearTick x_behind x_sentinels x_lanesT x_lanesH x_ports x_dibber x_sums x_fsegs x_furrows
    x_hubQ x_looks x_closes x_intake x_intakeFrom x_stopping (t.mem) x_engines x_harvest x_zcs x_image x_slow x_wall
    x_hdg x_nvm x_cpu x_graft x_tend x_power x_cold x_xspi x_boot) := ⟨⟨hI.1.1, hI.1.2⟩, hI.2.1, hI.2.2⟩

/-- A record update of other parts, those of memory among them. -/
theorem keeps_mkMem {K : Nat → Bool} {s t : State} (hI : Keeps K s t) {ranks : List Rank} {mports : List MPort} {bad : List Nat} {fallbackDue stopDue : Bool} {owners : List (Nat × Owner)}
    {sram : List (Nat × List Byte)}
    {x_prevRegs : NMap} {x_switchTick : Nat} {x_olderRegs : List (Nat × NMap)} {x_latches : List (Nat × Nat)} {x_held : List (Nat × Nat)}
    {x_nowNs : Nat} {x_freeCtr : Nat} {x_outbox : List Emit} {x_trellis : Trellis} {x_hist : List SlotHist}
    {x_beds : List Bed} {x_followers : List (Nat × Follower)} {x_rises : List (Nat × Nat)} {x_shearTick : Nat} {x_behind : List (Nat × Nat)}
    {x_sentinels : List Sentinel} {x_lanesT : List Lane} {x_lanesH : List Lane} {x_ports : List Port}
    {x_dibber : Dibber} {x_sums : List (Nat × Sum)} {x_fsegs : List FSeg} {x_furrows : List (Nat × Furrow)}
    {x_hubQ : List HubRec} {x_looks : List Look} {x_closes : List (Nat × Nat)} {x_intake : Bool}
    {x_intakeFrom : Nat} {x_stopping : Option Hdr} {x_engines : List Engine} {x_harvest : Harvest} {x_zcs : Zcs}
    {x_image : Image} {x_slow : Slow} {x_wall : Wall} {x_hdg : Hdg} {x_nvm : Nvm} {x_cpu : Cpu} {x_graft : Graft}
    {x_tend : Tend} {x_power : Power} {x_cold : Cold} {x_xspi : Xspi} {x_boot : Boot} :
    Keeps K s (State.mk t.pending (t.regs) x_prevRegs x_switchTick x_olderRegs x_latches x_held x_nowNs x_freeCtr x_outbox x_trellis x_hist
    x_beds x_followers x_rises x_shearTick x_behind x_sentinels x_lanesT x_lanesH x_ports x_dibber x_sums x_fsegs x_furrows
    x_hubQ x_looks x_closes x_intake x_intakeFrom x_stopping (Mem.mk t.mem.cells ranks mports bad fallbackDue
    stopDue owners sram) x_engines x_harvest x_zcs x_image x_slow x_wall x_hdg x_nvm x_cpu x_graft x_tend x_power x_cold
    x_xspi x_boot) := ⟨⟨hI.1.1, hI.1.2⟩, hI.2.1, hI.2.2⟩

/-- The same with cells dropped. -/
theorem keeps_mkFilter {K : Nat → Bool} {s t : State} (hI : Keeps K s t) {p : Host.Cell → Bool} {ranks : List Rank} {mports : List MPort} {bad : List Nat} {fallbackDue stopDue : Bool} {owners : List (Nat × Owner)}
    {sram : List (Nat × List Byte)}
    {x_prevRegs : NMap} {x_switchTick : Nat} {x_olderRegs : List (Nat × NMap)} {x_latches : List (Nat × Nat)} {x_held : List (Nat × Nat)}
    {x_nowNs : Nat} {x_freeCtr : Nat} {x_outbox : List Emit} {x_trellis : Trellis} {x_hist : List SlotHist}
    {x_beds : List Bed} {x_followers : List (Nat × Follower)} {x_rises : List (Nat × Nat)} {x_shearTick : Nat} {x_behind : List (Nat × Nat)}
    {x_sentinels : List Sentinel} {x_lanesT : List Lane} {x_lanesH : List Lane} {x_ports : List Port}
    {x_dibber : Dibber} {x_sums : List (Nat × Sum)} {x_fsegs : List FSeg} {x_furrows : List (Nat × Furrow)}
    {x_hubQ : List HubRec} {x_looks : List Look} {x_closes : List (Nat × Nat)} {x_intake : Bool}
    {x_intakeFrom : Nat} {x_stopping : Option Hdr} {x_engines : List Engine} {x_harvest : Harvest} {x_zcs : Zcs}
    {x_image : Image} {x_slow : Slow} {x_wall : Wall} {x_hdg : Hdg} {x_nvm : Nvm} {x_cpu : Cpu} {x_graft : Graft}
    {x_tend : Tend} {x_power : Power} {x_cold : Cold} {x_xspi : Xspi} {x_boot : Boot} :
    Keeps K s (State.mk t.pending (t.regs) x_prevRegs x_switchTick x_olderRegs x_latches x_held x_nowNs x_freeCtr x_outbox x_trellis x_hist
    x_beds x_followers x_rises x_shearTick x_behind x_sentinels x_lanesT x_lanesH x_ports x_dibber x_sums x_fsegs x_furrows
    x_hubQ x_looks x_closes x_intake x_intakeFrom x_stopping (Mem.mk (t.mem.cells.filter p) ranks mports bad
    fallbackDue stopDue owners sram) x_engines x_harvest x_zcs x_image x_slow x_wall x_hdg x_nvm x_cpu x_graft x_tend
    x_power x_cold x_xspi x_boot) :=
  ⟨⟨hI.1.1, memWf_filter p hI.1.2⟩, hI.2.1, hI.2.2⟩

/-- The same with register values dropped: nothing is said of fields. -/
theorem keeps_mkRegs {s t : State} (hI : Keeps noField s t) {p : Nat × Nat → Bool}
    {x_prevRegs : NMap} {x_switchTick : Nat} {x_olderRegs : List (Nat × NMap)} {x_latches : List (Nat × Nat)} {x_held : List (Nat × Nat)}
    {x_nowNs : Nat} {x_freeCtr : Nat} {x_outbox : List Emit} {x_trellis : Trellis} {x_hist : List SlotHist}
    {x_beds : List Bed} {x_followers : List (Nat × Follower)} {x_rises : List (Nat × Nat)} {x_shearTick : Nat} {x_behind : List (Nat × Nat)}
    {x_sentinels : List Sentinel} {x_lanesT : List Lane} {x_lanesH : List Lane} {x_ports : List Port}
    {x_dibber : Dibber} {x_sums : List (Nat × Sum)} {x_fsegs : List FSeg} {x_furrows : List (Nat × Furrow)}
    {x_hubQ : List HubRec} {x_looks : List Look} {x_closes : List (Nat × Nat)} {x_intake : Bool}
    {x_intakeFrom : Nat} {x_stopping : Option Hdr} {x_engines : List Engine} {x_harvest : Harvest} {x_zcs : Zcs}
    {x_image : Image} {x_slow : Slow} {x_wall : Wall} {x_hdg : Hdg} {x_nvm : Nvm} {x_cpu : Cpu} {x_graft : Graft}
    {x_tend : Tend} {x_power : Power} {x_cold : Cold} {x_xspi : Xspi} {x_boot : Boot} :
    Keeps noField s (State.mk t.pending (t.regs.filter p) x_prevRegs x_switchTick x_olderRegs x_latches x_held x_nowNs x_freeCtr x_outbox
    x_trellis x_hist x_beds x_followers x_rises x_shearTick x_behind x_sentinels x_lanesT x_lanesH x_ports x_dibber x_sums
    x_fsegs x_furrows x_hubQ x_looks x_closes x_intake x_intakeFrom x_stopping (t.mem) x_engines x_harvest x_zcs
    x_image x_slow x_wall x_hdg x_nvm x_cpu x_graft x_tend x_power x_cold x_xspi x_boot) :=
  ⟨⟨mwf_filter p hI.1.1, hI.1.2⟩, hI.2.1, fun _ _ e => absurd (show false = true from e) (by decide)⟩

theorem keeps_ite {K : Nat → Bool} {s : State} {c : Prop} [Decidable c] {a b : State} (ha : Keeps K s a)
    (hb : Keeps K s b) : Keeps K s (if c then a else b) := by
  split <;> assumption

theorem keeps_ite_pair {K : Nat → Bool} {s : State} {α : Type} {c : Prop} [Decidable c] {a b : State × α}
    (ha : Keeps K s a.1) (hb : Keeps K s b.1) : Keeps K s (if c then a else b).1 := by
  split <;> assumption

theorem forAll_keeps {K : Nat → Bool} {s : State} {f : State → Nat → State} {l : List Nat} {t : State}
    (hf : ∀ t n, Keeps K s t → Keeps K s (f t n)) (h : Keeps K s t) : Keeps K s (forAll l t f) := by
  unfold forAll
  induction l generalizing t with
  | nil => exact h
  | cons n l ih => exact ih (hf t n h)

theorem foldl_keeps {K : Nat → Bool} {s : State} {α : Type} {f : State → α → State} {l : List α} {t : State}
    (hf : ∀ t x, x ∈ l → Keeps K s t → Keeps K s (f t x)) (h : Keeps K s t) : Keeps K s (l.foldl f t) := by
  induction l generalizing t with
  | nil => exact h
  | cons n l ih => exact ih (fun t x hx => hf t x (List.mem_cons_of_mem _ hx)) (hf t n (List.mem_cons_self ..) h)

theorem foldl_pair_keeps {K : Nat → Bool} {s : State} {α β : Type} {f : State × β → α → State × β} {l : List α}
    {p : State × β} (hf : ∀ t x, Keeps K s t.1 → Keeps K s (f t x).1) (h : Keeps K s p.1) :
    Keeps K s (l.foldl f p).1 := by
  induction l generalizing p with
  | nil => exact h
  | cons n l ih => exact ih (hf p n h)


/-- Any field is written: nothing is said of fields. -/
theorem State.pi_keepsNone {s t : State} (hI : Keeps noField s t) (f : Fld) (i v : Nat) : Keeps noField s (t.pi f i v) :=
  ⟨⟨mwf_mapSet f i v hI.1.1, hI.1.2⟩, hI.2.1, fun _ _ e => absurd (show false = true from e) (by decide)⟩

/-- A field of a list that holds no RWS field. -/
theorem fld_mem {l : List Fld} {f : Fld} (hm : f ∈ l) (h : (l.all fun f => !stagedBases.contains f.base) = true) :
    stagedBases.contains f.base = false := by
  have := List.all_eq_true.mp h f hm
  simpa using this

end Sys2Proof.Machine
end

