-- ==== Sys2Proof/Laws/KeepsOps.lean ====
section
/-! SUPPORT. What every operation of Machine/Ops.lean keeps. -/
namespace Sys2Proof.Machine

theorem State.pi_keeps {K : Nat → Bool} (hK : Quiet K) {sA : State} {s : State} (hI : Keeps K sA s) (f : Fld) (hf : stagedBases.contains (Fld.base f) = false) (idx : Nat) (v : Nat) :
    Keeps K sA (State.pi s f idx v) := by
  exact ⟨⟨mwf_mapSet f idx v hI.1.1, hI.1.2⟩, hI.2.1, fun g j hg => by
    rw [State.gi_pi_other hI.1.1 (fun e => by rw [← e, hK _ hg] at hf; exact absurd hf (by decide))]
    exact hI.2.2 g j hg⟩

theorem State.p_keeps {K : Nat → Bool} (hK : Quiet K) {sA : State} {s : State} (hI : Keeps K sA s) (f : Fld) (hf : stagedBases.contains (Fld.base f) = false) (v : Nat) :
    Keeps K sA (State.p s f v) := by
  unfold State.p
  repeat' first
    | with_reducible assumption
    | with_reducible apply hf
    | with_reducible apply State.pi_keeps hK

theorem State.inc_keeps {K : Nat → Bool} (hK : Quiet K) {sA : State} {s : State} (hI : Keeps K sA s) (f : Fld) (hf : stagedBases.contains (Fld.base f) = false) (idx : Nat) (n : Nat) :
    Keeps K sA (State.inc s f idx n) := by
  unfold State.inc
  repeat' first
    | with_reducible assumption
    | with_reducible apply hf
    | with_reducible apply State.pi_keeps hK
    | unfold id

theorem State.incW_keeps {K : Nat → Bool} (hK : Quiet K) {sA : State} {s : State} (hI : Keeps K sA s) (f : Fld) (hf : stagedBases.contains (Fld.base f) = false) (idx : Nat) (n : Nat) :
    Keeps K sA (State.incW s f idx n) := by
  unfold State.incW
  repeat' first
    | with_reducible assumption
    | with_reducible apply hf
    | with_reducible apply State.pi_keeps hK
    | unfold id

theorem State.pbit_keeps {K : Nat → Bool} (hK : Quiet K) {sA : State} {s : State} (hI : Keeps K sA s) (f : Fld) (hf : stagedBases.contains (Fld.base f) = false) (idx : Nat) (bit : Nat) (b : Bool) :
    Keeps K sA (State.pbit s f idx bit b) := by
  unfold State.pbit
  repeat' first
    | with_reducible assumption
    | with_reducible apply hf
    | with_reducible apply State.pi_keeps hK
    | unfold id

theorem State.pmax_keeps {K : Nat → Bool} (hK : Quiet K) {sA : State} {s : State} (hI : Keeps K sA s) (f : Fld) (hf : stagedBases.contains (Fld.base f) = false) (idx : Nat) (v : Nat) :
    Keeps K sA (State.pmax s f idx v) := by
  unfold State.pmax
  repeat' first
    | with_reducible assumption
    | with_reducible apply keeps_ite
    | with_reducible apply hf
    | with_reducible apply State.pi_keeps hK
    | split
    | unfold id

theorem State.p_keepsNone {sA s : State} (hI : Keeps noField sA s) (f : Fld) (v : Nat) : Keeps noField sA (s.p f v) := by
  unfold State.p
  exact State.pi_keepsNone hI _ _ _

theorem State.inc_keepsNone {sA s : State} (hI : Keeps noField sA s) (f : Fld) (i n : Nat) : Keeps noField sA (s.inc f i n) := by
  unfold State.inc
  exact State.pi_keepsNone hI _ _ _

theorem State.incW_keepsNone {sA s : State} (hI : Keeps noField sA s) (f : Fld) (i n : Nat) : Keeps noField sA (s.incW f i n) := by
  unfold State.incW
  exact State.pi_keepsNone hI _ _ _

theorem State.pbit_keepsNone {sA s : State} (hI : Keeps noField sA s) (f : Fld) (i n : Nat) (b : Bool) : Keeps noField sA (s.pbit f i n b) := by
  unfold State.pbit
  exact State.pi_keepsNone hI _ _ _

theorem State.pmax_keepsNone {sA s : State} (hI : Keeps noField sA s) (f : Fld) (i n : Nat) : Keeps noField sA (s.pmax f i n) := by
  unfold State.pmax
  split
  · exact State.pi_keepsNone hI _ _ _
  · exact hI

theorem State.drew_keeps {K : Nat → Bool} (hK : Quiet K) {sA : State} {s : State} (hI : Keeps K sA s) :
    Keeps K sA (State.drew s) := by
  unfold State.drew
  repeat' first
    | with_reducible assumption
    | with_reducible refine keeps_mk (by with_reducible assumption)
    | dsimp only

theorem State.emit_keeps {K : Nat → Bool} (hK : Quiet K) {sA : State} {s : State} (hI : Keeps K sA s) (e : Emit) :
    Keeps K sA (State.emit s e) := by
  unfold State.emit
  repeat' first
    | with_reducible assumption
    | with_reducible refine keeps_mk (by with_reducible assumption)
    | dsimp only

theorem State.anchor_keeps {K : Nat → Bool} (hK : Quiet K) {sA : State} {s : State} (hI : Keeps K sA s) :
    Keeps K sA (State.anchor s) := by
  unfold State.anchor
  repeat' first
    | with_reducible assumption
    | with_reducible refine keeps_mk (by with_reducible assumption)
    | dsimp only

theorem State.elapse_keeps {K : Nat → Bool} (hK : Quiet K) {sA : State} {s : State} (hI : Keeps K sA s) (n : Nat) :
    Keeps K sA (State.elapse s n) := by
  unfold State.elapse
  exact keeps_mk hI

theorem State.setPd_keeps {K : Nat → Bool} (hK : Quiet K) {sA : State} {s : State} (hI : Keeps K sA s) (n : Nat) (b : Bool) :
    Keeps K sA (State.setPd s n b) := by
  unfold State.setPd
  repeat' first
    | with_reducible assumption
    | with_reducible apply State.pbit_keeps hK
    | decide

theorem State.event_keeps {K : Nat → Bool} (hK : Quiet K) {sA : State} {s : State} (hI : Keeps K sA s) (page : Nat) :
    Keeps K sA (State.event s page) := by
  unfold State.event
  repeat' first
    | with_reducible assumption
    | with_reducible apply State.pi_keeps hK
    | decide

theorem State.commitField_keeps {sA : State} {s : State} (hI : Keeps noField sA s) (w : Staged) :
    Keeps noField sA (State.commitField s w) := by
  have hK := quiet_no
  unfold State.commitField
  repeat' first
    | with_reducible assumption
    | with_reducible apply keeps_ite
    | with_reducible apply State.pi_keepsNone
    | with_reducible apply State.pi_keeps hK
    | split
    | decide

theorem State.errAt_keeps {K : Nat → Bool} (hK : Quiet K) {sA : State} {s : State} (hI : Keeps K sA s) (page : Nat) (cause : Nat) (what : Nat) (index : Nat) :
    Keeps K sA (State.errAt s page cause what index) := by
  unfold State.errAt
  repeat' first
    | with_reducible assumption
    | with_reducible apply State.inc_keeps hK
    | with_reducible apply State.pi_keeps hK
    | decide

theorem State.writeLog_keeps {K : Nat → Bool} (hK : Quiet K) {sA : State} {s : State} (hI : Keeps K sA s) (es : List LogE) :
    Keeps K sA (State.writeLog s es) := by
  unfold State.writeLog
  repeat' first
    | with_reducible assumption
    | with_reducible apply keeps_ite
    | with_reducible refine keeps_mk (by with_reducible assumption)
    | dsimp only
    | split
    | (clear_value *; split)

theorem State.logAs_keeps {K : Nat → Bool} (hK : Quiet K) {sA : State} {s : State} (hI : Keeps K sA s) (page : Nat) (reg : Nat) (bit : Nat) (sev : Nat) (detail : List Byte) :
    Keeps K sA (State.logAs s page reg bit sev detail) := by
  unfold State.logAs
  repeat' first
    | with_reducible assumption
    | with_reducible apply keeps_ite
    | with_reducible apply State.writeLog_keeps hK
    | with_reducible refine keeps_mk (by with_reducible assumption)
    | dsimp only
    | split
    | (clear_value *; split)
    | decide

theorem State.logRaw_keeps {K : Nat → Bool} (hK : Quiet K) {sA : State} {s : State} (hI : Keeps K sA s) (page : Nat) (reg : Nat) (bit : Nat) (detail : List Byte) :
    Keeps K sA (State.logRaw s page reg bit detail) := by
  unfold State.logRaw
  repeat' first
    | with_reducible assumption
    | with_reducible apply State.drew_keeps hK
    | with_reducible apply State.logAs_keeps hK

theorem State.warn_keeps {K : Nat → Bool} (hK : Quiet K) {sA : State} {s : State} (hI : Keeps K sA s) (f : Fld) (hf : stagedBases.contains (Fld.base f) = false) (page : Nat) (detail : List Byte) :
    Keeps K sA (State.warn s f page detail) := by
  unfold State.warn
  repeat' first
    | with_reducible assumption
    | with_reducible apply hf
    | with_reducible apply State.logAs_keeps hK

theorem State.error_keeps {K : Nat → Bool} (hK : Quiet K) {sA : State} {s : State} (hI : Keeps K sA s) (f : Fld) (hf : stagedBases.contains (Fld.base f) = false) (page : Nat) (detail : List Byte) :
    Keeps K sA (State.error s f page detail) := by
  unfold State.error
  repeat' first
    | with_reducible assumption
    | with_reducible apply hf
    | with_reducible apply State.logAs_keeps hK

theorem State.log_keeps {K : Nat → Bool} (hK : Quiet K) {sA : State} {s : State} (hI : Keeps K sA s) (f : Fld) (hf : stagedBases.contains (Fld.base f) = false) (page : Nat) (detail : List Byte) :
    Keeps K sA (State.log s f page detail) := by
  unfold State.log
  repeat' first
    | with_reducible assumption
    | with_reducible apply hf
    | with_reducible apply State.logRaw_keeps hK

theorem State.logCode_keeps {K : Nat → Bool} (hK : Quiet K) {sA : State} {s : State} (hI : Keeps K sA s) (code : Nat) (detail : List Byte) :
    Keeps K sA (State.logCode s code detail) := by
  unfold State.logCode
  repeat' first
    | with_reducible assumption
    | with_reducible apply State.logRaw_keeps hK
    | with_reducible apply State.code_keeps hK
    | (with_reducible refine State.code_keepsE hK ?_ (by assumption))
    | dsimp only

theorem State.poke_keeps {K : Nat → Bool} (hK : Quiet K) {sA : State} {s : State} (hI : Keeps K sA s) (a : Nat) (l : List Byte) :
    Keeps K sA (State.poke s a l) := by
  exact ⟨⟨hI.1.1, memWf_memWrite l a hI.1.2⟩, hI.2.1, hI.2.2⟩

theorem State.setPoison_keeps {K : Nat → Bool} (hK : Quiet K) {sA : State} {s : State} (hI : Keeps K sA s) (a : Nat) (b : Bool) :
    Keeps K sA (State.setPoison s a b) := by
  unfold State.setPoison
  repeat' first
    | with_reducible assumption
    | with_reducible apply keeps_ite
    | with_reducible apply State.inc_keeps hK
    | with_reducible apply State.poke_keeps hK
    | dsimp only
    | split
    | (clear_value *; split)
    | decide

theorem State.tr_keeps {K : Nat → Bool} (hK : Quiet K) {sA : State} {s : State} (hI : Keeps K sA s) (f : Trellis → Trellis) :
    Keeps K sA (State.tr s f) := by
  unfold State.tr
  repeat' first
    | with_reducible assumption
    | with_reducible refine keeps_mk (by with_reducible assumption)
    | dsimp only

theorem State.tendEvent_keeps {K : Nat → Bool} (hK : Quiet K) {sA : State} {s : State} (hI : Keeps K sA s) (what : Nat) (index : Nat) :
    Keeps K sA (State.tendEvent s what index) := by
  unfold State.tendEvent
  repeat' first
    | with_reducible assumption
    | with_reducible refine keeps_mk (by with_reducible assumption)
    | dsimp only

theorem State.bed_keeps {K : Nat → Bool} (hK : Quiet K) {sA : State} {s : State} (hI : Keeps K sA s) (b : Nat) (f : Bed → Bed) :
    Keeps K sA (State.bed s b f) := by
  unfold State.bed
  repeat' first
    | with_reducible assumption
    | with_reducible refine keeps_mk (by with_reducible assumption)
    | dsimp only

theorem State.port_keeps {K : Nat → Bool} (hK : Quiet K) {sA : State} {s : State} (hI : Keeps K sA s) (n : Nat) (f : Port → Port) :
    Keeps K sA (State.port s n f) := by
  unfold State.port
  repeat' first
    | with_reducible assumption
    | with_reducible refine keeps_mk (by with_reducible assumption)
    | dsimp only

theorem State.lane_keeps {K : Nat → Bool} (hK : Quiet K) {sA : State} {s : State} (hI : Keeps K sA s) (l : Nat) (f : Lane → Lane) :
    Keeps K sA (State.lane s l f) := by
  unfold State.lane
  repeat' first
    | with_reducible assumption
    | with_reducible apply keeps_ite
    | with_reducible refine keeps_mk (by with_reducible assumption)
    | dsimp only
    | split
    | (clear_value *; split)

theorem State.furrow_keeps {K : Nat → Bool} (hK : Quiet K) {sA : State} {s : State} (hI : Keeps K sA s) (n : Nat) (f : Furrow → Furrow) :
    Keeps K sA (State.furrow s n f) := by
  unfold State.furrow
  repeat' first
    | with_reducible assumption
    | with_reducible refine keeps_mk (by with_reducible assumption)
    | dsimp only

theorem State.follower_keeps {K : Nat → Bool} (hK : Quiet K) {sA : State} {s : State} (hI : Keeps K sA s) (ch : Nat) (f : Follower → Follower) :
    Keeps K sA (State.follower s ch f) := by
  unfold State.follower
  repeat' first
    | with_reducible assumption
    | with_reducible refine keeps_mk (by with_reducible assumption)
    | dsimp only

theorem State.tx_keeps {K : Nat → Bool} (hK : Quiet K) {sA : State} {s : State} (hI : Keeps K sA s) (n : Nat) (f : Tx → Tx) :
    Keeps K sA (State.tx s n f) := by
  unfold State.tx
  repeat' first
    | with_reducible assumption
    | with_reducible refine keeps_mk (by with_reducible assumption)
    | dsimp only

theorem State.mport_keeps {K : Nat → Bool} (hK : Quiet K) {sA : State} {s : State} (hI : Keeps K sA s) (m : Nat) (f : MPort → MPort) :
    Keeps K sA (State.mport s m f) := by
  unfold State.mport
  repeat' first
    | with_reducible assumption
    | with_reducible refine keeps_mk (by with_reducible assumption)
    | with_reducible refine keeps_mkMem (by with_reducible assumption)
    | dsimp only

theorem State.slotPasses_keeps {K : Nat → Bool} (hK : Quiet K) {sA : State} {s : State} (hI : Keeps K sA s) :
    Keeps K sA (State.slotPasses s) := by
  unfold State.slotPasses
  dsimp only
  split <;> exact keeps_mk hI

end Sys2Proof.Machine
end

