-- ==== Sys2Proof/Laws/KeepsOperands.lean ====
section
/-! SUPPORT. What every operation of Machine/Operands.lean keeps. -/
namespace Sys2Proof.Machine

theorem State.err_keeps {K : Nat → Bool} (hK : Quiet K) {sA : State} {s : State} (hI : Keeps K sA s) (page : Nat) (cause : Nat) (what : Nat) :
    Keeps K sA (State.err s page cause what) := by
  unfold State.err
  repeat' first
    | with_reducible assumption
    | with_reducible apply State.errAt_keeps hK

/-- No index register is RWS. -/
theorem indexFields_notStaged (q : Nat) : (((tableOf q).filter fun f => isIndexReg q (f.addr % 4096)).all
    fun f => !stagedBases.contains f.base) = true := by
  unfold tableOf
  split <;> first | rfl | decide

/-- A field of a table that is not RWS shares no base with an RWS field. -/
theorem unstaged_base (q : Nat) : ((tableOf q).all fun f => f.acc == .rws || !stagedBases.contains f.base) = true := by
  unfold tableOf
  split <;> first | rfl | decide

/-- The same of the fields at an address. -/
theorem fieldsAt_unstaged {p off : Nat} {f : Fld} (hm : f ∈ fieldsAt p off) (h : f.acc ≠ .rws) :
    stagedBases.contains f.base = false := by
  unfold fieldsAt at hm
  split at hm
  · exact fld_mem (l := hdrTable) (List.mem_filter.mp hm).1 (by decide)
  · have := List.all_eq_true.mp (unstaged_base (pageBase p)) f (List.mem_filter.mp hm).1
    simpa [h] using this

theorem State.indexReset_keeps {K : Nat → Bool} (hK : Quiet K) {sA : State} {s : State} (hI : Keeps K sA s) (p : Nat) :
    Keeps K sA (State.indexReset s p) := by
  unfold State.indexReset
  exact foldl_keeps (fun t f hm ht => State.pi_keeps hK ht f (fld_mem hm (indexFields_notStaged _)) _ _) hI

end Sys2Proof.Machine
end

