-- ==== Sys2Proof/Laws/KeepsLine.lean ====
section
/-! SUPPORT. What every operation of Machine/Line.lean keeps. -/
namespace Sys2Proof.Machine

theorem State.sendBlock_keeps {K : Nat → Bool} (hK : Quiet K) {sA : State} {s : State} (hI : Keeps K sA s) (l : Nat) (header : List Bool) (payload : List Bool) :
    Keeps K sA (State.sendBlock s l header payload).1 := by
  unfold State.sendBlock
  repeat' first
    | with_reducible assumption
    | with_reducible apply keeps_ite
    | with_reducible apply State.lane_keeps hK
    | with_reducible apply State.scramble_keeps hK
    | with_reducible refine keeps_mk (by with_reducible assumption)
    | dsimp only
    | split
    | (clear_value *; split)
    | unfold id
    | decide

theorem State.sendBlock_keepsE {K : Nat → Bool} (hK : Quiet K) {sA : State} {s : State} (hI : Keeps K sA s) {l : Nat} {header : List Bool} {payload : List Bool} {tE : State} {rE : List Nat} (eE : State.sendBlock s l header payload = (tE, rE)) :
    Keeps K sA tE := by
  have hE := State.sendBlock_keeps hK hI l header payload
  rw [eE] at hE
  exact hE

theorem State.code_keeps {K : Nat → Bool} (hK : Quiet K) {sA : State} {s : State} (hI : Keeps K sA s) (n : Nat) (l : List Block) :
    Keeps K sA (s.code n l).1 := by
  induction l generalizing s with
  | nil => exact hI
  | cons b l ih =>
  unfold State.code
  exact ih (State.sendBlock_keeps hK hI _ _ _)
theorem State.code_keepsE {K : Nat → Bool} (hK : Quiet K) {sA : State} {s : State} (hI : Keeps K sA s) {n : Nat} {l : List Block} {tE : State} {rE : List (List Nat)} (eE : s.code n l = (tE, rE)) :
    Keeps K sA tE := by
  have hE := State.code_keeps hK hI n l
  rw [eE] at hE
  exact hE

theorem State.lineOut_keeps {K : Nat → Bool} (hK : Quiet K) {sA : State} {s : State} (hI : Keeps K sA s) (n : Nat) (bs : List Block) :
    Keeps K sA (State.lineOut s n bs) := by
  unfold State.lineOut
  repeat' first
    | with_reducible assumption
    | with_reducible apply keeps_ite
    | with_reducible apply keeps_ite_pair
    | with_reducible apply State.emit_keeps hK
    | with_reducible apply State.tx_keeps hK
    | with_reducible apply State.code_keeps hK
    | (with_reducible refine State.code_keepsE hK ?_ (by assumption))
    | with_reducible refine keeps_mk (by with_reducible assumption)
    | dsimp only
    | split
    | (clear_value *; split)

theorem State.sendControl_keeps {K : Nat → Bool} (hK : Quiet K) {sA : State} {s : State} (hI : Keeps K sA s) (n : Nat) (typ : Nat) (payload : Nat) (count : Nat) :
    Keeps K sA (State.sendControl s n typ payload count) := by
  unfold State.sendControl
  repeat' first
    | with_reducible assumption
    | with_reducible apply State.emit_keeps hK
    | with_reducible apply State.lineOut_keeps hK

theorem State.finishBlock_keeps {K : Nat → Bool} (hK : Quiet K) {sA : State} {s : State} (hI : Keeps K sA s) (part : List Bool) (next : List Held) :
    Keeps K sA (State.finishBlock s part next).1 := by
  unfold State.finishBlock
  repeat' first
    | with_reducible assumption
    | with_reducible apply keeps_ite
    | with_reducible refine keeps_mk (by with_reducible assumption)
    | dsimp only
    | split
    | (clear_value *; split)

theorem State.finishBlock_keepsE {K : Nat → Bool} (hK : Quiet K) {sA : State} {s : State} (hI : Keeps K sA s) {part : List Bool} {next : List Held} {tE : State} {rE : List Block × Nat} (eE : State.finishBlock s part next = (tE, rE)) :
    Keeps K sA tE := by
  have hE := State.finishBlock_keeps hK hI part next
  rw [eE] at hE
  exact hE

theorem State.sendMark_keeps {K : Nat → Bool} (hK : Quiet K) {sA : State} {s : State} (hI : Keeps K sA s) (n : Nat) :
    Keeps K sA (State.sendMark s n) := by
  unfold State.sendMark
  repeat' first
    | with_reducible assumption
    | with_reducible apply State.sendControl_keeps hK
    | with_reducible apply State.tx_keeps hK
    | with_reducible refine keeps_mk (by with_reducible assumption)
    | dsimp only
    | decide

theorem State.markDue_keeps {K : Nat → Bool} (hK : Quiet K) {sA : State} {s : State} (hI : Keeps K sA s) (n : Nat) :
    Keeps K sA (State.markDue s n) := by
  unfold State.markDue
  repeat' first
    | with_reducible assumption
    | with_reducible apply keeps_ite
    | with_reducible apply State.sendMark_keeps hK
    | split

theorem State.sendIdle_keeps {K : Nat → Bool} (hK : Quiet K) {sA : State} {s : State} (hI : Keeps K sA s) (n : Nat) :
    Keeps K sA (State.sendIdle s n) := by
  unfold State.sendIdle
  repeat' first
    | with_reducible assumption
    | with_reducible apply State.drew_keeps hK
    | with_reducible apply State.lineOut_keeps hK
    | with_reducible apply State.markDue_keeps hK
    | dsimp only
    | unfold id

theorem State.idleUntil_keeps {K : Nat → Bool} (hK : Quiet K) {sA : State} {s : State} (hI : Keeps K sA s) (n : Nat) :
    Keeps K sA (State.idleUntil s n) := by
  unfold State.idleUntil
  repeat' first
    | with_reducible assumption
    | with_reducible apply keeps_ite
    | with_reducible apply State.sendIdle_keeps hK
    | with_reducible apply State.tx_keeps hK
    | split

theorem State.goOn_keeps {K : Nat → Bool} (hK : Quiet K) {sA : State} {s : State} (hI : Keeps K sA s) (n : Nat) (k : Nat) :
    Keeps K sA (State.goOn s n k) := by
  unfold State.goOn
  repeat' first
    | with_reducible assumption
    | with_reducible apply State.lineOut_keeps hK
    | with_reducible apply State.tx_keeps hK
    | with_reducible refine keeps_mk (by with_reducible assumption)
    | dsimp only
    | split
    | (clear_value *; split)

theorem State.runLane_keeps {K : Nat → Bool} (hK : Quiet K) {sA : State} {s : State} (hI : Keeps K sA s) (n : Nat) :
    Keeps K sA (State.runLane s n) := by
  unfold State.runLane
  repeat' first
    | with_reducible assumption
    | with_reducible apply State.drew_keeps hK
    | with_reducible apply State.goOn_keeps hK
    | with_reducible apply State.markDue_keeps hK
    | with_reducible apply State.sendIdle_keeps hK
    | with_reducible refine keeps_mk (by with_reducible assumption)
    | dsimp only
    | split
    | (clear_value *; split)

theorem State.sendHead_keeps {K : Nat → Bool} (hK : Quiet K) {sA : State} {s : State} (hI : Keeps K sA s) (n : Nat) :
    Keeps K sA (State.sendHead s n) := by
  unfold State.sendHead
  repeat' first
    | with_reducible assumption
    | with_reducible apply keeps_ite
    | with_reducible apply keeps_ite_pair
    | with_reducible apply State.goOn_keeps hK
    | with_reducible apply State.lineOut_keeps hK
    | with_reducible apply State.sendMark_keeps hK
    | with_reducible apply State.tx_keeps hK
    | with_reducible apply State.finishBlock_keeps hK
    | (with_reducible refine State.finishBlock_keepsE hK ?_ (by assumption))
    | with_reducible refine keeps_mk (by with_reducible assumption)
    | dsimp only
    | split
    | (clear_value *; split)

theorem State.sendPriority_keeps {K : Nat → Bool} (hK : Quiet K) {sA : State} {s : State} (hI : Keeps K sA s) (n : Nat) (typ : Nat) (bytes : List Byte) :
    Keeps K sA (State.sendPriority s n typ bytes) := by
  unfold State.sendPriority
  repeat' first
    | with_reducible assumption
    | with_reducible apply State.emit_keeps hK
    | with_reducible apply State.lineOut_keeps hK
    | with_reducible apply State.runLane_keeps hK
    | with_reducible apply State.tx_keeps hK
    | with_reducible apply State.finishBlock_keeps hK
    | (with_reducible refine State.finishBlock_keepsE hK ?_ (by assumption))
    | with_reducible refine keeps_mk (by with_reducible assumption)
    | dsimp only
    | split
    | (clear_value *; split)

theorem State.flushZcs_keeps {K : Nat → Bool} (hK : Quiet K) {sA : State} {s : State} (hI : Keeps K sA s) (fuel : Nat) (n : Nat) :
    Keeps K sA (State.flushZcs fuel n s) := by
  induction fuel generalizing s with
  | zero => exact hI
  | succ fuel ih =>
  unfold State.flushZcs
  repeat' first
    | with_reducible assumption
    | with_reducible apply keeps_ite
    | with_reducible apply ih
    | with_reducible apply State.emit_keeps hK
    | with_reducible apply State.sendHead_keeps hK
    | with_reducible apply State.tx_keeps hK
    | with_reducible refine keeps_mk (by with_reducible assumption)
    | dsimp only
    | split
    | (clear_value *; split)

theorem State.placeZcs_keeps {K : Nat → Bool} (hK : Quiet K) {sA : State} {s : State} (hI : Keeps K sA s) (m : List Byte) :
    Keeps K sA (State.placeZcs s m) := by
  unfold State.placeZcs
  repeat' first
    | with_reducible assumption
    | with_reducible apply State.flushZcs_keeps hK
    | with_reducible apply State.idleUntil_keeps hK
    | with_reducible apply State.tx_keeps hK
    | with_reducible refine keeps_mk (by with_reducible assumption)
    | dsimp only

theorem State.admitZcs_keeps {K : Nat → Bool} (hK : Quiet K) {sA : State} {s : State} (hI : Keeps K sA s) (fuel : Nat) :
    Keeps K sA (State.admitZcs fuel s) := by
  induction fuel generalizing s with
  | zero => exact hI
  | succ fuel ih =>
  unfold State.admitZcs
  dsimp only
  repeat' first
    | with_reducible assumption
    | with_reducible apply ih
    | with_reducible apply State.placeZcs_keeps hK
    | with_reducible refine keeps_mk (by with_reducible assumption)
    | split

theorem State.zcsOut_keeps {K : Nat → Bool} (hK : Quiet K) {sA : State} {s : State} (hI : Keeps K sA s) (m : List Byte) :
    Keeps K sA (State.zcsOut s m) := by
  unfold State.zcsOut
  repeat' first
    | with_reducible assumption
    | with_reducible apply State.admitZcs_keeps hK
    | with_reducible refine keeps_mk (by with_reducible assumption)
    | dsimp only

theorem State.zcsRefill_keeps {K : Nat → Bool} (hK : Quiet K) {sA : State} {s : State} (hI : Keeps K sA s) :
    Keeps K sA (State.zcsRefill s) := by
  unfold State.zcsRefill
  repeat' first
    | with_reducible assumption
    | with_reducible apply State.admitZcs_keeps hK
    | with_reducible apply State.flushZcs_keeps hK
    | with_reducible refine keeps_mk (by with_reducible assumption)
    | dsimp only

end Sys2Proof.Machine
end

