-- ==== Sys2Proof/Laws/KeepsSessions.lean ====
section
/-! SUPPORT. What every operation of Machine/Sessions.lean keeps. -/
namespace Sys2Proof.Machine

theorem State.queueSlaveResponse_keeps {K : Nat → Bool} (hK : Quiet K) {sA : State} {s : State} (hI : Keeps K sA s) (m : List Byte) :
    Keeps K sA (State.queueSlaveResponse s m) := by
  unfold State.queueSlaveResponse
  repeat' first
    | with_reducible assumption
    | (extract_lets +onlyGivenNames x; have hx : Keeps K sA x := (by
        unfold x
        repeat' first
          | with_reducible assumption
          | with_reducible apply keeps_ite
          | with_reducible apply State.inc_keeps hK
          | with_reducible refine keeps_mk (by with_reducible assumption)
          | dsimp only
          | split
          | (clear_value *; split)
          | decide); try clear_value x)
    | extract_lets +onlyGivenNames _
    | with_reducible apply keeps_ite
    | with_reducible apply State.inc_keeps hK
    | with_reducible refine keeps_mk (by with_reducible assumption)
    | split
    | (clear_value *; split)
    | decide

theorem State.respondFrom_keeps {K : Nat → Bool} (hK : Quiet K) {sA : State} {s : State} (hI : Keeps K sA s) (src : Nat) (h : Hdr) (opcode : Nat) (flags : Nat) (status : Nat) (payload : List Byte) :
    Keeps K sA (State.respondFrom s src h opcode flags status payload) := by
  unfold State.respondFrom
  repeat' first
    | with_reducible assumption
    | with_reducible apply keeps_ite
    | with_reducible apply State.emit_keeps hK
    | with_reducible apply State.err_keeps hK
    | with_reducible apply State.queueSlaveResponse_keeps hK
    | with_reducible apply State.zcsOut_keeps hK
    | with_reducible refine keeps_mk (by with_reducible assumption)
    | dsimp only
    | split
    | (clear_value *; split)

theorem State.respond_keeps {K : Nat → Bool} (hK : Quiet K) {sA : State} {s : State} (hI : Keeps K sA s) (h : Hdr) (opcode : Nat) (flags : Nat) (status : Nat) (payload : List Byte) :
    Keeps K sA (State.respond s h opcode flags status payload) := by
  unfold State.respond
  repeat' first
    | with_reducible assumption
    | with_reducible apply State.respondFrom_keeps hK

theorem State.sess_keeps {K : Nat → Bool} (hK : Quiet K) {sA : State} {s : State} (hI : Keeps K sA s) (id : BitVec 32) (f : Session → Session) :
    Keeps K sA (State.sess s id f) := by
  unfold State.sess
  repeat' first
    | with_reducible assumption
    | with_reducible apply keeps_ite
    | with_reducible refine keeps_mk (by with_reducible assumption)
    | dsimp only
    | split
    | (clear_value *; split)
    | unfold id

theorem State.renew_keeps {K : Nat → Bool} (hK : Quiet K) {sA : State} {s : State} (hI : Keeps K sA s) (id : BitVec 32) :
    Keeps K sA (State.renew s id) := by
  unfold State.renew
  repeat' first
    | with_reducible assumption
    | with_reducible apply State.sess_keeps hK
    | with_reducible refine keeps_mk (by with_reducible assumption)
    | dsimp only
    | unfold id

theorem State.openSession_keeps {K : Nat → Bool} (hK : Quiet K) {sA : State} {s : State} (hI : Keeps K sA s) (id : BitVec 32) :
    Keeps K sA (State.openSession s id) := by
  unfold State.openSession
  repeat' first
    | with_reducible assumption
    | with_reducible refine keeps_mk (by with_reducible assumption)
    | dsimp only

theorem State.cacheReply_keeps {K : Nat → Bool} (hK : Quiet K) {sA : State} {s : State} (hI : Keeps K sA s) (h : Hdr) (flags : Nat) (status : Nat) (payload : List Byte) :
    Keeps K sA (State.cacheReply s h flags status payload) := by
  unfold State.cacheReply
  repeat' first
    | with_reducible assumption
    | with_reducible apply keeps_ite
    | with_reducible apply State.sess_keeps hK
    | with_reducible refine keeps_mk (by with_reducible assumption)
    | dsimp only
    | split
    | (clear_value *; split)

theorem State.takeMsg_keeps {K : Nat → Bool} (hK : Quiet K) {sA : State} {s : State} (hI : Keeps K sA s) (h : Hdr) :
    Keeps K sA (State.takeMsg s h) := by
  unfold State.takeMsg
  repeat' first
    | with_reducible assumption
    | with_reducible apply keeps_ite
    | with_reducible apply State.renew_keeps hK
    | with_reducible refine keeps_mk (by with_reducible assumption)
    | dsimp only
    | split
    | (clear_value *; split)

theorem State.reply_keeps {K : Nat → Bool} (hK : Quiet K) {sA : State} {s : State} (hI : Keeps K sA s) (src : Nat) (h : Hdr) (opcode : Nat) (r : Reply) :
    Keeps K sA (State.reply s src h opcode r) := by
  unfold State.reply
  repeat' first
    | with_reducible assumption
    | with_reducible apply keeps_ite
    | with_reducible apply State.cacheReply_keeps hK
    | with_reducible apply State.respondFrom_keeps hK
    | with_reducible apply State.sess_keeps hK
    | with_reducible refine keeps_mk (by with_reducible assumption)
    | dsimp only
    | split
    | (clear_value *; split)

theorem State.zcsRun_keeps {K : Nat → Bool} (hK : Quiet K) {sA : State} {s : State} (hI : Keeps K sA s) (c : Instr) (h : Hdr) (opcode : Nat) (lenOk : Bool) (body : State → State × Reply) (hbody : ∀ (a0 : State), Keeps K sA a0 → Keeps K sA (body a0).1) :
    Keeps K sA (State.zcsRun s c h opcode lenOk body) := by
  unfold State.zcsRun
  repeat' first
    | with_reducible assumption
    | with_reducible apply keeps_ite
    | with_reducible apply hbody
    | with_reducible apply State.openSession_keeps hK
    | with_reducible apply State.reply_keeps hK
    | with_reducible apply State.respond_keeps hK
    | with_reducible apply State.takeMsg_keeps hK
    | with_reducible refine keeps_mk (by with_reducible assumption)
    | dsimp only
    | split
    | (clear_value *; split)
    | decide

theorem State.finish_keeps {K : Nat → Bool} (hK : Quiet K) {sA : State} {s : State} (hI : Keeps K sA s) (h : Hdr) (opcode : Nat) (flags : Nat) (status : Nat) (payload : List Byte) :
    Keeps K sA (State.finish s h opcode flags status payload) := by
  unfold State.finish
  repeat' first
    | with_reducible assumption
    | with_reducible apply keeps_ite
    | with_reducible apply State.cacheReply_keeps hK
    | with_reducible apply State.respond_keeps hK
    | with_reducible apply State.sess_keeps hK
    | with_reducible refine keeps_mk (by with_reducible assumption)
    | dsimp only
    | split
    | (clear_value *; split)

theorem State.complete_keeps {K : Nat → Bool} (hK : Quiet K) {sA : State} {s : State} (hI : Keeps K sA s) (h : Option Hdr) (opcode : Nat) (status : Nat) (payload : List Byte) :
    Keeps K sA (State.complete s h opcode status payload) := by
  unfold State.complete
  repeat' first
    | with_reducible assumption
    | with_reducible apply State.finish_keeps hK
    | with_reducible refine keeps_mk (by with_reducible assumption)
    | dsimp only
    | split
    | (clear_value *; split)

theorem State.endLong_keeps {K : Nat → Bool} (hK : Quiet K) {sA : State} {s : State} (hI : Keeps K sA s) (opcode : Nat) (status : Nat) (payload : List Byte) :
    Keeps K sA (State.endLong s opcode status payload) := by
  unfold State.endLong
  repeat' first
    | with_reducible assumption
    | with_reducible apply keeps_ite
    | with_reducible apply State.finish_keeps hK
    | with_reducible refine keeps_mk (by with_reducible assumption)
    | dsimp only
    | split
    | (clear_value *; split)

theorem State.arrive_keeps {K : Nat → Bool} (hK : Quiet K) {sA : State} {s : State} (hI : Keeps K sA s) (via : Via) (m : List Byte) :
    Keeps K sA (State.arrive s via m) := by
  unfold State.arrive
  repeat' first
    | with_reducible assumption
    | (extract_lets +onlyGivenNames x; have hx : Keeps K sA x := (by
        unfold x
        repeat' first
          | with_reducible assumption
          | with_reducible apply keeps_ite
          | with_reducible apply State.err_keeps hK
          | with_reducible apply State.renew_keeps hK
          | with_reducible apply State.respond_keeps hK
          | with_reducible refine keeps_mk (by with_reducible assumption)
          | dsimp only
          | split
          | (clear_value *; split)
          | decide); try clear_value x)
    | extract_lets +onlyGivenNames _
    | with_reducible apply keeps_ite
    | with_reducible apply State.err_keeps hK
    | with_reducible apply State.renew_keeps hK
    | with_reducible apply State.respond_keeps hK
    | with_reducible refine keeps_mk (by with_reducible assumption)
    | split
    | (clear_value *; split)
    | decide

theorem State.arriveSlave_keeps {K : Nat → Bool} (hK : Quiet K) {sA : State} {s : State} (hI : Keeps K sA s) (m : List Byte) :
    Keeps K sA (State.arriveSlave s m) := by
  unfold State.arriveSlave
  repeat' first
    | with_reducible assumption
    | (extract_lets +onlyGivenNames x; have hx : Keeps K sA x := (by
        unfold x
        repeat' first
          | with_reducible assumption
          | with_reducible apply keeps_ite
          | with_reducible apply State.arrive_keeps hK
          | with_reducible refine keeps_mk (by with_reducible assumption)
          | dsimp only
          | split
          | (clear_value *; split)
          | decide); try clear_value x)
    | extract_lets +onlyGivenNames _
    | with_reducible apply keeps_ite
    | with_reducible apply State.arrive_keeps hK
    | with_reducible refine keeps_mk (by with_reducible assumption)
    | split
    | (clear_value *; split)
    | decide

end Sys2Proof.Machine
end

