-- ==== Sys2Proof/Laws/KeepsFurrows.lean ====
section
/-! SUPPORT. What every operation of Machine/Furrows.lean keeps. -/
namespace Sys2Proof.Machine

theorem State.writeDescriptors_keeps {K : Nat → Bool} (hK : Quiet K) {sA : State} {s : State} (hI : Keeps K sA s) :
    Keeps K sA (State.writeDescriptors s) := by
  unfold State.writeDescriptors
  repeat' first
    | with_reducible assumption
    | intro a b c
    | with_reducible apply forAll_keeps
    | with_reducible apply State.poke_keeps hK

theorem State.release_keeps {K : Nat → Bool} (hK : Quiet K) {sA : State} {s : State} (hI : Keeps K sA s) (f : Nat) :
    Keeps K sA (State.release s f) := by
  unfold State.release
  repeat' first
    | with_reducible assumption
    | with_reducible apply State.furrow_keeps hK
    | with_reducible refine keeps_mk (by with_reducible assumption)
    | dsimp only

theorem State.releaseAll_keeps {K : Nat → Bool} (hK : Quiet K) {sA : State} {s : State} (hI : Keeps K sA s) :
    Keeps K sA (State.releaseAll s) := by
  unfold State.releaseAll
  repeat' first
    | with_reducible assumption
    | intro a b c
    | with_reducible apply forAll_keeps
    | with_reducible apply State.release_keeps hK

theorem State.checkOld_keeps {K : Nat → Bool} (hK : Quiet K) {sA : State} {s : State} (hI : Keeps K sA s) (f : Nat) :
    Keeps K sA (State.checkOld s f) := by
  unfold State.checkOld
  repeat' first
    | with_reducible assumption
    | with_reducible apply keeps_ite
    | with_reducible apply State.furrow_keeps hK
    | with_reducible refine keeps_mk (by with_reducible assumption)
    | dsimp only
    | split
    | (clear_value *; split)

theorem State.overwrite_keeps {K : Nat → Bool} (hK : Quiet K) {sA : State} {s : State} (hI : Keeps K sA s) (f : Nat) (addr : Nat) :
    Keeps K sA (State.overwrite s f addr) := by
  unfold State.overwrite
  repeat' first
    | with_reducible assumption
    | intro a b c
    | with_reducible apply keeps_ite
    | with_reducible apply forAll_keeps
    | with_reducible apply State.furrow_keeps hK
    | with_reducible apply State.inc_keeps hK
    | with_reducible apply State.log_keeps hK
    | with_reducible refine keeps_mk (by with_reducible assumption)
    | dsimp only
    | split
    | (clear_value *; split)
    | decide

theorem State.openSeg_keeps {K : Nat → Bool} (hK : Quiet K) {sA : State} {s : State} (hI : Keeps K sA s) (f : Nat) (cls : Nat) (late : Bool) :
    Keeps K sA (State.openSeg s f cls late) := by
  unfold State.openSeg
  repeat' first
    | with_reducible assumption
    | with_reducible apply keeps_ite
    | with_reducible apply State.furrow_keeps hK
    | with_reducible apply State.overwrite_keeps hK
    | with_reducible apply State.setPoison_keeps hK
    | with_reducible refine keeps_mk (by with_reducible assumption)
    | dsimp only
    | split
    | (clear_value *; split)

theorem State.backlogMax_keeps {K : Nat → Bool} (hK : Quiet K) {sA : State} {s : State} (hI : Keeps K sA s) :
    Keeps K sA (State.backlogMax s) := by
  unfold State.backlogMax
  repeat' first
    | with_reducible assumption
    | with_reducible apply State.pmax_keeps hK
    | decide

theorem State.closeSeg_keeps {K : Nat → Bool} (hK : Quiet K) {sA : State} {s : State} (hI : Keeps K sA s) (f : Nat) :
    Keeps K sA (State.closeSeg s f) := by
  unfold State.closeSeg
  repeat' first
    | with_reducible assumption
    | with_reducible apply keeps_ite
    | with_reducible apply State.backlogMax_keeps hK
    | with_reducible apply State.drew_keeps hK
    | with_reducible apply State.furrow_keeps hK
    | with_reducible apply State.poke_keeps hK
    | with_reducible refine keeps_mk (by with_reducible assumption)
    | dsimp only
    | split
    | (clear_value *; split)
    | decide

theorem State.curSeg_keeps {K : Nat → Bool} (hK : Quiet K) {sA : State} {s : State} (hI : Keeps K sA s) (f : Nat) (g : OpenSeg → OpenSeg) :
    Keeps K sA (State.curSeg s f g) := by
  unfold State.curSeg
  repeat' first
    | with_reducible assumption
    | with_reducible apply State.furrow_keeps hK
    | with_reducible refine keeps_mk (by with_reducible assumption)
    | dsimp only

theorem State.place_keeps {K : Nat → Bool} (hK : Quiet K) {sA : State} {s : State} (hI : Keeps K sA s) (x : RecUnit) :
    Keeps K sA (State.place s x) := by
  unfold State.place
  repeat' first
    | with_reducible assumption
    | with_reducible apply keeps_ite
    | with_reducible apply State.closeSeg_keeps hK
    | with_reducible apply State.curSeg_keeps hK
    | with_reducible apply State.furrow_keeps hK
    | with_reducible apply State.inc_keeps hK
    | with_reducible apply State.openSeg_keeps hK
    | with_reducible refine keeps_mk (by with_reducible assumption)
    | dsimp only
    | split
    | (clear_value *; split)
    | decide

theorem State.listMark_keeps {K : Nat → Bool} (hK : Quiet K) {sA : State} {s : State} (hI : Keeps K sA s) (mseq : Nat) (f : Nat) :
    Keeps K sA (State.listMark s mseq f) := by
  unfold State.listMark
  repeat' first
    | with_reducible assumption
    | with_reducible apply keeps_ite
    | with_reducible apply State.closeSeg_keeps hK
    | with_reducible apply State.curSeg_keeps hK
    | with_reducible apply State.openSeg_keeps hK
    | with_reducible refine keeps_mk (by with_reducible assumption)
    | dsimp only
    | split
    | (clear_value *; split)

theorem State.listMarks_keeps {K : Nat → Bool} (hK : Quiet K) {sA : State} {s : State} (hI : Keeps K sA s) (mseqs : List Nat) :
    Keeps K sA (State.listMarks s mseqs) := by
  unfold State.listMarks
  repeat' first
    | with_reducible assumption
    | intro a b c
    | with_reducible apply forAll_keeps
    | with_reducible apply State.listMark_keeps hK

theorem State.closeAll_keeps {K : Nat → Bool} (hK : Quiet K) {sA : State} {s : State} (hI : Keeps K sA s) :
    Keeps K sA (State.closeAll s) := by
  unfold State.closeAll
  repeat' first
    | with_reducible assumption
    | intro a b c
    | with_reducible apply forAll_keeps
    | with_reducible apply State.closeSeg_keeps hK

theorem State.hubRec_keeps {K : Nat → Bool} (hK : Quiet K) {sA : State} {s : State} (hI : Keeps K sA s) (f : Nat) (bytes : List Byte) :
    Keeps K sA (State.hubRec s f bytes) := by
  unfold State.hubRec
  repeat' first
    | with_reducible assumption
    | with_reducible apply keeps_ite
    | with_reducible refine keeps_mk (by with_reducible assumption)
    | dsimp only
    | split
    | (clear_value *; split)

theorem State.placeHubRec_keeps {K : Nat → Bool} (hK : Quiet K) {sA : State} {s : State} (hI : Keeps K sA s) (r : HubRec) :
    Keeps K sA (State.placeHubRec s r) := by
  unfold State.placeHubRec
  repeat' first
    | with_reducible assumption
    | with_reducible apply State.furrow_keeps hK
    | with_reducible apply State.place_keeps hK
    | with_reducible refine keeps_mk (by with_reducible assumption)
    | dsimp only

theorem State.placeHubRecs_keeps {K : Nat → Bool} (hK : Quiet K) {sA : State} {s : State} (hI : Keeps K sA s) :
    Keeps K sA (State.placeHubRecs s) := by
  unfold State.placeHubRecs
  extract_lets +onlyGivenNames q
  extract_lets +onlyGivenNames x
  have hx : Keeps K sA x := by
    unfold x
    exact forAll_keeps (fun t n ht => State.furrow_keeps hK ht _ _) (keeps_mk hI)
  clear_value x
  have hf := foldl_pair_keeps (l := q) (p := (x, ([] : List HubRec)))
    (f := fun (x : State × List HubRec) r =>
      if x.2.any (fun h => h.furrow == r.furrow) || !x.1.hubRoom r then (x.1, x.2 ++ [r]) else (x.1.placeHubRec r, x.2))
    (fun t r ht => by
      split
      · exact ht
      · exact State.placeHubRec_keeps hK ht _) hx
  exact keeps_mk hf

theorem State.placeHeld_keeps {K : Nat → Bool} (hK : Quiet K) {sA : State} {s : State} (hI : Keeps K sA s) :
    Keeps K sA (State.placeHeld s) := by
  unfold State.placeHeld
  repeat' first
    | with_reducible assumption
    | intro a b c
    | intro c
    | with_reducible apply foldl_keeps
    | with_reducible apply foldl_pair_keeps
    | with_reducible apply State.placeHubRec_keeps hK
    | with_reducible refine keeps_mk (by with_reducible assumption)
    | dsimp only
    | (refine fld_mem (by assumption) ?_; decide)

theorem State.startFurrow_keeps {K : Nat → Bool} (hK : Quiet K) {sA : State} {s : State} (hI : Keeps K sA s) (f : Nat) (orbit : Nat) (slot : Nat) :
    Keeps K sA (State.startFurrow s f orbit slot) := by
  unfold State.startFurrow
  repeat' first
    | with_reducible assumption
    | with_reducible apply keeps_ite
    | with_reducible apply State.furrow_keeps hK
    | with_reducible refine keeps_mk (by with_reducible assumption)
    | dsimp only
    | split
    | (clear_value *; split)
    | decide

theorem State.ackItem_keeps {K : Nat → Bool} (hK : Quiet K) {sA : State} {s : State} (hI : Keeps K sA s) (f : Nat) (a : Nat) :
    Keeps K sA (State.ackItem s f a) := by
  unfold State.ackItem
  repeat' first
    | with_reducible assumption
    | with_reducible apply keeps_ite
    | with_reducible apply State.furrow_keeps hK
    | with_reducible apply State.inc_keeps hK
    | with_reducible apply State.release_keeps hK
    | with_reducible refine keeps_mk (by with_reducible assumption)
    | dsimp only
    | split
    | (clear_value *; split)
    | decide

theorem State.ageClose_keeps {K : Nat → Bool} (hK : Quiet K) {sA : State} {s : State} (hI : Keeps K sA s) (f : Nat) :
    Keeps K sA (State.ageClose s f) := by
  unfold State.ageClose
  repeat' first
    | with_reducible assumption
    | with_reducible apply keeps_ite
    | with_reducible apply State.closeSeg_keeps hK
    | with_reducible refine keeps_mk (by with_reducible assumption)
    | dsimp only
    | split
    | (clear_value *; split)
    | decide

end Sys2Proof.Machine
end

