-- ==== Sys2Proof/Laws/KeepsTime.lean ====
section
/-! SUPPORT. What every operation of Machine/Time.lean keeps. -/
namespace Sys2Proof.Machine

theorem State.tstat_keeps {K : Nat → Bool} (hK : Quiet K) {sA : State} {s : State} (hI : Keeps K sA s) (f : Fld) (hf : stagedBases.contains (Fld.base f) = false) (b : Bool) :
    Keeps K sA (State.tstat s f b) := by
  unfold State.tstat
  repeat' first
    | with_reducible assumption
    | with_reducible apply hf
    | with_reducible apply State.p_keeps hK

theorem State.releaseFault_keeps {K : Nat → Bool} (hK : Quiet K) {sA : State} {s : State} (hI : Keeps K sA s) (cause : Nat) (atOnce : Bool) :
    Keeps K sA (State.releaseFault s cause atOnce) := by
  unfold State.releaseFault
  repeat' first
    | with_reducible assumption
    | with_reducible apply keeps_ite
    | with_reducible refine keeps_mk (by with_reducible assumption)
    | dsimp only
    | split
    | (clear_value *; split)

theorem State.setPhase_keeps {K : Nat → Bool} (hK : Quiet K) {sA : State} {s : State} (hI : Keeps K sA s) (b : Nat) (ph : RotPhase) :
    Keeps K sA (State.setPhase s b ph) := by
  unfold State.setPhase
  repeat' first
    | with_reducible assumption
    | with_reducible apply State.bed_keeps hK
    | with_reducible refine keeps_mk (by with_reducible assumption)
    | dsimp only

theorem State.stopRotation_keeps {K : Nat → Bool} (hK : Quiet K) {sA : State} {s : State} (hI : Keeps K sA s) (b : Nat) :
    Keeps K sA (State.stopRotation s b) := by
  unfold State.stopRotation
  repeat' first
    | with_reducible assumption
    | with_reducible apply State.pi_keeps hK
    | with_reducible apply State.setPhase_keeps hK
    | with_reducible refine keeps_mk (by with_reducible assumption)
    | dsimp only
    | split
    | (clear_value *; split)
    | decide

theorem State.loseTiming_keeps {K : Nat → Bool} (hK : Quiet K) {sA : State} {s : State} (hI : Keeps K sA s) :
    Keeps K sA (State.loseTiming s) := by
  unfold State.loseTiming
  repeat' first
    | with_reducible assumption
    | intro a b c
    | with_reducible apply keeps_ite
    | with_reducible apply forAll_keeps
    | with_reducible apply State.log_keeps hK
    | with_reducible apply State.releaseFault_keeps hK
    | with_reducible apply State.stopRotation_keeps hK
    | with_reducible apply State.tr_keeps hK
    | with_reducible apply State.tstat_keeps hK
    | with_reducible refine keeps_mk (by with_reducible assumption)
    | dsimp only
    | split
    | (clear_value *; split)
    | decide

theorem State.relocked_keeps {K : Nat → Bool} (hK : Quiet K) {sA : State} {s : State} (hI : Keeps K sA s) :
    Keeps K sA (State.relocked s) := by
  unfold State.relocked
  repeat' first
    | with_reducible assumption
    | with_reducible apply keeps_ite
    | with_reducible apply State.tr_keeps hK
    | with_reducible refine keeps_mk (by with_reducible assumption)
    | dsimp only
    | split
    | (clear_value *; split)

theorem State.orbitTime_keeps {K : Nat → Bool} (hK : Quiet K) {sA : State} {s : State} (hI : Keeps K sA s) :
    Keeps K sA (State.orbitTime s) := by
  unfold State.orbitTime
  repeat' first
    | with_reducible assumption
    | with_reducible apply keeps_ite
    | with_reducible apply State.tr_keeps hK
    | with_reducible refine keeps_mk (by with_reducible assumption)
    | dsimp only
    | split
    | (clear_value *; split)
    | decide

theorem State.orbitTimeAt0_keeps {K : Nat → Bool} (hK : Quiet K) {sA : State} {s : State} (hI : Keeps K sA s) :
    Keeps K sA (State.orbitTimeAt0 s) := by
  unfold State.orbitTimeAt0
  repeat' first
    | with_reducible assumption
    | with_reducible apply keeps_ite
    | with_reducible apply State.orbitTime_keeps hK
    | with_reducible apply State.tr_keeps hK
    | with_reducible refine keeps_mk (by with_reducible assumption)
    | dsimp only
    | split
    | (clear_value *; split)
    | decide

theorem State.orbitTimeHeld_keeps {K : Nat → Bool} (hK : Quiet K) {sA : State} {s : State} (hI : Keeps K sA s) :
    Keeps K sA (State.orbitTimeHeld s) := by
  unfold State.orbitTimeHeld
  repeat' first
    | with_reducible assumption
    | with_reducible apply keeps_ite
    | with_reducible apply State.orbitTime_keeps hK
    | split

theorem State.enterOrbit_keeps {K : Nat → Bool} (hK : Quiet K) {sA : State} {s : State} (hI : Keeps K sA s) (o : Nat) :
    Keeps K sA (State.enterOrbit s o) := by
  unfold State.enterOrbit
  repeat' first
    | with_reducible assumption
    | with_reducible apply State.anchor_keeps hK
    | with_reducible apply State.tr_keeps hK
    | with_reducible refine keeps_mk (by with_reducible assumption)
    | dsimp only
    | decide

theorem State.restartTime_keeps {K : Nat → Bool} (hK : Quiet K) {sA : State} {s : State} (hI : Keeps K sA s) :
    Keeps K sA (State.restartTime s) := by
  unfold State.restartTime
  repeat' first
    | with_reducible assumption
    | (extract_lets +onlyGivenNames x; have hx : Keeps K sA x := (by
        unfold x
        repeat' first
          | with_reducible assumption
          | with_reducible apply keeps_ite
          | with_reducible apply State.anchor_keeps hK
          | with_reducible apply State.closeAll_keeps hK
          | with_reducible apply State.enterOrbit_keeps hK
          | with_reducible apply State.orbitTime_keeps hK
          | with_reducible apply State.tr_keeps hK
          | with_reducible refine keeps_mk (by with_reducible assumption)
          | dsimp only
          | split
          | (clear_value *; split)
          | decide); try clear_value x)
    | extract_lets +onlyGivenNames _
    | with_reducible apply keeps_ite
    | with_reducible apply State.anchor_keeps hK
    | with_reducible apply State.closeAll_keeps hK
    | with_reducible apply State.enterOrbit_keeps hK
    | with_reducible apply State.orbitTime_keeps hK
    | with_reducible apply State.tr_keeps hK
    | with_reducible refine keeps_mk (by with_reducible assumption)
    | split
    | (clear_value *; split)
    | decide

theorem State.loadAtMarker_keeps {K : Nat → Bool} (hK : Quiet K) {sA : State} {s : State} (hI : Keeps K sA s) :
    Keeps K sA (State.loadAtMarker s) := by
  unfold State.loadAtMarker
  repeat' first
    | with_reducible assumption
    | with_reducible apply keeps_ite
    | with_reducible apply State.anchor_keeps hK
    | with_reducible apply State.orbitTimeHeld_keeps hK
    | with_reducible apply State.tr_keeps hK
    | with_reducible refine keeps_mk (by with_reducible assumption)
    | dsimp only
    | split
    | (clear_value *; split)
    | decide

theorem State.checkMarker_keeps {K : Nat → Bool} (hK : Quiet K) {sA : State} {s : State} (hI : Keeps K sA s) :
    Keeps K sA (State.checkMarker s) := by
  unfold State.checkMarker
  repeat' first
    | with_reducible assumption
    | with_reducible apply keeps_ite
    | with_reducible apply State.inc_keeps hK
    | with_reducible apply State.loadAtMarker_keeps hK
    | with_reducible apply State.tr_keeps hK
    | with_reducible refine keeps_mk (by with_reducible assumption)
    | dsimp only
    | split
    | (clear_value *; split)
    | decide

theorem State.relockMarker_keeps {K : Nat → Bool} (hK : Quiet K) {sA : State} {s : State} (hI : Keeps K sA s) :
    Keeps K sA (State.relockMarker s) := by
  unfold State.relockMarker
  repeat' first
    | with_reducible assumption
    | with_reducible apply keeps_ite
    | with_reducible apply State.checkMarker_keeps hK
    | with_reducible apply State.loadAtMarker_keeps hK
    | with_reducible apply State.relocked_keeps hK
    | with_reducible apply State.restartTime_keeps hK
    | with_reducible apply State.tr_keeps hK
    | with_reducible refine keeps_mk (by with_reducible assumption)
    | dsimp only
    | split
    | (clear_value *; split)

theorem State.marker_keeps {K : Nat → Bool} (hK : Quiet K) {sA : State} {s : State} (hI : Keeps K sA s) :
    Keeps K sA (State.marker s) := by
  unfold State.marker
  repeat' first
    | with_reducible assumption
    | with_reducible apply keeps_ite
    | with_reducible apply State.checkMarker_keeps hK
    | with_reducible apply State.loadAtMarker_keeps hK
    | with_reducible apply State.relockMarker_keeps hK
    | with_reducible apply State.tr_keeps hK
    | with_reducible refine keeps_mk (by with_reducible assumption)
    | dsimp only
    | split
    | (clear_value *; split)

theorem State.orbitMarker_keeps {K : Nat → Bool} (hK : Quiet K) {sA : State} {s : State} (hI : Keeps K sA s) :
    Keeps K sA (State.orbitMarker s) := by
  unfold State.orbitMarker
  repeat' first
    | with_reducible assumption
    | with_reducible apply keeps_ite
    | with_reducible apply State.marker_keeps hK
    | split

theorem State.orbitMiss_keeps {K : Nat → Bool} (hK : Quiet K) {sA : State} {s : State} (hI : Keeps K sA s) :
    Keeps K sA (State.orbitMiss s) := by
  unfold State.orbitMiss
  repeat' first
    | with_reducible assumption
    | with_reducible apply keeps_ite
    | with_reducible apply State.inc_keeps hK
    | with_reducible apply State.tr_keeps hK
    | with_reducible refine keeps_mk (by with_reducible assumption)
    | dsimp only
    | split
    | (clear_value *; split)
    | decide

theorem State.numberFrom_keeps {K : Nat → Bool} (hK : Quiet K) {sA : State} {s : State} (hI : Keeps K sA s) (d : Nat) :
    Keeps K sA (State.numberFrom s d) := by
  unfold State.numberFrom
  repeat' first
    | with_reducible assumption
    | with_reducible apply keeps_ite
    | with_reducible apply State.enterOrbit_keeps hK
    | with_reducible apply State.orbitTime_keeps hK
    | with_reducible apply State.tr_keeps hK
    | with_reducible refine keeps_mk (by with_reducible assumption)
    | dsimp only
    | split
    | (clear_value *; split)
    | decide

theorem State.tuneNow_keeps {K : Nat → Bool} (hK : Quiet K) {sA : State} {s : State} (hI : Keeps K sA s) :
    Keeps K sA (State.tuneNow s) := by
  unfold State.tuneNow
  repeat' first
    | with_reducible assumption
    | with_reducible apply keeps_ite
    | with_reducible apply State.drew_keeps hK
    | with_reducible apply State.tr_keeps hK
    | with_reducible refine keeps_mk (by with_reducible assumption)
    | dsimp only
    | split
    | (clear_value *; split)

theorem State.firstTune_keeps {K : Nat → Bool} (hK : Quiet K) {sA : State} {s : State} (hI : Keeps K sA s) :
    Keeps K sA (State.firstTune s) := by
  unfold State.firstTune
  repeat' first
    | with_reducible assumption
    | with_reducible apply keeps_ite
    | with_reducible apply State.tuneNow_keeps hK
    | split

theorem State.lockOrbit_keeps {K : Nat → Bool} (hK : Quiet K) {sA : State} {s : State} (hI : Keeps K sA s) :
    Keeps K sA (State.lockOrbit s) := by
  unfold State.lockOrbit
  repeat' first
    | with_reducible assumption
    | (extract_lets +onlyGivenNames x; have hx : Keeps K sA x := (by
        unfold x
        repeat' first
          | with_reducible assumption
          | with_reducible apply keeps_ite
          | with_reducible apply State.numberFrom_keeps hK
          | with_reducible apply State.relocked_keeps hK
          | with_reducible apply State.restartTime_keeps hK
          | with_reducible apply State.tr_keeps hK
          | with_reducible apply State.tstat_keeps hK
          | with_reducible refine keeps_mk (by with_reducible assumption)
          | dsimp only
          | split
          | (clear_value *; split)
          | decide); try clear_value x)
    | extract_lets +onlyGivenNames _
    | with_reducible apply keeps_ite
    | with_reducible apply State.numberFrom_keeps hK
    | with_reducible apply State.relocked_keeps hK
    | with_reducible apply State.restartTime_keeps hK
    | with_reducible apply State.tr_keeps hK
    | with_reducible apply State.tstat_keeps hK
    | with_reducible refine keeps_mk (by with_reducible assumption)
    | split
    | (clear_value *; split)
    | decide

theorem State.orbitLockAcquire_keeps {K : Nat → Bool} (hK : Quiet K) {sA : State} {s : State} (hI : Keeps K sA s) :
    Keeps K sA (State.orbitLockAcquire s) := by
  unfold State.orbitLockAcquire
  repeat' first
    | with_reducible assumption
    | with_reducible apply keeps_ite
    | with_reducible apply State.firstTune_keeps hK
    | with_reducible apply State.lockOrbit_keeps hK
    | dsimp only
    | split
    | (clear_value *; split)

theorem State.orbitLockLoss_keeps {K : Nat → Bool} (hK : Quiet K) {sA : State} {s : State} (hI : Keeps K sA s) :
    Keeps K sA (State.orbitLockLoss s) := by
  unfold State.orbitLockLoss
  repeat' first
    | with_reducible assumption
    | with_reducible apply keeps_ite
    | with_reducible apply State.loseTiming_keeps hK
    | with_reducible apply State.tr_keeps hK
    | with_reducible apply State.tstat_keeps hK
    | with_reducible refine keeps_mk (by with_reducible assumption)
    | dsimp only
    | split
    | (clear_value *; split)
    | decide

theorem State.cdLost_keeps {K : Nat → Bool} (hK : Quiet K) {sA : State} {s : State} (hI : Keeps K sA s) (n : Nat) :
    Keeps K sA (State.cdLost s n) := by
  unfold State.cdLost
  repeat' first
    | with_reducible assumption
    | with_reducible apply keeps_ite
    | with_reducible apply State.event_keeps hK
    | with_reducible apply State.pbit_keeps hK
    | dsimp only
    | split
    | (clear_value *; split)
    | decide

theorem State.lostSince_keeps {K : Nat → Bool} (hK : Quiet K) {sA : State} {s : State} (hI : Keeps K sA s) (old : State) :
    Keeps K sA (State.lostSince s old) := by
  unfold State.lostSince
  repeat' first
    | with_reducible assumption
    | intro a b c
    | with_reducible apply forAll_keeps
    | with_reducible apply State.cdLost_keeps hK

theorem State.pllHold_keeps {K : Nat → Bool} (hK : Quiet K) {sA : State} {s : State} (hI : Keeps K sA s) :
    Keeps K sA (State.pllHold s) := by
  unfold State.pllHold
  repeat' first
    | with_reducible assumption
    | with_reducible apply State.lostSince_keeps hK
    | with_reducible apply State.tstat_keeps hK
    | decide

theorem State.bclkFault_keeps {K : Nat → Bool} (hK : Quiet K) {sA : State} {s : State} (hI : Keeps K sA s) (stopped : Bool) (hz : Nat) :
    Keeps K sA (State.bclkFault s stopped hz) := by
  unfold State.bclkFault
  repeat' first
    | with_reducible assumption
    | with_reducible apply keeps_ite
    | with_reducible apply State.cdLost_keeps hK
    | with_reducible apply State.loseTiming_keeps hK
    | with_reducible apply State.lostSince_keeps hK
    | with_reducible apply State.pllHold_keeps hK
    | with_reducible apply State.tr_keeps hK
    | with_reducible refine keeps_mk (by with_reducible assumption)
    | dsimp only
    | split
    | (clear_value *; split)
    | decide

theorem State.bcPllLock_keeps {K : Nat → Bool} (hK : Quiet K) {sA : State} {s : State} (hI : Keeps K sA s) :
    Keeps K sA (State.bcPllLock s) := by
  unfold State.bcPllLock
  repeat' first
    | with_reducible assumption
    | with_reducible apply keeps_ite
    | with_reducible apply State.firstTune_keeps hK
    | with_reducible apply State.tr_keeps hK
    | with_reducible apply State.tstat_keeps hK
    | with_reducible refine keeps_mk (by with_reducible assumption)
    | dsimp only
    | split
    | (clear_value *; split)
    | decide

theorem State.clockDomainLoss_keeps {K : Nat → Bool} (hK : Quiet K) {sA : State} {s : State} (hI : Keeps K sA s) (n : Nat) :
    Keeps K sA (State.clockDomainLoss s n) := by
  unfold State.clockDomainLoss
  repeat' first
    | with_reducible assumption
    | with_reducible apply keeps_ite
    | with_reducible apply State.anchor_keeps hK
    | with_reducible apply State.bclkFault_keeps hK
    | with_reducible apply State.cdLost_keeps hK
    | with_reducible apply State.lostSince_keeps hK
    | with_reducible apply State.p_keeps hK
    | with_reducible apply State.pllHold_keeps hK
    | with_reducible apply State.tr_keeps hK
    | with_reducible refine keeps_mk (by with_reducible assumption)
    | dsimp only
    | split
    | (clear_value *; split)
    | decide

theorem State.referencePresent_keeps {K : Nat → Bool} (hK : Quiet K) {sA : State} {s : State} (hI : Keeps K sA s) (cd : Nat) :
    Keeps K sA (State.referencePresent s cd) := by
  unfold State.referencePresent
  repeat' first
    | with_reducible assumption
    | with_reducible apply keeps_ite
    | with_reducible apply State.anchor_keeps hK
    | with_reducible apply State.p_keeps hK
    | with_reducible apply State.tr_keeps hK
    | with_reducible refine keeps_mk (by with_reducible assumption)
    | dsimp only
    | split
    | (clear_value *; split)
    | decide

theorem State.sourceLockLost_keeps {K : Nat → Bool} (hK : Quiet K) {sA : State} {s : State} (hI : Keeps K sA s) (lane : Nat) :
    Keeps K sA (State.sourceLockLost s lane) := by
  unfold State.sourceLockLost
  repeat' first
    | with_reducible assumption
    | with_reducible apply keeps_ite
    | with_reducible apply State.lane_keeps hK
    | with_reducible apply State.loseTiming_keeps hK
    | with_reducible apply State.pllHold_keeps hK
    | with_reducible apply State.tr_keeps hK
    | with_reducible apply State.tstat_keeps hK
    | with_reducible refine keeps_mk (by with_reducible assumption)
    | dsimp only
    | split
    | (clear_value *; split)
    | decide

theorem State.sourceLockGained_keeps {K : Nat → Bool} (hK : Quiet K) {sA : State} {s : State} (hI : Keeps K sA s) (lane : Nat) :
    Keeps K sA (State.sourceLockGained s lane) := by
  unfold State.sourceLockGained
  repeat' first
    | with_reducible assumption
    | with_reducible apply keeps_ite
    | with_reducible apply State.lane_keeps hK
    | with_reducible apply State.tstat_keeps hK
    | split
    | decide

theorem State.srcReturn_keeps {K : Nat → Bool} (hK : Quiet K) {sA : State} {s : State} (hI : Keeps K sA s) :
    Keeps K sA (State.srcReturn s) := by
  unfold State.srcReturn
  repeat' first
    | with_reducible assumption
    | with_reducible apply keeps_ite
    | with_reducible apply State.tstat_keeps hK
    | split
    | decide

theorem State.trellisBoundary_keeps {K : Nat → Bool} (hK : Quiet K) {sA : State} {s : State} (hI : Keeps K sA s) :
    Keeps K sA (State.trellisBoundary s) := by
  unfold State.trellisBoundary
  repeat' first
    | with_reducible assumption
    | with_reducible apply keeps_ite
    | with_reducible apply State.anchor_keeps hK
    | with_reducible apply State.slotPasses_keeps hK
    | with_reducible apply State.tr_keeps hK
    | with_reducible apply State.tstat_keeps hK
    | with_reducible refine keeps_mk (by with_reducible assumption)
    | dsimp only
    | split
    | (clear_value *; split)
    | decide

theorem State.structureChange_keeps {K : Nat → Bool} (hK : Quiet K) {sA : State} {s : State} (hI : Keeps K sA s) :
    Keeps K sA (State.structureChange s) := by
  unfold State.structureChange
  repeat' first
    | with_reducible assumption
    | with_reducible apply keeps_ite
    | with_reducible apply State.probe_keeps hK
    | with_reducible apply State.tr_keeps hK
    | with_reducible apply State.tstat_keeps hK
    | with_reducible refine keeps_mk (by with_reducible assumption)
    | dsimp only
    | split
    | (clear_value *; split)
    | decide

theorem State.kselChange_keeps {K : Nat → Bool} (hK : Quiet K) {sA : State} {s : State} (hI : Keeps K sA s) :
    Keeps K sA (State.kselChange s) := by
  unfold State.kselChange
  repeat' first
    | with_reducible assumption
    | intro a b c
    | with_reducible apply keeps_ite
    | with_reducible apply forAll_keeps
    | with_reducible apply State.bed_keeps hK
    | with_reducible apply State.pllHold_keeps hK
    | with_reducible refine keeps_mk (by with_reducible assumption)
    | dsimp only
    | split
    | (clear_value *; split)

theorem State.probe_keeps {K : Nat → Bool} (hK : Quiet K) {sA : State} {s : State} (hI : Keeps K sA s) (f : Probe → Probe) :
    Keeps K sA (State.probe s f) := by
  unfold State.probe
  repeat' first
    | with_reducible assumption
    | with_reducible apply State.tr_keeps hK
    | with_reducible refine keeps_mk (by with_reducible assumption)
    | dsimp only

theorem State.publishDdown_keeps {K : Nat → Bool} (hK : Quiet K) {sA : State} {s : State} (hI : Keeps K sA s) (sum : Int) (n : Nat) :
    Keeps K sA (State.publishDdown s sum n) := by
  unfold State.publishDdown
  repeat' first
    | with_reducible assumption
    | with_reducible apply State.p_keeps hK
    | decide

theorem State.setTarget_keeps {K : Nat → Bool} (hK : Quiet K) {sA : State} {s : State} (hI : Keeps K sA s) (steps : Nat) :
    Keeps K sA (State.setTarget s steps) := by
  unfold State.setTarget
  repeat' first
    | with_reducible assumption
    | with_reducible apply State.p_keeps hK
    | with_reducible apply State.probe_keeps hK
    | with_reducible refine keeps_mk (by with_reducible assumption)
    | dsimp only
    | decide

theorem State.useReport_keeps {K : Nat → Bool} (hK : Quiet K) {sA : State} {s : State} (hI : Keeps K sA s) (d : Int) :
    Keeps K sA (State.useReport s d) := by
  unfold State.useReport
  repeat' first
    | with_reducible assumption
    | with_reducible apply keeps_ite
    | with_reducible apply State.p_keeps hK
    | with_reducible apply State.probe_keeps hK
    | with_reducible apply State.publishDdown_keeps hK
    | with_reducible apply State.setTarget_keeps hK
    | with_reducible refine keeps_mk (by with_reducible assumption)
    | dsimp only
    | split
    | (clear_value *; split)
    | decide

theorem State.echoReport_keeps {K : Nat → Bool} (hK : Quiet K) {sA : State} {s : State} (hI : Keeps K sA s) (hub : Nat) (seq : Nat) (flags : Nat) (orbit : Nat) (slot : Nat) (frac : Nat) :
    Keeps K sA (State.echoReport s hub seq flags orbit slot frac) := by
  unfold State.echoReport
  repeat' first
    | with_reducible assumption
    | with_reducible apply keeps_ite
    | with_reducible apply State.inc_keeps hK
    | with_reducible apply State.p_keeps hK
    | with_reducible apply State.probe_keeps hK
    | with_reducible apply State.tstat_keeps hK
    | with_reducible apply State.useReport_keeps hK
    | with_reducible refine keeps_mk (by with_reducible assumption)
    | dsimp only
    | split
    | (clear_value *; split)
    | unfold id
    | decide

theorem State.probeLaunch_keeps {K : Nat → Bool} (hK : Quiet K) {sA : State} {s : State} (hI : Keeps K sA s) (slot : Nat) (frac : Nat) :
    Keeps K sA (State.probeLaunch s slot frac) := by
  unfold State.probeLaunch
  repeat' first
    | with_reducible assumption
    | with_reducible apply keeps_ite
    | with_reducible apply State.inc_keeps hK
    | with_reducible apply State.p_keeps hK
    | with_reducible apply State.probe_keeps hK
    | with_reducible apply State.sendPriority_keeps hK
    | with_reducible apply State.tx_keeps hK
    | with_reducible refine keeps_mk (by with_reducible assumption)
    | dsimp only
    | split
    | (clear_value *; split)
    | decide

theorem State.alignLost_keeps {K : Nat → Bool} (hK : Quiet K) {sA : State} {s : State} (hI : Keeps K sA s) :
    Keeps K sA (State.alignLost s) := by
  unfold State.alignLost
  repeat' first
    | with_reducible assumption
    | with_reducible apply keeps_ite
    | with_reducible apply State.probe_keeps hK
    | with_reducible apply State.tstat_keeps hK
    | split
    | decide

theorem State.alignHold_keeps {K : Nat → Bool} (hK : Quiet K) {sA : State} {s : State} (hI : Keeps K sA s) :
    Keeps K sA (State.alignHold s) := by
  unfold State.alignHold
  repeat' first
    | with_reducible assumption
    | with_reducible apply keeps_ite
    | with_reducible apply State.probe_keeps hK
    | with_reducible apply State.tstat_keeps hK
    | split
    | decide

theorem State.rotatorStep_keeps {K : Nat → Bool} (hK : Quiet K) {sA : State} {s : State} (hI : Keeps K sA s) :
    Keeps K sA (State.rotatorStep s) := by
  unfold State.rotatorStep
  repeat' first
    | with_reducible assumption
    | with_reducible apply keeps_ite
    | with_reducible apply State.p_keeps hK
    | with_reducible apply State.pin_keeps hK
    | with_reducible apply State.probe_keeps hK
    | with_reducible refine keeps_mk (by with_reducible assumption)
    | dsimp only
    | split
    | (clear_value *; split)
    | decide

theorem State.calibrateApply_keeps {K : Nat → Bool} (hK : Quiet K) {sA : State} {s : State} (hI : Keeps K sA s) :
    Keeps K sA (State.calibrateApply s) := by
  unfold State.calibrateApply
  repeat' first
    | with_reducible assumption
    | with_reducible apply keeps_ite
    | with_reducible apply State.complete_keeps hK
    | with_reducible apply State.p_keeps hK
    | with_reducible apply State.probe_keeps hK
    | with_reducible apply State.tstat_keeps hK
    | with_reducible refine keeps_mk (by with_reducible assumption)
    | dsimp only
    | split
    | (clear_value *; split)
    | decide

theorem State.phaseCalibrate_keeps {K : Nat → Bool} (hK : Quiet K) {sA : State} {s : State} (hI : Keeps K sA s) (h : Hdr) :
    Keeps K sA (State.phaseCalibrate s h).1 := by
  unfold State.phaseCalibrate
  repeat' first
    | with_reducible assumption
    | (extract_lets +onlyGivenNames x; have hx : Keeps K sA x := (by
        unfold x
        repeat' first
          | with_reducible assumption
          | with_reducible apply keeps_ite
          | with_reducible apply State.p_keeps hK
          | with_reducible apply State.probe_keeps hK
          | with_reducible refine keeps_mk (by with_reducible assumption)
          | dsimp only
          | split
          | (clear_value *; split)); try clear_value x)
    | extract_lets +onlyGivenNames _
    | with_reducible apply keeps_ite
    | with_reducible apply State.p_keeps hK
    | with_reducible apply State.probe_keeps hK
    | with_reducible refine keeps_mk (by with_reducible assumption)
    | split
    | (clear_value *; split)

theorem State.phaseCalibrate_keepsE {K : Nat → Bool} (hK : Quiet K) {sA : State} {s : State} (hI : Keeps K sA s) {h : Hdr} {tE : State} {rE : Reply} (eE : State.phaseCalibrate s h = (tE, rE)) :
    Keeps K sA tE := by
  have hE := State.phaseCalibrate_keeps hK hI h
  rw [eE] at hE
  exact hE

theorem State.calibrateAnswer_keeps {K : Nat → Bool} (hK : Quiet K) {sA : State} {s : State} (hI : Keeps K sA s) (status : Nat) (payload : List Byte) :
    Keeps K sA (State.calibrateAnswer s status payload) := by
  unfold State.calibrateAnswer
  repeat' first
    | with_reducible assumption
    | with_reducible apply State.endLong_keeps hK

theorem State.phaseCalibrateDone_keeps {K : Nat → Bool} (hK : Quiet K) {sA : State} {s : State} (hI : Keeps K sA s) :
    Keeps K sA (State.phaseCalibrateDone s) := by
  unfold State.phaseCalibrateDone
  repeat' first
    | with_reducible assumption
    | with_reducible apply keeps_ite
    | with_reducible apply State.calibrateAnswer_keeps hK
    | with_reducible apply State.p_keeps hK
    | with_reducible apply State.probe_keeps hK
    | with_reducible apply State.publishDdown_keeps hK
    | with_reducible apply State.setTarget_keeps hK
    | with_reducible refine keeps_mk (by with_reducible assumption)
    | dsimp only
    | split
    | (clear_value *; split)

theorem State.orbitLoadArm_keeps {K : Nat → Bool} (hK : Quiet K) {sA : State} {s : State} (hI : Keeps K sA s) (w : Word) :
    Keeps K sA (State.orbitLoadArm s w) := by
  unfold State.orbitLoadArm
  repeat' first
    | with_reducible assumption
    | (extract_lets +onlyGivenNames x; have hx : Keeps K sA x := (by
        unfold x
        repeat' first
          | with_reducible assumption
          | with_reducible apply keeps_ite
          | with_reducible apply State.p_keeps hK
          | with_reducible apply State.tr_keeps hK
          | with_reducible refine keeps_mk (by with_reducible assumption)
          | dsimp only
          | split
          | (clear_value *; split)
          | decide); try clear_value x)
    | extract_lets +onlyGivenNames _
    | with_reducible apply keeps_ite
    | with_reducible apply State.p_keeps hK
    | with_reducible apply State.tr_keeps hK
    | with_reducible refine keeps_mk (by with_reducible assumption)
    | split
    | (clear_value *; split)
    | decide

end Sys2Proof.Machine
end

