-- ==== Sys2Proof/Laws/KeepsLanes.lean ====
section
/-! SUPPORT. What every operation of Machine/Lanes.lean keeps. -/
namespace Sys2Proof.Machine

theorem State.takeFrame_keeps {K : Nat → Bool} (hK : Quiet K) {sA : State} {s : State} (hI : Keeps K sA s) (l : Nat) :
    Keeps K sA (State.takeFrame s l) := by
  unfold State.takeFrame
  repeat' first
    | with_reducible assumption
    | with_reducible apply State.lane_keeps hK
    | with_reducible refine keeps_mk (by with_reducible assumption)
    | dsimp only

theorem State.dropFrameLock_keeps {K : Nat → Bool} (hK : Quiet K) {sA : State} {s : State} (hI : Keeps K sA s) (l : Nat) (count : Bool) :
    Keeps K sA (State.dropFrameLock s l count) := by
  unfold State.dropFrameLock
  repeat' first
    | with_reducible assumption
    | with_reducible apply keeps_ite
    | with_reducible apply State.inc_keeps hK
    | with_reducible apply State.lane_keeps hK
    | with_reducible apply State.p_keeps hK
    | with_reducible apply State.pi_keeps hK
    | with_reducible apply State.port_keeps hK
    | with_reducible refine keeps_mk (by with_reducible assumption)
    | dsimp only
    | split
    | (clear_value *; split)
    | decide

theorem State.cutScan_keeps {K : Nat → Bool} (hK : Quiet K) {sA : State} {s : State} (hI : Keeps K sA s) (l : Nat) :
    Keeps K sA (State.cutScan s l) := by
  unfold State.cutScan
  repeat' first
    | with_reducible assumption
    | with_reducible apply keeps_ite
    | with_reducible apply State.lane_keeps hK
    | with_reducible apply State.pi_keeps hK
    | with_reducible apply State.scan_keeps hK
    | with_reducible refine keeps_mk (by with_reducible assumption)
    | dsimp only
    | split
    | (clear_value *; split)
    | decide

theorem State.dropBlockLock_keeps {K : Nat → Bool} (hK : Quiet K) {sA : State} {s : State} (hI : Keeps K sA s) (l : Nat) (count : Bool) :
    Keeps K sA (State.dropBlockLock s l count) := by
  unfold State.dropBlockLock
  repeat' first
    | with_reducible assumption
    | with_reducible apply keeps_ite
    | with_reducible apply State.cdLost_keeps hK
    | with_reducible apply State.dropFrameLock_keeps hK
    | with_reducible apply State.inc_keeps hK
    | with_reducible apply State.lane_keeps hK
    | with_reducible apply State.pi_keeps hK
    | with_reducible apply State.sourceLockLost_keeps hK
    | with_reducible refine keeps_mk (by with_reducible assumption)
    | dsimp only
    | split
    | (clear_value *; split)
    | decide

theorem State.adapt_keeps {K : Nat → Bool} (hK : Quiet K) {sA : State} {s : State} (hI : Keeps K sA s) (l : Nat) :
    Keeps K sA (State.adapt s l) := by
  unfold State.adapt
  repeat' first
    | with_reducible assumption
    | (extract_lets +onlyGivenNames x; have hx : Keeps K sA x := (by
        unfold x
        repeat' first
          | with_reducible assumption
          | with_reducible apply keeps_ite
          | with_reducible apply State.lane_keeps hK
          | with_reducible apply State.pi_keeps hK
          | with_reducible refine keeps_mk (by with_reducible assumption)
          | dsimp only
          | split
          | (clear_value *; split)
          | decide); try clear_value x)
    | extract_lets +onlyGivenNames _
    | with_reducible apply keeps_ite
    | with_reducible apply State.lane_keeps hK
    | with_reducible apply State.pi_keeps hK
    | with_reducible refine keeps_mk (by with_reducible assumption)
    | split
    | (clear_value *; split)
    | decide

theorem State.lockedBlock_keeps {K : Nat → Bool} (hK : Quiet K) {sA : State} {s : State} (hI : Keeps K sA s) (l : Nat) (valid : Bool) (bfs : Bool) (bits : List Bool) :
    Keeps K sA (State.lockedBlock s l valid bfs bits) := by
  unfold State.lockedBlock
  repeat' first
    | with_reducible assumption
    | with_reducible apply keeps_ite
    | with_reducible apply State.err_keeps hK
    | with_reducible apply State.inc_keeps hK
    | with_reducible apply State.lane_keeps hK
    | with_reducible refine keeps_mk (by with_reducible assumption)
    | dsimp only
    | split
    | (clear_value *; split)
    | decide

theorem State.rxBlock_keeps {K : Nat → Bool} (hK : Quiet K) {sA : State} {s : State} (hI : Keeps K sA s) (l : Nat) (symbols : List Nat) :
    Keeps K sA (State.rxBlock s l symbols) := by
  unfold State.rxBlock
  repeat' first
    | with_reducible assumption
    | with_reducible apply keeps_ite
    | with_reducible apply State.adapt_keeps hK
    | with_reducible apply State.drew_keeps hK
    | with_reducible apply State.lane_keeps hK
    | with_reducible apply State.lockedBlock_keeps hK
    | with_reducible refine keeps_mk (by with_reducible assumption)
    | dsimp only
    | split
    | (clear_value *; split)
    | unfold id
    | decide

theorem State.blockLockAcquire_keeps {K : Nat → Bool} (hK : Quiet K) {sA : State} {s : State} (hI : Keeps K sA s) (l : Nat) :
    Keeps K sA (State.blockLockAcquire s l) := by
  unfold State.blockLockAcquire
  repeat' first
    | with_reducible assumption
    | with_reducible apply keeps_ite
    | with_reducible apply State.lane_keeps hK
    | with_reducible apply State.pi_keeps hK
    | with_reducible apply State.sourceLockGained_keeps hK
    | with_reducible apply State.tr_keeps hK
    | with_reducible refine keeps_mk (by with_reducible assumption)
    | dsimp only
    | split
    | (clear_value *; split)
    | decide

theorem State.blockLockLoss_keeps {K : Nat → Bool} (hK : Quiet K) {sA : State} {s : State} (hI : Keeps K sA s) (l : Nat) :
    Keeps K sA (State.blockLockLoss s l) := by
  unfold State.blockLockLoss
  repeat' first
    | with_reducible assumption
    | with_reducible apply keeps_ite
    | with_reducible apply State.dropBlockLock_keeps hK
    | dsimp only
    | split
    | (clear_value *; split)

theorem State.frameLockAcquire_keeps {K : Nat → Bool} (hK : Quiet K) {sA : State} {s : State} (hI : Keeps K sA s) (l : Nat) :
    Keeps K sA (State.frameLockAcquire s l) := by
  unfold State.frameLockAcquire
  repeat' first
    | with_reducible assumption
    | with_reducible apply keeps_ite
    | with_reducible apply State.lane_keeps hK
    | with_reducible apply State.pi_keeps hK
    | with_reducible refine keeps_mk (by with_reducible assumption)
    | dsimp only
    | split
    | (clear_value *; split)
    | decide

theorem State.frameLockLoss_keeps {K : Nat → Bool} (hK : Quiet K) {sA : State} {s : State} (hI : Keeps K sA s) (l : Nat) :
    Keeps K sA (State.frameLockLoss s l) := by
  unfold State.frameLockLoss
  repeat' first
    | with_reducible assumption
    | with_reducible apply keeps_ite
    | with_reducible apply State.dropFrameLock_keeps hK
    | dsimp only
    | split
    | (clear_value *; split)

theorem State.deepExitStart_keeps {K : Nat → Bool} (hK : Quiet K) {sA : State} {s : State} (hI : Keeps K sA s) :
    Keeps K sA (State.deepExitStart s) := by
  unfold State.deepExitStart
  repeat' first
    | with_reducible assumption
    | (extract_lets +onlyGivenNames x; have hx : Keeps K sA x := (by
        unfold x
        repeat' first
          | with_reducible assumption
          | with_reducible apply keeps_ite
          | with_reducible apply State.lane_keeps hK
          | with_reducible apply State.tx_keeps hK
          | with_reducible refine keeps_mk (by with_reducible assumption)
          | dsimp only
          | split
          | (clear_value *; split)); try clear_value x)
    | extract_lets +onlyGivenNames _
    | with_reducible apply keeps_ite
    | with_reducible apply State.lane_keeps hK
    | with_reducible apply State.tx_keeps hK
    | with_reducible refine keeps_mk (by with_reducible assumption)
    | split
    | (clear_value *; split)

theorem State.startExits_keeps {K : Nat → Bool} (hK : Quiet K) {sA : State} {s : State} (hI : Keeps K sA s) :
    Keeps K sA (State.startExits s) := by
  unfold State.startExits
  repeat' first
    | with_reducible assumption
    | with_reducible apply State.deepExitStart_keeps hK

theorem State.askTx_keeps {K : Nat → Bool} (hK : Quiet K) {sA : State} {s : State} (hI : Keeps K sA s) (l : Nat) (dest : Nat) :
    Keeps K sA (State.askTx s l dest) := by
  unfold State.askTx
  repeat' first
    | with_reducible assumption
    | with_reducible apply keeps_ite
    | with_reducible apply State.lane_keeps hK
    | with_reducible apply State.pbit_keeps hK
    | with_reducible apply State.sendControl_keeps hK
    | with_reducible apply State.tx_keeps hK
    | with_reducible refine keeps_mk (by with_reducible assumption)
    | dsimp only
    | split
    | (clear_value *; split)
    | decide

theorem State.askRx_keeps {K : Nat → Bool} (hK : Quiet K) {sA : State} {s : State} (hI : Keeps K sA s) (l : Nat) (dest : Nat) :
    Keeps K sA (State.askRx s l dest) := by
  unfold State.askRx
  repeat' first
    | with_reducible assumption
    | with_reducible apply keeps_ite
    | with_reducible apply State.cutScan_keeps hK
    | with_reducible apply State.dropBlockLock_keeps hK
    | with_reducible apply State.lane_keeps hK
    | with_reducible refine keeps_mk (by with_reducible assumption)
    | dsimp only
    | split
    | (clear_value *; split)

theorem State.exitComplete_keeps {K : Nat → Bool} (hK : Quiet K) {sA : State} {s : State} (hI : Keeps K sA s) (l : Nat) (tx : Bool) :
    Keeps K sA (State.exitComplete s l tx) := by
  unfold State.exitComplete
  repeat' first
    | with_reducible assumption
    | with_reducible apply keeps_ite
    | with_reducible apply State.lane_keeps hK
    | with_reducible apply State.pmax_keeps hK
    | with_reducible apply State.sendIdle_keeps hK
    | with_reducible apply State.tx_keeps hK
    | with_reducible refine keeps_mk (by with_reducible assumption)
    | dsimp only
    | split
    | (clear_value *; split)
    | decide

theorem State.shallowBurst_keeps {K : Nat → Bool} (hK : Quiet K) {sA : State} {s : State} (hI : Keeps K sA s) (l : Nat) :
    Keeps K sA (State.shallowBurst s l) := by
  unfold State.shallowBurst
  repeat' first
    | with_reducible assumption
    | with_reducible apply keeps_ite
    | with_reducible apply State.sendControl_keeps hK
    | with_reducible apply State.tx_keeps hK
    | split

theorem State.applyPower_keeps {K : Nat → Bool} (hK : Quiet K) {sA : State} {s : State} (hI : Keeps K sA s) (l : Nat) :
    Keeps K sA (State.applyPower s l) := by
  unfold State.applyPower
  repeat' first
    | with_reducible assumption
    | with_reducible apply keeps_ite
    | with_reducible apply State.askRx_keeps hK
    | with_reducible apply State.askTx_keeps hK
    | with_reducible apply State.lane_keeps hK
    | with_reducible apply State.tx_keeps hK
    | with_reducible refine keeps_mk (by with_reducible assumption)
    | dsimp only
    | split
    | (clear_value *; split)
    | decide

theorem State.lanesBoundary_keeps {K : Nat → Bool} (hK : Quiet K) {sA : State} {s : State} (hI : Keeps K sA s) :
    Keeps K sA (State.lanesBoundary s) := by
  unfold State.lanesBoundary
  repeat' first
    | with_reducible assumption
    | intro a b c
    | with_reducible apply forAll_keeps
    | with_reducible apply State.applyPower_keeps hK
    | with_reducible apply State.startExits_keeps hK

theorem State.requestState_keeps {K : Nat → Bool} (hK : Quiet K) {sA : State} {s : State} (hI : Keeps K sA s) (l : Nat) (tx : Bool) (dest : Nat) :
    Keeps K sA (State.requestState s l tx dest) := by
  unfold State.requestState
  repeat' first
    | with_reducible assumption
    | with_reducible apply keeps_ite
    | with_reducible apply State.lane_keeps hK
    | with_reducible apply State.pi_keeps hK
    | with_reducible apply State.tx_keeps hK
    | with_reducible refine keeps_mk (by with_reducible assumption)
    | dsimp only
    | split
    | (clear_value *; split)
    | decide

theorem State.lanePwrReq_keeps {K : Nat → Bool} (hK : Quiet K) {sA : State} {s : State} (hI : Keeps K sA s) (l : Nat) (w : Word) :
    Keeps K sA (State.lanePwrReq s l w) := by
  unfold State.lanePwrReq
  repeat' first
    | with_reducible assumption
    | with_reducible apply keeps_ite
    | with_reducible apply State.applyPower_keeps hK
    | with_reducible apply State.err_keeps hK
    | with_reducible apply State.requestState_keeps hK
    | with_reducible apply State.startExits_keeps hK
    | with_reducible apply State.tx_keeps hK
    | with_reducible refine keeps_mk (by with_reducible assumption)
    | dsimp only
    | split
    | (clear_value *; split)

theorem State.activatePort_keeps {K : Nat → Bool} (hK : Quiet K) {sA : State} {s : State} (hI : Keeps K sA s) (n : Nat) :
    Keeps K sA (State.activatePort s n) := by
  unfold State.activatePort
  repeat' first
    | with_reducible assumption
    | with_reducible apply State.askRx_keeps hK
    | with_reducible apply State.askTx_keeps hK
    | with_reducible apply State.lane_keeps hK
    | with_reducible apply State.pi_keeps hK
    | with_reducible apply State.startExits_keeps hK
    | with_reducible refine keeps_mk (by with_reducible assumption)
    | dsimp only
    | decide

theorem State.activateRx_keeps {K : Nat → Bool} (hK : Quiet K) {sA : State} {s : State} (hI : Keeps K sA s) (n : Nat) :
    Keeps K sA (State.activateRx s n) := by
  unfold State.activateRx
  repeat' first
    | with_reducible assumption
    | with_reducible apply State.askRx_keeps hK
    | with_reducible apply State.lane_keeps hK
    | with_reducible apply State.pi_keeps hK
    | with_reducible apply State.startExits_keeps hK
    | with_reducible refine keeps_mk (by with_reducible assumption)
    | dsimp only
    | decide

theorem State.activateUplink_keeps {K : Nat → Bool} (hK : Quiet K) {sA : State} {s : State} (hI : Keeps K sA s) :
    Keeps K sA (State.activateUplink s) := by
  unfold State.activateUplink
  repeat' first
    | with_reducible assumption
    | intro a b c
    | with_reducible apply keeps_ite
    | with_reducible apply forAll_keeps
    | with_reducible apply State.activatePort_keeps hK
    | with_reducible apply State.activateRx_keeps hK
    | split

theorem State.lanesFrame_keeps {K : Nat → Bool} (hK : Quiet K) {sA : State} {s : State} (hI : Keeps K sA s) :
    Keeps K sA (State.lanesFrame s) := by
  unfold State.lanesFrame
  repeat' first
    | with_reducible assumption
    | intro a b c
    | with_reducible apply forAll_keeps
    | with_reducible apply State.lane_keeps hK
    | with_reducible apply State.scan_keeps hK
    | with_reducible refine keeps_mk (by with_reducible assumption)
    | dsimp only

theorem State.retrainStart_keeps {K : Nat → Bool} (hK : Quiet K) {sA : State} {s : State} (hI : Keeps K sA s) :
    Keeps K sA (State.retrainStart s) := by
  unfold State.retrainStart
  repeat' first
    | with_reducible assumption
    | intro a b c
    | with_reducible apply forAll_keeps
    | with_reducible apply State.lane_keeps hK
    | with_reducible refine keeps_mk (by with_reducible assumption)
    | dsimp only
    | decide

theorem State.lanePauses_keeps {K : Nat → Bool} (hK : Quiet K) {sA : State} {s : State} (hI : Keeps K sA s) :
    Keeps K sA (State.lanePauses s) := by
  unfold State.lanePauses
  repeat' first
    | with_reducible assumption
    | intro a b c
    | with_reducible apply forAll_keeps
    | with_reducible apply State.cutScan_keeps hK

theorem State.retrainEnd_keeps {K : Nat → Bool} (hK : Quiet K) {sA : State} {s : State} (hI : Keeps K sA s) (l : Nat) :
    Keeps K sA (State.retrainEnd s l) := by
  unfold State.retrainEnd
  repeat' first
    | with_reducible assumption
    | (extract_lets +onlyGivenNames x; have hx : Keeps K sA x := (by
        unfold x
        repeat' first
          | with_reducible assumption
          | with_reducible apply keeps_ite
          | with_reducible apply State.cutScan_keeps hK
          | with_reducible apply State.incW_keeps hK
          | with_reducible apply State.lane_keeps hK
          | with_reducible refine keeps_mk (by with_reducible assumption)
          | dsimp only
          | split
          | (clear_value *; split)
          | decide); try clear_value x)
    | extract_lets +onlyGivenNames _
    | with_reducible apply keeps_ite
    | with_reducible apply State.cutScan_keeps hK
    | with_reducible apply State.incW_keeps hK
    | with_reducible apply State.lane_keeps hK
    | with_reducible refine keeps_mk (by with_reducible assumption)
    | split
    | (clear_value *; split)
    | decide

theorem State.eyeCtrl_keeps {K : Nat → Bool} (hK : Quiet K) {sA : State} {s : State} (hI : Keeps K sA s) (l : Nat) (w : Word) :
    Keeps K sA (State.eyeCtrl s l w) := by
  unfold State.eyeCtrl
  repeat' first
    | with_reducible assumption
    | with_reducible apply keeps_ite
    | with_reducible apply State.err_keeps hK
    | with_reducible apply State.lane_keeps hK
    | with_reducible apply State.pi_keeps hK
    | with_reducible apply State.scan_keeps hK
    | with_reducible refine keeps_mk (by with_reducible assumption)
    | dsimp only
    | split
    | (clear_value *; split)
    | decide

theorem State.eyeScanDone_keeps {K : Nat → Bool} (hK : Quiet K) {sA : State} {s : State} (hI : Keeps K sA s) (l : Nat) (low : EyeIn) (mid : EyeIn) (high : EyeIn) (complete : Bool) :
    Keeps K sA (State.eyeScanDone s l low mid high complete) := by
  unfold State.eyeScanDone
  repeat' first
    | with_reducible assumption
    | (extract_lets +onlyGivenNames x; have hx : Keeps K sA x := (by
        unfold x
        repeat' first
          | with_reducible assumption
          | with_reducible apply keeps_ite
          | with_reducible apply State.complete_keeps hK
          | with_reducible apply State.lane_keeps hK
          | with_reducible apply State.pi_keeps hK
          | with_reducible apply State.scan_keeps hK
          | with_reducible refine keeps_mk (by with_reducible assumption)
          | dsimp only
          | split
          | (clear_value *; split)
          | decide); try clear_value x)
    | extract_lets +onlyGivenNames _
    | with_reducible apply keeps_ite
    | with_reducible apply State.complete_keeps hK
    | with_reducible apply State.lane_keeps hK
    | with_reducible apply State.pi_keeps hK
    | with_reducible apply State.scan_keeps hK
    | with_reducible refine keeps_mk (by with_reducible assumption)
    | split
    | (clear_value *; split)
    | decide

theorem State.lanesOff_keeps {K : Nat → Bool} (hK : Quiet K) {sA : State} {s : State} (hI : Keeps K sA s) (pd : Nat) :
    Keeps K sA (State.lanesOff s pd) := by
  unfold State.lanesOff
  repeat' first
    | with_reducible assumption
    | intro a b c
    | with_reducible apply keeps_ite
    | with_reducible apply forAll_keeps
    | with_reducible apply State.cutScan_keeps hK
    | with_reducible apply State.dropBlockLock_keeps hK
    | with_reducible apply State.lane_keeps hK
    | with_reducible apply State.pbit_keeps hK
    | with_reducible apply State.tx_keeps hK
    | with_reducible refine keeps_mk (by with_reducible assumption)
    | dsimp only
    | split
    | (clear_value *; split)
    | decide

end Sys2Proof.Machine
end

