-- ==== Sys2Proof/Laws/KeepsBeds.lean ====
section
/-! SUPPORT. What every operation of Machine/Beds.lean keeps. -/
namespace Sys2Proof.Machine

theorem State.stickySamples_keeps {K : Nat → Bool} (hK : Quiet K) {sA : State} {s : State} (hI : Keeps K sA s) (ch : Nat) (l : List Samp) :
    Keeps K sA (State.stickySamples s ch l) := by
  unfold State.stickySamples
  repeat' first
    | with_reducible assumption
    | with_reducible apply keeps_ite
    | with_reducible apply State.pbit_keeps hK
    | dsimp only
    | split
    | (clear_value *; split)
    | decide

theorem State.takeSamples_keeps {K : Nat → Bool} (hK : Quiet K) {sA : State} {s : State} (hI : Keeps K sA s) (c : CycleIn) :
    Keeps K sA (State.takeSamples s c) := by
  unfold State.takeSamples
  repeat' first
    | with_reducible assumption
    | (extract_lets +onlyGivenNames x; have hx : Keeps K sA x := (by
        unfold x
        repeat' first
          | with_reducible assumption
          | intro a b c
          | intro c
          | with_reducible apply foldl_keeps
          | with_reducible apply foldl_pair_keeps
          | with_reducible apply State.p_keeps hK
          | with_reducible apply State.stickySamples_keeps hK
          | with_reducible refine keeps_mk (by with_reducible assumption)
          | dsimp only
          | (refine fld_mem (by assumption) ?_; decide)); try clear_value x)
    | extract_lets +onlyGivenNames _
    | intro a b c
    | intro c
    | with_reducible apply foldl_keeps
    | with_reducible apply foldl_pair_keeps
    | with_reducible apply State.p_keeps hK
    | with_reducible apply State.stickySamples_keeps hK
    | with_reducible refine keeps_mk (by with_reducible assumption)
    | dsimp only
    | (refine fld_mem (by assumption) ?_; decide)

theorem State.clampConduct_keeps {K : Nat → Bool} (hK : Quiet K) {sA : State} {s : State} (hI : Keeps K sA s) (ch : Nat) :
    Keeps K sA (State.clampConduct s ch) := by
  unfold State.clampConduct
  repeat' first
    | with_reducible assumption
    | with_reducible apply keeps_ite
    | with_reducible apply State.pbit_keeps hK
    | split
    | decide

theorem State.termDisconnect_keeps {K : Nat → Bool} (hK : Quiet K) {sA : State} {s : State} (hI : Keeps K sA s) (ch : Nat) :
    Keeps K sA (State.termDisconnect s ch) := by
  unfold State.termDisconnect
  repeat' first
    | with_reducible assumption
    | with_reducible apply keeps_ite
    | with_reducible apply State.bed_keeps hK
    | with_reducible apply State.pbit_keeps hK
    | with_reducible refine keeps_mk (by with_reducible assumption)
    | dsimp only
    | split
    | (clear_value *; split)
    | decide

theorem State.termReconnect_keeps {K : Nat → Bool} (hK : Quiet K) {sA : State} {s : State} (hI : Keeps K sA s) (ch : Nat) :
    Keeps K sA (State.termReconnect s ch) := by
  unfold State.termReconnect
  repeat' first
    | with_reducible assumption
    | with_reducible apply keeps_ite
    | with_reducible apply State.bed_keeps hK
    | with_reducible refine keeps_mk (by with_reducible assumption)
    | dsimp only
    | split
    | (clear_value *; split)

theorem State.keepHighZ_keeps {K : Nat → Bool} (hK : Quiet K) {sA : State} {s : State} (hI : Keeps K sA s) (l : List Staged) :
    Keeps K sA (State.keepHighZ s l).1 := by
  unfold State.keepHighZ
  repeat' first
    | with_reducible assumption
    | intro a b c
    | intro c
    | with_reducible apply keeps_ite
    | with_reducible apply foldl_keeps
    | with_reducible apply foldl_pair_keeps
    | with_reducible apply State.errAt_keeps hK
    | dsimp only
    | split
    | (clear_value *; split)
    | (refine fld_mem (by assumption) ?_; decide)
    | decide

theorem State.keepHighZ_keepsE {K : Nat → Bool} (hK : Quiet K) {sA : State} {s : State} (hI : Keeps K sA s) {l : List Staged} {tE : State} {rE : List Staged} (eE : State.keepHighZ s l = (tE, rE)) :
    Keeps K sA tE := by
  have hE := State.keepHighZ_keeps hK hI l
  rw [eE] at hE
  exact hE

theorem State.tuneFilter_keeps {K : Nat → Bool} (hK : Quiet K) {sA : State} {s : State} (hI : Keeps K sA s) :
    Keeps K sA (State.tuneFilter s) := by
  unfold State.tuneFilter
  repeat' first
    | with_reducible assumption
    | with_reducible apply keeps_ite
    | with_reducible apply State.tuneNow_keeps hK
    | split

theorem State.settleChannel_keeps {K : Nat → Bool} (hK : Quiet K) {sA : State} {s : State} (hI : Keeps K sA s) (ch : Nat) :
    Keeps K sA (State.settleChannel s ch) := by
  unfold State.settleChannel
  repeat' first
    | with_reducible assumption
    | with_reducible apply State.bed_keeps hK
    | with_reducible apply State.p_keeps hK
    | with_reducible refine keeps_mk (by with_reducible assumption)
    | dsimp only

theorem State.setCal_keeps {K : Nat → Bool} (hK : Quiet K) {sA : State} {s : State} (hI : Keeps K sA s) (b : Nat) (slice : Nat) (c : CalIn) :
    Keeps K sA (State.setCal s b slice c) := by
  unfold State.setCal
  repeat' first
    | with_reducible assumption
    | with_reducible apply State.pi_keeps hK
    | decide

theorem State.bedPowerUpCal_keeps {K : Nat → Bool} (hK : Quiet K) {sA : State} {s : State} (hI : Keeps K sA s) (b : Nat) :
    Keeps K sA (State.bedPowerUpCal s b) := by
  unfold State.bedPowerUpCal
  repeat' first
    | with_reducible assumption
    | with_reducible apply keeps_ite
    | with_reducible apply State.bed_keeps hK
    | with_reducible refine keeps_mk (by with_reducible assumption)
    | dsimp only
    | split
    | (clear_value *; split)

theorem State.bedCalDone_keeps {K : Nat → Bool} (hK : Quiet K) {sA : State} {s : State} (hI : Keeps K sA s) (b : Nat) (cals : List CalIn) :
    Keeps K sA (State.bedCalDone s b cals) := by
  unfold State.bedCalDone
  repeat' first
    | with_reducible assumption
    | intro a b c
    | with_reducible apply keeps_ite
    | with_reducible apply forAll_keeps
    | with_reducible apply State.bed_keeps hK
    | with_reducible apply State.setCal_keeps hK
    | with_reducible refine keeps_mk (by with_reducible assumption)
    | dsimp only
    | split
    | (clear_value *; split)

theorem State.spareOn_keeps {K : Nat → Bool} (hK : Quiet K) {sA : State} {s : State} (hI : Keeps K sA s) (b : Nat) (c : Nat) :
    Keeps K sA (State.spareOn s b c) := by
  unfold State.spareOn
  repeat' first
    | with_reducible assumption
    | with_reducible apply State.pi_keeps hK
    | decide

theorem State.takeOver_keeps {K : Nat → Bool} (hK : Quiet K) {sA : State} {s : State} (hI : Keeps K sA s) (b : Nat) (c : Nat) (fate : Nat) :
    Keeps K sA (State.takeOver s b c fate) := by
  unfold State.takeOver
  repeat' first
    | with_reducible assumption
    | with_reducible apply keeps_ite
    | with_reducible apply State.incW_keeps hK
    | with_reducible apply State.pi_keeps hK
    | with_reducible refine keeps_mk (by with_reducible assumption)
    | dsimp only
    | split
    | (clear_value *; split)
    | decide

theorem State.calSpare_keeps {K : Nat → Bool} (hK : Quiet K) {sA : State} {s : State} (hI : Keeps K sA s) (b : Nat) (r : Option RotIn) :
    Keeps K sA (State.calSpare s b r) := by
  unfold State.calSpare
  repeat' first
    | with_reducible assumption
    | with_reducible apply State.bed_keeps hK
    | with_reducible apply State.setCal_keeps hK
    | with_reducible refine keeps_mk (by with_reducible assumption)
    | dsimp only
    | split
    | (clear_value *; split)

theorem State.rotationOut_keeps {K : Nat → Bool} (hK : Quiet K) {sA : State} {s : State} (hI : Keeps K sA s) (b : Nat) (f : Fld) (hf : stagedBases.contains (Fld.base f) = false) (what : Nat) :
    Keeps K sA (State.rotationOut s b f what) := by
  unfold State.rotationOut
  repeat' first
    | with_reducible assumption
    | with_reducible apply hf
    | with_reducible apply State.event_keeps hK
    | with_reducible apply State.log_keeps hK
    | with_reducible apply State.pi_keeps hK
    | with_reducible apply State.setPhase_keeps hK
    | with_reducible apply State.tendEvent_keeps hK

theorem State.mismatch_keeps {K : Nat → Bool} (hK : Quiet K) {sA : State} {s : State} (hI : Keeps K sA s) (b : Nat) :
    Keeps K sA (State.mismatch s b) := by
  unfold State.mismatch
  repeat' first
    | with_reducible assumption
    | with_reducible apply State.inc_keeps hK
    | decide

theorem State.rotateBed_keeps {K : Nat → Bool} (hK : Quiet K) {sA : State} {s : State} (hI : Keeps K sA s) (rot : List RotIn) (b : Nat) :
    Keeps K sA (State.rotateBed s rot b) := by
  unfold State.rotateBed
  repeat' first
    | with_reducible assumption
    | with_reducible apply keeps_ite
    | with_reducible apply State.bed_keeps hK
    | with_reducible apply State.calSpare_keeps hK
    | with_reducible apply State.mismatch_keeps hK
    | with_reducible apply State.pi_keeps hK
    | with_reducible apply State.rotationOut_keeps hK
    | with_reducible apply State.setPhase_keeps hK
    | with_reducible apply State.spareOn_keeps hK
    | with_reducible apply State.stopRotation_keeps hK
    | with_reducible apply State.takeOver_keeps hK
    | with_reducible refine keeps_mk (by with_reducible assumption)
    | dsimp only
    | split
    | (clear_value *; split)
    | decide

theorem State.lineCheckStart_keeps {K : Nat → Bool} (hK : Quiet K) {sA : State} {s : State} (hI : Keeps K sA s) (b : Nat) (w : Word) :
    Keeps K sA (State.lineCheckStart s b w) := by
  unfold State.lineCheckStart
  repeat' first
    | with_reducible assumption
    | with_reducible apply keeps_ite
    | with_reducible apply State.bed_keeps hK
    | with_reducible apply State.err_keeps hK
    | with_reducible apply State.pi_keeps hK
    | with_reducible refine keeps_mk (by with_reducible assumption)
    | dsimp only
    | split
    | (clear_value *; split)
    | decide

theorem State.lineCheckRun_keeps {K : Nat → Bool} (hK : Quiet K) {sA : State} {s : State} (hI : Keeps K sA s) (line : List (Nat × Nat)) (b : Nat) :
    Keeps K sA (State.lineCheckRun s line b) := by
  unfold State.lineCheckRun
  repeat' first
    | with_reducible assumption
    | with_reducible apply keeps_ite
    | with_reducible apply State.bed_keeps hK
    | with_reducible apply State.pi_keeps hK
    | with_reducible refine keeps_mk (by with_reducible assumption)
    | dsimp only
    | split
    | (clear_value *; split)
    | decide

end Sys2Proof.Machine
end

