-- ==== Sys2Proof/Laws/KeepsSieve.lean ====
section
/-! SUPPORT. What every operation of Machine/Sieve.lean keeps. -/
namespace Sys2Proof.Machine

theorem State.countSat_keeps {K : Nat → Bool} (hK : Quiet K) {sA : State} {s : State} (hI : Keeps K sA s) (ch : Nat) :
    Keeps K sA (State.countSat s ch) := by
  unfold State.countSat
  repeat' first
    | with_reducible assumption
    | intro a b c
    | with_reducible apply keeps_ite
    | with_reducible apply forAll_keeps
    | with_reducible apply State.inc_keeps hK
    | with_reducible apply State.pi_keeps hK
    | dsimp only
    | split
    | (clear_value *; split)
    | decide

end Sys2Proof.Machine
end

