-- ==== Sys2Proof/Laws/KeepsShears.lean ====
section
/-! SUPPORT. What every operation of Machine/Shears.lean keeps. -/
namespace Sys2Proof.Machine

theorem State.latchPeak_keeps {K : Nat → Bool} (hK : Quiet K) {sA : State} {s : State} (hI : Keeps K sA s) (ch : Nat) (l : Levels) (slot : Nat) :
    Keeps K sA (State.latchPeak s ch l slot) := by
  unfold State.latchPeak
  repeat' first
    | with_reducible assumption
    | with_reducible apply State.pi_keeps hK
    | decide

theorem State.latchRise_keeps {K : Nat → Bool} (hK : Quiet K) {sA : State} {s : State} (hI : Keeps K sA s) (ch : Nat) (label : Nat) (l : Levels) (qual : Bool) :
    Keeps K sA (State.latchRise s ch label l qual) := by
  unfold State.latchRise
  repeat' first
    | with_reducible assumption
    | with_reducible apply keeps_ite
    | with_reducible apply State.inc_keeps hK
    | with_reducible apply State.p_keeps hK
    | with_reducible apply State.pi_keeps hK
    | with_reducible apply State.pmax_keeps hK
    | with_reducible refine keeps_mk (by with_reducible assumption)
    | dsimp only
    | split
    | (clear_value *; split)
    | decide

theorem State.pcountRead_keeps {K : Nat → Bool} (hK : Quiet K) {sA : State} {s : State} (hI : Keeps K sA s) (ch : Nat) :
    Keeps K sA (State.pcountRead s ch) := by
  unfold State.pcountRead
  repeat' first
    | with_reducible assumption
    | with_reducible apply State.pi_keeps hK
    | decide

theorem State.followLabel_keeps {K : Nat → Bool} (hK : Quiet K) {sA : State} {s : State} (hI : Keeps K sA s) (ch : Nat) (label : Nat) :
    Keeps K sA (State.followLabel s ch label) := by
  unfold State.followLabel
  repeat' first
    | with_reducible assumption
    | with_reducible apply keeps_ite
    | with_reducible apply State.follower_keeps hK
    | with_reducible refine keeps_mk (by with_reducible assumption)
    | dsimp only
    | split
    | (clear_value *; split)
    | decide

theorem State.followUpdate_keeps {K : Nat → Bool} (hK : Quiet K) {sA : State} {s : State} (hI : Keeps K sA s) (ch : Nat) :
    Keeps K sA (State.followUpdate s ch) := by
  unfold State.followUpdate
  repeat' first
    | with_reducible assumption
    | with_reducible apply keeps_ite
    | with_reducible apply State.follower_keeps hK
    | with_reducible apply State.inc_keeps hK
    | with_reducible apply State.logCode_keeps hK
    | with_reducible refine keeps_mk (by with_reducible assumption)
    | dsimp only
    | split
    | (clear_value *; split)
    | decide

theorem State.prevUpdate_keeps {K : Nat → Bool} (hK : Quiet K) {sA : State} {s : State} (hI : Keeps K sA s) :
    Keeps K sA (State.prevUpdate s) := by
  unfold State.prevUpdate
  repeat' first
    | with_reducible assumption
    | intro a b c
    | with_reducible apply forAll_keeps
    | with_reducible apply State.followUpdate_keeps hK
    | with_reducible apply State.tr_keeps hK
    | with_reducible refine keeps_mk (by with_reducible assumption)
    | dsimp only

theorem State.prevUpdateOf_keeps {K : Nat → Bool} (hK : Quiet K) {sA : State} {s : State} (hI : Keeps K sA s) (label : Nat) (ch : Nat) :
    Keeps K sA (State.prevUpdateOf s label ch) := by
  unfold State.prevUpdateOf
  repeat' first
    | with_reducible assumption
    | with_reducible apply keeps_ite
    | with_reducible apply State.followUpdate_keeps hK
    | with_reducible apply State.tr_keeps hK
    | with_reducible refine keeps_mk (by with_reducible assumption)
    | dsimp only
    | split
    | (clear_value *; split)

theorem State.pedestalUpdate_keeps {K : Nat → Bool} (hK : Quiet K) {sA : State} {s : State} (hI : Keeps K sA s) :
    Keeps K sA (State.pedestalUpdate s) := by
  unfold State.pedestalUpdate
  repeat' first
    | with_reducible assumption
    | intro a b c
    | with_reducible apply keeps_ite
    | with_reducible apply forAll_keeps
    | with_reducible apply State.followUpdate_keeps hK
    | with_reducible apply State.prevUpdate_keeps hK
    | with_reducible apply State.tr_keeps hK
    | with_reducible refine keeps_mk (by with_reducible assumption)
    | dsimp only
    | split
    | (clear_value *; split)

theorem State.followerApply_keeps {K : Nat → Bool} (hK : Quiet K) {sA : State} {s : State} (hI : Keeps K sA s) :
    Keeps K sA (State.followerApply s) := by
  unfold State.followerApply
  repeat' first
    | with_reducible assumption
    | intro a b c
    | with_reducible apply keeps_ite
    | with_reducible apply forAll_keeps
    | with_reducible apply State.follower_keeps hK
    | with_reducible apply State.inc_keeps hK
    | with_reducible refine keeps_mk (by with_reducible assumption)
    | dsimp only
    | split
    | (clear_value *; split)
    | decide

theorem State.followerKeep_keeps {K : Nat → Bool} (hK : Quiet K) {sA : State} {s : State} (hI : Keeps K sA s) :
    Keeps K sA (State.followerKeep s) := by
  unfold State.followerKeep
  repeat' first
    | with_reducible assumption
    | intro a b c
    | with_reducible apply forAll_keeps
    | with_reducible apply State.follower_keeps hK
    | with_reducible refine keeps_mk (by with_reducible assumption)
    | dsimp only

theorem State.unseed_keeps {K : Nat → Bool} (hK : Quiet K) {sA : State} {s : State} (hI : Keeps K sA s) (ch : Nat) :
    Keeps K sA (State.unseed s ch) := by
  unfold State.unseed
  repeat' first
    | with_reducible assumption
    | with_reducible apply State.follower_keeps hK
    | with_reducible refine keeps_mk (by with_reducible assumption)
    | dsimp only

end Sys2Proof.Machine
end

