-- ==== Sys2Proof/Laws/KeepsTributary.lean ====
section
/-! SUPPORT. What every operation of Machine/Tributary.lean keeps. -/
namespace Sys2Proof.Machine

theorem State.sendDownlink_keeps {K : Nat → Bool} (hK : Quiet K) {sA : State} {s : State} (hI : Keeps K sA s) (n : Nat) :
    Keeps K sA (State.sendDownlink s n) := by
  unfold State.sendDownlink
  repeat' first
    | with_reducible assumption
    | with_reducible apply keeps_ite
    | with_reducible apply keeps_ite_pair
    | with_reducible apply State.emit_keeps hK
    | with_reducible apply State.p_keeps hK
    | with_reducible apply State.port_keeps hK
    | with_reducible apply State.sl_keeps hK
    | with_reducible apply State.tx_keeps hK
    | with_reducible apply State.code_keeps hK
    | (with_reducible refine State.code_keepsE hK ?_ (by assumption))
    | with_reducible apply State.sendBlock_keeps hK
    | (with_reducible refine State.sendBlock_keepsE hK ?_ (by assumption))
    | with_reducible refine keeps_mk (by with_reducible assumption)
    | dsimp only
    | split
    | (clear_value *; split)

theorem State.sendDownlinks_keeps {K : Nat → Bool} (hK : Quiet K) {sA : State} {s : State} (hI : Keeps K sA s) :
    Keeps K sA (State.sendDownlinks s) := by
  unfold State.sendDownlinks
  repeat' first
    | with_reducible assumption
    | intro a b c
    | with_reducible apply forAll_keeps
    | with_reducible apply State.sendDownlink_keeps hK

theorem State.forwardAccept_keeps {K : Nat → Bool} (hK : Quiet K) {sA : State} {s : State} (hI : Keeps K sA s) (orbit : Nat) (slot : Nat) :
    Keeps K sA (State.forwardAccept s orbit slot) := by
  unfold State.forwardAccept
  repeat' first
    | with_reducible assumption
    | intro a b c
    | with_reducible apply keeps_ite
    | with_reducible apply forAll_keeps
    | with_reducible apply State.inc_keeps hK
    | with_reducible apply State.p_keeps hK
    | with_reducible apply State.port_keeps hK
    | with_reducible refine keeps_mk (by with_reducible assumption)
    | dsimp only
    | split
    | (clear_value *; split)
    | decide

theorem State.queueRequest_keeps {K : Nat → Bool} (hK : Quiet K) {sA : State} {s : State} (hI : Keeps K sA s) (code : Nat) (n : Nat) :
    Keeps K sA (State.queueRequest s code n) := by
  unfold State.queueRequest
  repeat' first
    | with_reducible assumption
    | with_reducible apply keeps_ite
    | with_reducible apply keeps_ite_pair
    | with_reducible apply State.inc_keeps hK
    | with_reducible apply State.p_keeps hK
    | with_reducible apply State.port_keeps hK
    | with_reducible apply State.code_keeps hK
    | (with_reducible refine State.code_keepsE hK ?_ (by assumption))
    | with_reducible refine keeps_mk (by with_reducible assumption)
    | dsimp only
    | split
    | (clear_value *; split)
    | decide

theorem State.fcReq_keeps {K : Nat → Bool} (hK : Quiet K) {sA : State} {s : State} (hI : Keeps K sA s) (w : Word) :
    Keeps K sA (State.fcReq s w) := by
  unfold State.fcReq
  repeat' first
    | with_reducible assumption
    | intro a b c
    | with_reducible apply keeps_ite
    | with_reducible apply keeps_ite_pair
    | with_reducible apply forAll_keeps
    | with_reducible apply State.err_keeps hK
    | with_reducible apply State.queueRequest_keeps hK
    | with_reducible apply State.code_keeps hK
    | (with_reducible refine State.code_keepsE hK ?_ (by assumption))
    | dsimp only
    | split
    | (clear_value *; split)
    | decide

theorem State.requestsBoundary_keeps {K : Nat → Bool} (hK : Quiet K) {sA : State} {s : State} (hI : Keeps K sA s) :
    Keeps K sA (State.requestsBoundary s) := by
  unfold State.requestsBoundary
  repeat' first
    | with_reducible assumption
    | with_reducible apply State.p_keeps hK
    | with_reducible refine keeps_mk (by with_reducible assumption)
    | dsimp only

theorem State.scTx_keeps {K : Nat → Bool} (hK : Quiet K) {sA : State} {s : State} (hI : Keeps K sA s) (w : Word) :
    Keeps K sA (State.scTx s w) := by
  unfold State.scTx
  repeat' first
    | with_reducible assumption
    | with_reducible apply keeps_ite
    | with_reducible apply State.err_keeps hK
    | with_reducible apply State.p_keeps hK
    | with_reducible apply State.port_keeps hK
    | with_reducible refine keeps_mk (by with_reducible assumption)
    | dsimp only
    | split
    | (clear_value *; split)
    | decide

theorem State.scRx_keeps {K : Nat → Bool} (hK : Quiet K) {sA : State} {s : State} (hI : Keeps K sA s) :
    Keeps K sA (State.scRx s).1 := by
  unfold State.scRx
  repeat' first
    | with_reducible assumption
    | with_reducible apply State.p_keeps hK
    | with_reducible apply State.port_keeps hK
    | with_reducible refine keeps_mk (by with_reducible assumption)
    | dsimp only
    | split
    | (clear_value *; split)
    | decide

theorem State.scRx_keepsE {K : Nat → Bool} (hK : Quiet K) {sA : State} {s : State} (hI : Keeps K sA s) {tE : State} {rE : Nat} (eE : State.scRx s = (tE, rE)) :
    Keeps K sA tE := by
  have hE := State.scRx_keeps hK hI
  rw [eE] at hE
  exact hE

theorem State.takeReplies_keeps {K : Nat → Bool} (hK : Quiet K) {sA : State} {s : State} (hI : Keeps K sA s) (n : Nat) (words : List Nat) :
    Keeps K sA (State.takeReplies s n words).1 := by
  unfold State.takeReplies
  repeat' first
    | with_reducible assumption
    | intro a b c
    | intro c
    | with_reducible apply keeps_ite
    | with_reducible apply foldl_keeps
    | with_reducible apply foldl_pair_keeps
    | with_reducible apply State.inc_keeps hK
    | with_reducible apply State.p_keeps hK
    | with_reducible apply State.port_keeps hK
    | with_reducible apply State.reply_keeps hK
    | with_reducible refine keeps_mk (by with_reducible assumption)
    | dsimp only
    | split
    | (clear_value *; split)
    | (refine fld_mem (by assumption) ?_; decide)
    | decide

theorem State.takeReplies_keepsE {K : Nat → Bool} (hK : Quiet K) {sA : State} {s : State} (hI : Keeps K sA s) {n : Nat} {words : List Nat} {tE : State} {rE : List Nat} (eE : State.takeReplies s n words = (tE, rE)) :
    Keeps K sA tE := by
  have hE := State.takeReplies_keeps hK hI n words
  rw [eE] at hE
  exact hE

theorem State.formGroup_keeps {K : Nat → Bool} (hK : Quiet K) {sA : State} {s : State} (hI : Keeps K sA s) (m : NMap) (n : Nat) (origin : Nat) (status : Nat) (orbit : Nat) (words : List Nat) (k : FrameKind) :
    Keeps K sA (State.formGroup s m n origin status orbit words k).1 := by
  unfold State.formGroup
  repeat' first
    | with_reducible assumption
    | intro a b c
    | intro c
    | with_reducible apply keeps_ite
    | with_reducible apply foldl_keeps
    | with_reducible apply foldl_pair_keeps
    | with_reducible apply State.inc_keeps hK
    | with_reducible apply State.p_keeps hK
    | with_reducible apply State.port_keeps hK
    | with_reducible refine keeps_mk (by with_reducible assumption)
    | dsimp only
    | split
    | (clear_value *; split)
    | (refine fld_mem (by assumption) ?_; decide)
    | decide

theorem State.formGroup_keepsE {K : Nat → Bool} (hK : Quiet K) {sA : State} {s : State} (hI : Keeps K sA s) {m : NMap} {n : Nat} {origin : Nat} {status : Nat} {orbit : Nat} {words : List Nat} {k : FrameKind} {tE : State} {rE : List Byte} (eE : State.formGroup s m n origin status orbit words k = (tE, rE)) :
    Keeps K sA tE := by
  have hE := State.formGroup_keeps hK hI m n origin status orbit words k
  rw [eE] at hE
  exact hE

theorem State.queueGroup_keeps {K : Nat → Bool} (hK : Quiet K) {sA : State} {s : State} (hI : Keeps K sA s) (n : Nat) (orbit : Nat) (slot : Nat) (bytes : List Byte) :
    Keeps K sA (State.queueGroup s n orbit slot bytes) := by
  unfold State.queueGroup
  repeat' first
    | with_reducible assumption
    | with_reducible apply State.p_keeps hK
    | with_reducible apply State.port_keeps hK
    | with_reducible refine keeps_mk (by with_reducible assumption)
    | dsimp only

theorem State.classifyFrame_keeps {K : Nat → Bool} (hK : Quiet K) {sA : State} {s : State} (hI : Keeps K sA s) (n : Nat) (herr : Nat) (f : BitVec 504) (words : List Nat) :
    Keeps K sA (State.classifyFrame s n herr f words) := by
  unfold State.classifyFrame
  repeat' first
    | with_reducible assumption
    | with_reducible apply keeps_ite
    | with_reducible apply keeps_ite_pair
    | with_reducible apply State.inc_keeps hK
    | with_reducible apply State.p_keeps hK
    | with_reducible apply State.port_keeps hK
    | with_reducible apply State.queueGroup_keeps hK
    | with_reducible apply State.formGroup_keeps hK
    | (with_reducible refine State.formGroup_keepsE hK ?_ (by assumption))
    | with_reducible refine keeps_mk (by with_reducible assumption)
    | dsimp only
    | split
    | (clear_value *; split)
    | decide

theorem State.tribFrame_keeps {K : Nat → Bool} (hK : Quiet K) {sA : State} {s : State} (hI : Keeps K sA s) (n : Nat) (herr : Nat) (f : BitVec 504) :
    Keeps K sA (State.tribFrame s n herr f) := by
  unfold State.tribFrame
  repeat' first
    | with_reducible assumption
    | with_reducible apply keeps_ite
    | with_reducible apply keeps_ite_pair
    | with_reducible apply State.classifyFrame_keeps hK
    | with_reducible apply State.inc_keeps hK
    | with_reducible apply State.pi_keeps hK
    | with_reducible apply State.takeFrame_keeps hK
    | with_reducible apply State.takeReplies_keeps hK
    | (with_reducible refine State.takeReplies_keepsE hK ?_ (by assumption))
    | dsimp only
    | split
    | (clear_value *; split)
    | decide

theorem State.deliverPort_keeps {K : Nat → Bool} (hK : Quiet K) {sA : State} {s : State} (hI : Keeps K sA s) (n : Nat) :
    Keeps K sA (State.deliverPort s n).1 := by
  unfold State.deliverPort
  repeat' first
    | with_reducible assumption
    | with_reducible apply keeps_ite
    | with_reducible apply State.inc_keeps hK
    | with_reducible apply State.p_keeps hK
    | with_reducible apply State.port_keeps hK
    | with_reducible refine keeps_mk (by with_reducible assumption)
    | dsimp only
    | split
    | (clear_value *; split)
    | decide

theorem State.deliverPort_keepsE {K : Nat → Bool} (hK : Quiet K) {sA : State} {s : State} (hI : Keeps K sA s) {n : Nat} {tE : State} {rE : Option RecUnit} (eE : State.deliverPort s n = (tE, rE)) :
    Keeps K sA tE := by
  have hE := State.deliverPort_keeps hK hI n
  rw [eE] at hE
  exact hE

theorem State.tribOutput_keeps {K : Nat → Bool} (hK : Quiet K) {sA : State} {s : State} (hI : Keeps K sA s) (parity : List Nat) :
    Keeps K sA (State.tribOutput s parity).1 := by
  unfold State.tribOutput
  repeat' first
    | with_reducible assumption
    | intro a b c
    | intro c
    | with_reducible apply keeps_ite
    | with_reducible apply keeps_ite_pair
    | with_reducible apply foldl_keeps
    | with_reducible apply foldl_pair_keeps
    | with_reducible apply State.deliverPort_keeps hK
    | (with_reducible refine State.deliverPort_keepsE hK ?_ (by assumption))
    | with_reducible refine keeps_mk (by with_reducible assumption)
    | dsimp only
    | split
    | (clear_value *; split)
    | (refine fld_mem (by assumption) ?_; decide)

theorem State.tribOutput_keepsE {K : Nat → Bool} (hK : Quiet K) {sA : State} {s : State} (hI : Keeps K sA s) {parity : List Nat} {tE : State} {rE : List RecUnit} (eE : State.tribOutput s parity = (tE, rE)) :
    Keeps K sA tE := by
  have hE := State.tribOutput_keeps hK hI parity
  rw [eE] at hE
  exact hE

theorem State.startPorts_keeps {K : Nat → Bool} (hK : Quiet K) {sA : State} {s : State} (hI : Keeps K sA s) :
    Keeps K sA (State.startPorts s) := by
  unfold State.startPorts
  repeat' first
    | with_reducible assumption
    | intro a b c
    | with_reducible apply keeps_ite
    | with_reducible apply forAll_keeps
    | with_reducible apply State.activatePort_keeps hK
    | with_reducible apply State.p_keeps hK
    | with_reducible apply State.port_keeps hK
    | with_reducible refine keeps_mk (by with_reducible assumption)
    | dsimp only
    | split
    | (clear_value *; split)
    | decide

theorem State.stopPorts_keeps {K : Nat → Bool} (hK : Quiet K) {sA : State} {s : State} (hI : Keeps K sA s) :
    Keeps K sA (State.stopPorts s) := by
  unfold State.stopPorts
  repeat' first
    | with_reducible assumption
    | with_reducible apply State.p_keeps hK
    | with_reducible refine keeps_mk (by with_reducible assumption)
    | dsimp only

theorem State.portEnableChanged_keeps {K : Nat → Bool} (hK : Quiet K) {sA : State} {s : State} (hI : Keeps K sA s) (n : Nat) :
    Keeps K sA (State.portEnableChanged s n) := by
  unfold State.portEnableChanged
  repeat' first
    | with_reducible assumption
    | with_reducible apply keeps_ite
    | with_reducible apply State.activatePort_keeps hK
    | with_reducible apply State.p_keeps hK
    | with_reducible apply State.port_keeps hK
    | with_reducible refine keeps_mk (by with_reducible assumption)
    | dsimp only
    | split
    | (clear_value *; split)
    | decide

theorem State.portDrainEnd_keeps {K : Nat → Bool} (hK : Quiet K) {sA : State} {s : State} (hI : Keeps K sA s) (n : Nat) :
    Keeps K sA (State.portDrainEnd s n) := by
  unfold State.portDrainEnd
  repeat' first
    | with_reducible assumption
    | with_reducible apply keeps_ite
    | with_reducible apply State.p_keeps hK
    | with_reducible apply State.port_keeps hK
    | with_reducible refine keeps_mk (by with_reducible assumption)
    | dsimp only
    | split
    | (clear_value *; split)
    | decide

end Sys2Proof.Machine
end

