-- ==== Sys2Proof/Laws/KeepsMarks.lean ====
section
/-! SUPPORT. What every operation of Machine/Marks.lean keeps. -/
namespace Sys2Proof.Machine

theorem State.dib_keeps {K : Nat → Bool} (hK : Quiet K) {sA : State} {s : State} (hI : Keeps K sA s) (f : Dibber → Dibber) :
    Keeps K sA (State.dib s f) := by
  unfold State.dib
  repeat' first
    | with_reducible assumption
    | with_reducible refine keeps_mk (by with_reducible assumption)
    | dsimp only

theorem State.setBucket_keeps {K : Nat → Bool} (hK : Quiet K) {sA : State} {s : State} (hI : Keeps K sA s) (b : Nat) (f : Bucket → Bucket) :
    Keeps K sA (State.setBucket s b f) := by
  unfold State.setBucket
  repeat' first
    | with_reducible assumption
    | with_reducible apply State.dib_keeps hK
    | with_reducible refine keeps_mk (by with_reducible assumption)
    | dsimp only

theorem State.startMarks_keeps {K : Nat → Bool} (hK : Quiet K) {sA : State} {s : State} (hI : Keeps K sA s) :
    Keeps K sA (State.startMarks s) := by
  unfold State.startMarks
  repeat' first
    | with_reducible assumption
    | with_reducible apply State.dib_keeps hK
    | with_reducible refine keeps_mk (by with_reducible assumption)
    | dsimp only

theorem State.takeToken_keeps {K : Nat → Bool} (hK : Quiet K) {sA : State} {s : State} (hI : Keeps K sA s) (b : Nat) (f : Fld) (hf : stagedBases.contains (Fld.base f) = false) :
    Keeps K sA (State.takeToken s b f).1 := by
  unfold State.takeToken
  repeat' first
    | with_reducible assumption
    | with_reducible apply keeps_ite
    | with_reducible apply hf
    | with_reducible apply State.inc_keeps hK
    | with_reducible apply State.setBucket_keeps hK
    | with_reducible refine keeps_mk (by with_reducible assumption)
    | dsimp only
    | split
    | (clear_value *; split)

theorem State.takeToken_keepsE {K : Nat → Bool} (hK : Quiet K) {sA : State} {s : State} (hI : Keeps K sA s) {b : Nat} {f : Fld} (hf : stagedBases.contains (Fld.base f) = false) {tE : State} {rE : Option Bool} (eE : State.takeToken s b f = (tE, rE)) :
    Keeps K sA tE := by
  have hE := State.takeToken_keeps hK hI b f hf
  rw [eE] at hE
  exact hE

theorem State.refill_keeps {K : Nat → Bool} (hK : Quiet K) {sA : State} {s : State} (hI : Keeps K sA s) (b : Nat) :
    Keeps K sA (State.refill s b) := by
  unfold State.refill
  repeat' first
    | with_reducible assumption
    | with_reducible apply keeps_ite
    | with_reducible apply State.setBucket_keeps hK
    | with_reducible refine keeps_mk (by with_reducible assumption)
    | dsimp only
    | split
    | (clear_value *; split)

theorem State.addMark_keeps {K : Nat → Bool} (hK : Quiet K) {sA : State} {s : State} (hI : Keeps K sA s) (m : Mark) :
    Keeps K sA (State.addMark s m) := by
  unfold State.addMark
  repeat' first
    | with_reducible assumption
    | with_reducible apply keeps_ite
    | with_reducible apply State.dib_keeps hK
    | with_reducible refine keeps_mk (by with_reducible assumption)
    | dsimp only
    | split
    | (clear_value *; split)

theorem State.formMark_keeps {K : Nat → Bool} (hK : Quiet K) {sA : State} {s : State} (hI : Keeps K sA s) (m : Mark) :
    Keeps K sA (State.formMark s m).1 := by
  unfold State.formMark
  repeat' first
    | with_reducible assumption
    | with_reducible apply keeps_ite
    | with_reducible apply keeps_ite_pair
    | with_reducible apply State.dib_keeps hK
    | with_reducible apply State.inc_keeps hK
    | with_reducible apply State.takeToken_keeps hK
    | (with_reducible refine State.takeToken_keepsE hK ?_ ?_ (by assumption))
    | with_reducible refine keeps_mk (by with_reducible assumption)
    | dsimp only
    | split
    | (clear_value *; split)
    | decide

theorem State.formMark_keepsE {K : Nat → Bool} (hK : Quiet K) {sA : State} {s : State} (hI : Keeps K sA s) {m : Mark} {tE : State} {rE : Option Nat} (eE : State.formMark s m = (tE, rE)) :
    Keeps K sA tE := by
  have hE := State.formMark_keeps hK hI m
  rw [eE] at hE
  exact hE

theorem State.formMarks_keeps {K : Nat → Bool} (hK : Quiet K) {sA : State} {s : State} (hI : Keeps K sA s) :
    Keeps K sA (State.formMarks s).1 := by
  unfold State.formMarks
  repeat' first
    | with_reducible assumption
    | intro a b c
    | intro c
    | with_reducible apply foldl_keeps
    | with_reducible apply foldl_pair_keeps
    | with_reducible apply State.dib_keeps hK
    | with_reducible apply State.p_keeps hK
    | with_reducible apply State.formMark_keeps hK
    | (with_reducible refine State.formMark_keepsE hK ?_ (by assumption))
    | with_reducible refine keeps_mk (by with_reducible assumption)
    | dsimp only
    | split
    | (clear_value *; split)
    | (refine fld_mem (by assumption) ?_; decide)

theorem State.formMarks_keepsE {K : Nat → Bool} (hK : Quiet K) {sA : State} {s : State} (hI : Keeps K sA s) {tE : State} {rE : List Nat} (eE : State.formMarks s = (tE, rE)) :
    Keeps K sA tE := by
  have hE := State.formMarks_keeps hK hI
  rw [eE] at hE
  exact hE

theorem State.writeMarks_keeps {K : Nat → Bool} (hK : Quiet K) {sA : State} {s : State} (hI : Keeps K sA s) :
    Keeps K sA (State.writeMarks s) := by
  unfold State.writeMarks
  repeat' first
    | with_reducible assumption
    | intro a b c
    | intro c
    | with_reducible apply foldl_keeps
    | with_reducible apply foldl_pair_keeps
    | with_reducible apply State.dib_keeps hK
    | with_reducible apply State.place_keeps hK
    | with_reducible refine keeps_mk (by with_reducible assumption)
    | dsimp only
    | (refine fld_mem (by assumption) ?_; decide)

theorem State.endMarks_keeps {K : Nat → Bool} (hK : Quiet K) {sA : State} {s : State} (hI : Keeps K sA s) :
    Keeps K sA (State.endMarks s) := by
  unfold State.endMarks
  repeat' first
    | with_reducible assumption
    | intro a b c
    | intro c
    | with_reducible apply foldl_keeps
    | with_reducible apply foldl_pair_keeps
    | with_reducible apply State.dib_keeps hK
    | with_reducible apply State.place_keeps hK
    | with_reducible refine keeps_mk (by with_reducible assumption)
    | dsimp only
    | (refine fld_mem (by assumption) ?_; decide)

theorem State.knowMarks_keeps {K : Nat → Bool} (hK : Quiet K) {sA : State} {s : State} (hI : Keeps K sA s) :
    Keeps K sA (State.knowMarks s) := by
  unfold State.knowMarks
  repeat' first
    | with_reducible assumption
    | with_reducible apply State.listMarks_keeps hK
    | with_reducible apply State.formMarks_keeps hK
    | (with_reducible refine State.formMarks_keepsE hK ?_ (by assumption))
    | dsimp only
    | split
    | (clear_value *; split)

theorem State.acceptMark_keeps {K : Nat → Bool} (hK : Quiet K) {sA : State} {s : State} (hI : Keeps K sA s) (orbit : Nat) (slot : Nat) (typ : Nat) :
    Keeps K sA (State.acceptMark s orbit slot typ).1 := by
  unfold State.acceptMark
  repeat' first
    | with_reducible assumption
    | with_reducible apply keeps_ite
    | with_reducible apply State.addMark_keeps hK
    | with_reducible apply State.inc_keeps hK
    | with_reducible apply State.knowMarks_keeps hK
    | dsimp only
    | split
    | (clear_value *; split)
    | decide

theorem State.acceptMark_keepsE {K : Nat → Bool} (hK : Quiet K) {sA : State} {s : State} (hI : Keeps K sA s) {orbit : Nat} {slot : Nat} {typ : Nat} {tE : State} {rE : Bool} (eE : State.acceptMark s orbit slot typ = (tE, rE)) :
    Keeps K sA tE := by
  have hE := State.acceptMark_keeps hK hI orbit slot typ
  rw [eE] at hE
  exact hE

end Sys2Proof.Machine
end

