-- ==== Sys2Proof/Laws/KeepsSentinels.lean ====
section
/-! SUPPORT. What every operation of Machine/Sentinels.lean keeps. -/
namespace Sys2Proof.Machine

theorem State.sentinel_keeps {K : Nat → Bool} (hK : Quiet K) {sA : State} {s : State} (hI : Keeps K sA s) (n : Nat) (f : Sentinel → Sentinel) :
    Keeps K sA (State.sentinel s n f) := by
  unfold State.sentinel
  repeat' first
    | with_reducible assumption
    | with_reducible refine keeps_mk (by with_reducible assumption)
    | dsimp only

theorem State.snState_keeps {K : Nat → Bool} (hK : Quiet K) {sA : State} {s : State} (hI : Keeps K sA s) (n : Nat) (st : Nat) :
    Keeps K sA (State.snState s n st) := by
  unfold State.snState
  repeat' first
    | with_reducible assumption
    | with_reducible apply State.pi_keeps hK
    | with_reducible apply State.sentinel_keeps hK
    | with_reducible refine keeps_mk (by with_reducible assumption)
    | dsimp only
    | decide

theorem State.snWrite_keeps {K : Nat → Bool} (hK : Quiet K) {sA : State} {s : State} (hI : Keeps K sA s) (n : Nat) :
    Keeps K sA (State.snWrite s n) := by
  unfold State.snWrite
  repeat' first
    | with_reducible assumption
    | with_reducible apply keeps_ite
    | with_reducible apply State.sentinel_keeps hK
    | with_reducible refine keeps_mk (by with_reducible assumption)
    | dsimp only
    | split
    | (clear_value *; split)
    | decide

theorem State.snReference_keeps {K : Nat → Bool} (hK : Quiet K) {sA : State} {s : State} (hI : Keeps K sA s) (n : Nat) (nRef : Int) :
    Keeps K sA (State.snReference s n nRef) := by
  unfold State.snReference
  repeat' first
    | with_reducible assumption
    | with_reducible apply keeps_ite
    | with_reducible apply State.inc_keeps hK
    | with_reducible apply State.sentinel_keeps hK
    | with_reducible apply State.snState_keeps hK
    | with_reducible refine keeps_mk (by with_reducible assumption)
    | dsimp only
    | split
    | (clear_value *; split)
    | decide

theorem State.snCompare_keeps {K : Nat → Bool} (hK : Quiet K) {sA : State} {s : State} (hI : Keeps K sA s) (n : Nat) :
    Keeps K sA (State.snCompare s n) := by
  unfold State.snCompare
  repeat' first
    | with_reducible assumption
    | with_reducible apply keeps_ite
    | with_reducible apply State.addMark_keeps hK
    | with_reducible apply State.event_keeps hK
    | with_reducible apply State.log_keeps hK
    | with_reducible apply State.pbit_keeps hK
    | with_reducible apply State.pi_keeps hK
    | with_reducible apply State.sentinel_keeps hK
    | with_reducible apply State.snState_keeps hK
    | with_reducible refine keeps_mk (by with_reducible assumption)
    | dsimp only
    | split
    | (clear_value *; split)
    | decide

theorem State.snFreeze_keeps {K : Nat → Bool} (hK : Quiet K) {sA : State} {s : State} (hI : Keeps K sA s) (n : Nat) :
    Keeps K sA (State.snFreeze s n) := by
  unfold State.snFreeze
  repeat' first
    | with_reducible assumption
    | intro a b c
    | with_reducible apply keeps_ite
    | with_reducible apply forAll_keeps
    | with_reducible apply State.hubRec_keeps hK
    | with_reducible apply State.pi_keeps hK
    | with_reducible apply State.sentinel_keeps hK
    | with_reducible apply State.snState_keeps hK
    | with_reducible refine keeps_mk (by with_reducible assumption)
    | dsimp only
    | split
    | (clear_value *; split)
    | decide

theorem State.snRearm_keeps {K : Nat → Bool} (hK : Quiet K) {sA : State} {s : State} (hI : Keeps K sA s) (n : Nat) :
    Keeps K sA (State.snRearm s n) := by
  unfold State.snRearm
  repeat' first
    | with_reducible assumption
    | with_reducible apply keeps_ite
    | with_reducible apply State.sentinel_keeps hK
    | with_reducible apply State.snState_keeps hK
    | with_reducible refine keeps_mk (by with_reducible assumption)
    | dsimp only
    | split
    | (clear_value *; split)
    | decide

theorem State.rearmRequest_keeps {K : Nat → Bool} (hK : Quiet K) {sA : State} {s : State} (hI : Keeps K sA s) (w : Word) :
    Keeps K sA (State.rearmRequest s w) := by
  unfold State.rearmRequest
  repeat' first
    | with_reducible assumption
    | intro a b c
    | with_reducible apply forAll_keeps
    | with_reducible apply State.sentinel_keeps hK
    | with_reducible refine keeps_mk (by with_reducible assumption)
    | dsimp only

theorem State.snSlotRefs_keeps {K : Nat → Bool} (hK : Quiet K) {sA : State} {s : State} (hI : Keeps K sA s) :
    Keeps K sA (State.snSlotRefs s) := by
  unfold State.snSlotRefs
  repeat' first
    | with_reducible assumption
    | intro a b c
    | with_reducible apply keeps_ite
    | with_reducible apply forAll_keeps
    | with_reducible apply State.snReference_keeps hK
    | split
    | decide

theorem State.snRise_keeps {K : Nat → Bool} (hK : Quiet K) {sA : State} {s : State} (hI : Keeps K sA s) (ch : Nat) (label : Nat) (l : Levels) :
    Keeps K sA (State.snRise s ch label l) := by
  unfold State.snRise
  repeat' first
    | with_reducible assumption
    | intro a b c
    | with_reducible apply keeps_ite
    | with_reducible apply forAll_keeps
    | with_reducible apply State.snReference_keeps hK
    | dsimp only
    | split
    | (clear_value *; split)
    | decide

theorem State.trigEdge_keeps {K : Nat → Bool} (hK : Quiet K) {sA : State} {s : State} (hI : Keeps K sA s) (input : Nat) (rising : Bool) (tdc : Nat) :
    Keeps K sA (State.trigEdge s input rising tdc) := by
  unfold State.trigEdge
  repeat' first
    | with_reducible assumption
    | with_reducible apply keeps_ite
    | with_reducible apply State.dib_keeps hK
    | with_reducible refine keeps_mk (by with_reducible assumption)
    | dsimp only
    | split
    | (clear_value *; split)

theorem State.knowEdge_keeps {K : Nat → Bool} (hK : Quiet K) {sA : State} {s : State} (hI : Keeps K sA s) (e : Edge) :
    Keeps K sA (State.knowEdge s e) := by
  unfold State.knowEdge
  repeat' first
    | with_reducible assumption
    | intro a b c
    | with_reducible apply keeps_ite
    | with_reducible apply forAll_keeps
    | with_reducible apply State.addMark_keeps hK
    | with_reducible apply State.dib_keeps hK
    | with_reducible apply State.inc_keeps hK
    | with_reducible apply State.snReference_keeps hK
    | with_reducible refine keeps_mk (by with_reducible assumption)
    | dsimp only
    | split
    | (clear_value *; split)
    | decide

theorem State.knowEdges_keeps {K : Nat → Bool} (hK : Quiet K) {sA : State} {s : State} (hI : Keeps K sA s) :
    Keeps K sA (State.knowEdges s) := by
  unfold State.knowEdges
  repeat' first
    | with_reducible assumption
    | intro a b c
    | intro c
    | with_reducible apply foldl_keeps
    | with_reducible apply foldl_pair_keeps
    | with_reducible apply State.dib_keeps hK
    | with_reducible apply State.knowEdge_keeps hK
    | with_reducible refine keeps_mk (by with_reducible assumption)
    | dsimp only
    | (refine fld_mem (by assumption) ?_; decide)

end Sys2Proof.Machine
end

