-- ==== Sys2Proof/Laws/KeepsFastSum.lean ====
section
/-! SUPPORT. What every operation of Machine/FastSum.lean keeps. -/
namespace Sys2Proof.Machine

theorem State.setSum_keeps {K : Nat → Bool} (hK : Quiet K) {sA : State} {s : State} (hI : Keeps K sA s) (j : Nat) (f : Sum → Sum) :
    Keeps K sA (State.setSum s j f) := by
  unfold State.setSum
  repeat' first
    | with_reducible assumption
    | with_reducible refine keeps_mk (by with_reducible assumption)
    | dsimp only

theorem State.selfTrigger_keeps {K : Nat → Bool} (hK : Quiet K) {sA : State} {s : State} (hI : Keeps K sA s) (j : Nat) (slot : Nat) (orbit : Nat) (inOrbit : Nat) :
    Keeps K sA (State.selfTrigger s j slot orbit inOrbit) := by
  unfold State.selfTrigger
  repeat' first
    | with_reducible assumption
    | with_reducible apply keeps_ite
    | with_reducible apply keeps_ite_pair
    | with_reducible apply State.addMark_keeps hK
    | with_reducible apply State.inc_keeps hK
    | with_reducible apply State.setSum_keeps hK
    | with_reducible apply State.takeToken_keeps hK
    | (with_reducible refine State.takeToken_keepsE hK ?_ ?_ (by assumption))
    | with_reducible refine keeps_mk (by with_reducible assumption)
    | dsimp only
    | split
    | (clear_value *; split)
    | decide

theorem State.formSum_keeps {K : Nat → Bool} (hK : Quiet K) {sA : State} {s : State} (hI : Keeps K sA s) (m : NMap) (slot : Nat) (orbit : Nat) (inOrbit : Nat) (j : Nat) :
    Keeps K sA (State.formSum s m slot orbit inOrbit j) := by
  unfold State.formSum
  repeat' first
    | with_reducible assumption
    | with_reducible apply keeps_ite
    | with_reducible apply State.pi_keeps hK
    | with_reducible apply State.selfTrigger_keeps hK
    | with_reducible apply State.setSum_keeps hK
    | with_reducible refine keeps_mk (by with_reducible assumption)
    | dsimp only
    | split
    | (clear_value *; split)
    | decide

theorem State.formFseg_keeps {K : Nat → Bool} (hK : Quiet K) {sA : State} {s : State} (hI : Keeps K sA s) (m : NMap) (stream : Bool) (slot : Nat) (orbit : Nat) (inOrbit : Nat) :
    Keeps K sA (State.formFseg s m stream slot orbit inOrbit) := by
  unfold State.formFseg
  repeat' first
    | with_reducible assumption
    | with_reducible apply keeps_ite
    | with_reducible refine keeps_mk (by with_reducible assumption)
    | dsimp only
    | split
    | (clear_value *; split)
    | decide

theorem State.formSums_keeps {K : Nat → Bool} (hK : Quiet K) {sA : State} {s : State} (hI : Keeps K sA s) :
    Keeps K sA (State.formSums s) := by
  unfold State.formSums
  repeat' first
    | with_reducible assumption
    | intro a b c
    | with_reducible apply keeps_ite
    | with_reducible apply forAll_keeps
    | with_reducible apply State.formFseg_keeps hK
    | with_reducible apply State.formSum_keeps hK
    | with_reducible refine keeps_mk (by with_reducible assumption)
    | dsimp only
    | split
    | (clear_value *; split)
    | decide

theorem State.sendFsegs_keeps {K : Nat → Bool} (hK : Quiet K) {sA : State} {s : State} (hI : Keeps K sA s) :
    Keeps K sA (State.sendFsegs s) := by
  unfold State.sendFsegs
  repeat' first
    | with_reducible assumption
    | intro a b c
    | intro c
    | with_reducible apply keeps_ite
    | with_reducible apply foldl_keeps
    | with_reducible apply foldl_pair_keeps
    | with_reducible apply State.inc_keeps hK
    | with_reducible apply State.incW_keeps hK
    | with_reducible apply State.lane_keeps hK
    | with_reducible apply State.sendPriority_keeps hK
    | with_reducible apply State.tx_keeps hK
    | with_reducible refine keeps_mk (by with_reducible assumption)
    | dsimp only
    | split
    | (clear_value *; split)
    | (refine fld_mem (by assumption) ?_; decide)
    | decide

end Sys2Proof.Machine
end

