-- ==== Sys2Proof/Laws/KeepsBudget.lean ====
section
/-! SUPPORT. What every operation of Machine/Budget.lean keeps. -/
namespace Sys2Proof.Machine

theorem State.recordReport_keeps {K : Nat → Bool} (hK : Quiet K) {sA : State} {s : State} (hI : Keeps K sA s) (r : Report) :
    Keeps K sA (State.recordReport s r) := by
  unfold State.recordReport
  repeat' first
    | with_reducible assumption
    | intro a b c
    | intro c
    | with_reducible apply forAll_keeps
    | with_reducible apply foldl_keeps
    | with_reducible apply foldl_pair_keeps
    | with_reducible apply State.items_keeps hK
    | with_reducible apply State.log_keeps hK
    | with_reducible apply State.p_keeps hK
    | with_reducible apply State.pi_keeps hK
    | dsimp only
    | (refine fld_mem (by assumption) ?_; decide)
    | decide

theorem State.runBudget_keeps {K : Nat → Bool} (hK : Quiet K) {sA : State} {s : State} (hI : Keeps K sA s) (m : NMap) :
    Keeps K sA (State.runBudget s m).1 := by
  unfold State.runBudget
  repeat' first
    | with_reducible assumption
    | with_reducible apply keeps_ite
    | with_reducible apply State.recordReport_keeps hK
    | dsimp only
    | split
    | (clear_value *; split)

theorem State.runBudget_keepsE {K : Nat → Bool} (hK : Quiet K) {sA : State} {s : State} (hI : Keeps K sA s) {m : NMap} {tE : State} {rE : Option Report} (eE : State.runBudget s m = (tE, rE)) :
    Keeps K sA tE := by
  have hE := State.runBudget_keeps hK hI m
  rw [eE] at hE
  exact hE

theorem State.ringCheckOnly_keeps {K : Nat → Bool} (hK : Quiet K) {sA : State} {s : State} (hI : Keeps K sA s) :
    Keeps K sA (State.ringCheckOnly s) := by
  unfold State.ringCheckOnly
  repeat' first
    | with_reducible assumption
    | intro a b c
    | intro c
    | with_reducible apply keeps_ite
    | with_reducible apply foldl_keeps
    | with_reducible apply foldl_pair_keeps
    | with_reducible apply State.log_keeps hK
    | with_reducible apply State.p_keeps hK
    | dsimp only
    | split
    | (clear_value *; split)
    | (refine fld_mem (by assumption) ?_; decide)
    | decide

theorem State.budgetCheck_keeps {K : Nat → Bool} (hK : Quiet K) {sA : State} {s : State} (hI : Keeps K sA s) :
    Keeps K sA (State.budgetCheck s).1 := by
  unfold State.budgetCheck
  repeat' first
    | with_reducible assumption
    | with_reducible apply keeps_ite
    | with_reducible apply keeps_ite_pair
    | with_reducible apply State.runBudget_keeps hK
    | (with_reducible refine State.runBudget_keepsE hK ?_ (by assumption))
    | with_reducible refine keeps_mk (by with_reducible assumption)
    | dsimp only
    | split
    | (clear_value *; split)

theorem State.budgetCheck_keepsE {K : Nat → Bool} (hK : Quiet K) {sA : State} {s : State} (hI : Keeps K sA s) {tE : State} {rE : Reply} (eE : State.budgetCheck s = (tE, rE)) :
    Keeps K sA tE := by
  have hE := State.budgetCheck_keeps hK hI
  rw [eE] at hE
  exact hE

theorem State.lookback_keeps {K : Nat → Bool} (hK : Quiet K) {sA : State} {s : State} (hI : Keeps K sA s) (f : Nat) (kind : Nat) (first : Nat) (last : Nat) :
    Keeps K sA (State.lookback s f kind first last).1 := by
  unfold State.lookback
  repeat' first
    | with_reducible assumption
    | (extract_lets +onlyGivenNames x; have hx : Keeps K sA x := (by
        unfold x
        repeat' first
          | with_reducible assumption
          | with_reducible apply keeps_ite
          | with_reducible apply State.checkOld_keeps hK
          | with_reducible refine keeps_mk (by with_reducible assumption)
          | dsimp only
          | split
          | (clear_value *; split)
          | decide); try clear_value x)
    | extract_lets +onlyGivenNames _
    | with_reducible apply keeps_ite
    | with_reducible apply State.checkOld_keeps hK
    | with_reducible refine keeps_mk (by with_reducible assumption)
    | split
    | (clear_value *; split)
    | decide

theorem State.lookback_keepsE {K : Nat → Bool} (hK : Quiet K) {sA : State} {s : State} (hI : Keeps K sA s) {f : Nat} {kind : Nat} {first : Nat} {last : Nat} {tE : State} {rE : Reply} (eE : State.lookback s f kind first last = (tE, rE)) :
    Keeps K sA tE := by
  have hE := State.lookback_keeps hK hI f kind first last
  rw [eE] at hE
  exact hE

end Sys2Proof.Machine
end

