-- ==== Sys2Proof/Laws/KeepsMemory.lean ====
section
/-! SUPPORT. What every operation of Machine/Memory.lean keeps. -/
namespace Sys2Proof.Machine

theorem State.setSlotStat_keeps {K : Nat → Bool} (hK : Quiet K) {sA : State} {s : State} (hI : Keeps K sA s) (m : Nat) (slot : Nat) (v : Nat) :
    Keeps K sA (State.setSlotStat s m slot v) := by
  unfold State.setSlotStat
  repeat' first
    | with_reducible assumption
    | with_reducible apply keeps_ite
    | with_reducible apply State.pi_keeps hK
    | split
    | decide
    | (unfold slotStatFld; split <;> decide)

theorem State.setRank_keeps {K : Nat → Bool} (hK : Quiet K) {sA : State} {s : State} (hI : Keeps K sA s) (m : Nat) (slot : Nat) (f : Rank → Rank) :
    Keeps K sA (State.setRank s m slot f) := by
  unfold State.setRank
  repeat' first
    | with_reducible assumption
    | with_reducible refine keeps_mk (by with_reducible assumption)
    | with_reducible refine keeps_mkMem (by with_reducible assumption)
    | dsimp only

theorem State.touchRow_keeps {K : Nat → Bool} (hK : Quiet K) {sA : State} {s : State} (hI : Keeps K sA s) (m : Nat) (slot : Nat) (bank : Nat) (row : Nat) :
    Keeps K sA (State.touchRow s m slot bank row) := by
  unfold State.touchRow
  repeat' first
    | with_reducible assumption
    | with_reducible apply keeps_ite
    | with_reducible apply State.inc_keeps hK
    | with_reducible apply State.mport_keeps hK
    | with_reducible apply State.p_keeps hK
    | with_reducible apply State.setRank_keeps hK
    | with_reducible refine keeps_mk (by with_reducible assumption)
    | with_reducible refine keeps_mkMem (by with_reducible assumption)
    | dsimp only
    | split
    | (clear_value *; split)
    | decide

theorem State.rdTableClear_keeps {K : Nat → Bool} (hK : Quiet K) {sA : State} {s : State} (hI : Keeps K sA s) :
    Keeps K sA (State.rdTableClear s) := by
  unfold State.rdTableClear
  repeat' first
    | with_reducible assumption
    | with_reducible refine keeps_mk (by with_reducible assumption)
    | with_reducible refine keeps_mkMem (by with_reducible assumption)
    | dsimp only

theorem State.setMig_keeps {K : Nat → Bool} (hK : Quiet K) {sA : State} {s : State} (hI : Keeps K sA s) (m : Nat) (active : Bool) (fast : Bool) :
    Keeps K sA (State.setMig s m active fast) := by
  unfold State.setMig
  repeat' first
    | with_reducible assumption
    | with_reducible apply State.pbit_keeps hK
    | decide

theorem State.nextSpare_keeps {K : Nat → Bool} (hK : Quiet K) {sA : State} {s : State} (hI : Keeps K sA s) (m : Nat) :
    Keeps K sA (State.nextSpare s m) := by
  unfold State.nextSpare
  repeat' first
    | with_reducible assumption
    | with_reducible apply State.pi_keeps hK
    | dsimp only
    | decide

theorem State.retire_keeps {K : Nat → Bool} (hK : Quiet K) {sA : State} {s : State} (hI : Keeps K sA s) (m : Nat) (slot : Nat) (cause : Nat) :
    Keeps K sA (State.retire s m slot cause) := by
  unfold State.retire
  repeat' first
    | with_reducible assumption
    | with_reducible apply keeps_ite
    | with_reducible apply State.log_keeps hK
    | with_reducible apply State.mport_keeps hK
    | with_reducible apply State.nextSpare_keeps hK
    | with_reducible apply State.p_keeps hK
    | with_reducible apply State.pi_keeps hK
    | with_reducible apply State.setMig_keeps hK
    | with_reducible apply State.setSlotStat_keeps hK
    | with_reducible refine keeps_mk (by with_reducible assumption)
    | dsimp only
    | split
    | (clear_value *; split)
    | decide

theorem State.caCheck_keeps {K : Nat → Bool} (hK : Quiet K) {sA : State} {s : State} (hI : Keeps K sA s) (m : Nat) (slot : Nat) (c : CaOutcome) :
    Keeps K sA (State.caCheck s m slot c).1 := by
  unfold State.caCheck
  repeat' first
    | with_reducible assumption
    | with_reducible apply keeps_ite
    | with_reducible apply State.error_keeps hK
    | with_reducible apply State.inc_keeps hK
    | with_reducible apply State.retire_keeps hK
    | with_reducible refine keeps_mk (by with_reducible assumption)
    | dsimp only
    | split
    | (clear_value *; split)
    | decide

theorem State.caCheck_keepsE {K : Nat → Bool} (hK : Quiet K) {sA : State} {s : State} (hI : Keeps K sA s) {m : Nat} {slot : Nat} {c : CaOutcome} {tE : State} {rE : Bool} (eE : State.caCheck s m slot c = (tE, rE)) :
    Keeps K sA tE := by
  have hE := State.caCheck_keeps hK hI m slot c
  rw [eE] at hE
  exact hE

theorem State.refreshPair_keeps {K : Nat → Bool} (hK : Quiet K) {sA : State} {s : State} (hI : Keeps K sA s) (m : Nat) (slot : Nat) (pair : Nat) (ca : CaOutcome) :
    Keeps K sA (State.refreshPair s m slot pair ca) := by
  unfold State.refreshPair
  repeat' first
    | with_reducible assumption
    | with_reducible apply keeps_ite
    | with_reducible apply keeps_ite_pair
    | with_reducible apply State.mport_keeps hK
    | with_reducible apply State.p_keeps hK
    | with_reducible apply State.caCheck_keeps hK
    | (with_reducible refine State.caCheck_keepsE hK ?_ (by assumption))
    | with_reducible refine keeps_mk (by with_reducible assumption)
    | dsimp only
    | split
    | (clear_value *; split)

theorem State.refresh_keeps {K : Nat → Bool} (hK : Quiet K) {sA : State} {s : State} (hI : Keeps K sA s) (m : Nat) (slot : Nat) (pair : Nat) (ca : CaOutcome) :
    Keeps K sA (State.refresh s m slot pair ca) := by
  unfold State.refresh
  repeat' first
    | with_reducible assumption
    | with_reducible apply keeps_ite
    | with_reducible apply State.refreshPair_keeps hK
    | with_reducible apply State.setRank_keeps hK
    | with_reducible refine keeps_mk (by with_reducible assumption)
    | with_reducible refine keeps_mkMem (by with_reducible assumption)
    | dsimp only
    | split
    | (clear_value *; split)

theorem State.refreshPostponed_keeps {K : Nat → Bool} (hK : Quiet K) {sA : State} {s : State} (hI : Keeps K sA s) (m : Nat) :
    Keeps K sA (State.refreshPostponed s m) := by
  unfold State.refreshPostponed
  repeat' first
    | with_reducible assumption
    | intro a b c
    | intro c
    | with_reducible apply forAll_keeps
    | with_reducible apply foldl_keeps
    | with_reducible apply foldl_pair_keeps
    | with_reducible apply State.refreshPair_keeps hK
    | with_reducible apply State.setRank_keeps hK
    | with_reducible refine keeps_mk (by with_reducible assumption)
    | dsimp only
    | (refine fld_mem (by assumption) ?_; decide)

theorem State.mr4_keeps {K : Nat → Bool} (hK : Quiet K) {sA : State} {s : State} (hI : Keeps K sA s) (m : Nat) (slot : Nat) (temps : List Int) (field : Nat) (ca : CaOutcome) :
    Keeps K sA (State.mr4 s m slot temps field ca) := by
  unfold State.mr4
  repeat' first
    | with_reducible assumption
    | intro a b c
    | intro c
    | with_reducible apply keeps_ite
    | with_reducible apply keeps_ite_pair
    | with_reducible apply foldl_keeps
    | with_reducible apply foldl_pair_keeps
    | with_reducible apply State.event_keeps hK
    | with_reducible apply State.log_keeps hK
    | with_reducible apply State.pbit_keeps hK
    | with_reducible apply State.pi_keeps hK
    | with_reducible apply State.setRank_keeps hK
    | with_reducible apply State.caCheck_keeps hK
    | (with_reducible refine State.caCheck_keepsE hK ?_ (by assumption))
    | with_reducible refine keeps_mk (by with_reducible assumption)
    | dsimp only
    | split
    | (clear_value *; split)
    | (refine fld_mem (by assumption) ?_; decide)
    | decide

theorem State.rewriteDescriptor_keeps {K : Nat → Bool} (hK : Quiet K) {sA : State} {s : State} (hI : Keeps K sA s) (f : Nat) :
    Keeps K sA (State.rewriteDescriptor s f) := by
  unfold State.rewriteDescriptor
  repeat' first
    | with_reducible assumption
    | with_reducible apply keeps_ite
    | with_reducible apply State.poke_keeps hK
    | split
    | decide

theorem State.restoreDescriptor_keeps {sA : State} {s : State} (hI : Keeps noField sA s) (f : Nat) :
    Keeps noField sA (State.restoreDescriptor s f) := by
  have hK := quiet_no
  unfold State.restoreDescriptor
  repeat' first
    | with_reducible assumption
    | with_reducible apply keeps_ite
    | with_reducible apply State.pi_keepsNone
    | with_reducible apply State.pi_keeps hK
    | dsimp only
    | split
    | (clear_value *; split)
    | decide

theorem State.scramble_keeps {K : Nat → Bool} (hK : Quiet K) {sA : State} {s : State} (hI : Keeps K sA s) (granule : Nat) (errs : List Nat) :
    Keeps K sA (State.scramble s granule errs) := by
  unfold State.scramble
  repeat' first
    | with_reducible assumption
    | (extract_lets +onlyGivenNames x; have hx : Keeps K sA x := (by
        unfold x
        repeat' first
          | with_reducible assumption
          | intro a b c
          | with_reducible apply keeps_ite
          | with_reducible apply forAll_keeps
          | with_reducible apply State.poke_keeps hK
          | with_reducible refine keeps_mk (by with_reducible assumption)
          | dsimp only
          | split
          | (clear_value *; split)); try clear_value x)
    | extract_lets +onlyGivenNames _
    | intro a b c
    | with_reducible apply keeps_ite
    | with_reducible apply forAll_keeps
    | with_reducible apply State.poke_keeps hK
    | with_reducible refine keeps_mk (by with_reducible assumption)
    | split
    | (clear_value *; split)

theorem State.garble_keeps {K : Nat → Bool} (hK : Quiet K) {sA : State} {s : State} (hI : Keeps K sA s) (granule : Nat) (errs : List Nat) :
    Keeps K sA (State.garble s granule errs) := by
  unfold State.garble
  repeat' first
    | with_reducible assumption
    | (extract_lets +onlyGivenNames x; have hx : Keeps K sA x := (by
        unfold x
        repeat' first
          | with_reducible assumption
          | with_reducible apply keeps_ite
          | with_reducible apply State.scramble_keeps hK
          | with_reducible refine keeps_mk (by with_reducible assumption)
          | with_reducible refine keeps_mkMem (by with_reducible assumption)
          | dsimp only
          | split
          | (clear_value *; split)); try clear_value x)
    | extract_lets +onlyGivenNames _
    | with_reducible apply keeps_ite
    | with_reducible apply State.scramble_keeps hK
    | with_reducible refine keeps_mk (by with_reducible assumption)
    | with_reducible refine keeps_mkMem (by with_reducible assumption)
    | split
    | (clear_value *; split)

theorem State.refetchImage_keeps {K : Nat → Bool} (hK : Quiet K) {sA : State} {s : State} (hI : Keeps K sA s) :
    Keeps K sA (State.refetchImage s) := by
  unfold State.refetchImage
  repeat' first
    | with_reducible assumption
    | (extract_lets +onlyGivenNames x; have hx : Keeps K sA x := (by
        unfold x
        repeat' first
          | with_reducible assumption
          | with_reducible apply State.p_keeps hK
          | with_reducible refine keeps_mk (by with_reducible assumption)
          | dsimp only
          | decide); try clear_value x)
    | extract_lets +onlyGivenNames _
    | with_reducible apply State.p_keeps hK
    | with_reducible refine keeps_mk (by with_reducible assumption)
    | decide

theorem State.uncorrectable_keeps {sA : State} {s : State} (hI : Keeps noField sA s) (a : Nat) (errs : List Nat) :
    Keeps noField sA (State.uncorrectable s a errs) := by
  have hK := quiet_no
  unfold State.uncorrectable
  repeat' first
    | with_reducible assumption
    | intro a b c
    | with_reducible apply keeps_ite
    | with_reducible apply forAll_keeps
    | with_reducible apply State.p_keepsNone
    | with_reducible apply State.inc_keepsNone
    | with_reducible apply State.garble_keeps hK
    | with_reducible apply State.inc_keeps hK
    | with_reducible apply State.p_keeps hK
    | with_reducible apply State.poke_keeps hK
    | with_reducible apply State.port_keeps hK
    | with_reducible apply State.refetchImage_keeps hK
    | with_reducible apply State.restoreDescriptor_keeps
    | with_reducible apply State.retire_keeps hK
    | with_reducible apply State.rewriteDescriptor_keeps hK
    | with_reducible apply State.setPoison_keeps hK
    | with_reducible refine keeps_mk (by with_reducible assumption)
    | with_reducible refine keeps_mkMem (by with_reducible assumption)
    | dsimp only
    | split
    | (clear_value *; split)
    | decide

theorem State.corrected_keeps {K : Nat → Bool} (hK : Quiet K) {sA : State} {s : State} (hI : Keeps K sA s) (m : Nat) (slot : Nat) :
    Keeps K sA (State.corrected s m slot) := by
  unfold State.corrected
  repeat' first
    | with_reducible assumption
    | with_reducible apply keeps_ite
    | with_reducible apply State.inc_keeps hK
    | with_reducible apply State.retire_keeps hK
    | dsimp only
    | split
    | (clear_value *; split)
    | decide

theorem State.readOutcome_keeps {sA : State} {s : State} (hI : Keeps noField sA s) (a : Nat) (errs : List Nat) :
    Keeps noField sA (State.readOutcome s a errs) := by
  have hK := quiet_no
  unfold State.readOutcome
  repeat' first
    | with_reducible assumption
    | with_reducible apply State.p_keepsNone
    | with_reducible apply State.corrected_keeps hK
    | with_reducible apply State.drew_keeps hK
    | with_reducible apply State.p_keeps hK
    | with_reducible apply State.port_keeps hK
    | with_reducible apply State.scramble_keeps hK
    | with_reducible apply State.uncorrectable_keeps
    | with_reducible refine keeps_mk (by with_reducible assumption)
    | dsimp only
    | split
    | (clear_value *; split)

theorem State.setChunks_keeps {K : Nat → Bool} (hK : Quiet K) {sA : State} {s : State} (hI : Keeps K sA s) (n : Nat) :
    Keeps K sA (State.setChunks s n) := by
  unfold State.setChunks
  repeat' first
    | with_reducible assumption
    | with_reducible apply keeps_ite
    | with_reducible apply State.p_keeps hK
    | with_reducible refine keeps_mk (by with_reducible assumption)
    | dsimp only
    | split
    | (clear_value *; split)
    | decide

theorem State.issue_keeps {sA : State} {s : State} (hI : Keeps noField sA s) (x : MemIn) (read : Bool) :
    Keeps noField sA (State.issue s x read) := by
  have hK := quiet_no
  unfold State.issue
  repeat' first
    | with_reducible assumption
    | with_reducible apply keeps_ite
    | with_reducible apply keeps_ite_pair
    | with_reducible apply State.p_keepsNone
    | with_reducible apply State.pmax_keepsNone
    | with_reducible apply State.p_keeps hK
    | with_reducible apply State.pmax_keeps hK
    | with_reducible apply State.port_keeps hK
    | with_reducible apply State.readOutcome_keeps
    | with_reducible apply State.touchRow_keeps hK
    | with_reducible apply State.caCheck_keeps hK
    | (with_reducible refine State.caCheck_keepsE hK ?_ (by assumption))
    | dsimp only
    | split
    | (clear_value *; split)
    | decide

theorem State.issueWrite_keeps {sA : State} {s : State} (hI : Keeps noField sA s) (m : Nat) :
    Keeps noField sA (State.issueWrite s m) := by
  have hK := quiet_no
  unfold State.issueWrite
  repeat' first
    | with_reducible assumption
    | with_reducible apply State.p_keepsNone
    | with_reducible apply State.issue_keeps
    | with_reducible apply State.mport_keeps hK
    | with_reducible apply State.p_keeps hK
    | with_reducible refine keeps_mk (by with_reducible assumption)
    | dsimp only
    | split
    | (clear_value *; split)

theorem State.issueRead_keeps {sA : State} {s : State} (hI : Keeps noField sA s) (m : Nat) :
    Keeps noField sA (State.issueRead s m) := by
  have hK := quiet_no
  unfold State.issueRead
  repeat' first
    | with_reducible assumption
    | with_reducible apply State.p_keepsNone
    | with_reducible apply State.issue_keeps
    | with_reducible apply State.mport_keeps hK
    | with_reducible apply State.p_keeps hK
    | with_reducible refine keeps_mk (by with_reducible assumption)
    | dsimp only
    | split
    | (clear_value *; split)

theorem State.completeWrites_keeps {sA : State} {s : State} (hI : Keeps noField sA s) (m : Nat) :
    Keeps noField sA (State.completeWrites s m) := by
  have hK := quiet_no
  unfold State.completeWrites
  repeat' first
    | with_reducible assumption
    | intro a b c
    | with_reducible apply forAll_keeps
    | with_reducible apply State.issueWrite_keeps

theorem State.serveQueues_keeps {sA : State} {s : State} (hI : Keeps noField sA s) (m : Nat) :
    Keeps noField sA (State.serveQueues s m) := by
  have hK := quiet_no
  unfold State.serveQueues
  repeat' first
    | with_reducible assumption
    | intro a b c
    | with_reducible apply keeps_ite
    | with_reducible apply forAll_keeps
    | with_reducible apply State.completeWrites_keeps
    | with_reducible apply State.issueRead_keeps
    | dsimp only
    | split
    | (clear_value *; split)

theorem State.memServe_keeps {sA : State} {s : State} (hI : Keeps noField sA s) (x : MemIn) :
    Keeps noField sA (State.memServe s x) := by
  have hK := quiet_no
  unfold State.memServe
  repeat' first
    | with_reducible assumption
    | with_reducible apply keeps_ite
    | with_reducible apply State.p_keepsNone
    | with_reducible apply State.pmax_keepsNone
    | with_reducible apply State.mport_keeps hK
    | with_reducible apply State.p_keeps hK
    | with_reducible apply State.pmax_keeps hK
    | with_reducible apply State.poke_keeps hK
    | with_reducible apply State.port_keeps hK
    | with_reducible apply State.serveQueues_keeps
    | with_reducible refine keeps_mk (by with_reducible assumption)
    | with_reducible refine keeps_mkMem (by with_reducible assumption)
    | dsimp only
    | split
    | (clear_value *; split)
    | decide

theorem State.scheduleCloses_keeps {K : Nat → Bool} (hK : Quiet K) {sA : State} {s : State} (hI : Keeps K sA s) (fs : List Nat) :
    Keeps K sA (State.scheduleCloses s fs) := by
  unfold State.scheduleCloses
  repeat' first
    | with_reducible assumption
    | with_reducible apply keeps_ite
    | with_reducible refine keeps_mk (by with_reducible assumption)
    | dsimp only
    | split
    | (clear_value *; split)
    | decide

theorem State.foldFurrow_keeps {sA : State} {s : State} (hI : Keeps noField sA s) (f : Nat) :
    Keeps noField sA (State.foldFurrow s f) := by
  have hK := quiet_no
  unfold State.foldFurrow
  repeat' first
    | with_reducible assumption
    | with_reducible apply keeps_ite
    | with_reducible apply State.pi_keepsNone
    | with_reducible apply State.furrow_keeps hK
    | with_reducible apply State.logCode_keeps hK
    | with_reducible apply State.pi_keeps hK
    | with_reducible refine keeps_mk (by with_reducible assumption)
    | dsimp only
    | split
    | (clear_value *; split)
    | decide

theorem State.rewriteTables_keeps {sA : State} {s : State} (hI : Keeps noField sA s) :
    Keeps noField sA (State.rewriteTables s) := by
  have hK := quiet_no
  unfold State.rewriteTables
  repeat' first
    | with_reducible assumption
    | (extract_lets +onlyGivenNames x; have hx : Keeps noField sA x := (by
        unfold x
        repeat' first
          | with_reducible assumption
          | intro a b c
          | with_reducible apply keeps_ite
          | with_reducible apply forAll_keeps
          | with_reducible apply State.p_keepsNone
          | with_reducible apply State.p_keeps hK
          | with_reducible apply State.refetchImage_keeps hK
          | with_reducible apply State.restoreDescriptor_keeps
          | with_reducible apply State.rewriteDescriptor_keeps hK
          | with_reducible refine keeps_mk (by with_reducible assumption)
          | with_reducible refine keeps_mkMem (by with_reducible assumption)
          | with_reducible refine keeps_mkFilter (by with_reducible assumption)
          | dsimp only
          | split
          | (clear_value *; split)
          | decide); try clear_value x)
    | extract_lets +onlyGivenNames _
    | intro a b c
    | with_reducible apply keeps_ite
    | with_reducible apply forAll_keeps
    | with_reducible apply State.p_keepsNone
    | with_reducible apply State.p_keeps hK
    | with_reducible apply State.refetchImage_keeps hK
    | with_reducible apply State.restoreDescriptor_keeps
    | with_reducible apply State.rewriteDescriptor_keeps hK
    | with_reducible refine keeps_mk (by with_reducible assumption)
    | with_reducible refine keeps_mkMem (by with_reducible assumption)
    | with_reducible refine keeps_mkFilter (by with_reducible assumption)
    | split
    | (clear_value *; split)
    | decide

theorem State.foldRings_keeps {sA : State} {s : State} (hI : Keeps noField sA s) (moved : Bool) :
    Keeps noField sA (State.foldRings s moved) := by
  have hK := quiet_no
  unfold State.foldRings
  repeat' first
    | with_reducible assumption
    | (extract_lets +onlyGivenNames x; have hx : Keeps noField sA x := (by
        unfold x
        repeat' first
          | with_reducible assumption
          | intro a b c
          | with_reducible apply keeps_ite
          | with_reducible apply forAll_keeps
          | with_reducible apply State.p_keepsNone
          | with_reducible apply State.foldFurrow_keeps
          | with_reducible apply State.p_keeps hK
          | with_reducible apply State.rewriteTables_keeps
          | with_reducible apply State.ringCheckOnly_keeps hK
          | with_reducible apply State.scheduleCloses_keeps hK
          | with_reducible apply State.setChunks_keeps hK
          | with_reducible apply State.tx_keeps hK
          | with_reducible apply State.writeDescriptors_keeps hK
          | with_reducible refine keeps_mk (by with_reducible assumption)
          | with_reducible refine keeps_mkMem (by with_reducible assumption)
          | with_reducible refine keeps_mkFilter (by with_reducible assumption)
          | dsimp only
          | split
          | (clear_value *; split)
          | decide); try clear_value x)
    | extract_lets +onlyGivenNames _
    | intro a b c
    | with_reducible apply keeps_ite
    | with_reducible apply forAll_keeps
    | with_reducible apply State.p_keepsNone
    | with_reducible apply State.foldFurrow_keeps
    | with_reducible apply State.p_keeps hK
    | with_reducible apply State.rewriteTables_keeps
    | with_reducible apply State.ringCheckOnly_keeps hK
    | with_reducible apply State.scheduleCloses_keeps hK
    | with_reducible apply State.setChunks_keeps hK
    | with_reducible apply State.tx_keeps hK
    | with_reducible apply State.writeDescriptors_keeps hK
    | with_reducible refine keeps_mk (by with_reducible assumption)
    | with_reducible refine keeps_mkMem (by with_reducible assumption)
    | with_reducible refine keeps_mkFilter (by with_reducible assumption)
    | split
    | (clear_value *; split)
    | decide

theorem State.dropSlot_keeps {K : Nat → Bool} (hK : Quiet K) {sA : State} {s : State} (hI : Keeps K sA s) (m : Nat) (slot : Nat) :
    Keeps K sA (State.dropSlot s m slot) := by
  unfold State.dropSlot
  repeat' first
    | with_reducible assumption
    | with_reducible apply State.mport_keeps hK
    | with_reducible apply State.p_keeps hK
    | with_reducible apply State.setSlotStat_keeps hK
    | with_reducible refine keeps_mk (by with_reducible assumption)
    | dsimp only

theorem State.shrinkPort_keeps {K : Nat → Bool} (hK : Quiet K) {sA : State} {s : State} (hI : Keeps K sA s) (m : Nat) :
    Keeps K sA (State.shrinkPort s m) := by
  unfold State.shrinkPort
  repeat' first
    | with_reducible assumption
    | with_reducible apply keeps_ite
    | with_reducible apply State.dropSlot_keeps hK
    | with_reducible apply State.mport_keeps hK
    | with_reducible apply State.p_keeps hK
    | with_reducible apply State.pi_keeps hK
    | with_reducible apply State.setMig_keeps hK
    | with_reducible apply State.setSlotStat_keeps hK
    | with_reducible refine keeps_mk (by with_reducible assumption)
    | dsimp only
    | split
    | (clear_value *; split)
    | decide

theorem State.step1_keeps {sA : State} {s : State} (hI : Keeps noField sA s) :
    Keeps noField sA (State.step1 s) := by
  have hK := quiet_no
  unfold State.step1
  repeat' first
    | with_reducible assumption
    | intro a b c
    | with_reducible apply forAll_keeps
    | with_reducible apply State.p_keepsNone
    | with_reducible apply State.foldRings_keeps
    | with_reducible apply State.p_keeps hK
    | with_reducible apply State.shrinkPort_keeps hK
    | dsimp only
    | decide

theorem State.step2_keeps {sA : State} {s : State} (hI : Keeps noField sA s) (m : Nat) :
    Keeps noField sA (State.step2 s m) := by
  have hK := quiet_no
  unfold State.step2
  repeat' first
    | with_reducible assumption
    | (extract_lets +onlyGivenNames x; have hx : Keeps noField sA x := (by
        unfold x
        repeat' first
          | with_reducible assumption
          | with_reducible apply State.pi_keepsNone
          | with_reducible apply State.p_keepsNone
          | with_reducible apply State.pbit_keepsNone
          | with_reducible apply State.dropSlot_keeps hK
          | with_reducible apply State.foldRings_keeps
          | with_reducible apply State.mport_keeps hK
          | with_reducible apply State.p_keeps hK
          | with_reducible apply State.pbit_keeps hK
          | with_reducible apply State.pi_keeps hK
          | with_reducible refine keeps_mk (by with_reducible assumption)
          | with_reducible refine keeps_mkMem (by with_reducible assumption)
          | dsimp only
          | decide); try clear_value x)
    | extract_lets +onlyGivenNames _
    | with_reducible apply State.pi_keepsNone
    | with_reducible apply State.p_keepsNone
    | with_reducible apply State.pbit_keepsNone
    | with_reducible apply State.dropSlot_keeps hK
    | with_reducible apply State.foldRings_keeps
    | with_reducible apply State.mport_keeps hK
    | with_reducible apply State.p_keeps hK
    | with_reducible apply State.pbit_keeps hK
    | with_reducible apply State.pi_keeps hK
    | with_reducible refine keeps_mk (by with_reducible assumption)
    | with_reducible refine keeps_mkMem (by with_reducible assumption)
    | decide

theorem State.secondPortLost_keeps {K : Nat → Bool} (hK : Quiet K) {sA : State} {s : State} (hI : Keeps K sA s) (m : Nat) :
    Keeps K sA (State.secondPortLost s m) := by
  unfold State.secondPortLost
  repeat' first
    | with_reducible assumption
    | (extract_lets +onlyGivenNames x; have hx : Keeps K sA x := (by
        unfold x
        repeat' first
          | with_reducible assumption
          | intro a b c
          | with_reducible apply forAll_keeps
          | with_reducible apply State.dropSlot_keeps hK
          | with_reducible apply State.log_keeps hK
          | with_reducible apply State.mport_keeps hK
          | with_reducible apply State.p_keeps hK
          | with_reducible apply State.pbit_keeps hK
          | with_reducible apply State.pi_keeps hK
          | with_reducible refine keeps_mk (by with_reducible assumption)
          | with_reducible refine keeps_mkMem (by with_reducible assumption)
          | dsimp only
          | decide); try clear_value x)
    | extract_lets +onlyGivenNames _
    | intro a b c
    | with_reducible apply forAll_keeps
    | with_reducible apply State.dropSlot_keeps hK
    | with_reducible apply State.log_keeps hK
    | with_reducible apply State.mport_keeps hK
    | with_reducible apply State.p_keeps hK
    | with_reducible apply State.pbit_keeps hK
    | with_reducible apply State.pi_keeps hK
    | with_reducible refine keeps_mk (by with_reducible assumption)
    | with_reducible refine keeps_mkMem (by with_reducible assumption)
    | decide

theorem State.takeSpare_keeps {K : Nat → Bool} (hK : Quiet K) {sA : State} {s : State} (hI : Keeps K sA s) (m : Nat) :
    Keeps K sA (State.takeSpare s m) := by
  unfold State.takeSpare
  repeat' first
    | with_reducible assumption
    | with_reducible apply keeps_ite
    | with_reducible apply State.mport_keeps hK
    | with_reducible apply State.p_keeps hK
    | with_reducible refine keeps_mk (by with_reducible assumption)
    | dsimp only
    | split
    | (clear_value *; split)

theorem State.degradedSteps_keeps {sA : State} {s : State} (hI : Keeps noField sA s) :
    Keeps noField sA (State.degradedSteps s) := by
  have hK := quiet_no
  unfold State.degradedSteps
  repeat' first
    | with_reducible assumption
    | intro a b c
    | with_reducible apply keeps_ite
    | with_reducible apply forAll_keeps
    | with_reducible apply State.completeWrites_keeps
    | with_reducible apply State.secondPortLost_keeps hK
    | with_reducible apply State.step1_keeps
    | with_reducible apply State.step2_keeps
    | with_reducible apply State.takeSpare_keeps hK
    | dsimp only
    | split
    | (clear_value *; split)
    | decide

theorem State.mapSwitch_keeps {K : Nat → Bool} (hK : Quiet K) {sA : State} {s : State} (hI : Keeps K sA s) (m : Nat) :
    Keeps K sA (State.mapSwitch s m) := by
  unfold State.mapSwitch
  repeat' first
    | with_reducible assumption
    | (extract_lets +onlyGivenNames x; have hx : Keeps K sA x := (by
        unfold x
        repeat' first
          | with_reducible assumption
          | with_reducible apply keeps_ite
          | with_reducible apply State.dropSlot_keeps hK
          | with_reducible apply State.mport_keeps hK
          | with_reducible apply State.nextSpare_keeps hK
          | with_reducible apply State.p_keeps hK
          | with_reducible apply State.pi_keeps hK
          | with_reducible apply State.port_keeps hK
          | with_reducible apply State.setMig_keeps hK
          | with_reducible apply State.setSlotStat_keeps hK
          | with_reducible refine keeps_mk (by with_reducible assumption)
          | with_reducible refine keeps_mkMem (by with_reducible assumption)
          | dsimp only
          | split
          | (clear_value *; split)
          | decide); try clear_value x)
    | extract_lets +onlyGivenNames _
    | with_reducible apply keeps_ite
    | with_reducible apply State.dropSlot_keeps hK
    | with_reducible apply State.mport_keeps hK
    | with_reducible apply State.nextSpare_keeps hK
    | with_reducible apply State.p_keeps hK
    | with_reducible apply State.pi_keeps hK
    | with_reducible apply State.port_keeps hK
    | with_reducible apply State.setMig_keeps hK
    | with_reducible apply State.setSlotStat_keeps hK
    | with_reducible refine keeps_mk (by with_reducible assumption)
    | with_reducible refine keeps_mkMem (by with_reducible assumption)
    | split
    | (clear_value *; split)
    | decide

theorem State.startMigration_keeps {K : Nat → Bool} (hK : Quiet K) {sA : State} {s : State} (hI : Keeps K sA s) (m : Nat) :
    Keeps K sA (State.startMigration s m) := by
  unfold State.startMigration
  repeat' first
    | with_reducible assumption
    | with_reducible apply keeps_ite
    | with_reducible apply State.mport_keeps hK
    | with_reducible apply State.p_keeps hK
    | with_reducible apply State.setMig_keeps hK
    | with_reducible apply State.setSlotStat_keeps hK
    | with_reducible refine keeps_mk (by with_reducible assumption)
    | dsimp only
    | split
    | (clear_value *; split)

theorem State.startCopy_keeps {K : Nat → Bool} (hK : Quiet K) {sA : State} {s : State} (hI : Keeps K sA s) (m : Nat) :
    Keeps K sA (State.startCopy s m) := by
  unfold State.startCopy
  repeat' first
    | with_reducible assumption
    | with_reducible apply keeps_ite
    | with_reducible apply State.mport_keeps hK
    | with_reducible apply State.p_keeps hK
    | with_reducible apply State.setMig_keeps hK
    | with_reducible refine keeps_mk (by with_reducible assumption)
    | dsimp only
    | split
    | (clear_value *; split)
    | decide

theorem State.memWindow_keeps {sA : State} {s : State} (hI : Keeps noField sA s) :
    Keeps noField sA (State.memWindow s) := by
  have hK := quiet_no
  unfold State.memWindow
  repeat' first
    | with_reducible assumption
    | intro a b c
    | with_reducible apply forAll_keeps
    | with_reducible apply State.degradedSteps_keeps
    | with_reducible apply State.mapSwitch_keeps hK

theorem State.copyDone_keeps {sA : State} {s : State} (hI : Keeps noField sA s) (m : Nat) (errs : List (Nat × List Nat)) :
    Keeps noField sA (State.copyDone s m errs) := by
  have hK := quiet_no
  unfold State.copyDone
  repeat' first
    | with_reducible assumption
    | intro a b c
    | intro c
    | with_reducible apply keeps_ite
    | with_reducible apply foldl_keeps
    | with_reducible apply foldl_pair_keeps
    | with_reducible apply State.p_keepsNone
    | with_reducible apply State.mport_keeps hK
    | with_reducible apply State.p_keeps hK
    | with_reducible apply State.port_keeps hK
    | with_reducible apply State.readOutcome_keeps
    | with_reducible refine keeps_mk (by with_reducible assumption)
    | with_reducible refine keeps_mkMem (by with_reducible assumption)
    | dsimp only
    | split
    | (clear_value *; split)
    | (refine fld_mem (by assumption) ?_; decide)

theorem State.applyOrder_keeps {K : Nat → Bool} (hK : Quiet K) {sA : State} {s : State} (hI : Keeps K sA s) :
    Keeps K sA (State.applyOrder s) := by
  unfold State.applyOrder
  repeat' first
    | with_reducible assumption
    | with_reducible apply State.p_keeps hK
    | decide

theorem State.trainPort_keeps {K : Nat → Bool} (hK : Quiet K) {sA : State} {s : State} (hI : Keeps K sA s) (failed : List Nat) (m : Nat) :
    Keeps K sA (State.trainPort s failed m) := by
  unfold State.trainPort
  repeat' first
    | with_reducible assumption
    | intro a b c
    | with_reducible apply keeps_ite
    | with_reducible apply forAll_keeps
    | with_reducible apply State.log_keeps hK
    | with_reducible apply State.mport_keeps hK
    | with_reducible apply State.nextSpare_keeps hK
    | with_reducible apply State.p_keeps hK
    | with_reducible apply State.pbit_keeps hK
    | with_reducible apply State.pi_keeps hK
    | with_reducible apply State.setRank_keeps hK
    | with_reducible apply State.setSlotStat_keeps hK
    | with_reducible refine keeps_mk (by with_reducible assumption)
    | with_reducible refine keeps_mkMem (by with_reducible assumption)
    | dsimp only
    | split
    | (clear_value *; split)
    | decide

theorem State.trainMemory_keeps {K : Nat → Bool} (hK : Quiet K) {sA : State} {s : State} (hI : Keeps K sA s) (failed : List Nat) (ms : Nat) :
    Keeps K sA (State.trainMemory s failed ms) := by
  unfold State.trainMemory
  repeat' first
    | with_reducible assumption
    | intro a b c
    | with_reducible apply forAll_keeps
    | with_reducible apply State.p_keeps hK
    | with_reducible apply State.trainPort_keeps hK
    | dsimp only
    | decide

theorem State.setRetrain_keeps {K : Nat → Bool} (hK : Quiet K) {sA : State} {s : State} (hI : Keeps K sA s) (v : Nat) :
    Keeps K sA (State.setRetrain s v) := by
  unfold State.setRetrain
  repeat' first
    | with_reducible assumption
    | intro a b c
    | with_reducible apply keeps_ite
    | with_reducible apply forAll_keeps
    | with_reducible apply State.mport_keeps hK
    | with_reducible apply State.p_keeps hK
    | with_reducible refine keeps_mk (by with_reducible assumption)
    | with_reducible refine keeps_mkMem (by with_reducible assumption)
    | dsimp only
    | split
    | (clear_value *; split)
    | decide

theorem State.retrainFirst_keeps {K : Nat → Bool} (hK : Quiet K) {sA : State} {s : State} (hI : Keeps K sA s) :
    Keeps K sA (State.retrainFirst s) := by
  unfold State.retrainFirst
  repeat' first
    | with_reducible assumption
    | intro a b c
    | with_reducible apply keeps_ite
    | with_reducible apply forAll_keeps
    | with_reducible apply State.mport_keeps hK
    | with_reducible apply State.p_keeps hK
    | with_reducible refine keeps_mk (by with_reducible assumption)
    | dsimp only
    | split
    | (clear_value *; split)

theorem State.memPause_keeps {K : Nat → Bool} (hK : Quiet K) {sA : State} {s : State} (hI : Keeps K sA s) (switched : List Nat) :
    Keeps K sA (State.memPause s switched) := by
  unfold State.memPause
  repeat' first
    | with_reducible assumption
    | intro a b c
    | with_reducible apply keeps_ite
    | with_reducible apply forAll_keeps
    | with_reducible apply State.inc_keeps hK
    | with_reducible apply State.mport_keeps hK
    | with_reducible apply State.p_keeps hK
    | with_reducible refine keeps_mk (by with_reducible assumption)
    | dsimp only
    | split
    | (clear_value *; split)
    | decide

theorem State.memPauses_keeps {K : Nat → Bool} (hK : Quiet K) {sA : State} {s : State} (hI : Keeps K sA s) :
    Keeps K sA (State.memPauses s) := by
  unfold State.memPauses
  repeat' first
    | with_reducible assumption
    | intro a b c
    | with_reducible apply keeps_ite
    | with_reducible apply forAll_keeps
    | with_reducible apply State.mport_keeps hK
    | with_reducible apply State.p_keeps hK
    | with_reducible apply State.startCopy_keeps hK
    | with_reducible refine keeps_mk (by with_reducible assumption)
    | dsimp only
    | split
    | (clear_value *; split)

theorem State.retrainUnlocked_keeps {K : Nat → Bool} (hK : Quiet K) {sA : State} {s : State} (hI : Keeps K sA s) (m : Nat) :
    Keeps K sA (State.retrainUnlocked s m) := by
  unfold State.retrainUnlocked
  repeat' first
    | with_reducible assumption
    | with_reducible apply keeps_ite
    | with_reducible apply State.mport_keeps hK
    | with_reducible apply State.p_keeps hK
    | with_reducible refine keeps_mk (by with_reducible assumption)
    | with_reducible refine keeps_mkMem (by with_reducible assumption)
    | dsimp only
    | split
    | (clear_value *; split)

theorem State.memRetrainEnd_keeps {sA : State} {s : State} (hI : Keeps noField sA s) (m : Nat) (failed : List Nat) (windows : List (Nat × Nat)) :
    Keeps noField sA (State.memRetrainEnd s m failed windows) := by
  have hK := quiet_no
  unfold State.memRetrainEnd
  repeat' first
    | with_reducible assumption
    | (extract_lets +onlyGivenNames x; have hx : Keeps noField sA x := (by
        unfold x
        repeat' first
          | with_reducible assumption
          | intro a b c
          | intro c
          | with_reducible apply keeps_ite
          | with_reducible apply forAll_keeps
          | with_reducible apply foldl_keeps
          | with_reducible apply foldl_pair_keeps
          | with_reducible apply State.pi_keepsNone
          | with_reducible apply State.p_keepsNone
          | with_reducible apply State.inc_keepsNone
          | with_reducible apply State.incW_keepsNone
          | with_reducible apply State.inc_keeps hK
          | with_reducible apply State.incW_keeps hK
          | with_reducible apply State.mport_keeps hK
          | with_reducible apply State.p_keeps hK
          | with_reducible apply State.pi_keeps hK
          | with_reducible apply State.refreshPostponed_keeps hK
          | with_reducible apply State.retire_keeps hK
          | with_reducible apply State.serveQueues_keeps
          | with_reducible refine keeps_mk (by with_reducible assumption)
          | dsimp only
          | split
          | (clear_value *; split)
          | (refine fld_mem (by assumption) ?_; decide)
          | decide); try clear_value x)
    | extract_lets +onlyGivenNames _
    | intro a b c
    | intro c
    | with_reducible apply keeps_ite
    | with_reducible apply forAll_keeps
    | with_reducible apply foldl_keeps
    | with_reducible apply foldl_pair_keeps
    | with_reducible apply State.pi_keepsNone
    | with_reducible apply State.p_keepsNone
    | with_reducible apply State.inc_keepsNone
    | with_reducible apply State.incW_keepsNone
    | with_reducible apply State.inc_keeps hK
    | with_reducible apply State.incW_keeps hK
    | with_reducible apply State.mport_keeps hK
    | with_reducible apply State.p_keeps hK
    | with_reducible apply State.pi_keeps hK
    | with_reducible apply State.refreshPostponed_keeps hK
    | with_reducible apply State.retire_keeps hK
    | with_reducible apply State.serveQueues_keeps
    | with_reducible refine keeps_mk (by with_reducible assumption)
    | dsimp only
    | split
    | (clear_value *; split)
    | (refine fld_mem (by assumption) ?_; decide)
    | decide

theorem State.scrubGranule_keeps {sA : State} {s : State} (hI : Keeps noField sA s) (errs : List Nat) (ca : CaOutcome) :
    Keeps noField sA (State.scrubGranule s errs ca) := by
  have hK := quiet_no
  unfold State.scrubGranule
  repeat' first
    | with_reducible assumption
    | with_reducible apply keeps_ite
    | with_reducible apply keeps_ite_pair
    | with_reducible apply State.p_keepsNone
    | with_reducible apply State.incW_keepsNone
    | with_reducible apply State.incW_keeps hK
    | with_reducible apply State.p_keeps hK
    | with_reducible apply State.port_keeps hK
    | with_reducible apply State.readOutcome_keeps
    | with_reducible apply State.touchRow_keeps hK
    | with_reducible apply State.caCheck_keeps hK
    | (with_reducible refine State.caCheck_keepsE hK ?_ (by assumption))
    | dsimp only
    | split
    | (clear_value *; split)
    | decide

theorem State.ceWindowEnd_keeps {K : Nat → Bool} (hK : Quiet K) {sA : State} {s : State} (hI : Keeps K sA s) :
    Keeps K sA (State.ceWindowEnd s) := by
  unfold State.ceWindowEnd
  repeat' first
    | with_reducible assumption
    | intro a b c
    | intro c
    | with_reducible apply keeps_ite
    | with_reducible apply foldl_keeps
    | with_reducible apply foldl_pair_keeps
    | with_reducible apply State.pi_keeps hK
    | dsimp only
    | split
    | (clear_value *; split)
    | (refine fld_mem (by assumption) ?_; decide)
    | decide

theorem State.caFrame_keeps {K : Nat → Bool} (hK : Quiet K) {sA : State} {s : State} (hI : Keeps K sA s) :
    Keeps K sA (State.caFrame s) := by
  unfold State.caFrame
  repeat' first
    | with_reducible assumption
    | intro a b c
    | intro c
    | with_reducible apply foldl_keeps
    | with_reducible apply foldl_pair_keeps
    | with_reducible apply State.pi_keeps hK
    | dsimp only
    | (refine fld_mem (by assumption) ?_; decide)
    | decide

theorem State.setLine_keeps {K : Nat → Bool} (hK : Quiet K) {sA : State} {s : State} (hI : Keeps K sA s) (line : Nat) (l : List Byte) :
    Keeps K sA (State.setLine s line l) := by
  unfold State.setLine
  repeat' first
    | with_reducible assumption
    | with_reducible apply keeps_ite
    | with_reducible apply State.poke_keeps hK
    | with_reducible refine keeps_mk (by with_reducible assumption)
    | with_reducible refine keeps_mkMem (by with_reducible assumption)
    | dsimp only
    | split
    | (clear_value *; split)

theorem State.grantLine_keeps {K : Nat → Bool} (hK : Quiet K) {sA : State} {s : State} (hI : Keeps K sA s) (line : Nat) (agent : Nat) :
    Keeps K sA (State.grantLine s line agent) := by
  unfold State.grantLine
  repeat' first
    | with_reducible assumption
    | with_reducible refine keeps_mk (by with_reducible assumption)
    | with_reducible refine keeps_mkMem (by with_reducible assumption)
    | dsimp only
    | split
    | (clear_value *; split)

theorem State.coherent_keeps {K : Nat → Bool} (hK : Quiet K) {sA : State} {s : State} (hI : Keeps K sA s) (line : Nat) (writeback : Option (Nat × List Byte)) (requests : List Nat) :
    Keeps K sA (State.coherent s line writeback requests) := by
  unfold State.coherent
  repeat' first
    | with_reducible assumption
    | (extract_lets +onlyGivenNames x; have hx : Keeps K sA x := (by
        unfold x
        repeat' first
          | with_reducible assumption
          | intro a b c
          | with_reducible apply keeps_ite
          | with_reducible apply forAll_keeps
          | with_reducible apply State.grantLine_keeps hK
          | with_reducible apply State.setLine_keeps hK
          | with_reducible refine keeps_mk (by with_reducible assumption)
          | with_reducible refine keeps_mkMem (by with_reducible assumption)
          | dsimp only
          | split
          | (clear_value *; split)
          | with_reducible refine keeps_mk (by repeat' first | with_reducible assumption | with_reducible apply State.grantLine_keeps hK | with_reducible apply State.setLine_keeps hK | decide)
          | with_reducible refine keeps_mkMem (by repeat' first | with_reducible assumption | with_reducible apply State.grantLine_keeps hK | with_reducible apply State.setLine_keeps hK | decide)); try clear_value x)
    | extract_lets +onlyGivenNames _
    | intro a b c
    | with_reducible apply keeps_ite
    | with_reducible apply forAll_keeps
    | with_reducible apply State.grantLine_keeps hK
    | with_reducible apply State.setLine_keeps hK
    | with_reducible refine keeps_mk (by with_reducible assumption)
    | with_reducible refine keeps_mkMem (by with_reducible assumption)
    | split
    | (clear_value *; split)
    | with_reducible refine keeps_mk (by repeat' first | with_reducible assumption | with_reducible apply State.grantLine_keeps hK | with_reducible apply State.setLine_keeps hK | decide)
    | with_reducible refine keeps_mkMem (by repeat' first | with_reducible assumption | with_reducible apply State.grantLine_keeps hK | with_reducible apply State.setLine_keeps hK | decide)

theorem State.mapOrder_keeps {K : Nat → Bool} (hK : Quiet K) {sA : State} {s : State} (hI : Keeps K sA s) (w : Word) :
    Keeps K sA (State.mapOrder s w) := by
  unfold State.mapOrder
  repeat' first
    | with_reducible assumption
    | with_reducible apply keeps_ite
    | with_reducible apply State.err_keeps hK
    | with_reducible apply State.p_keeps hK
    | dsimp only
    | split
    | (clear_value *; split)
    | decide

theorem State.rankRetire_keeps {K : Nat → Bool} (hK : Quiet K) {sA : State} {s : State} (hI : Keeps K sA s) (port : Nat) (slot : Nat) :
    Keeps K sA (State.rankRetire s port slot).1 := by
  unfold State.rankRetire
  repeat' first
    | with_reducible assumption
    | with_reducible apply keeps_ite
    | with_reducible apply State.port_keeps hK
    | with_reducible apply State.retire_keeps hK
    | split

theorem State.rankRetire_keepsE {K : Nat → Bool} (hK : Quiet K) {sA : State} {s : State} (hI : Keeps K sA s) {port : Nat} {slot : Nat} {tE : State} {rE : Reply} (eE : State.rankRetire s port slot = (tE, rE)) :
    Keeps K sA tE := by
  have hE := State.rankRetire_keeps hK hI port slot
  rw [eE] at hE
  exact hE

theorem State.memHealth_keeps {K : Nat → Bool} (hK : Quiet K) {sA : State} {s : State} (hI : Keeps K sA s) :
    Keeps K sA (State.memHealth s).1 := by
  unfold State.memHealth
  repeat' first
    | with_reducible assumption
    | with_reducible apply keeps_ite
    | dsimp only
    | split
    | (clear_value *; split)
    | decide

theorem State.memHealth_keepsE {K : Nat → Bool} (hK : Quiet K) {sA : State} {s : State} (hI : Keeps K sA s) {tE : State} {rE : Reply} (eE : State.memHealth s = (tE, rE)) :
    Keeps K sA tE := by
  have hE := State.memHealth_keeps hK hI
  rw [eE] at hE
  exact hE

end Sys2Proof.Machine
end

