-- ==== Sys2Proof/Laws/KeepsHarvest.lean ====
section
/-! SUPPORT. What every operation of Machine/Harvest.lean keeps. -/
namespace Sys2Proof.Machine

theorem State.cutLane_keeps {K : Nat → Bool} (hK : Quiet K) {sA : State} {s : State} (hI : Keeps K sA s) (n : Nat) :
    Keeps K sA (State.cutLane s n) := by
  unfold State.cutLane
  repeat' first
    | with_reducible assumption
    | with_reducible apply State.setChunks_keeps hK
    | with_reducible apply State.tx_keeps hK
    | with_reducible refine keeps_mk (by with_reducible assumption)
    | dsimp only

theorem State.light_keeps {K : Nat → Bool} (hK : Quiet K) {sA : State} {s : State} (hI : Keeps K sA s) (n : Nat) :
    Keeps K sA (State.light s n) := by
  unfold State.light
  repeat' first
    | with_reducible assumption
    | with_reducible apply keeps_ite
    | with_reducible apply State.askTx_keeps hK
    | with_reducible apply State.tx_keeps hK
    | with_reducible refine keeps_mk (by with_reducible assumption)
    | dsimp only
    | split
    | (clear_value *; split)

theorem State.lightMask_keeps {K : Nat → Bool} (hK : Quiet K) {sA : State} {s : State} (hI : Keeps K sA s) (mask : Nat) :
    Keeps K sA (State.lightMask s mask) := by
  unfold State.lightMask
  repeat' first
    | with_reducible assumption
    | intro a b c
    | with_reducible apply forAll_keeps
    | with_reducible apply State.light_keeps hK
    | with_reducible apply State.startExits_keeps hK

theorem State.darkenWhenEmpty_keeps {K : Nat → Bool} (hK : Quiet K) {sA : State} {s : State} (hI : Keeps K sA s) (n : Nat) :
    Keeps K sA (State.darkenWhenEmpty s n) := by
  unfold State.darkenWhenEmpty
  repeat' first
    | with_reducible assumption
    | with_reducible apply keeps_ite
    | with_reducible apply State.askTx_keeps hK
    | with_reducible apply State.tx_keeps hK
    | with_reducible refine keeps_mk (by with_reducible assumption)
    | dsimp only
    | split
    | (clear_value *; split)

theorem State.lookRefill_keeps {K : Nat → Bool} (hK : Quiet K) {sA : State} {s : State} (hI : Keeps K sA s) :
    Keeps K sA (State.lookRefill s) := by
  unfold State.lookRefill
  repeat' first
    | with_reducible assumption
    | with_reducible refine keeps_mk (by with_reducible assumption)
    | dsimp only
    | decide

theorem State.catchRefill_keeps {K : Nat → Bool} (hK : Quiet K) {sA : State} {s : State} (hI : Keeps K sA s) :
    Keeps K sA (State.catchRefill s) := by
  unfold State.catchRefill
  repeat' first
    | with_reducible assumption
    | with_reducible apply keeps_ite
    | with_reducible refine keeps_mk (by with_reducible assumption)
    | dsimp only
    | split
    | (clear_value *; split)
    | decide

theorem State.pruneLooks_keeps {K : Nat → Bool} (hK : Quiet K) {sA : State} {s : State} (hI : Keeps K sA s) :
    Keeps K sA (State.pruneLooks s) := by
  unfold State.pruneLooks
  repeat' first
    | with_reducible assumption
    | with_reducible apply State.furrow_keeps hK
    | with_reducible refine keeps_mk (by with_reducible assumption)
    | dsimp only

theorem State.engine_keeps {K : Nat → Bool} (hK : Quiet K) {sA : State} {s : State} (hI : Keeps K sA s) (eng : Nat) (f : Engine → Engine) :
    Keeps K sA (State.engine s eng f) := by
  unfold State.engine
  repeat' first
    | with_reducible assumption
    | with_reducible refine keeps_mk (by with_reducible assumption)
    | dsimp only

theorem State.handOver_keeps {K : Nat → Bool} (hK : Quiet K) {sA : State} {s : State} (hI : Keeps K sA s) (x : DueSeg) (lane : Nat) (eng : Nat) :
    Keeps K sA (State.handOver s x lane eng) := by
  unfold State.handOver
  repeat' first
    | with_reducible assumption
    | (extract_lets +onlyGivenNames x; have hx : Keeps K sA x := (by
        unfold x
        repeat' first
          | with_reducible assumption
          | with_reducible apply keeps_ite
          | with_reducible apply State.engine_keeps hK
          | with_reducible apply State.furrow_keeps hK
          | with_reducible apply State.inc_keeps hK
          | with_reducible apply State.lane_keeps hK
          | with_reducible apply State.setChunks_keeps hK
          | with_reducible apply State.tx_keeps hK
          | with_reducible refine keeps_mk (by with_reducible assumption)
          | dsimp only
          | split
          | (clear_value *; split)
          | decide); try clear_value x)
    | extract_lets +onlyGivenNames _
    | with_reducible apply keeps_ite
    | with_reducible apply State.engine_keeps hK
    | with_reducible apply State.furrow_keeps hK
    | with_reducible apply State.inc_keeps hK
    | with_reducible apply State.lane_keeps hK
    | with_reducible apply State.setChunks_keeps hK
    | with_reducible apply State.tx_keeps hK
    | with_reducible refine keeps_mk (by with_reducible assumption)
    | split
    | (clear_value *; split)
    | decide

theorem State.stopSettles_keeps {K : Nat → Bool} (hK : Quiet K) {sA : State} {s : State} (hI : Keeps K sA s) :
    Keeps K sA (State.stopSettles s) := by
  unfold State.stopSettles
  repeat' first
    | with_reducible assumption
    | with_reducible apply keeps_ite
    | with_reducible apply State.p_keeps hK
    | split
    | decide

theorem State.dispatch_keeps {K : Nat → Bool} (hK : Quiet K) {sA : State} {s : State} (hI : Keeps K sA s) :
    Keeps K sA (State.dispatch s) := by
  unfold State.dispatch
  repeat' first
    | with_reducible assumption
    | intro a b c
    | intro c
    | with_reducible apply keeps_ite
    | with_reducible apply forAll_keeps
    | with_reducible apply foldl_keeps
    | with_reducible apply foldl_pair_keeps
    | with_reducible apply State.checkOld_keeps hK
    | with_reducible apply State.furrow_keeps hK
    | with_reducible apply State.handOver_keeps hK
    | with_reducible apply State.light_keeps hK
    | with_reducible apply State.pruneLooks_keeps hK
    | with_reducible apply State.startExits_keeps hK
    | with_reducible refine keeps_mk (by with_reducible assumption)
    | dsimp only
    | split
    | (clear_value *; split)
    | (refine fld_mem (by assumption) ?_; decide)
    | decide

theorem State.dropJobs_keeps {K : Nat → Bool} (hK : Quiet K) {sA : State} {s : State} (hI : Keeps K sA s) :
    Keeps K sA (State.dropJobs s) := by
  unfold State.dropJobs
  repeat' first
    | with_reducible assumption
    | intro a b c
    | with_reducible apply forAll_keeps
    | with_reducible apply State.setChunks_keeps hK
    | with_reducible apply State.tx_keeps hK
    | with_reducible refine keeps_mk (by with_reducible assumption)
    | dsimp only
    | split
    | (clear_value *; split)

theorem State.finishJob_keeps {K : Nat → Bool} (hK : Quiet K) {sA : State} {s : State} (hI : Keeps K sA s) (eng : Nat) (j : Job) (flags : Nat) (body : List Byte) :
    Keeps K sA (State.finishJob s eng j flags body) := by
  unfold State.finishJob
  repeat' first
    | with_reducible assumption
    | (extract_lets +onlyGivenNames x; have hx : Keeps K sA x := (by
        unfold x
        repeat' first
          | with_reducible assumption
          | with_reducible apply keeps_ite
          | with_reducible apply State.furrow_keeps hK
          | with_reducible apply State.idleUntil_keeps hK
          | with_reducible apply State.incW_keeps hK
          | with_reducible apply State.lane_keeps hK
          | with_reducible apply State.setChunks_keeps hK
          | with_reducible apply State.tx_keeps hK
          | with_reducible refine keeps_mk (by with_reducible assumption)
          | dsimp only
          | split
          | (clear_value *; split)
          | decide); try clear_value x)
    | extract_lets +onlyGivenNames _
    | with_reducible apply keeps_ite
    | with_reducible apply State.furrow_keeps hK
    | with_reducible apply State.idleUntil_keeps hK
    | with_reducible apply State.incW_keeps hK
    | with_reducible apply State.lane_keeps hK
    | with_reducible apply State.setChunks_keeps hK
    | with_reducible apply State.tx_keeps hK
    | with_reducible refine keeps_mk (by with_reducible assumption)
    | split
    | (clear_value *; split)
    | decide

theorem State.verifyFail_keeps {K : Nat → Bool} (hK : Quiet K) {sA : State} {s : State} (hI : Keeps K sA s) (eng : Nat) (j : Job) (e : LoamErr) :
    Keeps K sA (State.verifyFail s eng j e) := by
  unfold State.verifyFail
  repeat' first
    | with_reducible assumption
    | with_reducible apply keeps_ite
    | with_reducible apply keeps_ite_pair
    | with_reducible apply State.event_keeps hK
    | with_reducible apply State.furrow_keeps hK
    | with_reducible apply State.inc_keeps hK
    | with_reducible apply State.log_keeps hK
    | with_reducible apply State.pi_keeps hK
    | with_reducible apply State.code_keeps hK
    | (with_reducible refine State.code_keepsE hK ?_ (by assumption))
    | dsimp only
    | split
    | (clear_value *; split)
    | decide

theorem State.inputCrc_keeps {K : Nat → Bool} (hK : Quiet K) {sA : State} {s : State} (hI : Keeps K sA s) (j : Job) :
    Keeps K sA (State.inputCrc s j) := by
  unfold State.inputCrc
  repeat' first
    | with_reducible assumption
    | with_reducible apply State.event_keeps hK
    | with_reducible apply State.furrow_keeps hK
    | with_reducible apply State.inc_keeps hK
    | with_reducible apply State.log_keeps hK
    | with_reducible apply State.setPoison_keeps hK
    | dsimp only
    | decide

theorem State.compressed_keeps {K : Nat → Bool} (hK : Quiet K) {sA : State} {s : State} (hI : Keeps K sA s) (eng : Nat) (tokens : List Byte) :
    Keeps K sA (State.compressed s eng tokens) := by
  unfold State.compressed
  repeat' first
    | with_reducible assumption
    | with_reducible apply keeps_ite
    | with_reducible apply State.engine_keeps hK
    | with_reducible apply State.finishJob_keeps hK
    | with_reducible apply State.inc_keeps hK
    | with_reducible apply State.inputCrc_keeps hK
    | with_reducible refine keeps_mk (by with_reducible assumption)
    | dsimp only
    | split
    | (clear_value *; split)
    | decide

theorem State.verified_keeps {K : Nat → Bool} (hK : Quiet K) {sA : State} {s : State} (hI : Keeps K sA s) (eng : Nat) :
    Keeps K sA (State.verified s eng) := by
  unfold State.verified
  repeat' first
    | with_reducible assumption
    | with_reducible apply keeps_ite
    | with_reducible apply State.engine_keeps hK
    | with_reducible apply State.error_keeps hK
    | with_reducible apply State.finishJob_keeps hK
    | with_reducible apply State.pi_keeps hK
    | with_reducible apply State.verifyFail_keeps hK
    | with_reducible refine keeps_mk (by with_reducible assumption)
    | dsimp only
    | split
    | (clear_value *; split)
    | decide

theorem State.copied_keeps {K : Nat → Bool} (hK : Quiet K) {sA : State} {s : State} (hI : Keeps K sA s) (eng : Nat) :
    Keeps K sA (State.copied s eng) := by
  unfold State.copied
  repeat' first
    | with_reducible assumption
    | with_reducible apply keeps_ite
    | with_reducible apply State.engine_keeps hK
    | with_reducible apply State.finishJob_keeps hK
    | with_reducible apply State.furrow_keeps hK
    | with_reducible apply State.logCode_keeps hK
    | with_reducible refine keeps_mk (by with_reducible assumption)
    | dsimp only
    | split
    | (clear_value *; split)

theorem State.jobDone_keeps {K : Nat → Bool} (hK : Quiet K) {sA : State} {s : State} (hI : Keeps K sA s) (eng : Nat) (step : JobStep) :
    Keeps K sA (State.jobDone s eng step) := by
  unfold State.jobDone
  repeat' first
    | with_reducible assumption
    | with_reducible apply State.compressed_keeps hK
    | with_reducible apply State.copied_keeps hK
    | with_reducible apply State.verified_keeps hK
    | with_reducible refine keeps_mk (by with_reducible assumption)
    | dsimp only
    | split
    | (clear_value *; split)

theorem State.ratioFrame_keeps {K : Nat → Bool} (hK : Quiet K) {sA : State} {s : State} (hI : Keeps K sA s) :
    Keeps K sA (State.ratioFrame s) := by
  unfold State.ratioFrame
  repeat' first
    | with_reducible assumption
    | with_reducible apply keeps_ite
    | with_reducible apply State.p_keeps hK
    | with_reducible refine keeps_mk (by with_reducible assumption)
    | dsimp only
    | split
    | (clear_value *; split)
    | decide

theorem State.txDone_keeps {K : Nat → Bool} (hK : Quiet K) {sA : State} {s : State} (hI : Keeps K sA s) (n : Nat) :
    Keeps K sA (State.txDone s n) := by
  unfold State.txDone
  repeat' first
    | with_reducible assumption
    | (extract_lets +onlyGivenNames x; have hx : Keeps K sA x := (by
        unfold x
        repeat' first
          | with_reducible assumption
          | with_reducible apply keeps_ite
          | with_reducible apply State.darkenWhenEmpty_keeps hK
          | with_reducible apply State.emit_keeps hK
          | with_reducible apply State.flushZcs_keeps hK
          | with_reducible apply State.furrow_keeps hK
          | with_reducible apply State.sendHead_keeps hK
          | with_reducible apply State.setChunks_keeps hK
          | with_reducible apply State.tx_keeps hK
          | with_reducible refine keeps_mk (by with_reducible assumption)
          | dsimp only
          | split
          | (clear_value *; split)); try clear_value x)
    | extract_lets +onlyGivenNames _
    | with_reducible apply keeps_ite
    | with_reducible apply State.darkenWhenEmpty_keeps hK
    | with_reducible apply State.emit_keeps hK
    | with_reducible apply State.flushZcs_keeps hK
    | with_reducible apply State.furrow_keeps hK
    | with_reducible apply State.sendHead_keeps hK
    | with_reducible apply State.setChunks_keeps hK
    | with_reducible apply State.tx_keeps hK
    | with_reducible refine keeps_mk (by with_reducible assumption)
    | split
    | (clear_value *; split)

theorem State.laneMark_keeps {K : Nat → Bool} (hK : Quiet K) {sA : State} {s : State} (hI : Keeps K sA s) (n : Nat) (block : Nat) :
    Keeps K sA (State.laneMark s n block) := by
  unfold State.laneMark
  repeat' first
    | with_reducible assumption
    | with_reducible apply keeps_ite
    | with_reducible apply State.goOn_keeps hK
    | with_reducible apply State.lineOut_keeps hK
    | with_reducible apply State.sendMark_keeps hK
    | with_reducible apply State.tx_keeps hK
    | with_reducible refine keeps_mk (by with_reducible assumption)
    | dsimp only
    | split
    | (clear_value *; split)
    | unfold id

theorem State.waitTrigger_keeps {K : Nat → Bool} (hK : Quiet K) {sA : State} {s : State} (hI : Keeps K sA s) :
    Keeps K sA (State.waitTrigger s) := by
  unfold State.waitTrigger
  repeat' first
    | with_reducible assumption
    | with_reducible apply keeps_ite
    | with_reducible apply State.inc_keeps hK
    | with_reducible apply State.lightMask_keeps hK
    | split
    | decide

theorem State.laneForecast_keeps {K : Nat → Bool} (hK : Quiet K) {sA : State} {s : State} (hI : Keeps K sA s) :
    Keeps K sA (State.laneForecast s) := by
  unfold State.laneForecast
  repeat' first
    | with_reducible assumption
    | (extract_lets +onlyGivenNames x; have hx : Keeps K sA x := (by
        unfold x
        repeat' first
          | with_reducible assumption
          | intro a b c
          | with_reducible apply keeps_ite
          | with_reducible apply forAll_keeps
          | with_reducible apply State.light_keeps hK
          | with_reducible apply State.p_keeps hK
          | with_reducible apply State.startExits_keeps hK
          | with_reducible refine keeps_mk (by with_reducible assumption)
          | dsimp only
          | split
          | (clear_value *; split)
          | decide); try clear_value x)
    | extract_lets +onlyGivenNames _
    | intro a b c
    | with_reducible apply keeps_ite
    | with_reducible apply forAll_keeps
    | with_reducible apply State.light_keeps hK
    | with_reducible apply State.p_keeps hK
    | with_reducible apply State.startExits_keeps hK
    | with_reducible refine keeps_mk (by with_reducible assumption)
    | split
    | (clear_value *; split)
    | decide

theorem State.laneDarken_keeps {K : Nat → Bool} (hK : Quiet K) {sA : State} {s : State} (hI : Keeps K sA s) :
    Keeps K sA (State.laneDarken s) := by
  unfold State.laneDarken
  repeat' first
    | with_reducible assumption
    | with_reducible apply keeps_ite
    | with_reducible apply State.darkenWhenEmpty_keeps hK
    | with_reducible apply State.tx_keeps hK
    | with_reducible refine keeps_mk (by with_reducible assumption)
    | dsimp only
    | split
    | (clear_value *; split)
    | decide

theorem State.markResends_keeps {K : Nat → Bool} (hK : Quiet K) {sA : State} {s : State} (hI : Keeps K sA s) (f : Nat) :
    Keeps K sA (State.markResends s f) := by
  unfold State.markResends
  repeat' first
    | with_reducible assumption
    | intro a b c
    | with_reducible apply keeps_ite
    | with_reducible apply forAll_keeps
    | with_reducible apply State.furrow_keeps hK
    | with_reducible apply State.lightMask_keeps hK
    | with_reducible apply State.tx_keeps hK
    | with_reducible refine keeps_mk (by with_reducible assumption)
    | dsimp only
    | split
    | (clear_value *; split)

theorem State.dropLanes_keeps {K : Nat → Bool} (hK : Quiet K) {sA : State} {s : State} (hI : Keeps K sA s) (ns : List Nat) :
    Keeps K sA (State.dropLanes s ns) := by
  unfold State.dropLanes
  repeat' first
    | with_reducible assumption
    | intro a b c
    | with_reducible apply forAll_keeps
    | with_reducible apply State.markDue_keeps hK
    | with_reducible apply State.markResends_keeps hK
    | with_reducible apply State.pbit_keeps hK
    | with_reducible apply State.tx_keeps hK
    | with_reducible refine keeps_mk (by with_reducible assumption)
    | dsimp only
    | decide

theorem State.returnLane_keeps {K : Nat → Bool} (hK : Quiet K) {sA : State} {s : State} (hI : Keeps K sA s) (n : Nat) :
    Keeps K sA (State.returnLane s n) := by
  unfold State.returnLane
  repeat' first
    | with_reducible assumption
    | intro a b c
    | with_reducible apply keeps_ite
    | with_reducible apply forAll_keeps
    | with_reducible apply State.markDue_keeps hK
    | with_reducible apply State.markResends_keeps hK
    | with_reducible apply State.pbit_keeps hK
    | with_reducible apply State.tx_keeps hK
    | with_reducible refine keeps_mk (by with_reducible assumption)
    | dsimp only
    | split
    | (clear_value *; split)
    | decide

theorem State.lockBit_keeps {K : Nat → Bool} (hK : Quiet K) {sA : State} {s : State} (hI : Keeps K sA s) (lock : Nat) (n : Nat) :
    Keeps K sA (State.lockBit s lock n) := by
  unfold State.lockBit
  repeat' first
    | with_reducible assumption
    | with_reducible apply keeps_ite
    | with_reducible apply State.returnLane_keeps hK
    | with_reducible apply State.tx_keeps hK
    | with_reducible refine keeps_mk (by with_reducible assumption)
    | dsimp only
    | split
    | (clear_value *; split)

theorem State.lockBits_keeps {K : Nat → Bool} (hK : Quiet K) {sA : State} {s : State} (hI : Keeps K sA s) (lock : Nat) (after : Bool) :
    Keeps K sA (State.lockBits s lock after) := by
  unfold State.lockBits
  repeat' first
    | with_reducible assumption
    | intro a b c
    | with_reducible apply forAll_keeps
    | with_reducible apply State.dropLanes_keeps hK
    | with_reducible apply State.lockBit_keeps hK
    | dsimp only

theorem State.dropsChange_keeps {K : Nat → Bool} (hK : Quiet K) {sA : State} {s : State} (hI : Keeps K sA s) (d : Nat) :
    Keeps K sA (State.dropsChange s d) := by
  unfold State.dropsChange
  repeat' first
    | with_reducible assumption
    | intro a b c
    | with_reducible apply keeps_ite
    | with_reducible apply forAll_keeps
    | with_reducible apply State.changed_keeps hK
    | with_reducible apply State.dropLanes_keeps hK
    | with_reducible apply State.p_keeps hK
    | with_reducible apply State.returnLane_keeps hK
    | with_reducible refine keeps_mk (by with_reducible assumption)
    | dsimp only
    | split
    | (clear_value *; split)
    | decide

theorem State.dropTimeout_keeps {K : Nat → Bool} (hK : Quiet K) {sA : State} {s : State} (hI : Keeps K sA s) (n : Nat) :
    Keeps K sA (State.dropTimeout s n) := by
  unfold State.dropTimeout
  repeat' first
    | with_reducible assumption
    | with_reducible apply keeps_ite
    | with_reducible apply State.dropLanes_keeps hK
    | split

theorem State.channelDown_keeps {K : Nat → Bool} (hK : Quiet K) {sA : State} {s : State} (hI : Keeps K sA s) :
    Keeps K sA (State.channelDown s) := by
  unfold State.channelDown
  repeat' first
    | with_reducible assumption
    | with_reducible apply keeps_ite
    | with_reducible apply State.p_keeps hK
    | with_reducible refine keeps_mk (by with_reducible assumption)
    | dsimp only
    | split
    | (clear_value *; split)
    | decide

theorem State.zcsChunk_keeps {K : Nat → Bool} (hK : Quiet K) {sA : State} {s : State} (hI : Keeps K sA s) (first : Bool) (last : Bool) (bytes : List Byte) :
    Keeps K sA (State.zcsChunk s first last bytes) := by
  unfold State.zcsChunk
  repeat' first
    | with_reducible assumption
    | (extract_lets +onlyGivenNames x; have hx : Keeps K sA x := (by
        unfold x
        repeat' first
          | with_reducible assumption
          | with_reducible apply keeps_ite
          | with_reducible apply State.arrive_keeps hK
          | with_reducible apply State.inc_keeps hK
          | with_reducible refine keeps_mk (by with_reducible assumption)
          | dsimp only
          | split
          | (clear_value *; split)
          | decide); try clear_value x)
    | extract_lets +onlyGivenNames _
    | with_reducible apply keeps_ite
    | with_reducible apply State.arrive_keeps hK
    | with_reducible apply State.inc_keeps hK
    | with_reducible refine keeps_mk (by with_reducible assumption)
    | split
    | (clear_value *; split)
    | decide

theorem State.items_keeps {K : Nat → Bool} (hK : Quiet K) {sA : State} {s : State} (hI : Keeps K sA s) (fuel : Nat) (l : List Byte) :
    Keeps K sA (State.items fuel l s) := by
  induction fuel generalizing l s with
  | zero => exact hI
  | succ fuel ih =>
  unfold State.items
  repeat' first
    | with_reducible assumption
    | with_reducible apply keeps_ite
    | with_reducible apply keeps_ite_pair
    | with_reducible apply ih
    | with_reducible apply State.ackItem_keeps hK
    | with_reducible apply State.echoReport_keeps hK
    | with_reducible apply State.forwardAccept_keeps hK
    | with_reducible apply State.inc_keeps hK
    | with_reducible apply State.zcsChunk_keeps hK
    | with_reducible apply State.acceptMark_keeps hK
    | (with_reducible refine State.acceptMark_keepsE hK ?_ (by assumption))
    | with_reducible refine keeps_mk (by with_reducible assumption)
    | dsimp only
    | split
    | (clear_value *; split)
    | unfold id
    | decide

theorem State.badFrame_keeps {K : Nat → Bool} (hK : Quiet K) {sA : State} {s : State} (hI : Keeps K sA s) (lane : Nat) :
    Keeps K sA (State.badFrame s lane) := by
  unfold State.badFrame
  repeat' first
    | with_reducible assumption
    | (extract_lets +onlyGivenNames x; have hx : Keeps K sA x := (by
        unfold x
        repeat' first
          | with_reducible assumption
          | with_reducible apply keeps_ite
          | with_reducible apply State.inc_keeps hK
          | with_reducible apply State.lane_keeps hK
          | with_reducible refine keeps_mk (by with_reducible assumption)
          | dsimp only
          | split
          | (clear_value *; split)
          | unfold id
          | decide); try clear_value x)
    | extract_lets +onlyGivenNames _
    | with_reducible apply keeps_ite
    | with_reducible apply State.inc_keeps hK
    | with_reducible apply State.lane_keeps hK
    | with_reducible refine keeps_mk (by with_reducible assumption)
    | split
    | (clear_value *; split)
    | unfold id
    | decide

theorem State.goodFrame_keeps {K : Nat → Bool} (hK : Quiet K) {sA : State} {s : State} (hI : Keeps K sA s) (lane : Nat) (b : List Byte) :
    Keeps K sA (State.goodFrame s lane b) := by
  unfold State.goodFrame
  repeat' first
    | with_reducible assumption
    | (extract_lets +onlyGivenNames x; have hx : Keeps K sA x := (by
        unfold x
        repeat' first
          | with_reducible assumption
          | with_reducible apply keeps_ite
          | with_reducible apply State.dropsChange_keeps hK
          | with_reducible apply State.inc_keeps hK
          | with_reducible apply State.items_keeps hK
          | with_reducible apply State.lane_keeps hK
          | with_reducible apply State.lockBits_keeps hK
          | with_reducible apply State.marker_keeps hK
          | with_reducible apply State.p_keeps hK
          | with_reducible apply State.tr_keeps hK
          | with_reducible refine keeps_mk (by with_reducible assumption)
          | dsimp only
          | split
          | (clear_value *; split)
          | unfold id
          | decide); try clear_value x)
    | extract_lets +onlyGivenNames _
    | with_reducible apply keeps_ite
    | with_reducible apply State.dropsChange_keeps hK
    | with_reducible apply State.inc_keeps hK
    | with_reducible apply State.items_keeps hK
    | with_reducible apply State.lane_keeps hK
    | with_reducible apply State.lockBits_keeps hK
    | with_reducible apply State.marker_keeps hK
    | with_reducible apply State.p_keeps hK
    | with_reducible apply State.tr_keeps hK
    | with_reducible refine keeps_mk (by with_reducible assumption)
    | split
    | (clear_value *; split)
    | unfold id
    | decide

theorem State.returnFrame_keeps {K : Nat → Bool} (hK : Quiet K) {sA : State} {s : State} (hI : Keeps K sA s) (lane : Nat) (b : List Byte) :
    Keeps K sA (State.returnFrame s lane b) := by
  unfold State.returnFrame
  repeat' first
    | with_reducible assumption
    | with_reducible apply keeps_ite
    | with_reducible apply State.badFrame_keeps hK
    | with_reducible apply State.goodFrame_keeps hK
    | with_reducible apply State.lane_keeps hK
    | with_reducible apply State.takeFrame_keeps hK
    | dsimp only
    | split
    | (clear_value *; split)

end Sys2Proof.Machine
end

