-- ==== Sys2Proof/Laws/KeepsSlow.lean ====
section
/-! SUPPORT. What every operation of Machine/Slow.lean keeps. -/
namespace Sys2Proof.Machine

theorem State.sl_keeps {K : Nat → Bool} (hK : Quiet K) {sA : State} {s : State} (hI : Keeps K sA s) (f : Slow → Slow) :
    Keeps K sA (State.sl s f) := by
  unfold State.sl
  repeat' first
    | with_reducible assumption
    | with_reducible refine keeps_mk (by with_reducible assumption)
    | dsimp only

theorem State.scan_keeps {K : Nat → Bool} (hK : Quiet K) {sA : State} {s : State} (hI : Keeps K sA s) (g : Nat) (f : Scan → Scan) :
    Keeps K sA (State.scan s g f) := by
  unfold State.scan
  repeat' first
    | with_reducible assumption
    | with_reducible apply State.sl_keeps hK
    | with_reducible refine keeps_mk (by with_reducible assumption)
    | dsimp only

theorem State.exciteFrom_keeps {K : Nat → Bool} (hK : Quiet K) {sA : State} {s : State} (hI : Keeps K sA s) (old : Nat × List (Nat × Nat)) :
    Keeps K sA (State.exciteFrom s old) := by
  unfold State.exciteFrom
  repeat' first
    | with_reducible assumption
    | intro a b c
    | with_reducible apply keeps_ite
    | with_reducible apply forAll_keeps
    | with_reducible apply State.p_keeps hK
    | with_reducible apply State.pbit_keeps hK
    | with_reducible apply State.sl_keeps hK
    | with_reducible refine keeps_mk (by with_reducible assumption)
    | dsimp only
    | split
    | (clear_value *; split)
    | decide

theorem State.meetNow_keeps {K : Nat → Bool} (hK : Quiet K) {sA : State} {s : State} (hI : Keeps K sA s) :
    Keeps K sA (State.meetNow s) := by
  unfold State.meetNow
  repeat' first
    | with_reducible assumption
    | with_reducible apply State.sl_keeps hK
    | with_reducible refine keeps_mk (by with_reducible assumption)
    | dsimp only

theorem State.spareAtSwitch_keeps {K : Nat → Bool} (hK : Quiet K) {sA : State} {s : State} (hI : Keeps K sA s) (g : Nat) :
    Keeps K sA (State.spareAtSwitch s g) := by
  unfold State.spareAtSwitch
  repeat' first
    | with_reducible assumption
    | with_reducible apply keeps_ite
    | with_reducible apply State.sl_keeps hK
    | with_reducible refine keeps_mk (by with_reducible assumption)
    | dsimp only
    | split
    | (clear_value *; split)

theorem State.switchGroup_keeps {K : Nat → Bool} (hK : Quiet K) {sA : State} {s : State} (hI : Keeps K sA s) (g : Nat) :
    Keeps K sA (State.switchGroup s g) := by
  unfold State.switchGroup
  repeat' first
    | with_reducible assumption
    | with_reducible apply keeps_ite
    | with_reducible apply State.scan_keeps hK
    | with_reducible apply State.spareAtSwitch_keeps hK
    | with_reducible refine keeps_mk (by with_reducible assumption)
    | dsimp only
    | split
    | (clear_value *; split)

theorem State.startScans_keeps {K : Nat → Bool} (hK : Quiet K) {sA : State} {s : State} (hI : Keeps K sA s) :
    Keeps K sA (State.startScans s) := by
  unfold State.startScans
  repeat' first
    | with_reducible assumption
    | intro a b c
    | with_reducible apply keeps_ite
    | with_reducible apply forAll_keeps
    | with_reducible apply State.sl_keeps hK
    | with_reducible apply State.switchGroup_keeps hK
    | with_reducible refine keeps_mk (by with_reducible assumption)
    | dsimp only
    | split
    | (clear_value *; split)

theorem State.stickySlow_keeps {K : Nat → Bool} (hK : Quiet K) {sA : State} {s : State} (hI : Keeps K sA s) (kind : Nat) (c : Nat) :
    Keeps K sA (State.stickySlow s kind c) := by
  unfold State.stickySlow
  repeat' first
    | with_reducible assumption
    | with_reducible apply State.pbit_keeps hK
    | decide

theorem State.slowRecord_keeps {K : Nat → Bool} (hK : Quiet K) {sA : State} {s : State} (hI : Keeps K sA s) (c : Nat) (k : Scan) (g : Nat) (flags : Nat) (code : BitVec 24) (value : Word) :
    Keeps K sA (State.slowRecord s c k g flags code value) := by
  unfold State.slowRecord
  repeat' first
    | with_reducible assumption
    | with_reducible apply State.sl_keeps hK
    | with_reducible apply State.code_keeps hK
    | (with_reducible refine State.code_keepsE hK ?_ (by assumption))
    | with_reducible refine keeps_mk (by with_reducible assumption)
    | dsimp only

theorem State.slowResult_keeps {K : Nat → Bool} (hK : Quiet K) {sA : State} {s : State} (hI : Keeps K sA s) (fine : Bool) (c : Nat) (k : Scan) (r : SlowIn) :
    Keeps K sA (State.slowResult s fine c k r).1 := by
  unfold State.slowResult
  repeat' first
    | with_reducible assumption
    | with_reducible apply keeps_ite
    | with_reducible apply keeps_ite_pair
    | with_reducible apply State.slowRecord_keeps hK
    | with_reducible apply State.stickySlow_keeps hK
    | with_reducible apply State.code_keeps hK
    | (with_reducible refine State.code_keepsE hK ?_ (by assumption))
    | dsimp only
    | split
    | (clear_value *; split)

theorem State.slowResult_keepsE {K : Nat → Bool} (hK : Quiet K) {sA : State} {s : State} (hI : Keeps K sA s) {fine : Bool} {c : Nat} {k : Scan} {r : SlowIn} {tE : State} {rE : Fine} (eE : State.slowResult s fine c k r = (tE, rE)) :
    Keeps K sA tE := by
  have hE := State.slowResult_keeps hK hI fine c k r
  rw [eE] at hE
  exact hE

theorem State.slowTransfer_keeps {K : Nat → Bool} (hK : Quiet K) {sA : State} {s : State} (hI : Keeps K sA s) (bad : Bool) :
    Keeps K sA (State.slowTransfer s bad) := by
  unfold State.slowTransfer
  repeat' first
    | with_reducible assumption
    | intro a b c
    | intro c
    | with_reducible apply keeps_ite
    | with_reducible apply foldl_keeps
    | with_reducible apply foldl_pair_keeps
    | with_reducible apply State.sl_keeps hK
    | with_reducible refine keeps_mk (by with_reducible assumption)
    | dsimp only
    | split
    | (clear_value *; split)
    | (refine fld_mem (by assumption) ?_; decide)

theorem State.vexcMeasured_keeps {K : Nat → Bool} (hK : Quiet K) {sA : State} {s : State} (hI : Keeps K sA s) (r : SlowIn) :
    Keeps K sA (State.vexcMeasured s r) := by
  unfold State.vexcMeasured
  repeat' first
    | with_reducible assumption
    | with_reducible apply keeps_ite
    | with_reducible apply State.sl_keeps hK
    | with_reducible refine keeps_mk (by with_reducible assumption)
    | dsimp only
    | split
    | (clear_value *; split)

theorem State.coarseResult_keeps {K : Nat → Bool} (hK : Quiet K) {sA : State} {s : State} (hI : Keeps K sA s) (r : SlowIn) :
    Keeps K sA (State.coarseResult s r) := by
  unfold State.coarseResult
  repeat' first
    | with_reducible assumption
    | with_reducible apply keeps_ite
    | with_reducible apply keeps_ite_pair
    | with_reducible apply State.scan_keeps hK
    | with_reducible apply State.vexcMeasured_keeps hK
    | with_reducible apply State.slowResult_keeps hK
    | (with_reducible refine State.slowResult_keepsE hK ?_ (by assumption))
    | with_reducible refine keeps_mk (by with_reducible assumption)
    | dsimp only
    | split
    | (clear_value *; split)

theorem State.setMod_keeps {K : Nat → Bool} (hK : Quiet K) {sA : State} {s : State} (hI : Keeps K sA s) (g : Nat) (m : Nat) :
    Keeps K sA (State.setMod s g m) := by
  unfold State.setMod
  repeat' first
    | with_reducible assumption
    | with_reducible apply State.p_keeps hK
    | dsimp only
    | decide

theorem State.modFault_keeps {K : Nat → Bool} (hK : Quiet K) {sA : State} {s : State} (hI : Keeps K sA s) (m : Nat) :
    Keeps K sA (State.modFault s m) := by
  unfold State.modFault
  repeat' first
    | with_reducible assumption
    | with_reducible apply State.log_keeps hK
    | with_reducible apply State.p_keeps hK
    | with_reducible apply State.sl_keeps hK
    | with_reducible apply State.tendEvent_keeps hK
    | with_reducible refine keeps_mk (by with_reducible assumption)
    | dsimp only
    | decide

theorem State.slowCompare_keeps {K : Nat → Bool} (hK : Quiet K) {sA : State} {s : State} (hI : Keeps K sA s) (g : Nat) (a : BitVec 24) (spare : Option (BitVec 24)) :
    Keeps K sA (State.slowCompare s g a spare) := by
  unfold State.slowCompare
  repeat' first
    | with_reducible assumption
    | with_reducible apply keeps_ite
    | with_reducible apply State.inc_keeps hK
    | with_reducible apply State.modFault_keeps hK
    | with_reducible apply State.p_keeps hK
    | with_reducible apply State.setMod_keeps hK
    | with_reducible apply State.sl_keeps hK
    | with_reducible refine keeps_mk (by with_reducible assumption)
    | dsimp only
    | split
    | (clear_value *; split)
    | decide

theorem State.slowReplace_keeps {K : Nat → Bool} (hK : Quiet K) {sA : State} {s : State} (hI : Keeps K sA s) (g : Nat) :
    Keeps K sA (State.slowReplace s g) := by
  unfold State.slowReplace
  repeat' first
    | with_reducible assumption
    | with_reducible apply keeps_ite
    | with_reducible apply State.modFault_keeps hK
    | with_reducible apply State.setMod_keeps hK
    | with_reducible refine keeps_mk (by with_reducible assumption)
    | dsimp only
    | split
    | (clear_value *; split)
    | decide

theorem State.modCalDone_keeps {K : Nat → Bool} (hK : Quiet K) {sA : State} {s : State} (hI : Keeps K sA s) (m : Nat) :
    Keeps K sA (State.modCalDone s m) := by
  unfold State.modCalDone
  repeat' first
    | with_reducible assumption
    | with_reducible apply keeps_ite
    | with_reducible apply State.p_keeps hK
    | with_reducible apply State.sl_keeps hK
    | with_reducible refine keeps_mk (by with_reducible assumption)
    | dsimp only
    | split
    | (clear_value *; split)
    | decide

theorem State.slowRotFrame_keeps {K : Nat → Bool} (hK : Quiet K) {sA : State} {s : State} (hI : Keeps K sA s) :
    Keeps K sA (State.slowRotFrame s) := by
  unfold State.slowRotFrame
  repeat' first
    | with_reducible assumption
    | with_reducible apply keeps_ite
    | with_reducible apply State.sl_keeps hK
    | with_reducible refine keeps_mk (by with_reducible assumption)
    | dsimp only
    | split
    | (clear_value *; split)
    | decide

theorem State.setIl_keeps {K : Nat → Bool} (hK : Quiet K) {sA : State} {s : State} (hI : Keeps K sA s) (i : Nat) (f : Il → Il) :
    Keeps K sA (State.setIl s i f) := by
  unfold State.setIl
  repeat' first
    | with_reducible assumption
    | with_reducible apply State.sl_keeps hK
    | with_reducible refine keeps_mk (by with_reducible assumption)
    | dsimp only

theorem State.ilFault_keeps {K : Nat → Bool} (hK : Quiet K) {sA : State} {s : State} (hI : Keeps K sA s) (i : Nat) (cause : Nat) :
    Keeps K sA (State.ilFault s i cause) := by
  unfold State.ilFault
  repeat' first
    | with_reducible assumption
    | with_reducible apply keeps_ite
    | with_reducible apply keeps_ite_pair
    | with_reducible apply State.pi_keeps hK
    | with_reducible apply State.setIl_keeps hK
    | with_reducible apply State.code_keeps hK
    | (with_reducible refine State.code_keepsE hK ?_ (by assumption))
    | with_reducible refine keeps_mk (by with_reducible assumption)
    | dsimp only
    | split
    | (clear_value *; split)
    | decide

theorem State.ilPeriod_keeps {K : Nat → Bool} (hK : Quiet K) {sA : State} {s : State} (hI : Keeps K sA s) (i : Nat) :
    Keeps K sA (State.ilPeriod s i) := by
  unfold State.ilPeriod
  repeat' first
    | with_reducible assumption
    | with_reducible apply keeps_ite
    | with_reducible apply State.ilFault_keeps hK
    | with_reducible apply State.pi_keeps hK
    | with_reducible apply State.setIl_keeps hK
    | with_reducible refine keeps_mk (by with_reducible assumption)
    | dsimp only
    | split
    | (clear_value *; split)
    | decide

theorem State.ilGrowsStale_keeps {K : Nat → Bool} (hK : Quiet K) {sA : State} {s : State} (hI : Keeps K sA s) (i : Nat) :
    Keeps K sA (State.ilGrowsStale s i) := by
  unfold State.ilGrowsStale
  repeat' first
    | with_reducible assumption
    | with_reducible apply keeps_ite
    | with_reducible apply State.setIl_keeps hK
    | with_reducible refine keeps_mk (by with_reducible assumption)
    | dsimp only
    | split
    | (clear_value *; split)
    | decide

theorem State.feedOutputs_keeps {K : Nat → Bool} (hK : Quiet K) {sA : State} {s : State} (hI : Keeps K sA s) (c : Nat) (flags : Nat) :
    Keeps K sA (State.feedOutputs s c flags) := by
  unfold State.feedOutputs
  repeat' first
    | with_reducible assumption
    | intro a b c
    | with_reducible apply keeps_ite
    | with_reducible apply forAll_keeps
    | with_reducible apply State.setIl_keeps hK
    | split
    | decide

theorem State.ilAllFault_keeps {K : Nat → Bool} (hK : Quiet K) {sA : State} {s : State} (hI : Keeps K sA s) :
    Keeps K sA (State.ilAllFault s) := by
  unfold State.ilAllFault
  repeat' first
    | with_reducible assumption
    | intro a b c
    | with_reducible apply forAll_keeps
    | with_reducible apply State.ilFault_keeps hK

theorem State.slowOff_keeps {K : Nat → Bool} (hK : Quiet K) {sA : State} {s : State} (hI : Keeps K sA s) :
    Keeps K sA (State.slowOff s) := by
  unfold State.slowOff
  repeat' first
    | with_reducible assumption
    | with_reducible apply State.ilAllFault_keeps hK
    | with_reducible apply State.sl_keeps hK
    | with_reducible refine keeps_mk (by with_reducible assumption)
    | dsimp only

theorem State.fineResult_keeps {K : Nat → Bool} (hK : Quiet K) {sA : State} {s : State} (hI : Keeps K sA s) (r : SlowIn) :
    Keeps K sA (State.fineResult s r) := by
  unfold State.fineResult
  repeat' first
    | with_reducible assumption
    | intro a b c
    | intro c
    | with_reducible apply keeps_ite
    | with_reducible apply keeps_ite_pair
    | with_reducible apply foldl_keeps
    | with_reducible apply foldl_pair_keeps
    | with_reducible apply State.feedOutputs_keeps hK
    | with_reducible apply State.scan_keeps hK
    | with_reducible apply State.sl_keeps hK
    | with_reducible apply State.slowCompare_keeps hK
    | with_reducible apply State.slowReplace_keeps hK
    | with_reducible apply State.spareAtSwitch_keeps hK
    | with_reducible apply State.switchGroup_keeps hK
    | with_reducible apply State.vexcMeasured_keeps hK
    | with_reducible apply State.code_keeps hK
    | (with_reducible refine State.code_keepsE hK ?_ (by assumption))
    | with_reducible apply State.slowResult_keeps hK
    | (with_reducible refine State.slowResult_keepsE hK ?_ (by assumption))
    | with_reducible refine keeps_mk (by with_reducible assumption)
    | dsimp only
    | split
    | (clear_value *; split)
    | (refine fld_mem (by assumption) ?_; decide)
    | decide

theorem State.slowClamp_keeps {K : Nat → Bool} (hK : Quiet K) {sA : State} {s : State} (hI : Keeps K sA s) (pin : Nat) :
    Keeps K sA (State.slowClamp s pin) := by
  unfold State.slowClamp
  repeat' first
    | with_reducible assumption
    | with_reducible apply keeps_ite
    | with_reducible apply State.pin_keeps hK
    | with_reducible apply State.sl_keeps hK
    | with_reducible apply State.stickySlow_keeps hK
    | with_reducible refine keeps_mk (by with_reducible assumption)
    | dsimp only
    | split
    | (clear_value *; split)
    | decide

theorem State.vexcTrip_keeps {K : Nat → Bool} (hK : Quiet K) {sA : State} {s : State} (hI : Keeps K sA s) (load : Nat) :
    Keeps K sA (State.vexcTrip s load) := by
  unfold State.vexcTrip
  repeat' first
    | with_reducible assumption
    | with_reducible apply keeps_ite
    | with_reducible apply State.exciteFrom_keeps hK
    | with_reducible apply State.p_keeps hK
    | with_reducible apply State.sl_keeps hK
    | with_reducible refine keeps_mk (by with_reducible assumption)
    | dsimp only
    | split
    | (clear_value *; split)
    | decide

theorem State.ixComply_keeps {K : Nat → Bool} (hK : Quiet K) {sA : State} {s : State} (hI : Keeps K sA s) (i : Nat) :
    Keeps K sA (State.ixComply s i) := by
  unfold State.ixComply
  repeat' first
    | with_reducible assumption
    | with_reducible apply keeps_ite
    | with_reducible apply State.pbit_keeps hK
    | with_reducible apply State.pin_keeps hK
    | with_reducible apply State.sl_keeps hK
    | with_reducible refine keeps_mk (by with_reducible assumption)
    | dsimp only
    | split
    | (clear_value *; split)
    | decide

theorem State.setSafe_keeps {K : Nat → Bool} (hK : Quiet K) {sA : State} {s : State} (hI : Keeps K sA s) :
    Keeps K sA (State.setSafe s) := by
  unfold State.setSafe
  repeat' first
    | with_reducible assumption
    | with_reducible apply State.event_keeps hK
    | with_reducible apply State.exciteFrom_keeps hK
    | with_reducible apply State.ilAllFault_keeps hK
    | with_reducible apply State.log_keeps hK
    | with_reducible apply State.p_keeps hK
    | with_reducible apply State.sl_keeps hK
    | with_reducible refine keeps_mk (by with_reducible assumption)
    | dsimp only
    | decide

theorem State.safeAssert_keeps {K : Nat → Bool} (hK : Quiet K) {sA : State} {s : State} (hI : Keeps K sA s) (lowNs : Nat) :
    Keeps K sA (State.safeAssert s lowNs) := by
  unfold State.safeAssert
  repeat' first
    | with_reducible assumption
    | with_reducible apply keeps_ite
    | with_reducible apply State.drew_keeps hK
    | with_reducible apply State.inc_keeps hK
    | with_reducible apply State.p_keeps hK
    | with_reducible apply State.setSafe_keeps hK
    | with_reducible apply State.sl_keeps hK
    | with_reducible refine keeps_mk (by with_reducible assumption)
    | dsimp only
    | split
    | (clear_value *; split)
    | decide

theorem State.safeRelease_keeps {K : Nat → Bool} (hK : Quiet K) {sA : State} {s : State} (hI : Keeps K sA s) :
    Keeps K sA (State.safeRelease s) := by
  unfold State.safeRelease
  repeat' first
    | with_reducible assumption
    | with_reducible apply keeps_ite
    | with_reducible apply State.p_keeps hK
    | with_reducible apply State.sl_keeps hK
    | with_reducible refine keeps_mk (by with_reducible assumption)
    | dsimp only
    | split
    | (clear_value *; split)
    | decide

theorem State.safeForced_keeps {K : Nat → Bool} (hK : Quiet K) {sA : State} {s : State} (hI : Keeps K sA s) (w : Word) :
    Keeps K sA (State.safeForced s w) := by
  unfold State.safeForced
  repeat' first
    | with_reducible assumption
    | with_reducible apply keeps_ite
    | with_reducible apply State.setSafe_keeps hK
    | split

theorem State.slowFrame_keeps {sA : State} {s : State} (hI : Keeps noField sA s) :
    Keeps noField sA (State.slowFrame s) := by
  have hK := quiet_no
  unfold State.slowFrame
  repeat' first
    | with_reducible assumption
    | intro a b c
    | intro c
    | with_reducible apply keeps_ite
    | with_reducible apply foldl_keeps
    | with_reducible apply foldl_pair_keeps
    | with_reducible apply State.commitField_keeps
    | with_reducible apply State.exciteFrom_keeps hK
    | with_reducible apply State.meetNow_keeps hK
    | with_reducible apply State.sl_keeps hK
    | with_reducible apply State.slowRotFrame_keeps hK
    | with_reducible apply State.startScans_keeps hK
    | with_reducible refine keeps_mk (by with_reducible assumption)
    | dsimp only
    | split
    | (clear_value *; split)
    | (refine fld_mem (by assumption) ?_; decide)
    | decide

end Sys2Proof.Machine
end

