-- ==== Sys2Proof/Laws/KeepsWall.lean ====
section
/-! SUPPORT. What every operation of Machine/Wall.lean keeps. -/
namespace Sys2Proof.Machine

theorem State.dropReasm_keeps {K : Nat → Bool} (hK : Quiet K) {sA : State} {s : State} (hI : Keeps K sA s) (p : Reasm → Bool) :
    Keeps K sA (State.dropReasm s p) := by
  unfold State.dropReasm
  repeat' first
    | with_reducible assumption
    | with_reducible apply State.p_keeps hK
    | with_reducible refine keeps_mk (by with_reducible assumption)
    | dsimp only

theorem State.zcsDatagram_keeps {K : Nat → Bool} (hK : Quiet K) {sA : State} {s : State} (hI : Keeps K sA s) (port : Nat) (src : Nat) (udp : Nat) (id : Nat) (offset : Nat) (more : Bool) (data : List Byte) :
    Keeps K sA (State.zcsDatagram s port src udp id offset more data) := by
  unfold State.zcsDatagram
  repeat' first
    | with_reducible assumption
    | with_reducible apply keeps_ite
    | with_reducible apply State.arrive_keeps hK
    | with_reducible apply State.dropReasm_keeps hK
    | with_reducible apply State.inc_keeps hK
    | with_reducible apply State.port_keeps hK
    | with_reducible refine keeps_mk (by with_reducible assumption)
    | dsimp only
    | split
    | (clear_value *; split)
    | unfold id
    | decide

theorem State.ethFrame_keeps {K : Nat → Bool} (hK : Quiet K) {sA : State} {s : State} (hI : Keeps K sA s) (f : EthIn) :
    Keeps K sA (State.ethFrame s f) := by
  unfold State.ethFrame
  repeat' first
    | with_reducible assumption
    | with_reducible apply keeps_ite
    | with_reducible apply State.emit_keeps hK
    | with_reducible apply State.inc_keeps hK
    | with_reducible apply State.port_keeps hK
    | with_reducible apply State.zcsDatagram_keeps hK
    | with_reducible refine keeps_mk (by with_reducible assumption)
    | dsimp only
    | split
    | (clear_value *; split)
    | unfold id
    | decide

theorem State.reasmTimeout_keeps {K : Nat → Bool} (hK : Quiet K) {sA : State} {s : State} (hI : Keeps K sA s) (src : Nat) (id : Nat) :
    Keeps K sA (State.reasmTimeout s src id) := by
  unfold State.reasmTimeout
  repeat' first
    | with_reducible assumption
    | with_reducible apply State.dropReasm_keeps hK
    | with_reducible apply State.inc_keeps hK
    | with_reducible apply State.port_keeps hK
    | with_reducible refine keeps_mk (by with_reducible assumption)
    | dsimp only
    | split
    | (clear_value *; split)
    | unfold id
    | decide

theorem State.noMaster_keeps {K : Nat → Bool} (hK : Quiet K) {sA : State} {s : State} (hI : Keeps K sA s) (m : Bool) :
    Keeps K sA (State.noMaster s m) := by
  unfold State.noMaster
  repeat' first
    | with_reducible assumption
    | with_reducible apply keeps_ite
    | with_reducible refine keeps_mk (by with_reducible assumption)
    | dsimp only
    | split
    | (clear_value *; split)

theorem State.ptpFailover_keeps {K : Nat → Bool} (hK : Quiet K) {sA : State} {s : State} (hI : Keeps K sA s) :
    Keeps K sA (State.ptpFailover s) := by
  unfold State.ptpFailover
  repeat' first
    | with_reducible assumption
    | with_reducible apply keeps_ite
    | with_reducible apply State.noMaster_keeps hK
    | with_reducible apply State.p_keeps hK
    | split
    | decide

theorem State.ptpPortWritten_keeps {K : Nat → Bool} (hK : Quiet K) {sA : State} {s : State} (hI : Keeps K sA s) :
    Keeps K sA (State.ptpPortWritten s) := by
  unfold State.ptpPortWritten
  repeat' first
    | with_reducible assumption
    | (extract_lets +onlyGivenNames x; have hx : Keeps K sA x := (by
        unfold x
        repeat' first
          | with_reducible assumption
          | with_reducible apply keeps_ite
          | with_reducible apply State.noMaster_keeps hK
          | with_reducible apply State.p_keeps hK
          | with_reducible refine keeps_mk (by with_reducible assumption)
          | dsimp only
          | split
          | (clear_value *; split)
          | decide); try clear_value x)
    | extract_lets +onlyGivenNames _
    | with_reducible apply keeps_ite
    | with_reducible apply State.noMaster_keeps hK
    | with_reducible apply State.p_keeps hK
    | with_reducible refine keeps_mk (by with_reducible assumption)
    | split
    | (clear_value *; split)
    | decide

theorem State.ethLinkChange_keeps {K : Nat → Bool} (hK : Quiet K) {sA : State} {s : State} (hI : Keeps K sA s) (port : Nat) (up : Bool) (module : Bool) :
    Keeps K sA (State.ethLinkChange s port up module) := by
  unfold State.ethLinkChange
  repeat' first
    | with_reducible assumption
    | with_reducible apply keeps_ite
    | with_reducible apply State.pi_keeps hK
    | with_reducible apply State.port_keeps hK
    | with_reducible apply State.ptpFailover_keeps hK
    | dsimp only
    | split
    | (clear_value *; split)
    | decide

theorem State.wallStepped_keeps {K : Nat → Bool} (hK : Quiet K) {sA : State} {s : State} (hI : Keeps K sA s) :
    Keeps K sA (State.wallStepped s) := by
  unfold State.wallStepped
  repeat' first
    | with_reducible assumption
    | (extract_lets +onlyGivenNames x; have hx : Keeps K sA x := (by
        unfold x
        repeat' first
          | with_reducible assumption
          | with_reducible apply State.anchor_keeps hK
          | with_reducible apply State.log_keeps hK
          | with_reducible apply State.p_keeps hK
          | with_reducible refine keeps_mk (by with_reducible assumption)
          | dsimp only
          | decide); try clear_value x)
    | extract_lets +onlyGivenNames _
    | with_reducible apply State.anchor_keeps hK
    | with_reducible apply State.log_keeps hK
    | with_reducible apply State.p_keeps hK
    | with_reducible refine keeps_mk (by with_reducible assumption)
    | decide

theorem State.setRate_keeps {K : Nat → Bool} (hK : Quiet K) {sA : State} {s : State} (hI : Keeps K sA s) (r : Int) :
    Keeps K sA (State.setRate s r) := by
  unfold State.setRate
  repeat' first
    | with_reducible assumption
    | (extract_lets +onlyGivenNames x; have hx : Keeps K sA x := (by
        unfold x
        repeat' first
          | with_reducible assumption
          | with_reducible apply State.anchor_keeps hK
          | with_reducible apply State.p_keeps hK
          | with_reducible refine keeps_mk (by with_reducible assumption)
          | dsimp only
          | decide); try clear_value x)
    | extract_lets +onlyGivenNames _
    | with_reducible apply State.anchor_keeps hK
    | with_reducible apply State.p_keeps hK
    | with_reducible refine keeps_mk (by with_reducible assumption)
    | decide

theorem State.servo_keeps {K : Nat → Bool} (hK : Quiet K) {sA : State} {s : State} (hI : Keeps K sA s) (offset : Int) :
    Keeps K sA (State.servo s offset) := by
  unfold State.servo
  repeat' first
    | with_reducible assumption
    | (extract_lets +onlyGivenNames x; have hx : Keeps K sA x := (by
        unfold x
        repeat' first
          | with_reducible assumption
          | with_reducible apply keeps_ite
          | with_reducible apply State.drew_keeps hK
          | with_reducible apply State.p_keeps hK
          | with_reducible apply State.setRate_keeps hK
          | with_reducible apply State.wallStepped_keeps hK
          | with_reducible refine keeps_mk (by with_reducible assumption)
          | dsimp only
          | split
          | (clear_value *; split)
          | decide); try clear_value x)
    | extract_lets +onlyGivenNames _
    | with_reducible apply keeps_ite
    | with_reducible apply State.drew_keeps hK
    | with_reducible apply State.p_keeps hK
    | with_reducible apply State.setRate_keeps hK
    | with_reducible apply State.wallStepped_keeps hK
    | with_reducible refine keeps_mk (by with_reducible assumption)
    | split
    | (clear_value *; split)
    | decide

theorem State.ptpAnnounce_keeps {K : Nat → Bool} (hK : Quiet K) {sA : State} {s : State} (hI : Keeps K sA s) (utc : Nat) (rank : List Nat) :
    Keeps K sA (State.ptpAnnounce s utc rank) := by
  unfold State.ptpAnnounce
  repeat' first
    | with_reducible assumption
    | (extract_lets +onlyGivenNames x; have hx : Keeps K sA x := (by
        unfold x
        repeat' first
          | with_reducible assumption
          | with_reducible apply keeps_ite
          | with_reducible apply State.noMaster_keeps hK
          | with_reducible apply State.p_keeps hK
          | with_reducible refine keeps_mk (by with_reducible assumption)
          | dsimp only
          | split
          | (clear_value *; split)
          | decide); try clear_value x)
    | extract_lets +onlyGivenNames _
    | with_reducible apply keeps_ite
    | with_reducible apply State.noMaster_keeps hK
    | with_reducible apply State.p_keeps hK
    | with_reducible refine keeps_mk (by with_reducible assumption)
    | split
    | (clear_value *; split)
    | decide

theorem State.ptpMessage_keeps {K : Nat → Bool} (hK : Quiet K) {sA : State} {s : State} (hI : Keeps K sA s) (m : PtpIn) :
    Keeps K sA (State.ptpMessage s m) := by
  unfold State.ptpMessage
  repeat' first
    | with_reducible assumption
    | with_reducible apply keeps_ite
    | with_reducible apply State.emit_keeps hK
    | with_reducible apply State.port_keeps hK
    | with_reducible apply State.ptpAnnounce_keeps hK
    | with_reducible apply State.servo_keeps hK
    | with_reducible refine keeps_mk (by with_reducible assumption)
    | dsimp only
    | split
    | (clear_value *; split)
    | decide

theorem State.ptpMaster_keeps {K : Nat → Bool} (hK : Quiet K) {sA : State} {s : State} (hI : Keeps K sA s) :
    Keeps K sA (State.ptpMaster s) := by
  unfold State.ptpMaster
  repeat' first
    | with_reducible assumption
    | (extract_lets +onlyGivenNames x; have hx : Keeps K sA x := (by
        unfold x
        repeat' first
          | with_reducible assumption
          | with_reducible apply keeps_ite
          | with_reducible apply State.emit_keeps hK
          | with_reducible apply State.port_keeps hK
          | with_reducible refine keeps_mk (by with_reducible assumption)
          | dsimp only
          | split
          | (clear_value *; split)
          | decide); try clear_value x)
    | extract_lets +onlyGivenNames _
    | with_reducible apply keeps_ite
    | with_reducible apply State.emit_keeps hK
    | with_reducible apply State.port_keeps hK
    | with_reducible refine keeps_mk (by with_reducible assumption)
    | split
    | (clear_value *; split)
    | decide

theorem State.ptpAnnounceTimeout_keeps {K : Nat → Bool} (hK : Quiet K) {sA : State} {s : State} (hI : Keeps K sA s) :
    Keeps K sA (State.ptpAnnounceTimeout s) := by
  unfold State.ptpAnnounceTimeout
  repeat' first
    | with_reducible assumption
    | (extract_lets +onlyGivenNames x; have hx : Keeps K sA x := (by
        unfold x
        repeat' first
          | with_reducible assumption
          | with_reducible apply keeps_ite
          | with_reducible apply State.noMaster_keeps hK
          | with_reducible apply State.p_keeps hK
          | with_reducible apply State.ptpFailover_keeps hK
          | with_reducible apply State.setRate_keeps hK
          | with_reducible refine keeps_mk (by with_reducible assumption)
          | dsimp only
          | split
          | (clear_value *; split)
          | decide); try clear_value x)
    | extract_lets +onlyGivenNames _
    | with_reducible apply keeps_ite
    | with_reducible apply State.noMaster_keeps hK
    | with_reducible apply State.p_keeps hK
    | with_reducible apply State.ptpFailover_keeps hK
    | with_reducible apply State.setRate_keeps hK
    | with_reducible refine keeps_mk (by with_reducible assumption)
    | split
    | (clear_value *; split)
    | decide

theorem State.timeSetBody_keeps {K : Nat → Bool} (hK : Quiet K) {sA : State} {s : State} (hI : Keeps K sA s) (sec : Nat) (ns : Nat) (frac : Nat) :
    Keeps K sA (State.timeSetBody s sec ns frac).1 := by
  unfold State.timeSetBody
  repeat' first
    | with_reducible assumption
    | with_reducible apply keeps_ite
    | with_reducible apply State.wallStepped_keeps hK
    | with_reducible refine keeps_mk (by with_reducible assumption)
    | dsimp only
    | split
    | (clear_value *; split)
    | decide

theorem State.timeSetBody_keepsE {K : Nat → Bool} (hK : Quiet K) {sA : State} {s : State} (hI : Keeps K sA s) {sec : Nat} {ns : Nat} {frac : Nat} {tE : State} {rE : Reply} (eE : State.timeSetBody s sec ns frac = (tE, rE)) :
    Keeps K sA tE := by
  have hE := State.timeSetBody_keeps hK hI sec ns frac
  rw [eE] at hE
  exact hE

theorem State.hset_keeps {K : Nat → Bool} (hK : Quiet K) {sA : State} {s : State} (hI : Keeps K sA s) (n : Nat) (f : HNode → HNode) :
    Keeps K sA (State.hset s n f) := by
  unfold State.hset
  repeat' first
    | with_reducible assumption
    | with_reducible refine keeps_mk (by with_reducible assumption)
    | dsimp only

theorem State.setUid_keeps {K : Nat → Bool} (hK : Quiet K) {sA : State} {s : State} (hI : Keeps K sA s) (n : Nat) (uid : Nat) :
    Keeps K sA (State.setUid s n uid) := by
  unfold State.setUid
  repeat' first
    | with_reducible assumption
    | with_reducible apply State.pi_keeps hK
    | decide

theorem State.cycleNode_keeps {K : Nat → Bool} (hK : Quiet K) {sA : State} {s : State} (hI : Keeps K sA s) (n : Nat) :
    Keeps K sA (State.cycleNode s n) := by
  unfold State.cycleNode
  repeat' first
    | with_reducible assumption
    | with_reducible apply keeps_ite
    | with_reducible apply State.hset_keeps hK
    | with_reducible apply State.pi_keeps hK
    | with_reducible refine keeps_mk (by with_reducible assumption)
    | dsimp only
    | split
    | (clear_value *; split)
    | decide

theorem State.hdgCycle_keeps {K : Nat → Bool} (hK : Quiet K) {sA : State} {s : State} (hI : Keeps K sA s) :
    Keeps K sA (State.hdgCycle s) := by
  unfold State.hdgCycle
  repeat' first
    | with_reducible assumption
    | (extract_lets +onlyGivenNames x; have hx : Keeps K sA x := (by
        unfold x
        repeat' first
          | with_reducible assumption
          | intro a b c
          | with_reducible apply keeps_ite
          | with_reducible apply forAll_keeps
          | with_reducible apply State.cycleNode_keeps hK
          | with_reducible apply State.emit_keeps hK
          | with_reducible apply State.hset_keeps hK
          | with_reducible apply State.incW_keeps hK
          | with_reducible apply State.pi_keeps hK
          | with_reducible apply State.setUid_keeps hK
          | with_reducible refine keeps_mk (by with_reducible assumption)
          | dsimp only
          | split
          | (clear_value *; split)
          | with_reducible refine keeps_mk (by repeat' first | with_reducible assumption | with_reducible apply State.cycleNode_keeps hK | with_reducible apply State.emit_keeps hK | with_reducible apply State.hset_keeps hK | with_reducible apply State.incW_keeps hK | with_reducible apply State.pi_keeps hK | with_reducible apply State.setUid_keeps hK | decide)
          | decide); try clear_value x)
    | extract_lets +onlyGivenNames _
    | intro a b c
    | with_reducible apply keeps_ite
    | with_reducible apply forAll_keeps
    | with_reducible apply State.cycleNode_keeps hK
    | with_reducible apply State.emit_keeps hK
    | with_reducible apply State.hset_keeps hK
    | with_reducible apply State.incW_keeps hK
    | with_reducible apply State.pi_keeps hK
    | with_reducible apply State.setUid_keeps hK
    | with_reducible refine keeps_mk (by with_reducible assumption)
    | split
    | (clear_value *; split)
    | with_reducible refine keeps_mk (by repeat' first | with_reducible assumption | with_reducible apply State.cycleNode_keeps hK | with_reducible apply State.emit_keeps hK | with_reducible apply State.hset_keeps hK | with_reducible apply State.incW_keeps hK | with_reducible apply State.pi_keeps hK | with_reducible apply State.setUid_keeps hK | decide)
    | decide

theorem State.hdgTimerCycle_keeps {K : Nat → Bool} (hK : Quiet K) {sA : State} {s : State} (hI : Keeps K sA s) :
    Keeps K sA (State.hdgTimerCycle s) := by
  unfold State.hdgTimerCycle
  repeat' first
    | with_reducible assumption
    | with_reducible apply keeps_ite
    | with_reducible apply State.hdgCycle_keeps hK
    | with_reducible apply State.ptpMaster_keeps hK
    | split

theorem State.hdgAdmission_keeps {K : Nat → Bool} (hK : Quiet K) {sA : State} {s : State} (hI : Keeps K sA s) (f : HdgIn) :
    Keeps K sA (State.hdgAdmission s f) := by
  unfold State.hdgAdmission
  repeat' first
    | with_reducible assumption
    | (extract_lets +onlyGivenNames x; have hx : Keeps K sA x := (by
        unfold x
        repeat' first
          | with_reducible assumption
          | intro a b c
          | with_reducible apply keeps_ite
          | with_reducible apply forAll_keeps
          | with_reducible apply State.inc_keeps hK
          | with_reducible apply State.pi_keeps hK
          | with_reducible refine keeps_mk (by with_reducible assumption)
          | dsimp only
          | split
          | (clear_value *; split)
          | decide); try clear_value x)
    | extract_lets +onlyGivenNames _
    | intro a b c
    | with_reducible apply keeps_ite
    | with_reducible apply forAll_keeps
    | with_reducible apply State.inc_keeps hK
    | with_reducible apply State.pi_keeps hK
    | with_reducible refine keeps_mk (by with_reducible assumption)
    | split
    | (clear_value *; split)
    | decide

theorem State.hdgAccept_keeps {K : Nat → Bool} (hK : Quiet K) {sA : State} {s : State} (hI : Keeps K sA s) (n : Nat) (bytes : List Byte) :
    Keeps K sA (State.hdgAccept s n bytes) := by
  unfold State.hdgAccept
  repeat' first
    | with_reducible assumption
    | with_reducible apply keeps_ite
    | with_reducible apply State.hset_keeps hK
    | with_reducible apply State.inc_keeps hK
    | with_reducible apply State.pi_keeps hK
    | with_reducible refine keeps_mk (by with_reducible assumption)
    | dsimp only
    | split
    | (clear_value *; split)
    | decide

theorem State.hdgSkew_keeps {K : Nat → Bool} (hK : Quiet K) {sA : State} {s : State} (hI : Keeps K sA s) (n : Nat) (offset : Int) :
    Keeps K sA (State.hdgSkew s n offset) := by
  unfold State.hdgSkew
  repeat' first
    | with_reducible assumption
    | with_reducible apply keeps_ite
    | with_reducible apply State.drew_keeps hK
    | with_reducible apply State.log_keeps hK
    | with_reducible apply State.pi_keeps hK
    | dsimp only
    | split
    | (clear_value *; split)
    | decide

theorem State.hdgOverrun_keeps {K : Nat → Bool} (hK : Quiet K) {sA : State} {s : State} (hI : Keeps K sA s) (n : Nat) :
    Keeps K sA (State.hdgOverrun s n) := by
  unfold State.hdgOverrun
  repeat' first
    | with_reducible assumption
    | with_reducible apply keeps_ite
    | with_reducible apply State.hset_keeps hK
    | with_reducible apply State.inc_keeps hK
    | with_reducible refine keeps_mk (by with_reducible assumption)
    | dsimp only
    | split
    | (clear_value *; split)
    | decide

theorem State.hdgNodeSlot_keeps {K : Nat → Bool} (hK : Quiet K) {sA : State} {s : State} (hI : Keeps K sA s) (n : Nat) (f : HdgIn) :
    Keeps K sA (State.hdgNodeSlot s n f) := by
  unfold State.hdgNodeSlot
  repeat' first
    | with_reducible assumption
    | with_reducible apply keeps_ite
    | with_reducible apply State.hdgAccept_keeps hK
    | with_reducible apply State.hdgOverrun_keeps hK
    | with_reducible apply State.hdgSkew_keeps hK
    | with_reducible apply State.inc_keeps hK
    | with_reducible apply State.pi_keeps hK
    | dsimp only
    | split
    | (clear_value *; split)
    | decide

theorem State.hdgFollowBeacon_keeps {K : Nat → Bool} (hK : Quiet K) {sA : State} {s : State} (hI : Keeps K sA s) (b : List Byte) :
    Keeps K sA (State.hdgFollowBeacon s b) := by
  unfold State.hdgFollowBeacon
  repeat' first
    | with_reducible assumption
    | intro a b c
    | with_reducible apply keeps_ite
    | with_reducible apply forAll_keeps
    | with_reducible apply State.hset_keeps hK
    | with_reducible apply State.pi_keeps hK
    | with_reducible apply State.setUid_keeps hK
    | with_reducible refine keeps_mk (by with_reducible assumption)
    | dsimp only
    | split
    | (clear_value *; split)
    | decide

theorem State.hdgFollowFrame_keeps {K : Nat → Bool} (hK : Quiet K) {sA : State} {s : State} (hI : Keeps K sA s) (n : Nat) (f : HdgIn) :
    Keeps K sA (State.hdgFollowFrame s n f) := by
  unfold State.hdgFollowFrame
  repeat' first
    | with_reducible assumption
    | with_reducible apply keeps_ite
    | with_reducible apply State.hset_keeps hK
    | with_reducible refine keeps_mk (by with_reducible assumption)
    | dsimp only
    | split
    | (clear_value *; split)
    | decide

theorem State.hdgFrameRx_keeps {K : Nat → Bool} (hK : Quiet K) {sA : State} {s : State} (hI : Keeps K sA s) (f : HdgIn) :
    Keeps K sA (State.hdgFrameRx s f) := by
  unfold State.hdgFrameRx
  repeat' first
    | with_reducible assumption
    | with_reducible apply keeps_ite
    | with_reducible apply State.hdgAdmission_keeps hK
    | with_reducible apply State.hdgFollowBeacon_keeps hK
    | with_reducible apply State.hdgFollowFrame_keeps hK
    | with_reducible apply State.hdgNodeSlot_keeps hK
    | split
    | decide

theorem State.hdgNodeTimeout_keeps {K : Nat → Bool} (hK : Quiet K) {sA : State} {s : State} (hI : Keeps K sA s) (n : Nat) :
    Keeps K sA (State.hdgNodeTimeout s n) := by
  unfold State.hdgNodeTimeout
  repeat' first
    | with_reducible assumption
    | with_reducible apply keeps_ite
    | with_reducible apply State.pi_keeps hK
    | with_reducible apply State.setUid_keeps hK
    | split
    | decide

theorem State.hdgTx_keeps {K : Nat → Bool} (hK : Quiet K) {sA : State} {s : State} (hI : Keeps K sA s) (w : Nat) :
    Keeps K sA (State.hdgTx s w) := by
  unfold State.hdgTx
  repeat' first
    | with_reducible assumption
    | with_reducible apply keeps_ite
    | with_reducible apply State.err_keeps hK
    | with_reducible apply State.hset_keeps hK
    | with_reducible refine keeps_mk (by with_reducible assumption)
    | dsimp only
    | split
    | (clear_value *; split)
    | decide

theorem State.hdgRx_keeps {K : Nat → Bool} (hK : Quiet K) {sA : State} {s : State} (hI : Keeps K sA s) :
    Keeps K sA (State.hdgRx s).1 := by
  unfold State.hdgRx
  repeat' first
    | with_reducible assumption
    | with_reducible apply State.hset_keeps hK
    | with_reducible refine keeps_mk (by with_reducible assumption)
    | dsimp only
    | split
    | (clear_value *; split)
    | decide

theorem State.hdgRx_keepsE {K : Nat → Bool} (hK : Quiet K) {sA : State} {s : State} (hI : Keeps K sA s) {tE : State} {rE : Nat} (eE : State.hdgRx s = (tE, rE)) :
    Keeps K sA tE := by
  have hE := State.hdgRx_keeps hK hI
  rw [eE] at hE
  exact hE

end Sys2Proof.Machine
end

