-- ==== Sys2Proof/Laws/KeepsSectors.lean ====
section
/-! SUPPORT. What every operation of Machine/Sectors.lean keeps. -/
namespace Sys2Proof.Machine

theorem State.setSec_keeps {K : Nat → Bool} (hK : Quiet K) {sA : State} {s : State} (hI : Keeps K sA s) (p : Nat) (st : Nat) (l : Nat) :
    Keeps K sA (State.setSec s p st l) := by
  unfold State.setSec
  repeat' first
    | with_reducible assumption
    | with_reducible apply State.p_keeps hK
    | with_reducible apply State.pi_keeps hK
    | decide

theorem State.countFree_keeps {K : Nat → Bool} (hK : Quiet K) {sA : State} {s : State} (hI : Keeps K sA s) :
    Keeps K sA (State.countFree s) := by
  unfold State.countFree
  repeat' first
    | with_reducible assumption
    | with_reducible apply State.p_keeps hK
    | decide

theorem State.nextTransfer_keeps {K : Nat → Bool} (hK : Quiet K) {sA : State} {s : State} (hI : Keeps K sA s) :
    Keeps K sA (State.nextTransfer s) := by
  unfold State.nextTransfer
  repeat' first
    | with_reducible assumption
    | (extract_lets +onlyGivenNames x; have hx : Keeps K sA x := (by
        unfold x
        repeat' first
          | with_reducible assumption
          | with_reducible apply State.countFree_keeps hK
          | with_reducible apply State.drew_keeps hK
          | with_reducible apply State.p_keeps hK
          | with_reducible apply State.setSec_keeps hK
          | with_reducible refine keeps_mk (by with_reducible assumption)
          | dsimp only
          | split
          | (clear_value *; split)); try clear_value x)
    | extract_lets +onlyGivenNames _
    | with_reducible apply State.countFree_keeps hK
    | with_reducible apply State.drew_keeps hK
    | with_reducible apply State.p_keeps hK
    | with_reducible apply State.setSec_keeps hK
    | with_reducible refine keeps_mk (by with_reducible assumption)
    | split
    | (clear_value *; split)

theorem State.nextSave_keeps {K : Nat → Bool} (hK : Quiet K) {sA : State} {s : State} (hI : Keeps K sA s) :
    Keeps K sA (State.nextSave s) := by
  unfold State.nextSave
  repeat' first
    | with_reducible assumption
    | (extract_lets +onlyGivenNames x; have hx : Keeps K sA x := (by
        unfold x
        repeat' first
          | with_reducible assumption
          | with_reducible apply State.countFree_keeps hK
          | with_reducible apply State.drew_keeps hK
          | with_reducible apply State.incW_keeps hK
          | with_reducible apply State.p_keeps hK
          | with_reducible apply State.setSec_keeps hK
          | with_reducible refine keeps_mk (by with_reducible assumption)
          | dsimp only
          | split
          | (clear_value *; split)
          | decide); try clear_value x)
    | extract_lets +onlyGivenNames _
    | with_reducible apply State.countFree_keeps hK
    | with_reducible apply State.drew_keeps hK
    | with_reducible apply State.incW_keeps hK
    | with_reducible apply State.p_keeps hK
    | with_reducible apply State.setSec_keeps hK
    | with_reducible refine keeps_mk (by with_reducible assumption)
    | split
    | (clear_value *; split)
    | decide

theorem State.cutTransfer_keeps {K : Nat → Bool} (hK : Quiet K) {sA : State} {s : State} (hI : Keeps K sA s) :
    Keeps K sA (State.cutTransfer s) := by
  unfold State.cutTransfer
  repeat' first
    | with_reducible assumption
    | (extract_lets +onlyGivenNames x; have hx : Keeps K sA x := (by
        unfold x
        repeat' first
          | with_reducible assumption
          | with_reducible apply keeps_ite
          | with_reducible apply State.incW_keeps hK
          | with_reducible apply State.nextTransfer_keeps hK
          | with_reducible apply State.setSec_keeps hK
          | with_reducible refine keeps_mk (by with_reducible assumption)
          | dsimp only
          | split
          | (clear_value *; split)
          | decide); try clear_value x)
    | extract_lets +onlyGivenNames _
    | with_reducible apply keeps_ite
    | with_reducible apply State.incW_keeps hK
    | with_reducible apply State.nextTransfer_keeps hK
    | with_reducible apply State.setSec_keeps hK
    | with_reducible refine keeps_mk (by with_reducible assumption)
    | split
    | (clear_value *; split)
    | decide

theorem State.scanStore_keeps {K : Nat → Bool} (hK : Quiet K) {sA : State} {s : State} (hI : Keeps K sA s) :
    Keeps K sA (State.scanStore s) := by
  unfold State.scanStore
  repeat' first
    | with_reducible assumption
    | intro a b c
    | intro c
    | with_reducible apply keeps_ite
    | with_reducible apply forAll_keeps
    | with_reducible apply foldl_keeps
    | with_reducible apply foldl_pair_keeps
    | with_reducible apply State.countFree_keeps hK
    | with_reducible apply State.p_keeps hK
    | with_reducible apply State.setSec_keeps hK
    | dsimp only
    | split
    | (clear_value *; split)
    | (refine fld_mem (by assumption) ?_; decide)
    | decide

end Sys2Proof.Machine
end

