-- ==== Sys2Proof/Laws/KeepsReset.lean ====
section
/-! SUPPORT. What every operation of Machine/Reset.lean keeps. -/
namespace Sys2Proof.Machine

theorem State.keepSliceOut_keeps {K : Nat → Bool} (hK : Quiet K) {sA : State} {s : State} (hI : Keeps K sA s) (old : State) (b : Nat) :
    Keeps K sA (State.keepSliceOut s old b) := by
  unfold State.keepSliceOut
  repeat' first
    | with_reducible assumption
    | with_reducible apply State.pi_keeps hK
    | with_reducible refine keeps_mk (by with_reducible assumption)
    | dsimp only
    | split
    | (clear_value *; split)
    | decide

theorem State.keepPins_keeps {K : Nat → Bool} (hK : Quiet K) {sA : State} {s : State} (hI : Keeps K sA s) :
    Keeps K sA (State.keepPins s) := by
  unfold State.keepPins
  repeat' first
    | with_reducible assumption
    | intro a b c
    | intro c
    | with_reducible apply keeps_ite
    | with_reducible apply forAll_keeps
    | with_reducible apply foldl_keeps
    | with_reducible apply foldl_pair_keeps
    | with_reducible apply State.p_keeps hK
    | with_reducible apply State.pi_keeps hK
    | dsimp only
    | split
    | (clear_value *; split)
    | (refine fld_mem (by assumption) ?_; decide)
    | decide

theorem State.resetTo_keeps {sA : State} {s : State} (hI : Keeps noField sA s) (kind : Nat) :
    Keeps noField sA (State.resetTo s kind) := by
  have hK := quiet_no
  unfold State.resetTo
  extract_lets +onlyGivenNames s2
  have hs2 : Keeps noField sA s2 := State.cutTransfer_keeps hK hI
  clear_value s2
  extract_lets +onlyGivenNames warm
  extract_lets +onlyGivenNames r
  extract_lets +onlyGivenNames regs
  extract_lets +onlyGivenNames on
  extract_lets +onlyGivenNames m0
  extract_lets +onlyGivenNames m1
  extract_lets +onlyGivenNames m2
  extract_lets +onlyGivenNames m3
  extract_lets +onlyGivenNames m4
  extract_lets +onlyGivenNames m5
  extract_lets +onlyGivenNames m6
  extract_lets +onlyGivenNames m7
  extract_lets +onlyGivenNames m8
  extract_lets +onlyGivenNames t
  have ht : Keeps noField sA t := by
    unfold t
    refine ⟨⟨mwf_filter _ hs2.1.1, ?_⟩, hs2.2.1, fun _ _ e => absurd (show false = true from e) (by decide)⟩
    show memWf 0 (Mem.cells (if _ then _ else _)) = true
    split
    · exact hs2.1.2
    · exact rfl
  clear_value t
  extract_lets +onlyGivenNames x
  have hx : Keeps noField sA x := State.p_keepsNone (State.p_keepsNone ht _ _) _ _
  clear_value x
  have hy : Keeps noField sA (if x.on R.il_SAFE_STAT_PIN 0 = true then x
      else { x.p R.il_SAFE_STAT_LATCH 1 with slow := { x.slow with safe := true } }) := by
    split
    · exact hx
    · exact keeps_mk (State.p_keepsNone hx _ _)
  have hz : ∀ y, Keeps noField sA y → Keeps noField sA (if warm then forAll (List.range 8)
      (forAll (List.range 24) y.keepPins fun t b => t.keepSliceOut s2 b) (fun t m =>
      if (t.mp m).mig = 1 ∧ (t.mp m).src < 3 then
        t.pi (if (t.mp m).src = 0 then R.mport_SLOT_STAT_A else if (t.mp m).src = 1 then R.mport_SLOT_STAT_B
          else R.mport_SLOT_STAT_C) (m * 32) 0
      else t) else y) := by
    intro y hy
    split
    · apply forAll_keeps
      · intro a b c
        split
        · exact State.pi_keepsNone c _ _ _
        · exact c
      · exact forAll_keeps (fun t n ht => State.keepSliceOut_keeps hK ht _ _) (State.keepPins_keeps hK hy)
    · exact hy
  exact hz _ hy

theorem State.watchdogReset_keeps {sA : State} {s : State} (hI : Keeps noField sA s) :
    Keeps noField sA (State.watchdogReset s) := by
  have hK := quiet_no
  unfold State.watchdogReset
  repeat' first
    | with_reducible assumption
    | with_reducible apply State.resetTo_keeps

end Sys2Proof.Machine
end

