-- ==== Sys2Proof/Laws/KeepsStore.lean ====
section
/-! SUPPORT. What every operation of Machine/Store.lean keeps. -/
namespace Sys2Proof.Machine

theorem State.retPut_keeps {K : Nat → Bool} (hK : Quiet K) {sA : State} {s : State} (hI : Keeps K sA s) (off : Nat) (b : List Byte) :
    Keeps K sA (State.retPut s off b) := by
  unfold State.retPut
  repeat' first
    | with_reducible assumption
    | with_reducible refine keeps_mk (by with_reducible assumption)
    | dsimp only

theorem State.pairRun_keeps {K : Nat → Bool} (hK : Quiet K) {sA : State} {s : State} (hI : Keeps K sA s) (pair : Nat) (b : Bool) :
    Keeps K sA (State.pairRun s pair b) := by
  unfold State.pairRun
  repeat' first
    | with_reducible assumption
    | (extract_lets +onlyGivenNames x; have hx : Keeps K sA x := (by
        unfold x
        repeat' first
          | with_reducible assumption
          | with_reducible apply keeps_ite
          | with_reducible apply State.p_keeps hK
          | with_reducible apply State.writeLog_keeps hK
          | with_reducible refine keeps_mk (by with_reducible assumption)
          | dsimp only
          | split
          | (clear_value *; split)
          | decide); try clear_value x)
    | extract_lets +onlyGivenNames _
    | with_reducible apply keeps_ite
    | with_reducible apply State.p_keeps hK
    | with_reducible apply State.writeLog_keeps hK
    | with_reducible refine keeps_mk (by with_reducible assumption)
    | split
    | (clear_value *; split)
    | decide

theorem State.commandLost_keeps {K : Nat → Bool} (hK : Quiet K) {sA : State} {s : State} (hI : Keeps K sA s) :
    Keeps K sA (State.commandLost s) := by
  unfold State.commandLost
  repeat' first
    | with_reducible assumption
    | with_reducible apply State.probe_keeps hK
    | with_reducible refine keeps_mk (by with_reducible assumption)
    | dsimp only

theorem State.tendingLost_keeps {K : Nat → Bool} (hK : Quiet K) {sA : State} {s : State} (hI : Keeps K sA s) :
    Keeps K sA (State.tendingLost s) := by
  unfold State.tendingLost
  repeat' first
    | with_reducible assumption
    | with_reducible apply State.complete_keeps hK
    | with_reducible refine keeps_mk (by with_reducible assumption)
    | dsimp only
    | split
    | (clear_value *; split)

theorem State.lockstepMismatch_keeps {sA : State} {s : State} (hI : Keeps noField sA s) (pair : Nat) :
    Keeps noField sA (State.lockstepMismatch s pair) := by
  have hK := quiet_no
  unfold State.lockstepMismatch
  repeat' first
    | with_reducible assumption
    | (extract_lets +onlyGivenNames x; have hx : Keeps noField sA x := (by
        unfold x
        repeat' first
          | with_reducible assumption
          | with_reducible apply keeps_ite
          | with_reducible apply State.inc_keepsNone
          | with_reducible apply State.commandLost_keeps hK
          | with_reducible apply State.drew_keeps hK
          | with_reducible apply State.inc_keeps hK
          | with_reducible apply State.pairRun_keeps hK
          | with_reducible apply State.releaseFault_keeps hK
          | with_reducible apply State.retPut_keeps hK
          | with_reducible apply State.tendingLost_keeps hK
          | with_reducible apply State.watchdogReset_keeps
          | with_reducible refine keeps_mk (by with_reducible assumption)
          | dsimp only
          | split
          | (clear_value *; split)
          | decide); try clear_value x)
    | extract_lets +onlyGivenNames _
    | with_reducible apply keeps_ite
    | with_reducible apply State.inc_keepsNone
    | with_reducible apply State.commandLost_keeps hK
    | with_reducible apply State.drew_keeps hK
    | with_reducible apply State.inc_keeps hK
    | with_reducible apply State.pairRun_keeps hK
    | with_reducible apply State.releaseFault_keeps hK
    | with_reducible apply State.retPut_keeps hK
    | with_reducible apply State.tendingLost_keeps hK
    | with_reducible apply State.watchdogReset_keeps
    | with_reducible refine keeps_mk (by with_reducible assumption)
    | split
    | (clear_value *; split)
    | decide

theorem State.pairRestarted_keeps {K : Nat → Bool} (hK : Quiet K) {sA : State} {s : State} (hI : Keeps K sA s) (pair : Nat) :
    Keeps K sA (State.pairRestarted s pair) := by
  unfold State.pairRestarted
  repeat' first
    | with_reducible assumption
    | (extract_lets +onlyGivenNames x; have hx : Keeps K sA x := (by
        unfold x
        repeat' first
          | with_reducible assumption
          | with_reducible apply keeps_ite
          | with_reducible apply State.arriveSlave_keeps hK
          | with_reducible apply State.pairRun_keeps hK
          | with_reducible apply State.writeLog_keeps hK
          | with_reducible refine keeps_mk (by with_reducible assumption)
          | dsimp only
          | split
          | (clear_value *; split)
          | decide); try clear_value x)
    | extract_lets +onlyGivenNames _
    | with_reducible apply keeps_ite
    | with_reducible apply State.arriveSlave_keeps hK
    | with_reducible apply State.pairRun_keeps hK
    | with_reducible apply State.writeLog_keeps hK
    | with_reducible refine keeps_mk (by with_reducible assumption)
    | split
    | (clear_value *; split)
    | decide

theorem State.sramScrub_keeps {sA : State} {s : State} (hI : Keeps noField sA s) (corrected : List Nat) (fatal : Option Nat) :
    Keeps noField sA (State.sramScrub s corrected fatal) := by
  have hK := quiet_no
  unfold State.sramScrub
  repeat' first
    | with_reducible assumption
    | intro a b c
    | with_reducible apply forAll_keeps
    | with_reducible apply State.p_keepsNone
    | with_reducible apply State.inc_keepsNone
    | with_reducible apply State.corrected_keeps hK
    | with_reducible apply State.inc_keeps hK
    | with_reducible apply State.p_keeps hK
    | with_reducible apply State.retPut_keeps hK
    | with_reducible apply State.watchdogReset_keeps
    | with_reducible refine keeps_mk (by with_reducible assumption)
    | dsimp only
    | split
    | (clear_value *; split)
    | decide

theorem State.romRecheck_keeps {sA : State} {s : State} (hI : Keeps noField sA s) (ok : Bool) :
    Keeps noField sA (State.romRecheck s ok) := by
  have hK := quiet_no
  unfold State.romRecheck
  repeat' first
    | with_reducible assumption
    | with_reducible apply keeps_ite
    | with_reducible apply State.watchdogReset_keeps
    | split
    | decide

theorem State.retireOne_keeps {K : Nat → Bool} (hK : Quiet K) {sA : State} {s : State} (hI : Keeps K sA s) (p : Nat) :
    Keeps K sA (State.retireOne s p) := by
  unfold State.retireOne
  repeat' first
    | with_reducible assumption
    | (extract_lets +onlyGivenNames x; have hx : Keeps K sA x := (by
        unfold x
        repeat' first
          | with_reducible assumption
          | with_reducible apply State.event_keeps hK
          | with_reducible apply State.inc_keeps hK
          | with_reducible apply State.p_keeps hK
          | with_reducible apply State.setSec_keeps hK
          | with_reducible refine keeps_mk (by with_reducible assumption)
          | dsimp only
          | decide); try clear_value x)
    | extract_lets +onlyGivenNames _
    | with_reducible apply State.event_keeps hK
    | with_reducible apply State.inc_keeps hK
    | with_reducible apply State.p_keeps hK
    | with_reducible apply State.setSec_keeps hK
    | with_reducible refine keeps_mk (by with_reducible assumption)
    | decide

theorem State.unmap_keeps {K : Nat → Bool} (hK : Quiet K) {sA : State} {s : State} (hI : Keeps K sA s) (l : Nat) :
    Keeps K sA (State.unmap s l) := by
  unfold State.unmap
  repeat' first
    | with_reducible assumption
    | with_reducible apply keeps_ite
    | with_reducible apply State.p_keeps hK
    | with_reducible apply State.retireOne_keeps hK
    | with_reducible apply State.setSec_keeps hK
    | with_reducible refine keeps_mk (by with_reducible assumption)
    | dsimp only
    | split
    | (clear_value *; split)

theorem State.reclaimSector_keeps {K : Nat → Bool} (hK : Quiet K) {sA : State} {s : State} (hI : Keeps K sA s) (l : Nat) :
    Keeps K sA (State.reclaimSector s l) := by
  unfold State.reclaimSector
  repeat' first
    | with_reducible assumption
    | (extract_lets +onlyGivenNames x; have hx : Keeps K sA x := (by
        unfold x
        repeat' first
          | with_reducible assumption
          | with_reducible apply keeps_ite
          | with_reducible apply State.countFree_keeps hK
          | with_reducible apply State.event_keeps hK
          | with_reducible apply State.log_keeps hK
          | with_reducible apply State.p_keeps hK
          | with_reducible apply State.unmap_keeps hK
          | with_reducible refine keeps_mk (by with_reducible assumption)
          | dsimp only
          | split
          | (clear_value *; split)
          | decide); try clear_value x)
    | extract_lets +onlyGivenNames _
    | with_reducible apply keeps_ite
    | with_reducible apply State.countFree_keeps hK
    | with_reducible apply State.event_keeps hK
    | with_reducible apply State.log_keeps hK
    | with_reducible apply State.p_keeps hK
    | with_reducible apply State.unmap_keeps hK
    | with_reducible refine keeps_mk (by with_reducible assumption)
    | split
    | (clear_value *; split)
    | decide

theorem State.storeWorn_keeps {K : Nat → Bool} (hK : Quiet K) {sA : State} {s : State} (hI : Keeps K sA s) :
    Keeps K sA (State.storeWorn s) := by
  unfold State.storeWorn
  repeat' first
    | with_reducible assumption
    | with_reducible apply State.event_keeps hK
    | with_reducible apply State.log_keeps hK
    | with_reducible apply State.p_keeps hK
    | dsimp only
    | decide

theorem State.reclaimFrom_keeps {K : Nat → Bool} (hK : Quiet K) {sA : State} {s : State} (hI : Keeps K sA s) (l : List Nat) :
    Keeps K sA (s.reclaimFrom l) := by
  induction l generalizing s with
  | nil => exact State.storeWorn_keeps hK hI
  | cons f rest ih =>
  unfold State.reclaimFrom
  repeat' first
    | with_reducible assumption
    | with_reducible apply keeps_ite
    | with_reducible apply ih
    | with_reducible apply State.reclaimSector_keeps hK
    | with_reducible apply State.storeWorn_keeps hK
    | dsimp only
    | split
    | (clear_value *; split)

theorem State.reclaim_keeps {K : Nat → Bool} (hK : Quiet K) {sA : State} {s : State} (hI : Keeps K sA s) :
    Keeps K sA (State.reclaim s) := by
  unfold State.reclaim
  repeat' first
    | with_reducible assumption
    | with_reducible apply State.reclaimFrom_keeps hK

theorem State.retireSec_keeps {K : Nat → Bool} (hK : Quiet K) {sA : State} {s : State} (hI : Keeps K sA s) (p : Nat) :
    Keeps K sA (State.retireSec s p) := by
  unfold State.retireSec
  repeat' first
    | with_reducible assumption
    | with_reducible apply keeps_ite
    | with_reducible apply State.countFree_keeps hK
    | with_reducible apply State.p_keeps hK
    | with_reducible apply State.reclaim_keeps hK
    | with_reducible apply State.retireOne_keeps hK
    | dsimp only
    | split
    | (clear_value *; split)

theorem State.freeOld_keeps {K : Nat → Bool} (hK : Quiet K) {sA : State} {s : State} (hI : Keeps K sA s) (old : Option Nat) :
    Keeps K sA (State.freeOld s old) := by
  unfold State.freeOld
  repeat' first
    | with_reducible assumption
    | with_reducible apply keeps_ite
    | with_reducible apply State.countFree_keeps hK
    | with_reducible apply State.p_keeps hK
    | with_reducible apply State.retireSec_keeps hK
    | with_reducible apply State.setSec_keeps hK
    | with_reducible refine keeps_mk (by with_reducible assumption)
    | dsimp only
    | split
    | (clear_value *; split)

theorem State.writeStands_keeps {K : Nat → Bool} (hK : Quiet K) {sA : State} {s : State} (hI : Keeps K sA s) (o : NvmOp) (pulses : Nat) :
    Keeps K sA (State.writeStands s o pulses) := by
  unfold State.writeStands
  repeat' first
    | with_reducible assumption
    | (extract_lets +onlyGivenNames x; have hx : Keeps K sA x := (by
        unfold x
        repeat' first
          | with_reducible assumption
          | with_reducible apply keeps_ite
          | with_reducible apply State.endLong_keeps hK
          | with_reducible apply State.freeOld_keeps hK
          | with_reducible apply State.incW_keeps hK
          | with_reducible apply State.nextTransfer_keeps hK
          | with_reducible apply State.setSec_keeps hK
          | with_reducible refine keeps_mk (by with_reducible assumption)
          | dsimp only
          | split
          | (clear_value *; split)
          | decide); try clear_value x)
    | extract_lets +onlyGivenNames _
    | with_reducible apply keeps_ite
    | with_reducible apply State.endLong_keeps hK
    | with_reducible apply State.freeOld_keeps hK
    | with_reducible apply State.incW_keeps hK
    | with_reducible apply State.nextTransfer_keeps hK
    | with_reducible apply State.setSec_keeps hK
    | with_reducible refine keeps_mk (by with_reducible assumption)
    | split
    | (clear_value *; split)
    | decide

theorem State.nvmDone_keeps {K : Nat → Bool} (hK : Quiet K) {sA : State} {s : State} (hI : Keeps K sA s) (pulses : Nat) (failed : Bool) :
    Keeps K sA (State.nvmDone s pulses failed) := by
  unfold State.nvmDone
  repeat' first
    | with_reducible assumption
    | (extract_lets +onlyGivenNames x; have hx : Keeps K sA x := (by
        unfold x
        repeat' first
          | with_reducible assumption
          | with_reducible apply keeps_ite
          | with_reducible apply State.endLong_keeps hK
          | with_reducible apply State.incW_keeps hK
          | with_reducible apply State.nextTransfer_keeps hK
          | with_reducible apply State.pi_keeps hK
          | with_reducible apply State.retireSec_keeps hK
          | with_reducible apply State.writeStands_keeps hK
          | with_reducible refine keeps_mk (by with_reducible assumption)
          | dsimp only
          | split
          | (clear_value *; split)
          | decide); try clear_value x)
    | extract_lets +onlyGivenNames _
    | with_reducible apply keeps_ite
    | with_reducible apply State.endLong_keeps hK
    | with_reducible apply State.incW_keeps hK
    | with_reducible apply State.nextTransfer_keeps hK
    | with_reducible apply State.pi_keeps hK
    | with_reducible apply State.retireSec_keeps hK
    | with_reducible apply State.writeStands_keeps hK
    | with_reducible refine keeps_mk (by with_reducible assumption)
    | split
    | (clear_value *; split)
    | decide

theorem State.abortWrite_keeps {K : Nat → Bool} (hK : Quiet K) {sA : State} {s : State} (hI : Keeps K sA s) :
    Keeps K sA (State.abortWrite s) := by
  unfold State.abortWrite
  repeat' first
    | with_reducible assumption
    | (extract_lets +onlyGivenNames x; have hx : Keeps K sA x := (by
        unfold x
        repeat' first
          | with_reducible assumption
          | with_reducible apply keeps_ite
          | with_reducible apply State.cutTransfer_keeps hK
          | with_reducible apply State.sess_keeps hK
          | with_reducible refine keeps_mk (by with_reducible assumption)
          | dsimp only
          | split
          | (clear_value *; split)); try clear_value x)
    | extract_lets +onlyGivenNames _
    | with_reducible apply keeps_ite
    | with_reducible apply State.cutTransfer_keeps hK
    | with_reducible apply State.sess_keeps hK
    | with_reducible refine keeps_mk (by with_reducible assumption)
    | split
    | (clear_value *; split)

theorem State.queueOp_keeps {K : Nat → Bool} (hK : Quiet K) {sA : State} {s : State} (hI : Keeps K sA s) (o : NvmOp) :
    Keeps K sA (State.queueOp s o) := by
  unfold State.queueOp
  repeat' first
    | with_reducible assumption
    | with_reducible apply keeps_ite
    | with_reducible refine keeps_mk (by with_reducible assumption)
    | dsimp only
    | split
    | (clear_value *; split)

theorem State.ageSnapshot_keeps {K : Nat → Bool} (hK : Quiet K) {sA : State} {s : State} (hI : Keeps K sA s) (snap : List Byte) :
    Keeps K sA (State.ageSnapshot s snap) := by
  unfold State.ageSnapshot
  repeat' first
    | with_reducible assumption
    | with_reducible apply keeps_ite
    | with_reducible apply State.queueOp_keeps hK
    | with_reducible refine keeps_mk (by with_reducible assumption)
    | dsimp only
    | split
    | (clear_value *; split)
    | decide

theorem State.nvmRead_keeps {K : Nat → Bool} (hK : Quiet K) {sA : State} {s : State} (hI : Keeps K sA s) (area : Nat) (offset : Nat) (len : Nat) :
    Keeps K sA (State.nvmRead s area offset len).1 := by
  unfold State.nvmRead
  repeat' first
    | with_reducible assumption
    | with_reducible apply keeps_ite
    | dsimp only
    | split
    | (clear_value *; split)

theorem State.nvmRead_keepsE {K : Nat → Bool} (hK : Quiet K) {sA : State} {s : State} (hI : Keeps K sA s) {area : Nat} {offset : Nat} {len : Nat} {tE : State} {rE : Reply} (eE : State.nvmRead s area offset len = (tE, rE)) :
    Keeps K sA tE := by
  have hE := State.nvmRead_keeps hK hI area offset len
  rw [eE] at hE
  exact hE

theorem State.nvmWrite_keeps {K : Nat → Bool} (hK : Quiet K) {sA : State} {s : State} (hI : Keeps K sA s) (h : Hdr) (offset : Nat) (bytes : List Byte) :
    Keeps K sA (State.nvmWrite s h offset bytes).1 := by
  unfold State.nvmWrite
  repeat' first
    | with_reducible assumption
    | (extract_lets +onlyGivenNames x; have hx : Keeps K sA x := (by
        unfold x
        repeat' first
          | with_reducible assumption
          | with_reducible apply keeps_ite
          | with_reducible apply State.queueOp_keeps hK
          | with_reducible refine keeps_mk (by with_reducible assumption)
          | dsimp only
          | split
          | (clear_value *; split)
          | decide); try clear_value x)
    | extract_lets +onlyGivenNames _
    | with_reducible apply keeps_ite
    | with_reducible apply State.queueOp_keeps hK
    | with_reducible refine keeps_mk (by with_reducible assumption)
    | split
    | (clear_value *; split)
    | decide

theorem State.nvmWrite_keepsE {K : Nat → Bool} (hK : Quiet K) {sA : State} {s : State} (hI : Keeps K sA s) {h : Hdr} {offset : Nat} {bytes : List Byte} {tE : State} {rE : Reply} (eE : State.nvmWrite s h offset bytes = (tE, rE)) :
    Keeps K sA tE := by
  have hE := State.nvmWrite_keeps hK hI h offset bytes
  rw [eE] at hE
  exact hE

theorem State.logRead_keeps {K : Nat → Bool} (hK : Quiet K) {sA : State} {s : State} (hI : Keeps K sA s) (source : Nat) (max : Nat) (start : Nat) :
    Keeps K sA (State.logRead s source max start).1 := by
  unfold State.logRead
  repeat' first
    | with_reducible assumption
    | with_reducible refine keeps_mk (by with_reducible assumption)
    | dsimp only
    | split
    | (clear_value *; split)

theorem State.logRead_keepsE {K : Nat → Bool} (hK : Quiet K) {sA : State} {s : State} (hI : Keeps K sA s) {source : Nat} {max : Nat} {start : Nat} {tE : State} {rE : Reply} (eE : State.logRead s source max start = (tE, rE)) :
    Keeps K sA tE := by
  have hE := State.logRead_keeps hK hI source max start
  rw [eE] at hE
  exact hE

theorem State.selftest_keeps {K : Nat → Bool} (hK : Quiet K) {sA : State} {s : State} (hI : Keeps K sA s) (h : Hdr) (tests : Word) :
    Keeps K sA (State.selftest s h tests).1 := by
  unfold State.selftest
  repeat' first
    | with_reducible assumption
    | with_reducible apply keeps_ite
    | with_reducible refine keeps_mk (by with_reducible assumption)
    | dsimp only
    | split
    | (clear_value *; split)
    | decide

theorem State.selftest_keepsE {K : Nat → Bool} (hK : Quiet K) {sA : State} {s : State} (hI : Keeps K sA s) {h : Hdr} {tests : Word} {tE : State} {rE : Reply} (eE : State.selftest s h tests = (tE, rE)) :
    Keeps K sA tE := by
  have hE := State.selftest_keeps hK hI h tests
  rw [eE] at hE
  exact hE

theorem State.selftestDone_keeps {K : Nat → Bool} (hK : Quiet K) {sA : State} {s : State} (hI : Keeps K sA s) (failed : Word) :
    Keeps K sA (State.selftestDone s failed) := by
  unfold State.selftestDone
  repeat' first
    | with_reducible assumption
    | with_reducible apply State.endLong_keeps hK

end Sys2Proof.Machine
end

