-- ==== Sys2Proof/Laws/KeepsGraft.lean ====
section
/-! SUPPORT. What every operation of Machine/Graft.lean keeps. -/
namespace Sys2Proof.Machine

theorem State.gr_keeps {K : Nat → Bool} (hK : Quiet K) {sA : State} {s : State} (hI : Keeps K sA s) (f : Graft → Graft) :
    Keeps K sA (State.gr s f) := by
  unfold State.gr
  repeat' first
    | with_reducible assumption
    | with_reducible refine keeps_mk (by with_reducible assumption)
    | dsimp only

theorem State.reEligible_keeps {K : Nat → Bool} (hK : Quiet K) {sA : State} {s : State} (hI : Keeps K sA s) :
    Keeps K sA (State.reEligible s) := by
  unfold State.reEligible
  repeat' first
    | with_reducible assumption
    | with_reducible apply keeps_ite
    | with_reducible apply State.event_keeps hK
    | with_reducible apply State.log_keeps hK
    | with_reducible apply State.p_keeps hK
    | split
    | decide

theorem State.tokenLine_keeps {K : Nat → Bool} (hK : Quiet K) {sA : State} {s : State} (hI : Keeps K sA s) (low : Bool) :
    Keeps K sA (State.tokenLine s low) := by
  unfold State.tokenLine
  repeat' first
    | with_reducible assumption
    | with_reducible apply keeps_ite
    | with_reducible apply State.gr_keeps hK
    | with_reducible refine keeps_mk (by with_reducible assumption)
    | dsimp only
    | split
    | (clear_value *; split)

theorem State.peerEligible_keeps {K : Nat → Bool} (hK : Quiet K) {sA : State} {s : State} (hI : Keeps K sA s) (b : Bool) :
    Keeps K sA (State.peerEligible s b) := by
  unfold State.peerEligible
  repeat' first
    | with_reducible assumption
    | with_reducible apply keeps_ite
    | with_reducible apply State.event_keeps hK
    | with_reducible apply State.log_keeps hK
    | with_reducible apply State.p_keeps hK
    | split
    | decide

theorem State.stopLanes_keeps {K : Nat → Bool} (hK : Quiet K) {sA : State} {s : State} (hI : Keeps K sA s) :
    Keeps K sA (State.stopLanes s) := by
  unfold State.stopLanes
  repeat' first
    | with_reducible assumption
    | intro a b c
    | with_reducible apply keeps_ite
    | with_reducible apply forAll_keeps
    | with_reducible apply State.askTx_keeps hK
    | with_reducible apply State.cutLane_keeps hK
    | with_reducible apply State.setChunks_keeps hK
    | with_reducible apply State.startExits_keeps hK
    | with_reducible refine keeps_mk (by with_reducible assumption)
    | dsimp only
    | split
    | (clear_value *; split)

theorem State.markDead_keeps {K : Nat → Bool} (hK : Quiet K) {sA : State} {s : State} (hI : Keeps K sA s) :
    Keeps K sA (State.markDead s) := by
  unfold State.markDead
  repeat' first
    | with_reducible assumption
    | with_reducible apply keeps_ite
    | with_reducible apply State.sl_keeps hK
    | with_reducible refine keeps_mk (by with_reducible assumption)
    | dsimp only
    | split
    | (clear_value *; split)

theorem State.countSent_keeps {K : Nat → Bool} (hK : Quiet K) {sA : State} {s : State} (hI : Keeps K sA s) :
    Keeps K sA (State.countSent s) := by
  unfold State.countSent
  repeat' first
    | with_reducible assumption
    | with_reducible apply keeps_ite
    | with_reducible refine keeps_mk (by with_reducible assumption)
    | dsimp only
    | split
    | (clear_value *; split)

theorem State.becomeStandby_keeps {K : Nat → Bool} (hK : Quiet K) {sA : State} {s : State} (hI : Keeps K sA s) :
    Keeps K sA (State.becomeStandby s) := by
  unfold State.becomeStandby
  repeat' first
    | with_reducible assumption
    | (extract_lets +onlyGivenNames x; have hx : Keeps K sA x := (by
        unfold x
        repeat' first
          | with_reducible assumption
          | with_reducible apply keeps_ite
          | with_reducible apply State.countSent_keeps hK
          | with_reducible apply State.exciteFrom_keeps hK
          | with_reducible apply State.gr_keeps hK
          | with_reducible apply State.ilAllFault_keeps hK
          | with_reducible apply State.markDead_keeps hK
          | with_reducible apply State.p_keeps hK
          | with_reducible apply State.sl_keeps hK
          | with_reducible apply State.stopLanes_keeps hK
          | with_reducible refine keeps_mk (by with_reducible assumption)
          | dsimp only
          | split
          | (clear_value *; split)
          | decide); try clear_value x)
    | extract_lets +onlyGivenNames _
    | with_reducible apply keeps_ite
    | with_reducible apply State.countSent_keeps hK
    | with_reducible apply State.exciteFrom_keeps hK
    | with_reducible apply State.gr_keeps hK
    | with_reducible apply State.ilAllFault_keeps hK
    | with_reducible apply State.markDead_keeps hK
    | with_reducible apply State.p_keeps hK
    | with_reducible apply State.sl_keeps hK
    | with_reducible apply State.stopLanes_keeps hK
    | with_reducible refine keeps_mk (by with_reducible assumption)
    | split
    | (clear_value *; split)
    | decide

theorem State.releaseToken_keeps {K : Nat → Bool} (hK : Quiet K) {sA : State} {s : State} (hI : Keeps K sA s) (cause : Nat) :
    Keeps K sA (State.releaseToken s cause) := by
  unfold State.releaseToken
  repeat' first
    | with_reducible assumption
    | with_reducible apply keeps_ite
    | with_reducible apply State.becomeStandby_keeps hK
    | with_reducible apply State.event_keeps hK
    | with_reducible apply State.gr_keeps hK
    | with_reducible apply State.incW_keeps hK
    | with_reducible apply State.log_keeps hK
    | with_reducible apply State.p_keeps hK
    | with_reducible apply State.peerEligible_keeps hK
    | with_reducible apply State.reEligible_keeps hK
    | with_reducible refine keeps_mk (by with_reducible assumption)
    | dsimp only
    | split
    | (clear_value *; split)
    | decide

theorem State.graftRelease_keeps {K : Nat → Bool} (hK : Quiet K) {sA : State} {s : State} (hI : Keeps K sA s) :
    Keeps K sA (State.graftRelease s) := by
  unfold State.graftRelease
  repeat' first
    | with_reducible assumption
    | with_reducible apply keeps_ite
    | with_reducible apply State.releaseToken_keeps hK
    | with_reducible refine keeps_mk (by with_reducible assumption)
    | dsimp only
    | split
    | (clear_value *; split)

theorem State.markEpoch_keeps {K : Nat → Bool} (hK : Quiet K) {sA : State} {s : State} (hI : Keeps K sA s) :
    Keeps K sA (State.markEpoch s) := by
  unfold State.markEpoch
  repeat' first
    | with_reducible assumption
    | (extract_lets +onlyGivenNames x; have hx : Keeps K sA x := (by
        unfold x
        repeat' first
          | with_reducible assumption
          | intro a b c
          | with_reducible apply forAll_keeps
          | with_reducible apply State.furrow_keeps hK
          | with_reducible apply State.p_keeps hK
          | with_reducible refine keeps_mk (by with_reducible assumption)
          | dsimp only
          | decide); try clear_value x)
    | extract_lets +onlyGivenNames _
    | intro a b c
    | with_reducible apply forAll_keeps
    | with_reducible apply State.furrow_keeps hK
    | with_reducible apply State.p_keeps hK
    | with_reducible refine keeps_mk (by with_reducible assumption)
    | decide

theorem State.seizeToken_keeps {K : Nat → Bool} (hK : Quiet K) {sA : State} {s : State} (hI : Keeps K sA s) :
    Keeps K sA (State.seizeToken s) := by
  unfold State.seizeToken
  repeat' first
    | with_reducible assumption
    | intro a b c
    | with_reducible apply forAll_keeps
    | with_reducible apply State.armTake_keeps hK
    | with_reducible apply State.closeSeg_keeps hK
    | with_reducible apply State.event_keeps hK
    | with_reducible apply State.gr_keeps hK
    | with_reducible apply State.ilAllFault_keeps hK
    | with_reducible apply State.incW_keeps hK
    | with_reducible apply State.lightMask_keeps hK
    | with_reducible apply State.log_keeps hK
    | with_reducible apply State.markEpoch_keeps hK
    | with_reducible apply State.p_keeps hK
    | with_reducible apply State.reEligible_keeps hK
    | with_reducible refine keeps_mk (by with_reducible assumption)
    | dsimp only
    | decide

theorem State.graftTakeover_keeps {K : Nat → Bool} (hK : Quiet K) {sA : State} {s : State} (hI : Keeps K sA s) :
    Keeps K sA (State.graftTakeover s) := by
  unfold State.graftTakeover
  repeat' first
    | with_reducible assumption
    | with_reducible apply keeps_ite
    | with_reducible apply State.seizeToken_keeps hK
    | split

theorem State.tokenSeen_keeps {K : Nat → Bool} (hK : Quiet K) {sA : State} {s : State} (hI : Keeps K sA s) (early : Bool) (peer : Bool) :
    Keeps K sA (State.tokenSeen s early peer) := by
  unfold State.tokenSeen
  repeat' first
    | with_reducible assumption
    | with_reducible apply keeps_ite
    | with_reducible apply State.gr_keeps hK
    | with_reducible apply State.p_keeps hK
    | with_reducible apply State.reEligible_keeps hK
    | with_reducible refine keeps_mk (by with_reducible assumption)
    | dsimp only
    | split
    | (clear_value *; split)
    | decide

theorem State.listenEnd_keeps {K : Nat → Bool} (hK : Quiet K) {sA : State} {s : State} (hI : Keeps K sA s) (heard : Bool) :
    Keeps K sA (State.listenEnd s heard) := by
  unfold State.listenEnd
  repeat' first
    | with_reducible assumption
    | with_reducible apply keeps_ite
    | with_reducible apply State.gr_keeps hK
    | with_reducible apply State.releaseToken_keeps hK
    | with_reducible refine keeps_mk (by with_reducible assumption)
    | dsimp only
    | split
    | (clear_value *; split)

theorem State.catchUpDone_keeps {K : Nat → Bool} (hK : Quiet K) {sA : State} {s : State} (hI : Keeps K sA s) :
    Keeps K sA (State.catchUpDone s) := by
  unfold State.catchUpDone
  repeat' first
    | with_reducible assumption
    | with_reducible apply keeps_ite
    | with_reducible apply State.p_keeps hK
    | split
    | decide

theorem State.intervalStart_keeps {K : Nat → Bool} (hK : Quiet K) {sA : State} {s : State} (hI : Keeps K sA s) :
    Keeps K sA (State.intervalStart s) := by
  unfold State.intervalStart
  repeat' first
    | with_reducible assumption
    | with_reducible apply keeps_ite
    | with_reducible apply State.gr_keeps hK
    | with_reducible apply State.inc_keeps hK
    | with_reducible apply State.p_keeps hK
    | with_reducible apply State.peerEligible_keeps hK
    | with_reducible apply State.reEligible_keeps hK
    | with_reducible refine keeps_mk (by with_reducible assumption)
    | dsimp only
    | split
    | (clear_value *; split)
    | unfold id
    | decide

theorem State.graftSend_keeps {K : Nat → Bool} (hK : Quiet K) {sA : State} {s : State} (hI : Keeps K sA s) (frame : List Byte) :
    Keeps K sA (State.graftSend s frame) := by
  unfold State.graftSend
  repeat' first
    | with_reducible assumption
    | with_reducible apply State.emit_keeps hK

theorem State.syncSend_keeps {K : Nat → Bool} (hK : Quiet K) {sA : State} {s : State} (hI : Keeps K sA s) :
    Keeps K sA (State.syncSend s) := by
  unfold State.syncSend
  repeat' first
    | with_reducible assumption
    | with_reducible apply keeps_ite
    | with_reducible apply State.gr_keeps hK
    | with_reducible apply State.graftSend_keeps hK
    | with_reducible refine keeps_mk (by with_reducible assumption)
    | dsimp only
    | split
    | (clear_value *; split)

theorem State.compareEntry_keeps {K : Nat → Bool} (hK : Quiet K) {sA : State} {s : State} (hI : Keeps K sA s) (f : Nat) (wr : Nat) :
    Keeps K sA (State.compareEntry s f wr) := by
  unfold State.compareEntry
  repeat' first
    | with_reducible assumption
    | with_reducible apply keeps_ite
    | with_reducible apply State.furrow_keeps hK
    | with_reducible apply State.gr_keeps hK
    | with_reducible apply State.inc_keeps hK
    | with_reducible refine keeps_mk (by with_reducible assumption)
    | dsimp only
    | split
    | (clear_value *; split)
    | decide

theorem State.followSafe_keeps {K : Nat → Bool} (hK : Quiet K) {sA : State} {s : State} (hI : Keeps K sA s) (safe : Bool) :
    Keeps K sA (State.followSafe s safe) := by
  unfold State.followSafe
  repeat' first
    | with_reducible assumption
    | with_reducible apply keeps_ite
    | with_reducible apply State.p_keeps hK
    | with_reducible apply State.setSafe_keeps hK
    | with_reducible refine keeps_mk (by with_reducible assumption)
    | dsimp only
    | split
    | (clear_value *; split)
    | decide

theorem State.syncGood_keeps {K : Nat → Bool} (hK : Quiet K) {sA : State} {s : State} (hI : Keeps K sA s) (b : List Byte) :
    Keeps K sA (State.syncGood s b) := by
  unfold State.syncGood
  repeat' first
    | with_reducible assumption
    | intro a b c
    | with_reducible apply forAll_keeps
    | with_reducible apply State.compareEntry_keeps hK
    | with_reducible apply State.followSafe_keeps hK
    | with_reducible apply State.gr_keeps hK
    | with_reducible apply State.p_keeps hK
    | with_reducible apply State.reEligible_keeps hK
    | with_reducible refine keeps_mk (by with_reducible assumption)
    | dsimp only
    | decide

theorem State.syncRx_keeps {K : Nat → Bool} (hK : Quiet K) {sA : State} {s : State} (hI : Keeps K sA s) (b : List Byte) (crc : Word) (onTime : Bool) :
    Keeps K sA (State.syncRx s b crc onTime) := by
  unfold State.syncRx
  repeat' first
    | with_reducible assumption
    | with_reducible apply keeps_ite
    | with_reducible apply State.gr_keeps hK
    | with_reducible apply State.inc_keeps hK
    | with_reducible apply State.releaseToken_keeps hK
    | with_reducible apply State.syncGood_keeps hK
    | with_reducible apply State.tr_keeps hK
    | with_reducible refine keeps_mk (by with_reducible assumption)
    | dsimp only
    | split
    | (clear_value *; split)
    | decide

theorem State.replySend_keeps {K : Nat → Bool} (hK : Quiet K) {sA : State} {s : State} (hI : Keeps K sA s) :
    Keeps K sA (State.replySend s) := by
  unfold State.replySend
  repeat' first
    | with_reducible assumption
    | with_reducible apply keeps_ite
    | with_reducible apply State.gr_keeps hK
    | with_reducible apply State.graftSend_keeps hK
    | with_reducible refine keeps_mk (by with_reducible assumption)
    | dsimp only
    | split
    | (clear_value *; split)
    | decide

theorem State.replyRx_keeps {K : Nat → Bool} (hK : Quiet K) {sA : State} {s : State} (hI : Keeps K sA s) (b : List Byte) (crc : Word) :
    Keeps K sA (State.replyRx s b crc) := by
  unfold State.replyRx
  repeat' first
    | with_reducible assumption
    | with_reducible apply keeps_ite
    | with_reducible apply State.gr_keeps hK
    | with_reducible apply State.inc_keeps hK
    | with_reducible apply State.peerEligible_keeps hK
    | with_reducible refine keeps_mk (by with_reducible assumption)
    | dsimp only
    | split
    | (clear_value *; split)
    | decide

theorem State.graftArm_keeps {K : Nat → Bool} (hK : Quiet K) {sA : State} {s : State} (hI : Keeps K sA s) (pref : Nat) (peer : Nat) :
    Keeps K sA (State.graftArm s pref peer).1 := by
  unfold State.graftArm
  repeat' first
    | with_reducible assumption
    | with_reducible apply keeps_ite
    | with_reducible apply State.armTake_keeps hK
    | with_reducible apply State.becomeStandby_keeps hK
    | with_reducible apply State.gr_keeps hK
    | with_reducible apply State.p_keeps hK
    | with_reducible apply State.peerEligible_keeps hK
    | with_reducible apply State.reEligible_keeps hK
    | with_reducible refine keeps_mk (by with_reducible assumption)
    | dsimp only
    | split
    | (clear_value *; split)
    | decide

theorem State.graftArm_keepsE {K : Nat → Bool} (hK : Quiet K) {sA : State} {s : State} (hI : Keeps K sA s) {pref : Nat} {peer : Nat} {tE : State} {rE : Reply} (eE : State.graftArm s pref peer = (tE, rE)) :
    Keeps K sA tE := by
  have hE := State.graftArm_keeps hK hI pref peer
  rw [eE] at hE
  exact hE

theorem State.armTake_keeps {K : Nat → Bool} (hK : Quiet K) {sA : State} {s : State} (hI : Keeps K sA s) :
    Keeps K sA (State.armTake s) := by
  unfold State.armTake
  repeat' first
    | with_reducible assumption
    | with_reducible apply keeps_ite
    | with_reducible apply State.gr_keeps hK
    | with_reducible apply State.seizeToken_keeps hK
    | with_reducible refine keeps_mk (by with_reducible assumption)
    | dsimp only
    | split
    | (clear_value *; split)

theorem State.graftBoundary_keeps {K : Nat → Bool} (hK : Quiet K) {sA : State} {s : State} (hI : Keeps K sA s) :
    Keeps K sA (State.graftBoundary s) := by
  unfold State.graftBoundary
  repeat' first
    | with_reducible assumption
    | with_reducible apply keeps_ite
    | with_reducible apply State.armTake_keeps hK
    | with_reducible apply State.intervalStart_keeps hK
    | with_reducible apply State.reEligible_keeps hK
    | split

end Sys2Proof.Machine
end

