-- ==== Sys2Proof/Laws/KeepsTending.lean ====
section
/-! SUPPORT. What every operation of Machine/Tending.lean keeps. -/
namespace Sys2Proof.Machine

theorem State.td_keeps {K : Nat → Bool} (hK : Quiet K) {sA : State} {s : State} (hI : Keeps K sA s) (f : Tend → Tend) :
    Keeps K sA (State.td s f) := by
  unfold State.td
  repeat' first
    | with_reducible assumption
    | with_reducible refine keeps_mk (by with_reducible assumption)
    | dsimp only

theorem State.guardBands_keeps {K : Nat → Bool} (hK : Quiet K) {sA : State} {s : State} (hI : Keeps K sA s) :
    Keeps K sA (State.guardBands s) := by
  unfold State.guardBands
  repeat' first
    | with_reducible assumption
    | intro a b c
    | with_reducible apply forAll_keeps
    | with_reducible apply State.event_keeps hK
    | with_reducible apply State.p_keeps hK
    | with_reducible apply State.td_keeps hK
    | with_reducible apply State.warn_keeps hK
    | with_reducible refine keeps_mk (by with_reducible assumption)
    | dsimp only
    | split
    | (clear_value *; split)
    | decide

theorem State.reloadBlock_keeps {K : Nat → Bool} (hK : Quiet K) {sA : State} {s : State} (hI : Keeps K sA s) (force : Bool) (block : Nat) :
    Keeps K sA (State.reloadBlock s force block) := by
  unfold State.reloadBlock
  repeat' first
    | with_reducible assumption
    | with_reducible apply keeps_ite
    | with_reducible apply State.bed_keeps hK
    | with_reducible apply State.td_keeps hK
    | with_reducible refine keeps_mk (by with_reducible assumption)
    | dsimp only
    | split
    | (clear_value *; split)

theorem State.upset_keeps {K : Nat → Bool} (hK : Quiet K) {sA : State} {s : State} (hI : Keeps K sA s) (b : Nat) :
    Keeps K sA (State.upset s b) := by
  unfold State.upset
  repeat' first
    | with_reducible assumption
    | with_reducible apply State.drew_keeps hK
    | with_reducible apply State.td_keeps hK
    | with_reducible refine keeps_mk (by with_reducible assumption)
    | dsimp only

theorem State.loadTrim_keeps {K : Nat → Bool} (hK : Quiet K) {sA : State} {s : State} (hI : Keeps K sA s) (b : Nat) :
    Keeps K sA (State.loadTrim s b) := by
  unfold State.loadTrim
  repeat' first
    | with_reducible assumption
    | with_reducible apply State.td_keeps hK
    | with_reducible refine keeps_mk (by with_reducible assumption)
    | dsimp only

theorem State.reloadStat_keeps {K : Nat → Bool} (hK : Quiet K) {sA : State} {s : State} (hI : Keeps K sA s) :
    Keeps K sA (State.reloadStat s) := by
  unfold State.reloadStat
  repeat' first
    | with_reducible assumption
    | with_reducible apply State.p_keeps hK
    | with_reducible refine keeps_mk (by with_reducible assumption)
    | dsimp only
    | split
    | (clear_value *; split)
    | decide

theorem State.trimCheck_keeps {K : Nat → Bool} (hK : Quiet K) {sA : State} {s : State} (hI : Keeps K sA s) (struck : List Nat) :
    Keeps K sA (State.trimCheck s struck) := by
  unfold State.trimCheck
  repeat' first
    | with_reducible assumption
    | intro a b c
    | with_reducible apply keeps_ite
    | with_reducible apply forAll_keeps
    | with_reducible apply State.inc_keeps hK
    | with_reducible apply State.log_keeps hK
    | with_reducible apply State.reloadBlock_keeps hK
    | with_reducible apply State.reloadStat_keeps hK
    | with_reducible apply State.upset_keeps hK
    | dsimp only
    | split
    | (clear_value *; split)
    | decide

theorem State.avsGuard_keeps {K : Nat → Bool} (hK : Quiet K) {sA : State} {s : State} (hI : Keeps K sA s) (worst : Nat) :
    Keeps K sA (State.avsGuard s worst) := by
  unfold State.avsGuard
  repeat' first
    | with_reducible assumption
    | with_reducible apply keeps_ite
    | with_reducible apply State.error_keeps hK
    | with_reducible apply State.event_keeps hK
    | with_reducible apply State.p_keeps hK
    | with_reducible apply State.td_keeps hK
    | with_reducible refine keeps_mk (by with_reducible assumption)
    | dsimp only
    | split
    | (clear_value *; split)
    | decide

theorem State.nextFrame_keeps {K : Nat → Bool} (hK : Quiet K) {sA : State} {s : State} (hI : Keeps K sA s) :
    Keeps K sA (State.nextFrame s) := by
  unfold State.nextFrame
  repeat' first
    | with_reducible assumption
    | with_reducible apply State.td_keeps hK
    | with_reducible refine keeps_mk (by with_reducible assumption)
    | dsimp only

theorem State.meters_keeps {K : Nat → Bool} (hK : Quiet K) {sA : State} {s : State} (hI : Keeps K sA s) (m : MonitorIn) :
    Keeps K sA (State.meters s m) := by
  unfold State.meters
  repeat' first
    | with_reducible assumption
    | intro a b c
    | with_reducible apply forAll_keeps
    | with_reducible apply State.p_keeps hK
    | with_reducible apply State.pi_keeps hK
    | with_reducible refine keeps_mk (by with_reducible assumption)
    | dsimp only
    | split
    | (clear_value *; split)
    | decide

theorem State.tendFrame_keeps {K : Nat → Bool} (hK : Quiet K) {sA : State} {s : State} (hI : Keeps K sA s) (m : MonitorIn) :
    Keeps K sA (State.tendFrame s m) := by
  unfold State.tendFrame
  repeat' first
    | with_reducible assumption
    | with_reducible apply keeps_ite
    | with_reducible apply State.avsGuard_keeps hK
    | with_reducible apply State.guardBands_keeps hK
    | with_reducible apply State.hubRec_keeps hK
    | with_reducible apply State.meters_keeps hK
    | with_reducible apply State.nextFrame_keeps hK
    | with_reducible apply State.p_keeps hK
    | with_reducible apply State.td_keeps hK
    | with_reducible apply State.trimCheck_keeps hK
    | with_reducible refine keeps_mk (by with_reducible assumption)
    | dsimp only
    | split
    | (clear_value *; split)
    | decide

theorem State.replan_keeps {K : Nat → Bool} (hK : Quiet K) {sA : State} {s : State} (hI : Keeps K sA s) :
    Keeps K sA (State.replan s) := by
  unfold State.replan
  repeat' first
    | with_reducible assumption
    | intro a b c
    | with_reducible apply keeps_ite
    | with_reducible apply forAll_keeps
    | with_reducible apply State.ageSnapshot_keeps hK
    | with_reducible apply State.drew_keeps hK
    | with_reducible apply State.hubRec_keeps hK
    | with_reducible apply State.incW_keeps hK
    | with_reducible apply State.p_keeps hK
    | with_reducible apply State.pi_keeps hK
    | with_reducible apply State.retPut_keeps hK
    | with_reducible apply State.td_keeps hK
    | with_reducible refine keeps_mk (by with_reducible assumption)
    | with_reducible refine keeps_mkMem (by with_reducible assumption)
    | dsimp only
    | split
    | (clear_value *; split)
    | decide

theorem State.tendingReplan_keeps {K : Nat → Bool} (hK : Quiet K) {sA : State} {s : State} (hI : Keeps K sA s) :
    Keeps K sA (State.tendingReplan s) := by
  unfold State.tendingReplan
  repeat' first
    | with_reducible assumption
    | with_reducible apply keeps_ite
    | with_reducible apply State.replan_keeps hK
    | split

theorem State.setBounds_keeps {K : Nat → Bool} (hK : Quiet K) {sA : State} {s : State} (hI : Keeps K sA s) (l : Nat) (lo : Nat) (hi : Nat) (h1 : Nat) (hn : Nat) :
    Keeps K sA (State.setBounds s l lo hi h1 hn) := by
  unfold State.setBounds
  repeat' first
    | with_reducible assumption
    | with_reducible apply keeps_ite
    | with_reducible apply State.lane_keeps hK
    | with_reducible apply State.pi_keeps hK
    | with_reducible refine keeps_mk (by with_reducible assumption)
    | dsimp only
    | split
    | (clear_value *; split)
    | decide

theorem State.setLaneRetrain_keeps {K : Nat → Bool} (hK : Quiet K) {sA : State} {s : State} (hI : Keeps K sA s) (l : Nat) (v : Nat) :
    Keeps K sA (State.setLaneRetrain s l v) := by
  unfold State.setLaneRetrain
  repeat' first
    | with_reducible assumption
    | with_reducible apply keeps_ite
    | with_reducible apply State.lane_keeps hK
    | with_reducible apply State.pi_keeps hK
    | with_reducible refine keeps_mk (by with_reducible assumption)
    | dsimp only
    | split
    | (clear_value *; split)
    | decide

theorem State.applyPlan_keeps {K : Nat → Bool} (hK : Quiet K) {sA : State} {s : State} (hI : Keeps K sA s) (x : Nat × Nat × Nat) :
    Keeps K sA (State.applyPlan s x) := by
  unfold State.applyPlan
  repeat' first
    | with_reducible assumption
    | with_reducible apply keeps_ite
    | with_reducible apply State.p_keeps hK
    | with_reducible apply State.setBounds_keeps hK
    | with_reducible apply State.setLaneRetrain_keeps hK
    | with_reducible apply State.setRetrain_keeps hK
    | with_reducible refine keeps_mk (by with_reducible assumption)
    | dsimp only
    | split
    | (clear_value *; split)
    | decide

theorem State.pin_keeps {K : Nat → Bool} (hK : Quiet K) {sA : State} {s : State} (hI : Keeps K sA s) (res : Nat) (v : Option Nat) :
    Keeps K sA (State.pin s res v) := by
  unfold State.pin
  repeat' first
    | with_reducible assumption
    | with_reducible apply State.pbit_keeps hK
    | with_reducible apply State.td_keeps hK
    | with_reducible refine keeps_mk (by with_reducible assumption)
    | dsimp only
    | split
    | (clear_value *; split)
    | decide

theorem State.marginEffect_keeps {K : Nat → Bool} (hK : Quiet K) {sA : State} {s : State} (hI : Keeps K sA s) (resource : Nat) (v : Nat) :
    Keeps K sA (State.marginEffect s resource v) := by
  unfold State.marginEffect
  repeat' first
    | with_reducible assumption
    | intro a b c
    | with_reducible apply keeps_ite
    | with_reducible apply forAll_keeps
    | with_reducible apply State.p_keeps hK
    | with_reducible apply State.pbit_keeps hK
    | with_reducible apply State.pin_keeps hK
    | with_reducible apply State.reloadBlock_keeps hK
    | with_reducible apply State.replan_keeps hK
    | with_reducible apply State.setBounds_keeps hK
    | with_reducible apply State.setLaneRetrain_keeps hK
    | with_reducible apply State.setRetrain_keeps hK
    | with_reducible apply State.td_keeps hK
    | with_reducible refine keeps_mk (by with_reducible assumption)
    | dsimp only
    | split
    | (clear_value *; split)
    | decide

theorem State.tendApply_keeps {K : Nat → Bool} (hK : Quiet K) {sA : State} {s : State} (hI : Keeps K sA s) :
    Keeps K sA (State.tendApply s) := by
  unfold State.tendApply
  repeat' first
    | with_reducible assumption
    | intro a b c
    | intro c
    | with_reducible apply keeps_ite
    | with_reducible apply foldl_keeps
    | with_reducible apply foldl_pair_keeps
    | with_reducible apply State.applyPlan_keeps hK
    | with_reducible apply State.p_keeps hK
    | with_reducible apply State.td_keeps hK
    | with_reducible refine keeps_mk (by with_reducible assumption)
    | dsimp only
    | split
    | (clear_value *; split)
    | (refine fld_mem (by assumption) ?_; decide)
    | decide

theorem State.reloadCovered_keeps {K : Nat → Bool} (hK : Quiet K) {sA : State} {s : State} (hI : Keeps K sA s) (handed : List Nat) (b : Nat) :
    Keeps K sA (State.reloadCovered s handed b) := by
  unfold State.reloadCovered
  repeat' first
    | with_reducible assumption
    | with_reducible apply keeps_ite
    | with_reducible apply State.bed_keeps hK
    | with_reducible refine keeps_mk (by with_reducible assumption)
    | dsimp only
    | split
    | (clear_value *; split)

theorem State.reloadPart_keeps {K : Nat → Bool} (hK : Quiet K) {sA : State} {s : State} (hI : Keeps K sA s) :
    Keeps K sA (State.reloadPart s) := by
  unfold State.reloadPart
  repeat' first
    | with_reducible assumption
    | with_reducible apply keeps_ite
    | with_reducible apply State.bed_keeps hK
    | with_reducible apply State.event_keeps hK
    | with_reducible apply State.p_keeps hK
    | with_reducible apply State.warn_keeps hK
    | with_reducible refine keeps_mk (by with_reducible assumption)
    | dsimp only
    | split
    | (clear_value *; split)
    | decide

theorem State.reloadBlocks_keeps {K : Nat → Bool} (hK : Quiet K) {sA : State} {s : State} (hI : Keeps K sA s) :
    Keeps K sA (State.reloadBlocks s) := by
  unfold State.reloadBlocks
  repeat' first
    | with_reducible assumption
    | with_reducible apply State.td_keeps hK
    | with_reducible refine keeps_mk (by with_reducible assumption)
    | dsimp only

theorem State.reloadMod_keeps {K : Nat → Bool} (hK : Quiet K) {sA : State} {s : State} (hI : Keeps K sA s) (m : Nat) :
    Keeps K sA (State.reloadMod s m) := by
  unfold State.reloadMod
  repeat' first
    | with_reducible assumption
    | with_reducible apply keeps_ite
    | with_reducible apply State.td_keeps hK
    | with_reducible refine keeps_mk (by with_reducible assumption)
    | dsimp only
    | split
    | (clear_value *; split)

theorem State.tendWindow_keeps {K : Nat → Bool} (hK : Quiet K) {sA : State} {s : State} (hI : Keeps K sA s) (handed : List Nat) :
    Keeps K sA (State.tendWindow s handed) := by
  unfold State.tendWindow
  repeat' first
    | with_reducible assumption
    | intro a b c
    | with_reducible apply keeps_ite
    | with_reducible apply forAll_keeps
    | with_reducible apply State.reloadBlocks_keeps hK
    | with_reducible apply State.reloadCovered_keeps hK
    | with_reducible apply State.reloadPart_keeps hK
    | with_reducible apply State.reloadStat_keeps hK
    | with_reducible apply State.tendApply_keeps hK
    | split

theorem State.reloadDone_keeps {K : Nat → Bool} (hK : Quiet K) {sA : State} {s : State} (hI : Keeps K sA s) (block : Nat) :
    Keeps K sA (State.reloadDone s block) := by
  unfold State.reloadDone
  repeat' first
    | with_reducible assumption
    | with_reducible apply keeps_ite
    | with_reducible apply State.bed_keeps hK
    | with_reducible apply State.inc_keeps hK
    | with_reducible apply State.loadTrim_keeps hK
    | with_reducible apply State.reloadStat_keeps hK
    | with_reducible apply State.td_keeps hK
    | with_reducible refine keeps_mk (by with_reducible assumption)
    | dsimp only
    | split
    | (clear_value *; split)
    | decide

theorem State.tendingReport_keeps {K : Nat → Bool} (hK : Quiet K) {sA : State} {s : State} (hI : Keeps K sA s) :
    Keeps K sA (State.tendingReport s).1 := by
  unfold State.tendingReport
  repeat' first
    | with_reducible assumption
    | dsimp only
    | decide

theorem State.tendingReport_keepsE {K : Nat → Bool} (hK : Quiet K) {sA : State} {s : State} (hI : Keeps K sA s) {tE : State} {rE : Reply} (eE : State.tendingReport s = (tE, rE)) :
    Keeps K sA tE := by
  have hE := State.tendingReport_keeps hK hI
  rw [eE] at hE
  exact hE

end Sys2Proof.Machine
end

