-- ==== Sys2Proof/Laws/KeepsPower.lean ====
section
/-! SUPPORT. What every operation of Machine/Power.lean keeps. -/
namespace Sys2Proof.Machine

theorem State.pw_keeps {K : Nat → Bool} (hK : Quiet K) {sA : State} {s : State} (hI : Keeps K sA s) (f : Power → Power) :
    Keeps K sA (State.pw s f) := by
  unfold State.pw
  repeat' first
    | with_reducible assumption
    | with_reducible refine keeps_mk (by with_reducible assumption)
    | dsimp only

theorem State.startAdmit_keeps {K : Nat → Bool} (hK : Quiet K) {sA : State} {s : State} (hI : Keeps K sA s) :
    Keeps K sA (State.startAdmit s) := by
  unfold State.startAdmit
  repeat' first
    | with_reducible assumption
    | with_reducible apply keeps_ite
    | with_reducible apply State.p_keeps hK
    | with_reducible apply State.pbit_keeps hK
    | with_reducible apply State.pw_keeps hK
    | with_reducible refine keeps_mk (by with_reducible assumption)
    | dsimp only
    | split
    | (clear_value *; split)
    | decide

theorem State.requestStart_keeps {K : Nat → Bool} (hK : Quiet K) {sA : State} {s : State} (hI : Keeps K sA s) (d : Nat) :
    Keeps K sA (State.requestStart s d) := by
  unfold State.requestStart
  repeat' first
    | with_reducible assumption
    | with_reducible apply keeps_ite
    | with_reducible apply State.p_keeps hK
    | with_reducible apply State.pbit_keeps hK
    | with_reducible apply State.pw_keeps hK
    | with_reducible refine keeps_mk (by with_reducible assumption)
    | dsimp only
    | split
    | (clear_value *; split)
    | unfold id
    | decide

theorem State.stopNow_keeps {K : Nat → Bool} (hK : Quiet K) {sA : State} {s : State} (hI : Keeps K sA s) :
    Keeps K sA (State.stopNow s) := by
  unfold State.stopNow
  repeat' first
    | with_reducible assumption
    | (extract_lets +onlyGivenNames x; have hx : Keeps K sA x := (by
        unfold x
        repeat' first
          | with_reducible assumption
          | intro a b c
          | with_reducible apply keeps_ite
          | with_reducible apply forAll_keeps
          | with_reducible apply State.complete_keeps hK
          | with_reducible apply State.p_keeps hK
          | with_reducible apply State.setChunks_keeps hK
          | with_reducible apply State.stopPorts_keeps hK
          | with_reducible apply State.tx_keeps hK
          | with_reducible refine keeps_mk (by with_reducible assumption)
          | dsimp only
          | split
          | (clear_value *; split)
          | decide); try clear_value x)
    | extract_lets +onlyGivenNames _
    | intro a b c
    | with_reducible apply keeps_ite
    | with_reducible apply forAll_keeps
    | with_reducible apply State.complete_keeps hK
    | with_reducible apply State.p_keeps hK
    | with_reducible apply State.setChunks_keeps hK
    | with_reducible apply State.stopPorts_keeps hK
    | with_reducible apply State.tx_keeps hK
    | with_reducible refine keeps_mk (by with_reducible assumption)
    | split
    | (clear_value *; split)
    | decide

theorem State.memoryOff_keeps {K : Nat → Bool} (hK : Quiet K) {sA : State} {s : State} (hI : Keeps K sA s) (d : Nat) :
    Keeps K sA (State.memoryOff s d) := by
  unfold State.memoryOff
  repeat' first
    | with_reducible assumption
    | intro a b c
    | with_reducible apply forAll_keeps
    | with_reducible apply State.mport_keeps hK
    | with_reducible apply State.p_keeps hK
    | with_reducible apply State.port_keeps hK
    | with_reducible apply State.setRank_keeps hK
    | with_reducible refine keeps_mk (by with_reducible assumption)
    | with_reducible refine keeps_mkMem (by with_reducible assumption)
    | with_reducible refine keeps_mkFilter (by with_reducible assumption)
    | dsimp only

theorem State.domainOff_keeps {K : Nat → Bool} (hK : Quiet K) {sA : State} {s : State} (hI : Keeps K sA s) (d : Nat) :
    Keeps K sA (State.domainOff s d) := by
  unfold State.domainOff
  repeat' first
    | with_reducible assumption
    | intro a b c
    | with_reducible apply keeps_ite
    | with_reducible apply forAll_keeps
    | with_reducible apply State.bed_keeps hK
    | with_reducible apply State.cutLane_keeps hK
    | with_reducible apply State.dropJobs_keeps hK
    | with_reducible apply State.indexReset_keeps hK
    | with_reducible apply State.lanesOff_keeps hK
    | with_reducible apply State.markResends_keeps hK
    | with_reducible apply State.memoryOff_keeps hK
    | with_reducible apply State.p_keeps hK
    | with_reducible apply State.pbit_keeps hK
    | with_reducible apply State.pw_keeps hK
    | with_reducible apply State.setPd_keeps hK
    | with_reducible apply State.slowOff_keeps hK
    | with_reducible apply State.stopNow_keeps hK
    | with_reducible refine keeps_mk (by with_reducible assumption)
    | with_reducible refine keeps_mkMem (by with_reducible assumption)
    | dsimp only
    | split
    | (clear_value *; split)
    | decide

theorem State.domainFault_keeps {sA : State} {s : State} (hI : Keeps noField sA s) (ds : List Nat) :
    Keeps noField sA (State.domainFault s ds) := by
  have hK := quiet_no
  unfold State.domainFault
  repeat' first
    | with_reducible assumption
    | intro a b c
    | with_reducible apply keeps_ite
    | with_reducible apply forAll_keeps
    | with_reducible apply State.pbit_keepsNone
    | with_reducible apply State.domainOff_keeps hK
    | with_reducible apply State.event_keeps hK
    | with_reducible apply State.log_keeps hK
    | with_reducible apply State.pbit_keeps hK
    | with_reducible apply State.releaseToken_keeps hK
    | with_reducible apply State.resetTo_keeps
    | with_reducible apply State.watchdogReset_keeps
    | dsimp only
    | split
    | (clear_value *; split)
    | decide

theorem State.railFault_keeps {sA : State} {s : State} (hI : Keeps noField sA s) (r : Nat) :
    Keeps noField sA (State.railFault s r) := by
  have hK := quiet_no
  unfold State.railFault
  repeat' first
    | with_reducible assumption
    | with_reducible apply keeps_ite
    | with_reducible apply State.pbit_keepsNone
    | with_reducible apply State.domainFault_keeps
    | with_reducible apply State.event_keeps hK
    | with_reducible apply State.log_keeps hK
    | with_reducible apply State.pbit_keeps hK
    | split
    | decide

theorem State.domainOn_keeps {K : Nat → Bool} (hK : Quiet K) {sA : State} {s : State} (hI : Keeps K sA s) (d : Nat) :
    Keeps K sA (State.domainOn s d) := by
  unfold State.domainOn
  repeat' first
    | with_reducible assumption
    | intro a b c
    | with_reducible apply keeps_ite
    | with_reducible apply forAll_keeps
    | with_reducible apply State.bed_keeps hK
    | with_reducible apply State.setPd_keeps hK
    | with_reducible apply State.startScans_keeps hK
    | with_reducible refine keeps_mk (by with_reducible assumption)
    | dsimp only
    | split
    | (clear_value *; split)

theorem State.rampEnd_keeps {sA : State} {s : State} (hI : Keeps noField sA s) (d : Nat) (ok : Bool) :
    Keeps noField sA (State.rampEnd s d ok) := by
  have hK := quiet_no
  unfold State.rampEnd
  repeat' first
    | with_reducible assumption
    | with_reducible apply keeps_ite
    | with_reducible apply State.p_keepsNone
    | with_reducible apply State.pmax_keepsNone
    | with_reducible apply State.domainOn_keeps hK
    | with_reducible apply State.drew_keeps hK
    | with_reducible apply State.p_keeps hK
    | with_reducible apply State.pmax_keeps hK
    | with_reducible apply State.pw_keeps hK
    | with_reducible apply State.railFault_keeps
    | with_reducible refine keeps_mk (by with_reducible assumption)
    | dsimp only
    | split
    | (clear_value *; split)
    | decide

theorem State.pdReqApply_keeps {K : Nat → Bool} (hK : Quiet K) {sA : State} {s : State} (hI : Keeps K sA s) :
    Keeps K sA (State.pdReqApply s) := by
  unfold State.pdReqApply
  repeat' first
    | with_reducible assumption
    | intro a b c
    | with_reducible apply keeps_ite
    | with_reducible apply forAll_keeps
    | with_reducible apply State.domainOff_keeps hK
    | with_reducible apply State.p_keeps hK
    | with_reducible apply State.pw_keeps hK
    | with_reducible apply State.requestStart_keeps hK
    | with_reducible refine keeps_mk (by with_reducible assumption)
    | dsimp only
    | split
    | (clear_value *; split)
    | decide

theorem State.pdReqWrite_keeps {K : Nat → Bool} (hK : Quiet K) {sA : State} {s : State} (hI : Keeps K sA s) (w : Word) :
    Keeps K sA (State.pdReqWrite s w) := by
  unfold State.pdReqWrite
  repeat' first
    | with_reducible assumption
    | intro a b c
    | intro c
    | with_reducible apply keeps_ite
    | with_reducible apply foldl_keeps
    | with_reducible apply foldl_pair_keeps
    | with_reducible apply State.err_keeps hK
    | with_reducible apply State.p_keeps hK
    | with_reducible apply State.pdReqApply_keeps hK
    | with_reducible apply State.pw_keeps hK
    | with_reducible refine keeps_mk (by with_reducible assumption)
    | dsimp only
    | split
    | (clear_value *; split)
    | (refine fld_mem (by assumption) ?_; decide)
    | decide

theorem State.powerFrame_keeps {K : Nat → Bool} (hK : Quiet K) {sA : State} {s : State} (hI : Keeps K sA s) :
    Keeps K sA (State.powerFrame s) := by
  unfold State.powerFrame
  repeat' first
    | with_reducible assumption
    | with_reducible apply State.p_keeps hK
    | with_reducible apply State.pw_keeps hK
    | with_reducible refine keeps_mk (by with_reducible assumption)
    | dsimp only

theorem State.powerEvent_keeps {K : Nat → Bool} (hK : Quiet K) {sA : State} {s : State} (hI : Keeps K sA s) (typ : Nat) (vhold : Nat) (streaming : Bool) :
    Keeps K sA (State.powerEvent s typ vhold streaming) := by
  unfold State.powerEvent
  repeat' first
    | with_reducible assumption
    | with_reducible apply State.abortWrite_keeps hK
    | with_reducible apply State.p_keeps hK
    | with_reducible apply State.pw_keeps hK
    | with_reducible apply State.retPut_keeps hK
    | with_reducible refine keeps_mk (by with_reducible assumption)
    | dsimp only

theorem State.saveLost_keeps {K : Nat → Bool} (hK : Quiet K) {sA : State} {s : State} (hI : Keeps K sA s) :
    Keeps K sA (State.saveLost s) := by
  unfold State.saveLost
  repeat' first
    | with_reducible assumption
    | (extract_lets +onlyGivenNames x; have hx : Keeps K sA x := (by
        unfold x
        repeat' first
          | with_reducible assumption
          | with_reducible apply State.p_keeps hK
          | with_reducible apply State.pw_keeps hK
          | with_reducible refine keeps_mk (by with_reducible assumption)
          | dsimp only); try clear_value x)
    | extract_lets +onlyGivenNames _
    | with_reducible apply State.p_keeps hK
    | with_reducible apply State.pw_keeps hK
    | with_reducible refine keeps_mk (by with_reducible assumption)

theorem State.saveDone_keeps {K : Nat → Bool} (hK : Quiet K) {sA : State} {s : State} (hI : Keeps K sA s) (ok : Bool) :
    Keeps K sA (State.saveDone s ok) := by
  unfold State.saveDone
  repeat' first
    | with_reducible assumption
    | (extract_lets +onlyGivenNames x; have hx : Keeps K sA x := (by
        unfold x
        repeat' first
          | with_reducible assumption
          | with_reducible apply keeps_ite
          | with_reducible apply State.drew_keeps hK
          | with_reducible apply State.freeOld_keeps hK
          | with_reducible apply State.incW_keeps hK
          | with_reducible apply State.nextSave_keeps hK
          | with_reducible apply State.p_keeps hK
          | with_reducible apply State.pi_keeps hK
          | with_reducible apply State.pw_keeps hK
          | with_reducible apply State.retireSec_keeps hK
          | with_reducible apply State.saveLost_keeps hK
          | with_reducible apply State.setSec_keeps hK
          | with_reducible refine keeps_mk (by with_reducible assumption)
          | dsimp only
          | split
          | (clear_value *; split)
          | decide); try clear_value x)
    | extract_lets +onlyGivenNames _
    | with_reducible apply keeps_ite
    | with_reducible apply State.drew_keeps hK
    | with_reducible apply State.freeOld_keeps hK
    | with_reducible apply State.incW_keeps hK
    | with_reducible apply State.nextSave_keeps hK
    | with_reducible apply State.p_keeps hK
    | with_reducible apply State.pi_keeps hK
    | with_reducible apply State.pw_keeps hK
    | with_reducible apply State.retireSec_keeps hK
    | with_reducible apply State.saveLost_keeps hK
    | with_reducible apply State.setSec_keeps hK
    | with_reducible refine keeps_mk (by with_reducible assumption)
    | split
    | (clear_value *; split)
    | decide

theorem State.saveCut_keeps {K : Nat → Bool} (hK : Quiet K) {sA : State} {s : State} (hI : Keeps K sA s) :
    Keeps K sA (State.saveCut s) := by
  unfold State.saveCut
  repeat' first
    | with_reducible assumption
    | (extract_lets +onlyGivenNames x; have hx : Keeps K sA x := (by
        unfold x
        repeat' first
          | with_reducible assumption
          | with_reducible apply keeps_ite
          | with_reducible apply State.nextSave_keeps hK
          | with_reducible apply State.saveLost_keeps hK
          | with_reducible apply State.setSec_keeps hK
          | with_reducible refine keeps_mk (by with_reducible assumption)
          | dsimp only
          | split
          | (clear_value *; split)); try clear_value x)
    | extract_lets +onlyGivenNames _
    | with_reducible apply keeps_ite
    | with_reducible apply State.nextSave_keeps hK
    | with_reducible apply State.saveLost_keeps hK
    | with_reducible apply State.setSec_keeps hK
    | with_reducible refine keeps_mk (by with_reducible assumption)
    | split
    | (clear_value *; split)

theorem State.trip_keeps {sA : State} {s : State} (hI : Keeps noField sA s) (typ : Nat) :
    Keeps noField sA (State.trip s typ) := by
  have hK := quiet_no
  unfold State.trip
  repeat' first
    | with_reducible assumption
    | with_reducible apply keeps_ite
    | with_reducible apply State.p_keepsNone
    | with_reducible apply State.domainFault_keeps
    | with_reducible apply State.drew_keeps hK
    | with_reducible apply State.event_keeps hK
    | with_reducible apply State.p_keeps hK
    | with_reducible apply State.pfail_keeps
    | with_reducible apply State.powerEvent_keeps hK
    | dsimp only
    | split
    | (clear_value *; split)
    | decide

theorem State.ptripAssert_keeps {sA : State} {s : State} (hI : Keeps noField sA s) (lowNs : Nat) (inDead : Bool) :
    Keeps noField sA (State.ptripAssert s lowNs inDead) := by
  have hK := quiet_no
  unfold State.ptripAssert
  repeat' first
    | with_reducible assumption
    | with_reducible apply keeps_ite
    | with_reducible apply State.p_keepsNone
    | with_reducible apply State.inc_keepsNone
    | with_reducible apply State.drew_keeps hK
    | with_reducible apply State.inc_keeps hK
    | with_reducible apply State.p_keeps hK
    | with_reducible apply State.trip_keeps
    | dsimp only
    | split
    | (clear_value *; split)
    | decide

theorem State.converterTrip_keeps {sA : State} {s : State} (hI : Keeps noField sA s) (cause : Nat) :
    Keeps noField sA (State.converterTrip s cause) := by
  have hK := quiet_no
  unfold State.converterTrip
  repeat' first
    | with_reducible assumption
    | with_reducible apply keeps_ite
    | with_reducible apply State.p_keepsNone
    | with_reducible apply State.inc_keepsNone
    | with_reducible apply State.inc_keeps hK
    | with_reducible apply State.p_keeps hK
    | with_reducible apply State.trip_keeps
    | with_reducible refine keeps_mk (by with_reducible assumption)
    | dsimp only
    | split
    | (clear_value *; split)
    | decide

theorem State.ptripRelease_keeps {K : Nat → Bool} (hK : Quiet K) {sA : State} {s : State} (hI : Keeps K sA s) :
    Keeps K sA (State.ptripRelease s) := by
  unfold State.ptripRelease
  repeat' first
    | with_reducible assumption
    | with_reducible apply keeps_ite
    | with_reducible apply State.p_keeps hK
    | with_reducible apply State.pw_keeps hK
    | with_reducible refine keeps_mk (by with_reducible assumption)
    | dsimp only
    | split
    | (clear_value *; split)
    | decide

theorem State.tripClear_keeps {K : Nat → Bool} (hK : Quiet K) {sA : State} (safe : Bool) (power : Bool) (at_ : Nat) {s : State} (hI : Keeps K sA s) :
    Keeps K sA (State.tripClear safe power at_ s).1 := by
  unfold State.tripClear
  repeat' first
    | with_reducible assumption
    | (extract_lets +onlyGivenNames x; have hx : Keeps K sA x := (by
        unfold x
        repeat' first
          | with_reducible assumption
          | with_reducible apply keeps_ite
          | with_reducible apply State.inc_keeps hK
          | with_reducible apply State.p_keeps hK
          | with_reducible refine keeps_mk (by with_reducible assumption)
          | dsimp only
          | split
          | (clear_value *; split)
          | decide); try clear_value x)
    | extract_lets +onlyGivenNames _
    | with_reducible apply keeps_ite
    | with_reducible apply State.inc_keeps hK
    | with_reducible apply State.p_keeps hK
    | with_reducible refine keeps_mk (by with_reducible assumption)
    | split
    | (clear_value *; split)
    | decide

theorem State.tripClear_keepsE {K : Nat → Bool} (hK : Quiet K) {sA : State} {safe : Bool} {power : Bool} {at_ : Nat} {s : State} (hI : Keeps K sA s) {tE : State} {rE : Reply} (eE : State.tripClear safe power at_ s = (tE, rE)) :
    Keeps K sA tE := by
  have hE := State.tripClear_keeps hK safe power at_ hI
  rw [eE] at hE
  exact hE

theorem State.pfail_keeps {sA : State} {s : State} (hI : Keeps noField sA s) (vhold : Nat) :
    Keeps noField sA (State.pfail s vhold) := by
  have hK := quiet_no
  unfold State.pfail
  repeat' first
    | with_reducible assumption
    | with_reducible apply keeps_ite
    | with_reducible apply State.p_keepsNone
    | with_reducible apply State.event_keeps hK
    | with_reducible apply State.p_keeps hK
    | with_reducible apply State.powerEvent_keeps hK
    | with_reducible apply State.pw_keeps hK
    | with_reducible apply State.releaseToken_keeps hK
    | with_reducible apply State.resetTo_keeps
    | with_reducible refine keeps_mk (by with_reducible assumption)
    | dsimp only
    | split
    | (clear_value *; split)
    | decide

theorem State.powerRestore_keeps {sA : State} {s : State} (hI : Keeps noField sA s) :
    Keeps noField sA (State.powerRestore s) := by
  have hK := quiet_no
  unfold State.powerRestore
  repeat' first
    | with_reducible assumption
    | with_reducible apply keeps_ite
    | with_reducible apply State.pfail_keeps
    | with_reducible apply State.resetTo_keeps
    | split

theorem State.powerLoss_keeps {sA : State} {s : State} (hI : Keeps noField sA s) :
    Keeps noField sA (State.powerLoss s) := by
  have hK := quiet_no
  unfold State.powerLoss
  repeat' first
    | with_reducible assumption
    | with_reducible apply keeps_ite
    | with_reducible apply State.p_keepsNone
    | with_reducible apply State.p_keeps hK
    | with_reducible apply State.pw_keeps hK
    | with_reducible apply State.resetTo_keeps
    | with_reducible apply State.saveCut_keeps hK
    | with_reducible refine keeps_mk (by with_reducible assumption)
    | dsimp only
    | split
    | (clear_value *; split)
    | decide

theorem State.vinChange_keeps {K : Nat → Bool} (hK : Quiet K) {sA : State} {s : State} (hI : Keeps K sA s) (a : Nat) (b : Nat) :
    Keeps K sA (State.vinChange s a b) := by
  unfold State.vinChange
  repeat' first
    | with_reducible assumption
    | with_reducible apply keeps_ite
    | with_reducible apply State.drew_keeps hK
    | with_reducible apply State.p_keeps hK
    | dsimp only
    | split
    | (clear_value *; split)
    | decide

theorem State.coldToMain_keeps {K : Nat → Bool} (hK : Quiet K) {sA : State} {s : State} (hI : Keeps K sA s) :
    Keeps K sA (State.coldToMain s) := by
  unfold State.coldToMain
  repeat' first
    | with_reducible assumption
    | with_reducible apply keeps_ite
    | with_reducible apply State.p_keeps hK
    | split
    | decide

theorem State.coldToVbat_keeps {K : Nat → Bool} (hK : Quiet K) {sA : State} {s : State} (hI : Keeps K sA s) :
    Keeps K sA (State.coldToVbat s) := by
  unfold State.coldToVbat
  repeat' first
    | with_reducible assumption
    | with_reducible apply keeps_ite
    | with_reducible apply State.p_keeps hK
    | split
    | decide

theorem State.vbat_keeps {K : Nat → Bool} (hK : Quiet K) {sA : State} {s : State} (hI : Keeps K sA s) (mv : Nat) :
    Keeps K sA (State.vbat s mv) := by
  unfold State.vbat
  repeat' first
    | with_reducible assumption
    | with_reducible apply keeps_ite
    | with_reducible apply State.p_keeps hK
    | dsimp only
    | split
    | (clear_value *; split)
    | decide

theorem State.coldTimeSet_keeps {K : Nat → Bool} (hK : Quiet K) {sA : State} {s : State} (hI : Keeps K sA s) :
    Keeps K sA (State.coldTimeSet s) := by
  unfold State.coldTimeSet
  repeat' first
    | with_reducible assumption
    | with_reducible apply keeps_ite
    | with_reducible apply State.p_keeps hK
    | with_reducible refine keeps_mk (by with_reducible assumption)
    | dsimp only
    | split
    | (clear_value *; split)
    | decide

end Sys2Proof.Machine
end

