-- ==== Sys2Proof/Laws/KeepsCommit.lean ====
section
/-! SUPPORT. What every operation of Machine/Commit.lean keeps. -/
namespace Sys2Proof.Machine

theorem State.countShed_keeps {K : Nat → Bool} (hK : Quiet K) {sA : State} {s : State} (hI : Keeps K sA s) :
    Keeps K sA (State.countShed s) := by
  unfold State.countShed
  repeat' first
    | with_reducible assumption
    | with_reducible apply keeps_ite
    | with_reducible apply State.p_keeps hK
    | dsimp only
    | split
    | (clear_value *; split)
    | decide

theorem State.describe_keeps {K : Nat → Bool} (hK : Quiet K) {sA : State} {s : State} (hI : Keeps K sA s) (l : List Staged) :
    Keeps K sA (State.describe s l) := by
  unfold State.describe
  repeat' first
    | with_reducible assumption
    | intro a b c
    | with_reducible apply keeps_ite
    | with_reducible apply forAll_keeps
    | with_reducible apply State.poke_keeps hK
    | dsimp only
    | split
    | (clear_value *; split)
    | decide

theorem State.changed_keeps {K : Nat → Bool} (hK : Quiet K) {sA : State} {s : State} (hI : Keeps K sA s) (old : NMap) (l : List Staged) :
    Keeps K sA (State.changed s old l) := by
  unfold State.changed
  repeat' first
    | with_reducible assumption
    | intro a b c
    | with_reducible apply keeps_ite
    | with_reducible apply forAll_keeps
    | with_reducible apply State.countShed_keeps hK
    | with_reducible apply State.describe_keeps hK
    | with_reducible apply State.furrow_keeps hK
    | with_reducible apply State.inc_keeps hK
    | with_reducible apply State.kselChange_keeps hK
    | with_reducible apply State.portEnableChanged_keeps hK
    | with_reducible apply State.scheduleCloses_keeps hK
    | with_reducible apply State.settleChannel_keeps hK
    | with_reducible apply State.startFurrow_keeps hK
    | with_reducible apply State.structureChange_keeps hK
    | with_reducible apply State.unseed_keeps hK
    | with_reducible refine keeps_mk (by with_reducible assumption)
    | dsimp only
    | split
    | (clear_value *; split)
    | decide

theorem State.enterMode_keeps {K : Nat → Bool} (hK : Quiet K) {sA : State} {s : State} (hI : Keeps K sA s) (mode : Option Nat) :
    Keeps K sA (State.enterMode s mode) := by
  unfold State.enterMode
  repeat' first
    | with_reducible assumption
    | (extract_lets +onlyGivenNames x; have hx : Keeps K sA x := (by
        unfold x
        repeat' first
          | with_reducible assumption
          | with_reducible apply State.p_keeps hK
          | with_reducible refine keeps_mk (by with_reducible assumption)
          | dsimp only
          | split
          | (clear_value *; split)
          | decide); try clear_value x)
    | extract_lets +onlyGivenNames _
    | with_reducible apply State.p_keeps hK
    | with_reducible refine keeps_mk (by with_reducible assumption)
    | split
    | (clear_value *; split)
    | decide

theorem State.applyCommit_keeps {sA : State} {s : State} (hI : Keeps noField sA s) (l : List Staged) (mode : Option Nat) :
    Keeps noField sA (State.applyCommit s l mode) := by
  have hK := quiet_no
  unfold State.applyCommit
  repeat' first
    | with_reducible assumption
    | intro a b c
    | intro c
    | with_reducible apply foldl_keeps
    | with_reducible apply foldl_pair_keeps
    | with_reducible apply State.p_keepsNone
    | with_reducible apply State.incW_keepsNone
    | with_reducible apply State.changed_keeps hK
    | with_reducible apply State.commitField_keeps
    | with_reducible apply State.enterMode_keeps hK
    | with_reducible apply State.incW_keeps hK
    | with_reducible apply State.p_keeps hK
    | with_reducible apply State.sl_keeps hK
    | with_reducible refine keeps_mk (by with_reducible assumption)
    | dsimp only
    | (refine fld_mem (by assumption) ?_; decide)
    | decide

theorem State.streamBegin_keeps {K : Nat → Bool} (hK : Quiet K) {sA : State} {s : State} (hI : Keeps K sA s) :
    Keeps K sA (State.streamBegin s) := by
  unfold State.streamBegin
  repeat' first
    | with_reducible assumption
    | (extract_lets +onlyGivenNames x; have hx : Keeps K sA x := (by
        unfold x
        repeat' first
          | with_reducible assumption
          | intro a b c
          | with_reducible apply keeps_ite
          | with_reducible apply forAll_keeps
          | with_reducible apply State.activateUplink_keeps hK
          | with_reducible apply State.countShed_keeps hK
          | with_reducible apply State.p_keeps hK
          | with_reducible apply State.pi_keeps hK
          | with_reducible apply State.sl_keeps hK
          | with_reducible apply State.startFurrow_keeps hK
          | with_reducible apply State.startMarks_keeps hK
          | with_reducible apply State.startPorts_keeps hK
          | with_reducible apply State.unseed_keeps hK
          | with_reducible refine keeps_mk (by with_reducible assumption)
          | dsimp only
          | split
          | (clear_value *; split)
          | decide); try clear_value x)
    | extract_lets +onlyGivenNames _
    | intro a b c
    | with_reducible apply keeps_ite
    | with_reducible apply forAll_keeps
    | with_reducible apply State.activateUplink_keeps hK
    | with_reducible apply State.countShed_keeps hK
    | with_reducible apply State.p_keeps hK
    | with_reducible apply State.pi_keeps hK
    | with_reducible apply State.sl_keeps hK
    | with_reducible apply State.startFurrow_keeps hK
    | with_reducible apply State.startMarks_keeps hK
    | with_reducible apply State.startPorts_keeps hK
    | with_reducible apply State.unseed_keeps hK
    | with_reducible refine keeps_mk (by with_reducible assumption)
    | split
    | (clear_value *; split)
    | decide

theorem State.streamEnd_keeps {K : Nat → Bool} (hK : Quiet K) {sA : State} {s : State} (hI : Keeps K sA s) :
    Keeps K sA (State.streamEnd s) := by
  unfold State.streamEnd
  repeat' first
    | with_reducible assumption
    | (extract_lets +onlyGivenNames x; have hx : Keeps K sA x := (by
        unfold x
        repeat' first
          | with_reducible assumption
          | with_reducible apply State.closeAll_keeps hK
          | with_reducible apply State.complete_keeps hK
          | with_reducible apply State.endMarks_keeps hK
          | with_reducible apply State.placeHeld_keeps hK
          | with_reducible apply State.stopPorts_keeps hK
          | with_reducible apply State.writeDescriptors_keeps hK
          | with_reducible refine keeps_mk (by with_reducible assumption)
          | dsimp only); try clear_value x)
    | extract_lets +onlyGivenNames _
    | with_reducible apply State.closeAll_keeps hK
    | with_reducible apply State.complete_keeps hK
    | with_reducible apply State.endMarks_keeps hK
    | with_reducible apply State.placeHeld_keeps hK
    | with_reducible apply State.stopPorts_keeps hK
    | with_reducible apply State.writeDescriptors_keeps hK
    | with_reducible refine keeps_mk (by with_reducible assumption)

theorem State.await_keeps {K : Nat → Bool} (hK : Quiet K) {sA : State} {s : State} (hI : Keeps K sA s) (act : Action) (opcode : Nat) (h : Option Hdr) (orbit : Nat) (snap : List Staged) (mode : Option Nat) :
    Keeps K sA (State.await s act opcode h orbit snap mode) := by
  unfold State.await
  repeat' first
    | with_reducible assumption
    | with_reducible refine keeps_mk (by with_reducible assumption)
    | dsimp only

theorem State.commitRequest_keeps {sA : State} {s : State} (hI : Keeps noField sA s) (h : Option Hdr) (opcode : Nat) (l : List Staged) (mode : Option Nat) (orbit : Nat) (named : Bool) (take : State → State) (htake : ∀ (a0 : State), Keeps noField sA a0 → Keeps noField sA (take a0)) :
    Keeps noField sA (State.commitRequest s h opcode l mode orbit named take).1 := by
  have hK := quiet_no
  unfold State.commitRequest
  repeat' first
    | with_reducible assumption
    | with_reducible apply keeps_ite
    | with_reducible apply keeps_ite_pair
    | with_reducible apply htake
    | with_reducible apply State.applyCommit_keeps
    | with_reducible apply State.await_keeps hK
    | with_reducible apply State.runBudget_keeps hK
    | (with_reducible refine State.runBudget_keepsE hK ?_ (by assumption))
    | with_reducible refine keeps_mk (by with_reducible assumption)
    | dsimp only
    | split
    | (clear_value *; split)
    | decide

theorem State.commitRequest_keepsE {sA : State} {s : State} (hI : Keeps noField sA s) {h : Option Hdr} {opcode : Nat} {l : List Staged} {mode : Option Nat} {orbit : Nat} {named : Bool} {take : State → State} (htake : ∀ (a0 : State), Keeps noField sA a0 → Keeps noField sA (take a0)) {tE : State} {rE : Reply} (eE : State.commitRequest s h opcode l mode orbit named take = (tE, rE)) :
    Keeps noField sA tE := by
  have hE := State.commitRequest_keeps hI h opcode l mode orbit named take htake
  rw [eE] at hE
  exact hE

theorem State.takeStaged_keeps {K : Nat → Bool} (hK : Quiet K) {sA : State} {s : State} (hI : Keeps K sA s) :
    Keeps K sA (State.takeStaged s) := by
  unfold State.takeStaged
  repeat' first
    | with_reducible assumption
    | with_reducible refine keeps_mk (by with_reducible assumption)
    | dsimp only

theorem State.overlayCommit_keeps {sA : State} {s : State} (hI : Keeps noField sA s) (h : Hdr) (orbit : Nat) (named : Bool) :
    Keeps noField sA (State.overlayCommit s h orbit named).1 := by
  have hK := quiet_no
  unfold State.overlayCommit
  repeat' first
    | with_reducible assumption
    | (intro a b; try (intro c))
    | with_reducible apply State.takeStaged_keeps hK
    | with_reducible apply State.commitRequest_keeps
    | (with_reducible refine State.commitRequest_keepsE ?_ ?_ (by assumption))
    | dsimp only

theorem State.overlayCommit_keepsE {sA : State} {s : State} (hI : Keeps noField sA s) {h : Hdr} {orbit : Nat} {named : Bool} {tE : State} {rE : Reply} (eE : State.overlayCommit s h orbit named = (tE, rE)) :
    Keeps noField sA tE := by
  have hE := State.overlayCommit_keeps hI h orbit named
  rw [eE] at hE
  exact hE

theorem State.streamStart_keeps {K : Nat → Bool} (hK : Quiet K) {sA : State} {s : State} (hI : Keeps K sA s) (h : Hdr) (orbit : Nat) (named : Bool) :
    Keeps K sA (State.streamStart s h orbit named).1 := by
  unfold State.streamStart
  repeat' first
    | with_reducible assumption
    | with_reducible apply keeps_ite
    | with_reducible apply keeps_ite_pair
    | with_reducible apply State.await_keeps hK
    | with_reducible apply State.runBudget_keeps hK
    | (with_reducible refine State.runBudget_keepsE hK ?_ (by assumption))
    | with_reducible refine keeps_mk (by with_reducible assumption)
    | dsimp only
    | split
    | (clear_value *; split)

theorem State.streamStart_keepsE {K : Nat → Bool} (hK : Quiet K) {sA : State} {s : State} (hI : Keeps K sA s) {h : Hdr} {orbit : Nat} {named : Bool} {tE : State} {rE : Reply} (eE : State.streamStart s h orbit named = (tE, rE)) :
    Keeps K sA tE := by
  have hE := State.streamStart_keeps hK hI h orbit named
  rw [eE] at hE
  exact hE

theorem State.streamStop_keeps {K : Nat → Bool} (hK : Quiet K) {sA : State} {s : State} (hI : Keeps K sA s) (h : Hdr) (orbit : Nat) (named : Bool) :
    Keeps K sA (State.streamStop s h orbit named).1 := by
  unfold State.streamStop
  repeat' first
    | with_reducible assumption
    | with_reducible apply keeps_ite
    | with_reducible apply State.await_keeps hK
    | with_reducible refine keeps_mk (by with_reducible assumption)
    | dsimp only
    | split
    | (clear_value *; split)

theorem State.streamStop_keepsE {K : Nat → Bool} (hK : Quiet K) {sA : State} {s : State} (hI : Keeps K sA s) {h : Hdr} {orbit : Nat} {named : Bool} {tE : State} {rE : Reply} (eE : State.streamStop s h orbit named = (tE, rE)) :
    Keeps K sA tE := by
  have hE := State.streamStop_keeps hK hI h orbit named
  rw [eE] at hE
  exact hE

theorem State.graftDrill_keeps {K : Nat → Bool} (hK : Quiet K) {sA : State} {s : State} (hI : Keeps K sA s) (h : Hdr) :
    Keeps K sA (State.graftDrill s h).1 := by
  unfold State.graftDrill
  repeat' first
    | with_reducible assumption
    | with_reducible apply keeps_ite
    | with_reducible apply State.await_keeps hK
    | with_reducible refine keeps_mk (by with_reducible assumption)
    | dsimp only
    | split
    | (clear_value *; split)
    | decide

theorem State.graftDrill_keepsE {K : Nat → Bool} (hK : Quiet K) {sA : State} {s : State} (hI : Keeps K sA s) {h : Hdr} {tE : State} {rE : Reply} (eE : State.graftDrill s h = (tE, rE)) :
    Keeps K sA tE := by
  have hE := State.graftDrill_keeps hK hI h
  rw [eE] at hE
  exact hE

theorem State.marginApply_keeps {K : Nat → Bool} (hK : Quiet K) {sA : State} {s : State} (hI : Keeps K sA s) (h : Hdr) (resource : Nat) (value : Nat) :
    Keeps K sA (State.marginApply s h resource value).1 := by
  unfold State.marginApply
  repeat' first
    | with_reducible assumption
    | with_reducible apply keeps_ite
    | with_reducible apply State.await_keeps hK
    | with_reducible refine keeps_mk (by with_reducible assumption)
    | dsimp only
    | split
    | (clear_value *; split)

theorem State.marginApply_keepsE {K : Nat → Bool} (hK : Quiet K) {sA : State} {s : State} (hI : Keeps K sA s) {h : Hdr} {resource : Nat} {value : Nat} {tE : State} {rE : Reply} (eE : State.marginApply s h resource value = (tE, rE)) :
    Keeps K sA tE := by
  have hE := State.marginApply_keeps hK hI h resource value
  rw [eE] at hE
  exact hE

theorem State.ackWindow_keeps {sA : State} {s : State} (hI : Keeps noField sA s) (h : Hdr) (us : Nat) :
    Keeps noField sA (State.ackWindow s h us).1 := by
  have hK := quiet_no
  unfold State.ackWindow
  repeat' first
    | with_reducible assumption
    | with_reducible apply keeps_ite
    | with_reducible apply keeps_ite_pair
    | (intro a b; try (intro c))
    | with_reducible apply State.commitRequest_keeps
    | (with_reducible refine State.commitRequest_keepsE ?_ ?_ (by assumption))
    | dsimp only
    | split
    | unfold id
    | decide

theorem State.ackWindow_keepsE {sA : State} {s : State} (hI : Keeps noField sA s) {h : Hdr} {us : Nat} {tE : State} {rE : Reply} (eE : State.ackWindow s h us = (tE, rE)) :
    Keeps noField sA tE := by
  have hE := State.ackWindow_keeps hI h us
  rw [eE] at hE
  exact hE

theorem State.advance_keeps {K : Nat → Bool} (hK : Quiet K) {sA : State} {s : State} (hI : Keeps K sA s) (p : Nat) (off : Nat) :
    Keeps K sA (State.advance s p off) := by
  unfold State.advance
  dsimp only
  repeat' first
    | with_reducible assumption
    | with_reducible apply State.p_keeps hK
    | decide
    | split

theorem State.putRw_keeps {K : Nat → Bool} (hK : Quiet K) {sA : State} {s : State} (hI : Keeps K sA s) (p : Nat) (off : Nat) (w : Nat) :
    Keeps K sA (State.putRw s p off w) := by
  unfold State.putRw
  split
  · exact hI
  · exact foldl_keeps (fun t f hm ht => State.pi_keeps hK ht f
      (fieldsAt_unstaged (List.mem_filter.mp hm).1 (by have := (List.mem_filter.mp hm).2; intro e; rw [e] at this; exact absurd this (by decide))) _ _) hI

theorem State.deltas_keeps {K : Nat → Bool} (hK : Quiet K) {sA : State} {s : State} (hI : Keeps K sA s) (rs : List Run) :
    Keeps K sA (State.deltas s rs).1 := by
  unfold State.deltas
  repeat' first
    | with_reducible assumption
    | intro a b c
    | intro c
    | with_reducible apply keeps_ite
    | with_reducible apply foldl_keeps
    | with_reducible apply foldl_pair_keeps
    | with_reducible apply State.advance_keeps hK
    | with_reducible apply State.p_keeps hK
    | with_reducible apply State.putRw_keeps hK
    | dsimp only
    | split
    | (clear_value *; split)
    | (refine fld_mem (by assumption) ?_; decide)

theorem State.deltas_keepsE {K : Nat → Bool} (hK : Quiet K) {sA : State} {s : State} (hI : Keeps K sA s) {rs : List Run} {tE : State} {rE : List Staged} (eE : State.deltas s rs = (tE, rE)) :
    Keeps K sA tE := by
  have hE := State.deltas_keeps hK hI rs
  rw [eE] at hE
  exact hE

theorem State.overlayValues_keeps {K : Nat → Bool} (hK : Quiet K) {sA : State} {s : State} (hI : Keeps K sA s) (o : Overlay) :
    Keeps K sA (State.overlayValues s o).1 := by
  unfold State.overlayValues
  repeat' first
    | with_reducible assumption
    | intro a b c
    | intro c
    | with_reducible apply foldl_keeps
    | with_reducible apply foldl_pair_keeps
    | with_reducible apply State.deltas_keeps hK
    | (with_reducible refine State.deltas_keepsE hK ?_ (by assumption))
    | dsimp only
    | split
    | (clear_value *; split)
    | (refine fld_mem (by assumption) ?_; decide)

theorem State.overlayValues_keepsE {K : Nat → Bool} (hK : Quiet K) {sA : State} {s : State} (hI : Keeps K sA s) {o : Overlay} {tE : State} {rE : List Staged} (eE : State.overlayValues s o = (tE, rE)) :
    Keeps K sA tE := by
  have hE := State.overlayValues_keeps hK hI o
  rw [eE] at hE
  exact hE

theorem State.modeValues_keeps {K : Nat → Bool} (hK : Quiet K) {sA : State} {s : State} (hI : Keeps K sA s) {mode : Nat} {t : State} {r : List Staged} :
    State.modeValues s mode = some (t, r) → Keeps K sA t := by
  unfold State.modeValues
  intro e
  try dsimp only at e
  split at e
  · cases e
  · split at e
    · exact State.keepHighZ_keepsE hK hI (Option.some.inj e)
    · split at e
      · cases e
      · exact State.keepHighZ_keepsE hK (State.overlayValues_keeps hK hI _) (Option.some.inj e)

theorem State.discardStaged_keeps {K : Nat → Bool} (hK : Quiet K) {sA : State} {s : State} (hI : Keeps K sA s) :
    Keeps K sA (State.discardStaged s) := by
  unfold State.discardStaged
  repeat' first
    | with_reducible assumption
    | with_reducible apply State.takeStaged_keeps hK

theorem State.overlayStage_keeps {K : Nat → Bool} (hK : Quiet K) {sA : State} {s : State} (hI : Keeps K sA s) (h : Hdr) (mode : Nat) :
    Keeps K sA (State.overlayStage s h mode).1 := by
  unfold State.overlayStage
  repeat' first
    | with_reducible assumption
    | (extract_lets +onlyGivenNames x; have hx : Keeps K sA x := (by
        unfold x
        repeat' first
          | with_reducible assumption
          | intro a b c
          | intro c
          | with_reducible apply keeps_ite
          | with_reducible apply foldl_keeps
          | with_reducible apply foldl_pair_keeps
          | with_reducible apply State.discardStaged_keeps hK
          | (with_reducible refine State.modeValues_keeps hK ?_ (by assumption))
          | with_reducible refine keeps_mk (by with_reducible assumption)
          | dsimp only
          | split
          | (clear_value *; split)
          | with_reducible refine keeps_mk (by repeat' first | with_reducible assumption | with_reducible apply State.discardStaged_keeps hK | with_reducible refine State.modeValues_keeps hK ?_ (by assumption) | decide)
          | (refine fld_mem (by assumption) ?_; decide)
          | decide); try clear_value x)
    | extract_lets +onlyGivenNames _
    | intro a b c
    | intro c
    | with_reducible apply keeps_ite
    | with_reducible apply foldl_keeps
    | with_reducible apply foldl_pair_keeps
    | with_reducible apply State.discardStaged_keeps hK
    | (with_reducible refine State.modeValues_keeps hK ?_ (by assumption))
    | with_reducible refine keeps_mk (by with_reducible assumption)
    | dsimp only
    | split
    | (clear_value *; split)
    | with_reducible refine keeps_mk (by repeat' first | with_reducible assumption | with_reducible apply State.discardStaged_keeps hK | with_reducible refine State.modeValues_keeps hK ?_ (by assumption) | decide)
    | (refine fld_mem (by assumption) ?_; decide)
    | decide

theorem State.overlayStage_keepsE {K : Nat → Bool} (hK : Quiet K) {sA : State} {s : State} (hI : Keeps K sA s) {h : Hdr} {mode : Nat} {tE : State} {rE : Reply} (eE : State.overlayStage s h mode = (tE, rE)) :
    Keeps K sA tE := by
  have hE := State.overlayStage_keeps hK hI h mode
  rw [eE] at hE
  exact hE

theorem State.overlayRevert_keeps {sA : State} {s : State} (hI : Keeps noField sA s) (h : Hdr) :
    Keeps noField sA (State.overlayRevert s h).1 := by
  have hK := quiet_no
  unfold State.overlayRevert
  repeat' first
    | with_reducible assumption
    | with_reducible apply keeps_ite
    | with_reducible apply keeps_ite_pair
    | (intro a b; try (intro c))
    | with_reducible apply State.commitRequest_keeps
    | (with_reducible refine State.commitRequest_keepsE ?_ ?_ (by assumption))
    | (with_reducible refine State.modeValues_keeps hK ?_ (by assumption))
    | with_reducible refine keeps_mk (by with_reducible assumption)
    | dsimp only
    | split
    | (clear_value *; split)
    | decide

theorem State.overlayRevert_keepsE {sA : State} {s : State} (hI : Keeps noField sA s) {h : Hdr} {tE : State} {rE : Reply} (eE : State.overlayRevert s h = (tE, rE)) :
    Keeps noField sA tE := by
  have hE := State.overlayRevert_keeps hI h
  rw [eE] at hE
  exact hE

end Sys2Proof.Machine
end

