-- ==== Sys2Proof/Laws/KeepsRegAccess.lean ====
section
/-! SUPPORT. What every operation of Machine/RegAccess.lean keeps. -/
namespace Sys2Proof.Machine

theorem State.latchHi_keeps {K : Nat → Bool} (hK : Quiet K) {sA : State} {s : State} (hI : Keeps K sA s) (addr : Nat) :
    Keeps K sA (State.latchHi s addr) := by
  unfold State.latchHi
  repeat' first
    | with_reducible assumption
    | intro a b c
    | intro c
    | with_reducible apply foldl_keeps
    | with_reducible apply foldl_pair_keeps
    | with_reducible refine keeps_mk (by with_reducible assumption)
    | dsimp only
    | split
    | (clear_value *; split)
    | (refine fld_mem (by assumption) ?_; decide)

theorem State.afterRead_keeps {K : Nat → Bool} (hK : Quiet K) {sA : State} {s : State} (hI : Keeps K sA s) (f : Fld) (hf : stagedBases.contains (Fld.base f) = false) (i : Nat) :
    Keeps K sA (State.afterRead s f i) := by
  unfold State.afterRead
  split
  · exact hI
  split
  · exact State.p_keeps hK hI _ hf _
  split
  · exact State.p_keeps hK hI _ hf _
  split
  · exact State.pcountRead_keeps hK hI _
  · exact State.pi_keeps hK hI _ hf _ _

theorem State.afterRead_fields {K : Nat → Bool} (hK : Quiet K) {sA t : State} (ht : Keeps K sA t) {p off : Nat} {f : Fld}
    (hm : f ∈ fieldsAt p off) (i : Nat) : Keeps K sA (t.afterRead f i) := by
  by_cases h : f.acc = .rws
  · have e : t.afterRead f i = t := by unfold State.afterRead; rw [h]; rfl
    rw [e]; exact ht
  · exact State.afterRead_keeps hK ht f (fieldsAt_unstaged hm h) i

theorem State.readEffects_keeps {K : Nat → Bool} (hK : Quiet K) {sA : State} {s : State} (hI : Keeps K sA s) (p : Nat) (off : Nat) :
    Keeps K sA (State.readEffects s p off) := by
  unfold State.readEffects
  split
  · exact hI
  split
  · exact hI
  rename_i i _
  have hx := foldl_keeps (l := fieldsAt p off) (f := fun s f => State.afterRead s f i)
    (fun t f hm ht => State.afterRead_fields hK ht hm i) hI
  dsimp only
  repeat' first
    | with_reducible assumption
    | with_reducible apply State.p_keeps hK
    | with_reducible apply State.drew_keeps hK
    | decide
    | split

theorem State.readOnce_keeps {K : Nat → Bool} (hK : Quiet K) {sA : State} {s : State} (hI : Keeps K sA s) (addr : Nat) :
    Keeps K sA (State.readOnce s addr).1 := by
  unfold State.readOnce
  repeat' first
    | with_reducible assumption
    | with_reducible apply keeps_ite
    | with_reducible apply keeps_ite_pair
    | with_reducible apply State.latchHi_keeps hK
    | with_reducible apply State.p_keeps hK
    | with_reducible apply State.readEffects_keeps hK
    | with_reducible apply State.hdgRx_keeps hK
    | (with_reducible refine State.hdgRx_keepsE hK ?_ (by assumption))
    | with_reducible apply State.scRx_keeps hK
    | (with_reducible refine State.scRx_keepsE hK ?_ (by assumption))
    | dsimp only
    | split
    | (clear_value *; split)

theorem State.readOnce_keepsE {K : Nat → Bool} (hK : Quiet K) {sA : State} {s : State} (hI : Keeps K sA s) {addr : Nat} {tE : State} {rE : Nat} (eE : State.readOnce s addr = (tE, rE)) :
    Keeps K sA tE := by
  have hE := State.readOnce_keeps hK hI addr
  rw [eE] at hE
  exact hE

theorem State.readWord_keeps {K : Nat → Bool} (hK : Quiet K) {sA : State} {s : State} (hI : Keeps K sA s) (addr : Nat) :
    Keeps K sA (State.readWord s addr).1 := by
  unfold State.readWord
  repeat' first
    | with_reducible assumption
    | with_reducible apply State.advance_keeps hK
    | with_reducible apply State.readOnce_keeps hK
    | (with_reducible refine State.readOnce_keepsE hK ?_ (by assumption))
    | dsimp only
    | split
    | (clear_value *; split)

theorem State.readWord_keepsE {K : Nat → Bool} (hK : Quiet K) {sA : State} {s : State} (hI : Keeps K sA s) {addr : Nat} {tE : State} {rE : Nat} (eE : State.readWord s addr = (tE, rE)) :
    Keeps K sA tE := by
  have hE := State.readWord_keeps hK hI addr
  rw [eE] at hE
  exact hE

theorem State.writeField_keeps {sA : State} {s : State} (hI : Keeps noField sA s) (p : Nat) (off : Nat) (i : Nat) (w : Nat) (f : Fld) :
    Keeps noField sA (State.writeField s p off i w f) := by
  have hK := quiet_no
  unfold State.writeField
  repeat' first
    | with_reducible assumption
    | with_reducible apply keeps_ite
    | with_reducible apply State.pi_keepsNone
    | with_reducible apply State.p_keepsNone
    | with_reducible apply State.err_keeps hK
    | with_reducible apply State.p_keeps hK
    | with_reducible apply State.pi_keeps hK
    | with_reducible refine keeps_mk (by with_reducible assumption)
    | dsimp only
    | split
    | (clear_value *; split)

theorem State.writeCtrl_keeps {sA : State} {s : State} (hI : Keeps noField sA s) (p : Nat) (w : Nat) :
    Keeps noField sA (State.writeCtrl s p w) := by
  have hK := quiet_no
  unfold State.writeCtrl
  repeat' first
    | with_reducible assumption
    | (extract_lets +onlyGivenNames x; have hx : Keeps noField sA x := (by
        unfold x
        repeat' first
          | with_reducible assumption
          | intro a b c
          | intro c
          | with_reducible apply keeps_ite
          | with_reducible apply foldl_keeps
          | with_reducible apply foldl_pair_keeps
          | with_reducible apply State.pi_keepsNone
          | with_reducible apply State.p_keepsNone
          | with_reducible apply State.p_keeps hK
          | with_reducible apply State.pi_keeps hK
          | with_reducible refine keeps_mk (by with_reducible assumption)
          | with_reducible refine keeps_mkRegs (by with_reducible assumption)
          | dsimp only
          | split
          | (clear_value *; split)
          | (refine fld_mem (by assumption) ?_; decide)
          | decide); try clear_value x)
    | extract_lets +onlyGivenNames _
    | intro a b c
    | intro c
    | with_reducible apply keeps_ite
    | with_reducible apply foldl_keeps
    | with_reducible apply foldl_pair_keeps
    | with_reducible apply State.pi_keepsNone
    | with_reducible apply State.p_keepsNone
    | with_reducible apply State.p_keeps hK
    | with_reducible apply State.pi_keeps hK
    | with_reducible refine keeps_mk (by with_reducible assumption)
    | with_reducible refine keeps_mkRegs (by with_reducible assumption)
    | dsimp only
    | split
    | (clear_value *; split)
    | (refine fld_mem (by assumption) ?_; decide)
    | decide

theorem State.writeShadow_keeps {K : Nat → Bool} (hK : Quiet K) {sA : State} {s : State} (hI : Keeps K sA s) (p : Nat) (w : Nat) :
    Keeps K sA (State.writeShadow s p w) := by
  unfold State.writeShadow
  repeat' first
    | with_reducible assumption
    | (extract_lets +onlyGivenNames x; have hx : Keeps K sA x := (by
        unfold x
        repeat' first
          | with_reducible assumption
          | with_reducible apply keeps_ite
          | with_reducible apply State.p_keeps hK
          | with_reducible apply State.pi_keeps hK
          | with_reducible refine keeps_mk (by with_reducible assumption)
          | dsimp only
          | split
          | (clear_value *; split)
          | decide); try clear_value x)
    | extract_lets +onlyGivenNames _
    | with_reducible apply keeps_ite
    | with_reducible apply State.p_keeps hK
    | with_reducible apply State.pi_keeps hK
    | with_reducible refine keeps_mk (by with_reducible assumption)
    | split
    | (clear_value *; split)
    | decide

theorem State.xspiMode_keeps {K : Nat → Bool} (hK : Quiet K) {sA : State} {s : State} (hI : Keeps K sA s) (mode : Nat) :
    Keeps K sA (State.xspiMode s mode) := by
  unfold State.xspiMode
  repeat' first
    | with_reducible assumption
    | (extract_lets +onlyGivenNames x; have hx : Keeps K sA x := (by
        unfold x
        repeat' first
          | with_reducible assumption
          | with_reducible apply keeps_ite
          | with_reducible apply State.p_keeps hK
          | with_reducible refine keeps_mk (by with_reducible assumption)
          | dsimp only
          | split
          | (clear_value *; split)
          | decide); try clear_value x)
    | extract_lets +onlyGivenNames _
    | with_reducible apply keeps_ite
    | with_reducible apply State.p_keeps hK
    | with_reducible refine keeps_mk (by with_reducible assumption)
    | split
    | (clear_value *; split)
    | decide

theorem State.writeMst_keeps {sA : State} {s : State} (hI : Keeps noField sA s) (w : Nat) :
    Keeps noField sA (State.writeMst s w) := by
  have hK := quiet_no
  unfold State.writeMst
  repeat' first
    | with_reducible assumption
    | (extract_lets +onlyGivenNames x; have hx : Keeps noField sA x := (by
        unfold x
        repeat' first
          | with_reducible assumption
          | intro a b c
          | intro c
          | with_reducible apply keeps_ite
          | with_reducible apply foldl_keeps
          | with_reducible apply foldl_pair_keeps
          | with_reducible apply State.p_keepsNone
          | with_reducible apply State.p_keeps hK
          | with_reducible apply State.writeField_keeps
          | with_reducible refine keeps_mk (by with_reducible assumption)
          | dsimp only
          | split
          | (clear_value *; split)
          | (refine fld_mem (by assumption) ?_; decide)
          | decide); try clear_value x)
    | extract_lets +onlyGivenNames _
    | intro a b c
    | intro c
    | with_reducible apply keeps_ite
    | with_reducible apply foldl_keeps
    | with_reducible apply foldl_pair_keeps
    | with_reducible apply State.p_keepsNone
    | with_reducible apply State.p_keeps hK
    | with_reducible apply State.writeField_keeps
    | with_reducible refine keeps_mk (by with_reducible assumption)
    | dsimp only
    | split
    | (clear_value *; split)
    | (refine fld_mem (by assumption) ?_; decide)
    | decide

theorem State.writeWord_keeps {sA : State} {s : State} (hI : Keeps noField sA s) (p : Nat) (off : Nat) (i : Nat) (w : Nat) :
    Keeps noField sA (State.writeWord s p off i w) := by
  have hK := quiet_no
  unfold State.writeWord
  repeat' first
    | with_reducible assumption
    | intro a b c
    | intro c
    | with_reducible apply keeps_ite
    | with_reducible apply foldl_keeps
    | with_reducible apply foldl_pair_keeps
    | with_reducible apply State.p_keepsNone
    | with_reducible apply State.eyeCtrl_keeps hK
    | with_reducible apply State.fcReq_keeps hK
    | with_reducible apply State.hdgTx_keeps hK
    | with_reducible apply State.lane_keeps hK
    | with_reducible apply State.lanePwrReq_keeps hK
    | with_reducible apply State.lineCheckStart_keeps hK
    | with_reducible apply State.mapOrder_keeps hK
    | with_reducible apply State.orbitLoadArm_keeps hK
    | with_reducible apply State.p_keeps hK
    | with_reducible apply State.pdReqWrite_keeps hK
    | with_reducible apply State.ptpPortWritten_keeps hK
    | with_reducible apply State.rearmRequest_keeps hK
    | with_reducible apply State.safeForced_keeps hK
    | with_reducible apply State.scTx_keeps hK
    | with_reducible apply State.writeCtrl_keeps
    | with_reducible apply State.writeField_keeps
    | with_reducible apply State.writeMst_keeps
    | with_reducible apply State.writeShadow_keeps hK
    | with_reducible apply State.xspiMode_keeps hK
    | with_reducible refine keeps_mk (by with_reducible assumption)
    | dsimp only
    | split
    | (clear_value *; split)
    | (refine fld_mem (by assumption) ?_; decide)
    | decide

theorem State.stage_keeps {K : Nat → Bool} (hK : Quiet K) {sA : State} {s : State} (hI : Keeps K sA s) (who : Actor) (l : List Staged) :
    Keeps K sA (State.stage s who l) := by
  unfold State.stage
  repeat' first
    | with_reducible assumption
    | intro a b c
    | intro c
    | with_reducible apply keeps_ite
    | with_reducible apply foldl_keeps
    | with_reducible apply foldl_pair_keeps
    | with_reducible apply State.err_keeps hK
    | with_reducible refine keeps_mk (by with_reducible assumption)
    | dsimp only
    | split
    | (clear_value *; split)
    | (refine fld_mem (by assumption) ?_; decide)
    | decide

theorem Written.write_keeps {sA : State} {x : Written} (hI : Keeps noField sA x.st) (who : Option Actor) (addr : Nat) (w : Nat) :
    Keeps noField sA (x.write who addr w).st := by
  have hK := quiet_no
  unfold Written.write
  dsimp only
  repeat' first
    | with_reducible assumption
    | intro a b c
    | intro c
    | with_reducible apply State.advance_keeps
    | with_reducible apply State.err_keeps hK
    | with_reducible apply State.stage_keeps hK
    | with_reducible apply State.keepHighZ_keeps hK
    | with_reducible apply State.writeWord_keeps
    | with_reducible apply State.pi_keepsNone
    | with_reducible apply keeps_ite
    | with_reducible apply foldl_keeps
    | dsimp only
    | split

theorem State.writeRun_keeps {sA : State} {s : State} (hI : Keeps noField sA s) (who : Actor) (l : List (Nat × Nat)) :
    Keeps noField sA (State.writeRun s who l).1 := by
  have hK := quiet_no
  have hf : ∀ (l : List (Nat × Nat)) (x : Written), Keeps noField sA x.st →
      Keeps noField sA (l.foldl (fun (x : Written) aw => x.write (some who) aw.1 aw.2) x).st := by
    intro l
    induction l with
    | nil => intro x hx; exact hx
    | cons a l ih => intro x hx; exact ih _ (Written.write_keeps hx _ _ _)
  have hx := hf l ⟨s, false, [], []⟩ hI
  unfold State.writeRun
  generalize List.foldl _ _ l = x at hx
  dsimp only
  split
  · exact hI
  split
  · exact hx
  split
  · rename_i e
    have ht := State.commitRequest_keepsE hx (fun t h => h) e
    split
    · exact ht
    · refine keeps_ite hI ?_
      exact State.runBudget_keeps hK hI _
  · exact hI
  · exact hI

theorem State.writeRun_keepsE {sA : State} {s : State} (hI : Keeps noField sA s) {who : Actor} {l : List (Nat × Nat)} {tE : State} {rE : Nat × List Byte} (eE : State.writeRun s who l = (tE, rE)) :
    Keeps noField sA tE := by
  have hE := State.writeRun_keeps hI who l
  rw [eE] at hE
  exact hE

theorem State.regRead_keeps {K : Nat → Bool} (hK : Quiet K) {sA : State} {s : State} (hI : Keeps K sA s) (addr : Nat) (n : Nat) (fixed : Bool) :
    Keeps K sA (State.regRead s addr n fixed).1 := by
  unfold State.regRead
  repeat' first
    | with_reducible assumption
    | intro a b c
    | intro c
    | with_reducible apply foldl_keeps
    | with_reducible apply foldl_pair_keeps
    | with_reducible apply State.readWord_keeps hK
    | (with_reducible refine State.readWord_keepsE hK ?_ (by assumption))
    | with_reducible refine keeps_mk (by with_reducible assumption)
    | dsimp only
    | split
    | (clear_value *; split)
    | (refine fld_mem (by assumption) ?_; decide)

theorem State.regRead_keepsE {K : Nat → Bool} (hK : Quiet K) {sA : State} {s : State} (hI : Keeps K sA s) {addr : Nat} {n : Nat} {fixed : Bool} {tE : State} {rE : Reply} (eE : State.regRead s addr n fixed = (tE, rE)) :
    Keeps K sA tE := by
  have hE := State.regRead_keeps hK hI addr n fixed
  rw [eE] at hE
  exact hE

theorem State.regWrite_keeps {sA : State} {s : State} (hI : Keeps noField sA s) (who : Actor) (addr : Nat) (fixed : Bool) (words : List Word) :
    Keeps noField sA (State.regWrite s who addr fixed words).1 := by
  have hK := quiet_no
  unfold State.regWrite
  repeat' first
    | with_reducible assumption
    | with_reducible apply State.writeRun_keeps
    | (with_reducible refine State.writeRun_keepsE ?_ (by assumption))
    | with_reducible refine keeps_mk (by with_reducible assumption)
    | dsimp only
    | split
    | (clear_value *; split)

theorem State.regWrite_keepsE {sA : State} {s : State} (hI : Keeps noField sA s) {who : Actor} {addr : Nat} {fixed : Bool} {words : List Word} {tE : State} {rE : Reply} (eE : State.regWrite s who addr fixed words = (tE, rE)) :
    Keeps noField sA tE := by
  have hE := State.regWrite_keeps hI who addr fixed words
  rw [eE] at hE
  exact hE

theorem State.regModify_keeps {sA : State} {s : State} (hI : Keeps noField sA s) (who : Actor) (addr : Nat) (mask : Word) (value : Word) :
    Keeps noField sA (State.regModify s who addr mask value).1 := by
  have hK := quiet_no
  unfold State.regModify
  repeat' first
    | with_reducible assumption
    | with_reducible apply keeps_ite
    | with_reducible apply keeps_ite_pair
    | with_reducible apply State.readOnce_keeps hK
    | (with_reducible refine State.readOnce_keepsE hK ?_ (by assumption))
    | with_reducible apply State.runBudget_keeps hK
    | (with_reducible refine State.runBudget_keepsE hK ?_ (by assumption))
    | with_reducible apply State.writeRun_keeps
    | (with_reducible refine State.writeRun_keepsE ?_ (by assumption))
    | with_reducible refine keeps_mk (by with_reducible assumption)
    | dsimp only
    | split
    | (clear_value *; split)

theorem State.regModify_keepsE {sA : State} {s : State} (hI : Keeps noField sA s) {who : Actor} {addr : Nat} {mask : Word} {value : Word} {tE : State} {rE : Reply} (eE : State.regModify s who addr mask value = (tE, rE)) :
    Keeps noField sA tE := by
  have hE := State.regModify_keeps hI who addr mask value
  rw [eE] at hE
  exact hE

theorem State.renewActor_keeps {K : Nat → Bool} (hK : Quiet K) {sA : State} {s : State} (hI : Keeps K sA s) (who : Actor) :
    Keeps K sA (State.renewActor s who) := by
  unfold State.renewActor
  repeat' first
    | with_reducible assumption
    | with_reducible refine keeps_mk (by with_reducible assumption)
    | dsimp only
    | split
    | (clear_value *; split)

theorem State.writeReg_keeps {sA : State} {s : State} (hI : Keeps noField sA s) (who : Actor) (addr : Nat) (w : Word) :
    Keeps noField sA (State.writeReg s who addr w) := by
  have hK := quiet_no
  unfold State.writeReg
  repeat' first
    | with_reducible assumption
    | with_reducible apply State.renewActor_keeps hK
    | with_reducible apply State.writeRun_keeps
    | (with_reducible refine State.writeRun_keepsE ?_ (by assumption))
    | with_reducible refine keeps_mk (by with_reducible assumption)
    | dsimp only
    | split
    | (clear_value *; split)

theorem State.readReg_keeps {K : Nat → Bool} (hK : Quiet K) {sA : State} {s : State} (hI : Keeps K sA s) (addr : Nat) :
    Keeps K sA (State.readReg s addr) := by
  unfold State.readReg
  repeat' first
    | with_reducible assumption
    | with_reducible apply State.readWord_keeps hK
    | (with_reducible refine State.readWord_keepsE hK ?_ (by assumption))
    | with_reducible refine keeps_mk (by with_reducible assumption)
    | dsimp only
    | split
    | (clear_value *; split)

theorem State.access_keeps {sA : State} {s : State} (hI : Keeps noField sA s) (addr : Nat) (a : Access) :
    Keeps noField sA (State.access s addr a) := by
  have hK := quiet_no
  unfold State.access
  repeat' first
    | with_reducible assumption
    | with_reducible apply State.readReg_keeps hK
    | with_reducible apply State.writeReg_keeps
    | with_reducible refine keeps_mk (by with_reducible assumption)
    | dsimp only
    | split
    | (clear_value *; split)

theorem State.writePlain_keeps {sA : State} {s : State} (hI : Keeps noField sA s) (addr : Nat) (w : Word) :
    Keeps noField sA (State.writePlain s addr w) := by
  have hK := quiet_no
  unfold State.writePlain
  repeat' first
    | with_reducible assumption
    | with_reducible apply State.writeReg_keeps

end Sys2Proof.Machine
end

