-- ==== Sys2Proof/Laws/KeepsXspi.lean ====
section
/-! SUPPORT. What every operation of Machine/Xspi.lean keeps. -/
namespace Sys2Proof.Machine

theorem State.xs_keeps {K : Nat → Bool} (hK : Quiet K) {sA : State} {s : State} (hI : Keeps K sA s) (f : Xspi → Xspi) :
    Keeps K sA (State.xs s f) := by
  unfold State.xs
  repeat' first
    | with_reducible assumption
    | with_reducible refine keeps_mk (by with_reducible assumption)
    | dsimp only

theorem State.chooseMode_keeps {K : Nat → Bool} (hK : Quiet K) {sA : State} {s : State} (hI : Keeps K sA s) (d : FlashIn) :
    Keeps K sA (State.chooseMode s d) := by
  unfold State.chooseMode
  repeat' first
    | with_reducible assumption
    | with_reducible apply keeps_ite
    | with_reducible apply State.p_keeps hK
    | dsimp only
    | split
    | (clear_value *; split)
    | decide

theorem State.startFetch_keeps {K : Nat → Bool} (hK : Quiet K) {sA : State} {s : State} (hI : Keeps K sA s) :
    Keeps K sA (State.startFetch s) := by
  unfold State.startFetch
  repeat' first
    | with_reducible assumption
    | with_reducible apply State.p_keeps hK
    | with_reducible apply State.xs_keeps hK
    | with_reducible refine keeps_mk (by with_reducible assumption)
    | dsimp only
    | decide

theorem State.discover_keeps {K : Nat → Bool} (hK : Quiet K) {sA : State} {s : State} (hI : Keeps K sA s) (d : FlashIn) :
    Keeps K sA (State.discover s d) := by
  unfold State.discover
  repeat' first
    | with_reducible assumption
    | with_reducible apply keeps_ite
    | with_reducible apply State.chooseMode_keeps hK
    | with_reducible apply State.event_keeps hK
    | with_reducible apply State.p_keeps hK
    | with_reducible apply State.xs_keeps hK
    | with_reducible refine keeps_mk (by with_reducible assumption)
    | dsimp only
    | split
    | (clear_value *; split)
    | decide

theorem State.rediscover_keeps {K : Nat → Bool} (hK : Quiet K) {sA : State} {s : State} (hI : Keeps K sA s) :
    Keeps K sA (State.rediscover s) := by
  unfold State.rediscover
  repeat' first
    | with_reducible assumption
    | with_reducible apply keeps_ite
    | with_reducible apply State.chooseMode_keeps hK
    | with_reducible refine keeps_mk (by with_reducible assumption)
    | dsimp only
    | split
    | (clear_value *; split)

theorem State.xipRead_keeps {K : Nat → Bool} (hK : Quiet K) {sA : State} {s : State} (hI : Keeps K sA s) (offset : Nat) (timeouts : Nat) :
    Keeps K sA (State.xipRead s offset timeouts) := by
  unfold State.xipRead
  repeat' first
    | with_reducible assumption
    | with_reducible apply keeps_ite
    | with_reducible apply State.emit_keeps hK
    | with_reducible apply State.event_keeps hK
    | with_reducible apply State.inc_keeps hK
    | with_reducible apply State.p_keeps hK
    | with_reducible apply State.xs_keeps hK
    | with_reducible refine keeps_mk (by with_reducible assumption)
    | dsimp only
    | split
    | (clear_value *; split)
    | decide

theorem State.lastErr_keeps {K : Nat → Bool} (hK : Quiet K) {sA : State} {s : State} (hI : Keeps K sA s) (e : Nat) :
    Keeps K sA (State.lastErr s e) := by
  unfold State.lastErr
  repeat' first
    | with_reducible assumption
    | with_reducible apply State.p_keeps hK
    | decide

theorem State.tookEffect_keeps {K : Nat → Bool} (hK : Quiet K) {sA : State} {s : State} (hI : Keeps K sA s) (e : Nat) :
    Keeps K sA (State.tookEffect s e) := by
  unfold State.tookEffect
  repeat' first
    | with_reducible assumption
    | with_reducible apply State.incW_keeps hK
    | with_reducible apply State.lastErr_keeps hK
    | with_reducible apply State.p_keeps hK
    | decide

theorem State.slaveAbort_keeps {K : Nat → Bool} (hK : Quiet K) {sA : State} {s : State} (hI : Keeps K sA s) (cmd : Nat) :
    Keeps K sA (State.slaveAbort s cmd) := by
  unfold State.slaveAbort
  repeat' first
    | with_reducible assumption
    | with_reducible apply State.err_keeps hK
    | with_reducible apply State.event_keeps hK
    | with_reducible apply State.inc_keeps hK
    | with_reducible apply State.lastErr_keeps hK
    | decide

theorem State.endRegs_keeps {K : Nat → Bool} (hK : Quiet K) {sA : State} {s : State} (hI : Keeps K sA s) (cmd : Nat) (e : Nat) (broken : Bool) :
    Keeps K sA (State.endRegs s cmd e broken) := by
  unfold State.endRegs
  repeat' first
    | with_reducible assumption
    | with_reducible apply keeps_ite
    | with_reducible apply State.slaveAbort_keeps hK
    | with_reducible apply State.tookEffect_keeps hK
    | split

theorem State.notReady_keeps {K : Nat → Bool} (hK : Quiet K) {sA : State} {s : State} (hI : Keeps K sA s) (e : Nat) (bytes : Nat) :
    Keeps K sA (State.notReady s e bytes) := by
  unfold State.notReady
  repeat' first
    | with_reducible assumption
    | with_reducible apply State.emit_keeps hK
    | with_reducible apply State.lastErr_keeps hK

theorem State.slaveRegRead_keeps {K : Nat → Bool} (hK : Quiet K) {sA : State} {s : State} (hI : Keeps K sA s) (addr : Nat) (count : Nat) (fixed : Bool) (ready : Bool) (done : Nat) (broken : Bool) :
    Keeps K sA (State.slaveRegRead s addr count fixed ready done broken) := by
  unfold State.slaveRegRead
  repeat' first
    | with_reducible assumption
    | intro a b c
    | intro c
    | with_reducible apply keeps_ite
    | with_reducible apply keeps_ite_pair
    | with_reducible apply foldl_keeps
    | with_reducible apply foldl_pair_keeps
    | with_reducible apply State.emit_keeps hK
    | with_reducible apply State.endRegs_keeps hK
    | with_reducible apply State.notReady_keeps hK
    | with_reducible apply State.renewActor_keeps hK
    | with_reducible apply State.readWord_keeps hK
    | (with_reducible refine State.readWord_keepsE hK ?_ (by assumption))
    | dsimp only
    | split
    | (clear_value *; split)
    | (refine fld_mem (by assumption) ?_; decide)

theorem State.slaveRegWrite_keeps {sA : State} {s : State} (hI : Keeps noField sA s) (addr : Nat) (count : Nat) (fixed : Bool) (ready : Bool) (words : List Word) (broken : Bool) :
    Keeps noField sA (State.slaveRegWrite s addr count fixed ready words broken) := by
  have hK := quiet_no
  unfold State.slaveRegWrite
  repeat' first
    | with_reducible assumption
    | intro a b c
    | intro c
    | with_reducible apply keeps_ite
    | with_reducible apply foldl_keeps
    | with_reducible apply foldl_pair_keeps
    | with_reducible apply State.emit_keeps hK
    | with_reducible apply State.endRegs_keeps hK
    | with_reducible apply State.lastErr_keeps hK
    | with_reducible apply State.renewActor_keeps hK
    | with_reducible apply State.writeReg_keeps
    | dsimp only
    | split
    | (clear_value *; split)
    | (refine fld_mem (by assumption) ?_; decide)

theorem State.slaveStat_keeps {K : Nat → Bool} (hK : Quiet K) {sA : State} {s : State} (hI : Keeps K sA s) :
    Keeps K sA (State.slaveStat s) := by
  unfold State.slaveStat
  repeat' first
    | with_reducible assumption
    | with_reducible apply keeps_ite
    | with_reducible apply State.emit_keeps hK
    | with_reducible apply State.tookEffect_keeps hK
    | split

theorem State.slaveZcsWrite_keeps {K : Nat → Bool} (hK : Quiet K) {sA : State} {s : State} (hI : Keeps K sA s) (len : Nat) (bytes : List Byte) :
    Keeps K sA (State.slaveZcsWrite s len bytes) := by
  unfold State.slaveZcsWrite
  repeat' first
    | with_reducible assumption
    | with_reducible apply keeps_ite
    | with_reducible apply State.arriveSlave_keeps hK
    | with_reducible apply State.emit_keeps hK
    | with_reducible apply State.lastErr_keeps hK
    | with_reducible apply State.tookEffect_keeps hK
    | dsimp only
    | split
    | (clear_value *; split)

theorem State.slaveZcsRead_keeps {K : Nat → Bool} (hK : Quiet K) {sA : State} {s : State} (hI : Keeps K sA s) (max : Nat) (finished : Bool) :
    Keeps K sA (State.slaveZcsRead s max finished) := by
  unfold State.slaveZcsRead
  repeat' first
    | with_reducible assumption
    | with_reducible apply keeps_ite
    | with_reducible apply State.emit_keeps hK
    | with_reducible apply State.tookEffect_keeps hK
    | with_reducible apply State.xs_keeps hK
    | with_reducible refine keeps_mk (by with_reducible assumption)
    | dsimp only
    | split
    | (clear_value *; split)

theorem State.slaveUnknown_keeps {K : Nat → Bool} (hK : Quiet K) {sA : State} {s : State} (hI : Keeps K sA s) (cmd : Nat) :
    Keeps K sA (State.slaveUnknown s cmd) := by
  unfold State.slaveUnknown
  repeat' first
    | with_reducible assumption
    | with_reducible apply keeps_ite
    | with_reducible apply State.notReady_keeps hK
    | split

theorem State.slaveBroken_keeps {K : Nat → Bool} (hK : Quiet K) {sA : State} {s : State} (hI : Keeps K sA s) (cmd : Nat) (mid : Bool) (ready : Bool) :
    Keeps K sA (State.slaveBroken s cmd mid ready) := by
  unfold State.slaveBroken
  repeat' first
    | with_reducible assumption
    | with_reducible apply keeps_ite
    | with_reducible apply State.lastErr_keeps hK
    | with_reducible apply State.slaveAbort_keeps hK
    | with_reducible apply State.tookEffect_keeps hK
    | split

end Sys2Proof.Machine
end

