-- ==== Sys2Proof/Laws/KeepsImage.lean ====
section
/-! SUPPORT. What every operation of Machine/Image.lean keeps. -/
namespace Sys2Proof.Machine

theorem Written.setAll_keeps {sA : State} {x : Written} (hI : Keeps noField sA x.st) (l : List Staged) :
    Keeps noField sA (x.setAll l).st := by
  unfold Written.setAll
  exact foldl_keeps (fun t w _ ht => State.pi_keepsNone ht _ _ _) hI

theorem Written.sect_keeps {sA : State} {x : Written} (hI : Keeps noField sA x.st) (sec : Sect) :
    Keeps noField sA (x.sect sec).st := by
  unfold Written.sect
  split
  · rename_i rs
    generalize wordsAt rs = l
    induction l generalizing x with
    | nil => exact hI
    | cons a l ih =>
      refine ih ?_
      dsimp only
      split
      · exact Written.write_keeps hI _ _ _
      · exact hI
  · exact Written.setAll_keeps hI _

theorem State.applyImage_keeps {sA : State} {s : State} (hI : Keeps noField sA s) (bytes : List Byte) (ss : List Sect) (fromFlash : Bool) :
    Keeps noField sA (State.applyImage s bytes ss fromFlash) := by
  have hK := quiet_no
  have hf : ∀ (ss : List Sect) (x : Written), Keeps noField sA x.st → Keeps noField sA (ss.foldl Written.sect x).st := by
    intro l
    induction l with
    | nil => intro x hx; exact hx
    | cons a l ih => intro x hx; exact ih _ (Written.sect_keeps hx _)
  have hx : Keeps noField sA (s.imageWritten ss).st := hf ss ⟨s, false, [], []⟩ hI
  unfold State.applyImage
  generalize s.imageWritten ss = x at hx ⊢
  extract_lets +onlyGivenNames old
  extract_lets +onlyGivenNames x0
  extract_lets +onlyGivenNames given
  extract_lets +onlyGivenNames rest
  extract_lets +onlyGivenNames y
  have hy : Keeps noField sA y.st := by
    unfold y
    split
    · exact Written.setAll_keeps hx _
    · exact hx
  clear_value y
  refine keeps_mk ?_
  repeat' first
    | with_reducible assumption
    | with_reducible apply State.poke_keeps hK
    | with_reducible apply State.p_keepsNone
    | with_reducible apply State.discardStaged_keeps hK
    | with_reducible apply State.exciteFrom_keeps hK
    | with_reducible apply State.changed_keeps hK

theorem State.loamError_keeps {K : Nat → Bool} (hK : Quiet K) {sA : State} {s : State} (hI : Keeps K sA s) (word : Nat) :
    Keeps K sA (State.loamError s word) := by
  unfold State.loamError
  repeat' first
    | with_reducible assumption
    | with_reducible apply keeps_ite
    | with_reducible apply State.p_keeps hK
    | split
    | decide

theorem State.im_keeps {K : Nat → Bool} (hK : Quiet K) {sA : State} {s : State} (hI : Keeps K sA s) (f : Image → Image) :
    Keeps K sA (State.im s f) := by
  unfold State.im
  repeat' first
    | with_reducible assumption
    | with_reducible refine keeps_mk (by with_reducible assumption)
    | dsimp only

theorem State.dropLoad_keeps {K : Nat → Bool} (hK : Quiet K) {sA : State} {s : State} (hI : Keeps K sA s) :
    Keeps K sA (State.dropLoad s) := by
  unfold State.dropLoad
  repeat' first
    | with_reducible assumption
    | with_reducible apply State.im_keeps hK
    | with_reducible refine keeps_mk (by with_reducible assumption)
    | dsimp only

theorem State.startChecks_keeps {K : Nat → Bool} (hK : Quiet K) {sA : State} {s : State} (hI : Keeps K sA s) (h : Hdr) :
    Keeps K sA (State.startChecks s h).1 := by
  unfold State.startChecks
  repeat' first
    | with_reducible assumption
    | with_reducible refine keeps_mk (by with_reducible assumption)
    | dsimp only

theorem State.startChecks_keepsE {K : Nat → Bool} (hK : Quiet K) {sA : State} {s : State} (hI : Keeps K sA s) {h : Hdr} {tE : State} {rE : Reply} (eE : State.startChecks s h = (tE, rE)) :
    Keeps K sA tE := by
  have hE := State.startChecks_keeps hK hI h
  rw [eE] at hE
  exact hE

theorem State.takeChunk_keeps {K : Nat → Bool} (hK : Quiet K) {sA : State} {s : State} (hI : Keeps K sA s) (h : Hdr) (total : Nat) (got : List Byte) (bytes : List Byte) :
    Keeps K sA (State.takeChunk s h total got bytes).1 := by
  unfold State.takeChunk
  repeat' first
    | with_reducible assumption
    | with_reducible apply keeps_ite
    | with_reducible apply keeps_ite_pair
    | with_reducible apply State.im_keeps hK
    | with_reducible apply State.startChecks_keeps hK
    | (with_reducible refine State.startChecks_keepsE hK ?_ (by assumption))
    | with_reducible refine keeps_mk (by with_reducible assumption)
    | dsimp only
    | split
    | (clear_value *; split)

theorem State.takeChunk_keepsE {K : Nat → Bool} (hK : Quiet K) {sA : State} {s : State} (hI : Keeps K sA s) {h : Hdr} {total : Nat} {got : List Byte} {bytes : List Byte} {tE : State} {rE : Reply} (eE : State.takeChunk s h total got bytes = (tE, rE)) :
    Keeps K sA tE := by
  have hE := State.takeChunk_keeps hK hI h total got bytes
  rw [eE] at hE
  exact hE

theorem State.imageLoad_keeps {K : Nat → Bool} (hK : Quiet K) {sA : State} {s : State} (hI : Keeps K sA s) (h : Hdr) (offset : Nat) (total : Nat) (bytes : List Byte) :
    Keeps K sA (State.imageLoad s h offset total bytes).1 := by
  unfold State.imageLoad
  repeat' first
    | with_reducible assumption
    | with_reducible apply keeps_ite
    | with_reducible apply keeps_ite_pair
    | with_reducible apply State.dropLoad_keeps hK
    | with_reducible apply State.im_keeps hK
    | with_reducible apply State.startFetch_keeps hK
    | with_reducible apply State.startChecks_keeps hK
    | (with_reducible refine State.startChecks_keepsE hK ?_ (by assumption))
    | with_reducible apply State.takeChunk_keeps hK
    | (with_reducible refine State.takeChunk_keepsE hK ?_ (by assumption))
    | with_reducible refine keeps_mk (by with_reducible assumption)
    | dsimp only
    | split
    | (clear_value *; split)

theorem State.imageLoad_keepsE {K : Nat → Bool} (hK : Quiet K) {sA : State} {s : State} (hI : Keeps K sA s) {h : Hdr} {offset : Nat} {total : Nat} {bytes : List Byte} {tE : State} {rE : Reply} (eE : State.imageLoad s h offset total bytes = (tE, rE)) :
    Keeps K sA tE := by
  have hE := State.imageLoad_keeps hK hI h offset total bytes
  rw [eE] at hE
  exact hE

theorem State.imageApplied_keeps {K : Nat → Bool} (hK : Quiet K) {sA : State} {s : State} (hI : Keeps K sA s) :
    Keeps K sA (State.imageApplied s) := by
  unfold State.imageApplied
  repeat' first
    | with_reducible assumption
    | with_reducible apply keeps_ite
    | with_reducible apply State.drew_keeps hK
    | with_reducible apply State.logCode_keeps hK
    | with_reducible refine keeps_mk (by with_reducible assumption)
    | dsimp only
    | split
    | (clear_value *; split)

theorem State.finishImage_keeps {sA : State} {s : State} (hI : Keeps noField sA s) (l : List Byte) (fromFlash : Bool) :
    Keeps noField sA (State.finishImage s l fromFlash) := by
  have hK := quiet_no
  unfold State.finishImage
  repeat' first
    | with_reducible assumption
    | with_reducible apply keeps_ite
    | with_reducible apply State.applyImage_keeps
    | with_reducible apply State.endLong_keeps hK
    | with_reducible apply State.error_keeps hK
    | with_reducible apply State.imageApplied_keeps hK
    | with_reducible apply State.loamError_keeps hK
    | with_reducible refine keeps_mk (by with_reducible assumption)
    | dsimp only
    | split
    | (clear_value *; split)

theorem State.restoreCopy_keeps {K : Nat → Bool} (hK : Quiet K) {sA : State} {s : State} (hI : Keeps K sA s) (d : FlashIn) (flash : List Byte) :
    Keeps K sA (State.restoreCopy s d flash) := by
  unfold State.restoreCopy
  repeat' first
    | with_reducible assumption
    | with_reducible apply keeps_ite
    | with_reducible apply State.discover_keeps hK
    | with_reducible apply State.im_keeps hK
    | with_reducible apply State.poke_keeps hK
    | with_reducible apply State.startFetch_keeps hK
    | with_reducible refine keeps_mk (by with_reducible assumption)
    | dsimp only
    | split
    | (clear_value *; split)

theorem State.imageComplete_keeps {sA : State} {s : State} (hI : Keeps noField sA s) (flash : Option (FlashIn × List Byte)) :
    Keeps noField sA (State.imageComplete s flash) := by
  have hK := quiet_no
  unfold State.imageComplete
  repeat' first
    | with_reducible assumption
    | with_reducible apply keeps_ite
    | with_reducible apply State.discover_keeps hK
    | with_reducible apply State.endLong_keeps hK
    | with_reducible apply State.finishImage_keeps
    | with_reducible apply State.im_keeps hK
    | with_reducible apply State.restoreCopy_keeps hK
    | with_reducible refine keeps_mk (by with_reducible assumption)
    | dsimp only
    | split
    | (clear_value *; split)

end Sys2Proof.Machine
end

