-- ==== Sys2Proof/Laws/KeepsCommands.lean ====
section
/-! SUPPORT. What every operation of Machine/Commands.lean keeps. -/
namespace Sys2Proof.Machine

theorem State.identify_keeps {K : Nat → Bool} (hK : Quiet K) {sA : State} {s : State} (hI : Keeps K sA s) (h : Hdr) (lease : Option Nat) :
    Keeps K sA (State.identify s h lease).1 := by
  unfold State.identify
  repeat' first
    | with_reducible assumption
    | with_reducible apply keeps_ite
    | with_reducible apply State.sess_keeps hK
    | with_reducible refine keeps_mk (by with_reducible assumption)
    | dsimp only
    | split
    | (clear_value *; split)

theorem State.identify_keepsE {K : Nat → Bool} (hK : Quiet K) {sA : State} {s : State} (hI : Keeps K sA s) {h : Hdr} {lease : Option Nat} {tE : State} {rE : Reply} (eE : State.identify s h lease = (tE, rE)) :
    Keeps K sA tE := by
  have hE := State.identify_keeps hK hI h lease
  rw [eE] at hE
  exact hE

theorem State.graftStatus_keeps {K : Nat → Bool} (hK : Quiet K) {sA : State} {s : State} (hI : Keeps K sA s) :
    Keeps K sA (State.graftStatus s).1 := by
  unfold State.graftStatus
  repeat' first
    | with_reducible assumption
    | intro a b c
    | intro c
    | with_reducible apply foldl_keeps
    | with_reducible apply foldl_pair_keeps
    | with_reducible apply State.latchHi_keeps hK
    | dsimp only
    | split
    | (clear_value *; split)
    | (refine fld_mem (by assumption) ?_; decide)

theorem State.graftStatus_keepsE {K : Nat → Bool} (hK : Quiet K) {sA : State} {s : State} (hI : Keeps K sA s) {tE : State} {rE : Reply} (eE : State.graftStatus s = (tE, rE)) :
    Keeps K sA tE := by
  have hE := State.graftStatus_keeps hK hI
  rw [eE] at hE
  exact hE

theorem State.slowConfig_keeps {K : Nat → Bool} (hK : Quiet K) {sA : State} {s : State} (hI : Keeps K sA s) (h : Hdr) (ch : Nat) (cfg : Word) (p0 : Word) (p1 : Word) (p2 : Word) :
    Keeps K sA (State.slowConfig s h ch cfg p0 p1 p2).1 := by
  unfold State.slowConfig
  repeat' first
    | with_reducible assumption
    | with_reducible apply keeps_ite
    | with_reducible apply State.stage_keeps hK
    | dsimp only
    | split
    | (clear_value *; split)
    | decide

theorem State.slowConfig_keepsE {K : Nat → Bool} (hK : Quiet K) {sA : State} {s : State} (hI : Keeps K sA s) {h : Hdr} {ch : Nat} {cfg : Word} {p0 : Word} {p1 : Word} {p2 : Word} {tE : State} {rE : Reply} (eE : State.slowConfig s h ch cfg p0 p1 p2 = (tE, rE)) :
    Keeps K sA tE := by
  have hE := State.slowConfig_keeps hK hI h ch cfg p0 p1 p2
  rw [eE] at hE
  exact hE

theorem State.resetCommand_keeps {K : Nat → Bool} (hK : Quiet K) {sA : State} {s : State} (hI : Keeps K sA s) (kind : Nat) :
    Keeps K sA (State.resetCommand s kind).1 := by
  unfold State.resetCommand
  repeat' first
    | with_reducible assumption
    | with_reducible apply keeps_ite
    | with_reducible refine keeps_mk (by with_reducible assumption)
    | dsimp only
    | split
    | (clear_value *; split)

theorem State.resetCommand_keepsE {K : Nat → Bool} (hK : Quiet K) {sA : State} {s : State} (hI : Keeps K sA s) {kind : Nat} {tE : State} {rE : Reply} (eE : State.resetCommand s kind = (tE, rE)) :
    Keeps K sA tE := by
  have hE := State.resetCommand_keeps hK hI kind
  rw [eE] at hE
  exact hE

theorem State.ownerLost_keeps {K : Nat → Bool} (hK : Quiet K) {sA : State} {s : State} (hI : Keeps K sA s) (who : Actor) (id : Nat) :
    Keeps K sA (State.ownerLost s who id) := by
  unfold State.ownerLost
  repeat' first
    | with_reducible assumption
    | with_reducible apply keeps_ite
    | with_reducible apply State.discardStaged_keeps hK
    | with_reducible apply State.logCode_keeps hK
    | dsimp only
    | split
    | (clear_value *; split)
    | unfold id

theorem State.leaseExpiry_keeps {K : Nat → Bool} (hK : Quiet K) {sA : State} {s : State} (hI : Keeps K sA s) (id : BitVec 32) :
    Keeps K sA (State.leaseExpiry s id) := by
  unfold State.leaseExpiry
  repeat' first
    | with_reducible assumption
    | with_reducible apply keeps_ite
    | with_reducible apply State.ownerLost_keeps hK
    | with_reducible refine keeps_mk (by with_reducible assumption)
    | dsimp only
    | split
    | (clear_value *; split)
    | unfold id

end Sys2Proof.Machine
end

