-- ==== Sys2Proof/Laws/KeepsStartup.lean ====
section
/-! SUPPORT. What every operation of Machine/Startup.lean keeps. -/
namespace Sys2Proof.Machine

theorem State.bt_keeps {K : Nat → Bool} (hK : Quiet K) {sA : State} {s : State} (hI : Keeps K sA s) (f : Boot → Boot) :
    Keeps K sA (State.bt s f) := by
  unfold State.bt
  repeat' first
    | with_reducible assumption
    | with_reducible refine keeps_mk (by with_reducible assumption)
    | dsimp only

theorem State.stepLogged_keeps {K : Nat → Bool} (hK : Quiet K) {sA : State} {s : State} (hI : Keeps K sA s) (n : Nat) :
    Keeps K sA (State.stepLogged s n) := by
  unfold State.stepLogged
  repeat' first
    | with_reducible assumption
    | with_reducible apply State.drew_keeps hK
    | with_reducible apply State.logCode_keeps hK

theorem State.stepDone_keeps {K : Nat → Bool} (hK : Quiet K) {sA : State} {s : State} (hI : Keeps K sA s) (n : Nat) :
    Keeps K sA (State.stepDone s n) := by
  unfold State.stepDone
  repeat' first
    | with_reducible assumption
    | with_reducible apply State.bt_keeps hK
    | with_reducible apply State.stepLogged_keeps hK
    | with_reducible refine keeps_mk (by with_reducible assumption)
    | dsimp only

theorem State.vinGood_keeps {K : Nat → Bool} (hK : Quiet K) {sA : State} {s : State} (hI : Keeps K sA s) (vhold : Nat) :
    Keeps K sA (State.vinGood s vhold) := by
  unfold State.vinGood
  repeat' first
    | with_reducible assumption
    | with_reducible apply keeps_ite
    | with_reducible apply State.stepDone_keeps hK
    | split

theorem State.vintStart_keeps {K : Nat → Bool} (hK : Quiet K) {sA : State} {s : State} (hI : Keeps K sA s) (vint : Nat) (ok : Bool) :
    Keeps K sA (State.vintStart s vint ok) := by
  unfold State.vintStart
  repeat' first
    | with_reducible assumption
    | with_reducible apply keeps_ite
    | with_reducible apply State.p_keeps hK
    | with_reducible apply State.stepDone_keeps hK
    | dsimp only
    | split
    | (clear_value *; split)
    | decide

theorem State.strapMode_keeps {K : Nat → Bool} (hK : Quiet K) {sA : State} {s : State} (hI : Keeps K sA s) (high : Bool) :
    Keeps K sA (State.strapMode s high) := by
  unfold State.strapMode
  repeat' first
    | with_reducible assumption
    | with_reducible apply State.p_keeps hK
    | decide

theorem State.pd01On_keeps {K : Nat → Bool} (hK : Quiet K) {sA : State} {s : State} (hI : Keeps K sA s) (strap : Bool) :
    Keeps K sA (State.pd01On s strap) := by
  unfold State.pd01On
  repeat' first
    | with_reducible assumption
    | with_reducible apply keeps_ite
    | with_reducible apply State.p_keeps hK
    | with_reducible apply State.setPd_keeps hK
    | with_reducible apply State.stepDone_keeps hK
    | with_reducible apply State.strapMode_keeps hK
    | dsimp only
    | split
    | (clear_value *; split)
    | decide

theorem State.canary_keeps {K : Nat → Bool} (hK : Quiet K) {sA : State} {s : State} (hI : Keeps K sA s) (intact : Bool) :
    Keeps K sA (State.canary s intact) := by
  unfold State.canary
  repeat' first
    | with_reducible assumption
    | (extract_lets +onlyGivenNames x; have hx : Keeps K sA x := (by
        unfold x
        repeat' first
          | with_reducible assumption
          | with_reducible apply keeps_ite
          | with_reducible apply State.event_keeps hK
          | with_reducible apply State.p_keeps hK
          | with_reducible refine keeps_mk (by with_reducible assumption)
          | dsimp only
          | split
          | (clear_value *; split)
          | decide); try clear_value x)
    | extract_lets +onlyGivenNames _
    | with_reducible apply keeps_ite
    | with_reducible apply State.event_keeps hK
    | with_reducible apply State.p_keeps hK
    | with_reducible refine keeps_mk (by with_reducible assumption)
    | split
    | (clear_value *; split)
    | decide

theorem State.countStart_keeps {K : Nat → Bool} (hK : Quiet K) {sA : State} {s : State} (hI : Keeps K sA s) :
    Keeps K sA (State.countStart s) := by
  unfold State.countStart
  repeat' first
    | with_reducible assumption
    | with_reducible apply keeps_ite
    | with_reducible apply State.retPut_keeps hK
    | split

theorem State.wallFromCold_keeps {K : Nat → Bool} (hK : Quiet K) {sA : State} {s : State} (hI : Keeps K sA s) :
    Keeps K sA (State.wallFromCold s) := by
  unfold State.wallFromCold
  repeat' first
    | with_reducible assumption
    | (extract_lets +onlyGivenNames x; have hx : Keeps K sA x := (by
        unfold x
        repeat' first
          | with_reducible assumption
          | with_reducible apply keeps_ite
          | with_reducible apply State.p_keeps hK
          | with_reducible refine keeps_mk (by with_reducible assumption)
          | dsimp only
          | split
          | (clear_value *; split)
          | decide); try clear_value x)
    | extract_lets +onlyGivenNames _
    | with_reducible apply keeps_ite
    | with_reducible apply State.p_keeps hK
    | with_reducible refine keeps_mk (by with_reducible assumption)
    | split
    | (clear_value *; split)
    | decide

theorem State.canaryCheck_keeps {K : Nat → Bool} (hK : Quiet K) {sA : State} {s : State} (hI : Keeps K sA s) (intact : Bool) :
    Keeps K sA (State.canaryCheck s intact) := by
  unfold State.canaryCheck
  repeat' first
    | with_reducible assumption
    | (extract_lets +onlyGivenNames x; have hx : Keeps K sA x := (by
        unfold x
        repeat' first
          | with_reducible assumption
          | with_reducible apply keeps_ite
          | with_reducible apply State.canary_keeps hK
          | with_reducible apply State.countStart_keeps hK
          | with_reducible apply State.event_keeps hK
          | with_reducible apply State.p_keeps hK
          | with_reducible apply State.stepDone_keeps hK
          | with_reducible apply State.wallFromCold_keeps hK
          | with_reducible refine keeps_mk (by with_reducible assumption)
          | dsimp only
          | split
          | (clear_value *; split)
          | decide); try clear_value x)
    | extract_lets +onlyGivenNames _
    | with_reducible apply keeps_ite
    | with_reducible apply State.canary_keeps hK
    | with_reducible apply State.countStart_keeps hK
    | with_reducible apply State.event_keeps hK
    | with_reducible apply State.p_keeps hK
    | with_reducible apply State.stepDone_keeps hK
    | with_reducible apply State.wallFromCold_keeps hK
    | with_reducible refine keeps_mk (by with_reducible assumption)
    | split
    | (clear_value *; split)
    | decide

theorem State.romBoot_keeps {K : Nat → Bool} (hK : Quiet K) {sA : State} {s : State} (hI : Keeps K sA s) :
    Keeps K sA (State.romBoot s) := by
  unfold State.romBoot
  repeat' first
    | with_reducible assumption
    | with_reducible apply keeps_ite
    | with_reducible apply State.drew_keeps hK
    | with_reducible apply State.p_keeps hK
    | with_reducible apply State.pairRun_keeps hK
    | with_reducible apply State.setPd_keeps hK
    | with_reducible apply State.stepDone_keeps hK
    | dsimp only
    | split
    | (clear_value *; split)
    | decide

theorem State.trimLoad_keeps {K : Nat → Bool} (hK : Quiet K) {sA : State} {s : State} (hI : Keeps K sA s) (ok1 : Bool) (ok2 : Bool) (same : Bool) :
    Keeps K sA (State.trimLoad s ok1 ok2 same) := by
  unfold State.trimLoad
  repeat' first
    | with_reducible assumption
    | intro a b c
    | with_reducible apply keeps_ite
    | with_reducible apply forAll_keeps
    | with_reducible apply State.event_keeps hK
    | with_reducible apply State.loadTrim_keeps hK
    | with_reducible apply State.p_keeps hK
    | with_reducible apply State.stepDone_keeps hK
    | with_reducible apply State.td_keeps hK
    | with_reducible apply State.warn_keeps hK
    | with_reducible refine keeps_mk (by with_reducible assumption)
    | dsimp only
    | split
    | (clear_value *; split)
    | decide

theorem State.applyBoot_keeps {K : Nat → Bool} (hK : Quiet K) {sA : State} {s : State} (hI : Keeps K sA s) (b : List Byte) :
    Keeps K sA (State.applyBoot s b) := by
  unfold State.applyBoot
  repeat' first
    | with_reducible assumption
    | intro a b c
    | with_reducible apply forAll_keeps
    | with_reducible apply State.p_keeps hK
    | with_reducible apply State.pi_keeps hK
    | dsimp only
    | decide

theorem State.storeScan_keeps {K : Nat → Bool} (hK : Quiet K) {sA : State} {s : State} (hI : Keeps K sA s) :
    Keeps K sA (State.storeScan s) := by
  unfold State.storeScan
  repeat' first
    | with_reducible assumption
    | with_reducible apply keeps_ite
    | with_reducible apply State.applyBoot_keeps hK
    | with_reducible apply State.logAs_keeps hK
    | with_reducible apply State.scanStore_keeps hK
    | with_reducible apply State.setPd_keeps hK
    | with_reducible apply State.stepDone_keeps hK
    | with_reducible refine keeps_mk (by with_reducible assumption)
    | dsimp only
    | split
    | (clear_value *; split)

theorem State.refusedImage_keeps {K : Nat → Bool} (hK : Quiet K) {sA : State} {s : State} (hI : Keeps K sA s) (e : Bad) :
    Keeps K sA (State.refusedImage s e) := by
  unfold State.refusedImage
  repeat' first
    | with_reducible assumption
    | with_reducible apply State.bt_keeps hK
    | with_reducible apply State.loamError_keeps hK
    | with_reducible apply State.logCode_keeps hK
    | with_reducible refine keeps_mk (by with_reducible assumption)
    | dsimp only

theorem State.imageSource_keeps {K : Nat → Bool} (hK : Quiet K) {sA : State} {s : State} (hI : Keeps K sA s) (d : FlashIn) (flash : List Byte) :
    Keeps K sA (State.imageSource s d flash) := by
  unfold State.imageSource
  repeat' first
    | with_reducible assumption
    | with_reducible apply keeps_ite
    | with_reducible apply State.bt_keeps hK
    | with_reducible apply State.discover_keeps hK
    | with_reducible apply State.error_keeps hK
    | with_reducible apply State.refusedImage_keeps hK
    | with_reducible apply State.startFetch_keeps hK
    | with_reducible apply State.stepDone_keeps hK
    | with_reducible refine keeps_mk (by with_reducible assumption)
    | dsimp only
    | split
    | (clear_value *; split)

theorem State.startDomains_keeps {K : Nat → Bool} (hK : Quiet K) {sA : State} {s : State} (hI : Keeps K sA s) :
    Keeps K sA (State.startDomains s) := by
  unfold State.startDomains
  repeat' first
    | with_reducible assumption
    | intro a b c
    | with_reducible apply keeps_ite
    | with_reducible apply forAll_keeps
    | with_reducible apply State.p_keeps hK
    | with_reducible apply State.requestStart_keeps hK
    | with_reducible apply State.stepDone_keeps hK
    | dsimp only
    | split
    | (clear_value *; split)
    | decide

theorem State.restoreMode_keeps {sA : State} {s : State} (hI : Keeps noField sA s) :
    Keeps noField sA (State.restoreMode s) := by
  have hK := quiet_no
  unfold State.restoreMode
  repeat' first
    | with_reducible assumption
    | intro a b c
    | intro c
    | with_reducible apply foldl_keeps
    | with_reducible apply foldl_pair_keeps
    | with_reducible apply State.pi_keepsNone
    | with_reducible apply State.p_keepsNone
    | with_reducible apply State.bt_keeps hK
    | with_reducible apply State.p_keeps hK
    | with_reducible apply State.pi_keeps hK
    | (with_reducible refine State.modeValues_keeps hK ?_ (by assumption))
    | with_reducible refine keeps_mk (by with_reducible assumption)
    | dsimp only
    | split
    | (clear_value *; split)
    | (refine fld_mem (by assumption) ?_; decide)
    | decide

theorem State.trainAndApply_keeps {sA : State} {s : State} (hI : Keeps noField sA s) (failed : List Nat) (ms : Nat) (flash : List Byte) :
    Keeps noField sA (State.trainAndApply s failed ms flash) := by
  have hK := quiet_no
  unfold State.trainAndApply
  repeat' first
    | with_reducible assumption
    | with_reducible apply keeps_ite
    | with_reducible apply State.applyImage_keeps
    | with_reducible apply State.applyOrder_keeps hK
    | with_reducible apply State.bt_keeps hK
    | with_reducible apply State.error_keeps hK
    | with_reducible apply State.im_keeps hK
    | with_reducible apply State.imageApplied_keeps hK
    | with_reducible apply State.refusedImage_keeps hK
    | with_reducible apply State.restoreMode_keeps
    | with_reducible apply State.trainMemory_keeps hK
    | with_reducible refine keeps_mk (by with_reducible assumption)
    | dsimp only
    | split
    | (clear_value *; split)

theorem State.laneBringup_keeps {K : Nat → Bool} (hK : Quiet K) {sA : State} {s : State} (hI : Keeps K sA s) :
    Keeps K sA (State.laneBringup s) := by
  unfold State.laneBringup
  repeat' first
    | with_reducible assumption
    | intro a b c
    | with_reducible apply keeps_ite
    | with_reducible apply forAll_keeps
    | with_reducible apply State.activatePort_keeps hK
    | with_reducible apply State.askRx_keeps hK
    | with_reducible apply State.light_keeps hK
    | with_reducible apply State.startExits_keeps hK
    | with_reducible apply State.stepDone_keeps hK
    | dsimp only
    | split
    | (clear_value *; split)
    | decide

theorem State.timeLock_keeps {K : Nat → Bool} (hK : Quiet K) {sA : State} {s : State} (hI : Keeps K sA s) :
    Keeps K sA (State.timeLock s) := by
  unfold State.timeLock
  repeat' first
    | with_reducible assumption
    | with_reducible apply keeps_ite
    | with_reducible apply State.p_keeps hK
    | with_reducible apply State.probe_keeps hK
    | with_reducible apply State.stepDone_keeps hK
    | with_reducible refine keeps_mk (by with_reducible assumption)
    | dsimp only
    | split
    | (clear_value *; split)
    | decide

theorem State.budgetStep_keeps {K : Nat → Bool} (hK : Quiet K) {sA : State} {s : State} (hI : Keeps K sA s) :
    Keeps K sA (State.budgetStep s) := by
  unfold State.budgetStep
  repeat' first
    | with_reducible assumption
    | with_reducible apply keeps_ite
    | with_reducible apply keeps_ite_pair
    | with_reducible apply State.log_keeps hK
    | with_reducible apply State.stepDone_keeps hK
    | with_reducible apply State.runBudget_keeps hK
    | (with_reducible refine State.runBudget_keepsE hK ?_ (by assumption))
    | with_reducible refine keeps_mk (by with_reducible assumption)
    | dsimp only
    | split
    | (clear_value *; split)
    | decide

theorem State.warmResend_keeps {K : Nat → Bool} (hK : Quiet K) {sA : State} {s : State} (hI : Keeps K sA s) :
    Keeps K sA (State.warmResend s) := by
  unfold State.warmResend
  repeat' first
    | with_reducible assumption
    | with_reducible apply keeps_ite
    | with_reducible apply State.backlogMax_keeps hK
    | with_reducible apply State.bt_keeps hK
    | with_reducible refine keeps_mk (by with_reducible assumption)
    | dsimp only
    | split
    | (clear_value *; split)

theorem State.becomeReady_keeps {K : Nat → Bool} (hK : Quiet K) {sA : State} {s : State} (hI : Keeps K sA s) :
    Keeps K sA (State.becomeReady s) := by
  unfold State.becomeReady
  repeat' first
    | with_reducible assumption
    | with_reducible apply keeps_ite
    | with_reducible apply State.bt_keeps hK
    | with_reducible apply State.event_keeps hK
    | with_reducible apply State.log_keeps hK
    | with_reducible apply State.p_keeps hK
    | with_reducible apply State.stepDone_keeps hK
    | with_reducible apply State.warmResend_keeps hK
    | with_reducible refine keeps_mk (by with_reducible assumption)
    | dsimp only
    | split
    | (clear_value *; split)
    | decide

theorem State.resetLow_keeps {sA : State} {s : State} (hI : Keeps noField sA s) (lowNs : Nat) :
    Keeps noField sA (State.resetLow s lowNs) := by
  have hK := quiet_no
  unfold State.resetLow
  repeat' first
    | with_reducible assumption
    | with_reducible apply keeps_ite
    | with_reducible apply State.bt_keeps hK
    | with_reducible apply State.drew_keeps hK
    | with_reducible apply State.resetTo_keeps
    | with_reducible refine keeps_mk (by with_reducible assumption)
    | dsimp only
    | split
    | (clear_value *; split)

theorem State.resetHigh_keeps {K : Nat → Bool} (hK : Quiet K) {sA : State} {s : State} (hI : Keeps K sA s) (strap : Bool) :
    Keeps K sA (State.resetHigh s strap) := by
  unfold State.resetHigh
  repeat' first
    | with_reducible assumption
    | with_reducible apply keeps_ite
    | with_reducible apply State.bt_keeps hK
    | with_reducible apply State.strapMode_keeps hK
    | with_reducible refine keeps_mk (by with_reducible assumption)
    | dsimp only
    | split
    | (clear_value *; split)

theorem State.resetActs_keeps {sA : State} {s : State} (hI : Keeps noField sA s) :
    Keeps noField sA (State.resetActs s) := by
  have hK := quiet_no
  unfold State.resetActs
  repeat' first
    | with_reducible assumption
    | with_reducible apply keeps_ite
    | with_reducible apply State.p_keepsNone
    | with_reducible apply State.closeAll_keeps hK
    | with_reducible apply State.drew_keeps hK
    | with_reducible apply State.p_keeps hK
    | with_reducible apply State.resetTo_keeps
    | with_reducible apply State.writeDescriptors_keeps hK
    | with_reducible refine keeps_mk (by with_reducible assumption)
    | dsimp only
    | split
    | (clear_value *; split)
    | decide

end Sys2Proof.Machine
end

