-- ==== Sys2Proof/Laws/KeepsCycle.lean ====
section
/-! SUPPORT. What every operation of Machine/Cycle.lean keeps. -/
namespace Sys2Proof.Machine

theorem State.orbitEffects_keeps {K : Nat → Bool} (hK : Quiet K) {sA : State} {s : State} (hI : Keeps K sA s) :
    Keeps K sA (State.orbitEffects s) := by
  unfold State.orbitEffects
  repeat' first
    | with_reducible assumption
    | with_reducible apply State.graftBoundary_keeps hK
    | with_reducible apply State.laneForecast_keeps hK
    | with_reducible apply State.lanesBoundary_keeps hK
    | with_reducible apply State.pdReqApply_keeps hK
    | with_reducible apply State.releaseAll_keeps hK
    | with_reducible apply State.retrainFirst_keeps hK

theorem State.orbitBoundary_keeps {K : Nat → Bool} (hK : Quiet K) {sA : State} {s : State} (hI : Keeps K sA s) :
    Keeps K sA (State.orbitBoundary s) := by
  unfold State.orbitBoundary
  repeat' first
    | with_reducible assumption
    | with_reducible apply State.orbitEffects_keeps hK
    | with_reducible apply State.orbitTimeAt0_keeps hK
    | with_reducible apply State.orbitTimeHeld_keeps hK
    | with_reducible apply State.requestsBoundary_keeps hK
    | with_reducible apply State.trellisBoundary_keeps hK

theorem State.orbitEdge_keeps {K : Nat → Bool} (hK : Quiet K) {sA : State} {s : State} (hI : Keeps K sA s) :
    Keeps K sA (State.orbitEdge s) := by
  unfold State.orbitEdge
  repeat' first
    | with_reducible assumption
    | with_reducible apply keeps_ite
    | with_reducible apply State.orbitEffects_keeps hK
    | with_reducible apply State.tr_keeps hK
    | with_reducible refine keeps_mk (by with_reducible assumption)
    | dsimp only
    | split
    | (clear_value *; split)

theorem State.toCycle_keeps {K : Nat → Bool} (hK : Quiet K) {sA : State} {s : State} (hI : Keeps K sA s) {t : State} :
    State.toCycle s = some t → Keeps K sA t := by
  unfold State.toCycle
  intro e
  try dsimp only at e
  repeat' (first | split at e | cases e)
  all_goals
    repeat' first
      | with_reducible assumption
      | with_reducible apply keeps_ite
      | with_reducible apply State.orbitTimeHeld_keeps hK
      | with_reducible apply State.slotPasses_keeps hK
      | with_reducible apply State.tr_keeps hK
      | with_reducible refine keeps_mk (by with_reducible assumption)
      | dsimp only
      | split
      | (clear_value *; split)

theorem State.dueCloses_keeps {K : Nat → Bool} (hK : Quiet K) {sA : State} {s : State} (hI : Keeps K sA s) :
    Keeps K sA (State.dueCloses s) := by
  unfold State.dueCloses
  repeat' first
    | with_reducible assumption
    | intro a b c
    | with_reducible apply forAll_keeps
    | with_reducible apply State.closeSeg_keeps hK
    | with_reducible apply State.furrow_keeps hK
    | with_reducible refine keeps_mk (by with_reducible assumption)
    | dsimp only

theorem State.formLabel_keeps {K : Nat → Bool} (hK : Quiet K) {sA : State} {s : State} (hI : Keeps K sA s) (label : Nat) (ch : Nat) :
    Keeps K sA (State.formLabel s label ch) := by
  unfold State.formLabel
  repeat' first
    | with_reducible assumption
    | with_reducible apply keeps_ite
    | with_reducible apply State.followLabel_keeps hK
    | with_reducible apply State.inc_keeps hK
    | with_reducible apply State.latchPeak_keeps hK
    | with_reducible apply State.latchRise_keeps hK
    | with_reducible apply State.snRise_keeps hK
    | with_reducible refine keeps_mk (by with_reducible assumption)
    | dsimp only
    | split
    | (clear_value *; split)
    | decide

theorem State.shear_keeps {K : Nat → Bool} (hK : Quiet K) {sA : State} {s : State} (hI : Keeps K sA s) :
    Keeps K sA (State.shear s) := by
  unfold State.shear
  repeat' first
    | with_reducible assumption
    | (extract_lets +onlyGivenNames x; have hx : Keeps K sA x := (by
        unfold x
        repeat' first
          | with_reducible assumption
          | intro a b c
          | intro c
          | with_reducible apply forAll_keeps
          | with_reducible apply foldl_keeps
          | with_reducible apply foldl_pair_keeps
          | with_reducible apply State.formLabel_keeps hK
          | with_reducible apply State.prevUpdateOf_keeps hK
          | with_reducible refine keeps_mk (by with_reducible assumption)
          | dsimp only
          | (refine fld_mem (by assumption) ?_; decide)); try clear_value x)
    | extract_lets +onlyGivenNames _
    | intro a b c
    | intro c
    | with_reducible apply forAll_keeps
    | with_reducible apply foldl_keeps
    | with_reducible apply foldl_pair_keeps
    | with_reducible apply State.formLabel_keeps hK
    | with_reducible apply State.prevUpdateOf_keeps hK
    | with_reducible refine keeps_mk (by with_reducible assumption)
    | dsimp only
    | (refine fld_mem (by assumption) ?_; decide)

theorem State.watch_keeps {K : Nat → Bool} (hK : Quiet K) {sA : State} {s : State} (hI : Keeps K sA s) :
    Keeps K sA (State.watch s) := by
  unfold State.watch
  repeat' first
    | with_reducible assumption
    | intro a b c
    | with_reducible apply forAll_keeps
    | with_reducible apply State.knowEdges_keeps hK
    | with_reducible apply State.snCompare_keeps hK
    | with_reducible apply State.snSlotRefs_keeps hK
    | with_reducible apply State.snWrite_keeps hK
    | dsimp only

theorem State.parityErrors_keeps {K : Nat → Bool} (hK : Quiet K) {sA : State} {s : State} (hI : Keeps K sA s) (parity : List Nat) :
    Keeps K sA (State.parityErrors s parity) := by
  unfold State.parityErrors
  repeat' first
    | with_reducible assumption
    | intro a b c
    | with_reducible apply forAll_keeps
    | with_reducible apply State.err_keeps hK

theorem State.takeBeds_keeps {K : Nat → Bool} (hK : Quiet K) {sA : State} {s : State} (hI : Keeps K sA s) (parity : List Nat) :
    Keeps K sA (State.takeBeds s parity) := by
  unfold State.takeBeds
  repeat' first
    | with_reducible assumption
    | intro a b c
    | with_reducible apply keeps_ite
    | with_reducible apply forAll_keeps
    | with_reducible apply State.place_keeps hK
    | with_reducible refine keeps_mk (by with_reducible assumption)
    | dsimp only
    | split
    | (clear_value *; split)
    | decide

theorem State.takeTribs_keeps {K : Nat → Bool} (hK : Quiet K) {sA : State} {s : State} (hI : Keeps K sA s) (parity : List Nat) :
    Keeps K sA (State.takeTribs s parity) := by
  unfold State.takeTribs
  repeat' first
    | with_reducible assumption
    | intro a b c
    | intro c
    | with_reducible apply keeps_ite
    | with_reducible apply keeps_ite_pair
    | with_reducible apply foldl_keeps
    | with_reducible apply foldl_pair_keeps
    | with_reducible apply State.place_keeps hK
    | with_reducible apply State.tribOutput_keeps hK
    | (with_reducible refine State.tribOutput_keepsE hK ?_ (by assumption))
    | dsimp only
    | split
    | (clear_value *; split)
    | (refine fld_mem (by assumption) ?_; decide)

theorem State.takeMarks_keeps {K : Nat → Bool} (hK : Quiet K) {sA : State} {s : State} (hI : Keeps K sA s) :
    Keeps K sA (State.takeMarks s) := by
  unfold State.takeMarks
  repeat' first
    | with_reducible assumption
    | with_reducible apply keeps_ite
    | with_reducible apply State.knowMarks_keeps hK
    | with_reducible apply State.writeMarks_keeps hK
    | split

theorem State.cycleEnd_keeps {K : Nat → Bool} (hK : Quiet K) {sA : State} {s : State} (hI : Keeps K sA s) :
    Keeps K sA (State.cycleEnd s) := by
  unfold State.cycleEnd
  repeat' first
    | with_reducible assumption
    | with_reducible apply keeps_ite
    | with_reducible apply State.stopSettles_keeps hK
    | with_reducible apply State.streamEnd_keeps hK
    | dsimp only
    | split
    | (clear_value *; split)
    | decide

theorem State.cycle_keeps {K : Nat → Bool} (hK : Quiet K) {sA : State} {s : State} (hI : Keeps K sA s) (c : CycleIn) :
    Keeps K sA (State.cycle s c) := by
  unfold State.cycle
  repeat' first
    | with_reducible assumption
    | intro a b c
    | with_reducible apply forAll_keeps
    | with_reducible apply State.catchRefill_keeps hK
    | with_reducible apply State.countSat_keeps hK
    | with_reducible apply State.cycleEnd_keeps hK
    | with_reducible apply State.dueCloses_keeps hK
    | with_reducible apply State.formSums_keeps hK
    | with_reducible apply State.lanePauses_keeps hK
    | with_reducible apply State.lookRefill_keeps hK
    | with_reducible apply State.memPauses_keeps hK
    | with_reducible apply State.orbitEdge_keeps hK
    | with_reducible apply State.p_keeps hK
    | with_reducible apply State.parityErrors_keeps hK
    | with_reducible apply State.placeHubRecs_keeps hK
    | with_reducible apply State.pruneLooks_keeps hK
    | with_reducible apply State.pw_keeps hK
    | with_reducible apply State.sendDownlinks_keeps hK
    | with_reducible apply State.sendFsegs_keeps hK
    | with_reducible apply State.shear_keeps hK
    | with_reducible apply State.slowTransfer_keeps hK
    | with_reducible apply State.takeBeds_keeps hK
    | with_reducible apply State.takeMarks_keeps hK
    | with_reducible apply State.takeSamples_keeps hK
    | with_reducible apply State.takeTribs_keeps hK
    | with_reducible apply State.tokenLine_keeps hK
    | with_reducible apply State.tr_keeps hK
    | with_reducible apply State.watch_keeps hK
    | with_reducible apply State.zcsRefill_keeps hK
    | with_reducible refine keeps_mk (by with_reducible assumption)
    | with_reducible refine keeps_mkMem (by with_reducible assumption)
    | dsimp only

theorem State.frameBoundary_keeps {sA : State} {s : State} (hI : Keeps noField sA s) (m : MonitorIn) :
    Keeps noField sA (State.frameBoundary s m) := by
  have hK := quiet_no
  unfold State.frameBoundary
  repeat' first
    | with_reducible assumption
    | intro a b c
    | with_reducible apply forAll_keeps
    | with_reducible apply State.caFrame_keeps hK
    | with_reducible apply State.hdgCycle_keeps hK
    | with_reducible apply State.lanesFrame_keeps hK
    | with_reducible apply State.powerFrame_keeps hK
    | with_reducible apply State.ptpMaster_keeps hK
    | with_reducible apply State.ratioFrame_keeps hK
    | with_reducible apply State.slowFrame_keeps
    | with_reducible apply State.snRearm_keeps hK
    | with_reducible apply State.tendFrame_keeps hK
    | with_reducible apply State.tr_keeps hK
    | with_reducible apply State.writeDescriptors_keeps hK
    | with_reducible refine keeps_mk (by with_reducible assumption)
    | dsimp only

theorem State.toWindow_keeps {K : Nat → Bool} (hK : Quiet K) {sA : State} {s : State} (hI : Keeps K sA s) {t : State} :
    State.toWindow s = some t → Keeps K sA t := by
  unfold State.toWindow
  intro e
  try dsimp only at e
  repeat' (first | split at e | cases e)
  all_goals
    repeat' first
      | with_reducible assumption
      | with_reducible apply keeps_ite
      | with_reducible apply State.orbitTimeHeld_keeps hK
      | with_reducible apply State.slotPasses_keeps hK
      | with_reducible apply State.tr_keeps hK
      | with_reducible refine keeps_mk (by with_reducible assumption)
      | dsimp only
      | split
      | (clear_value *; split)

theorem State.shedOne_keeps {sA : State} {s : State} (hI : Keeps noField sA s) (f : Nat) :
    Keeps noField sA (State.shedOne s f) := by
  have hK := quiet_no
  unfold State.shedOne
  repeat' first
    | with_reducible assumption
    | with_reducible apply State.pi_keepsNone
    | with_reducible apply State.furrow_keeps hK
    | with_reducible apply State.log_keeps hK
    | with_reducible apply State.pi_keeps hK
    | with_reducible apply State.poke_keeps hK
    | with_reducible refine keeps_mk (by with_reducible assumption)
    | dsimp only
    | decide

theorem State.shedUntil_keeps {sA : State} {s : State} (hI : Keeps noField sA s) (l : List Nat) :
    Keeps noField sA (s.shedUntil l) := by
  induction l generalizing s with
  | nil => exact hI
  | cons f rest ih =>
  unfold State.shedUntil
  repeat' first
    | with_reducible assumption
    | with_reducible apply keeps_ite
    | with_reducible apply ih
    | with_reducible apply State.shedOne_keeps
    | split

theorem State.streamDegraded_keeps {sA : State} {s : State} (hI : Keeps noField sA s) :
    Keeps noField sA (State.streamDegraded s) := by
  have hK := quiet_no
  unfold State.streamDegraded
  repeat' first
    | with_reducible assumption
    | with_reducible apply State.p_keepsNone
    | with_reducible apply State.countShed_keeps hK
    | with_reducible apply State.p_keeps hK
    | with_reducible apply State.shedUntil_keeps
    | with_reducible apply State.runBudget_keeps hK
    | (with_reducible refine State.runBudget_keepsE hK ?_ (by assumption))
    | dsimp only
    | decide

theorem State.applyFallback_keeps {sA : State} {s : State} (hI : Keeps noField sA s) :
    Keeps noField sA (State.applyFallback s) := by
  have hK := quiet_no
  unfold State.applyFallback
  repeat' first
    | with_reducible assumption
    | with_reducible apply keeps_ite
    | with_reducible apply State.applyCommit_keeps
    | with_reducible apply State.fallback_keeps
    | (with_reducible refine State.modeValues_keeps hK ?_ (by assumption))
    | with_reducible refine keeps_mk (by with_reducible assumption)
    | dsimp only
    | split
    | (clear_value *; split)
    | decide

theorem State.fallback_keeps {sA : State} {s : State} (hI : Keeps noField sA s) :
    Keeps noField sA (State.fallback s) := by
  have hK := quiet_no
  unfold State.fallback
  repeat' first
    | with_reducible assumption
    | with_reducible apply keeps_ite
    | with_reducible apply keeps_ite_pair
    | with_reducible apply State.applyFallback_keeps
    | with_reducible apply State.streamDegraded_keeps
    | with_reducible apply State.runBudget_keeps hK
    | (with_reducible refine State.runBudget_keepsE hK ?_ (by assumption))
    | with_reducible refine keeps_mk (by with_reducible assumption)
    | with_reducible refine keeps_mkMem (by with_reducible assumption)
    | dsimp only
    | split
    | (clear_value *; split)

theorem State.windowCommit_keeps {sA : State} {s : State} (hI : Keeps noField sA s) (a : Pending) :
    Keeps noField sA (State.windowCommit s a) := by
  have hK := quiet_no
  unfold State.windowCommit
  repeat' first
    | with_reducible assumption
    | (extract_lets +onlyGivenNames x; have hx : Keeps noField sA x := (by
        unfold x
        repeat' first
          | with_reducible assumption
          | with_reducible apply keeps_ite
          | with_reducible apply keeps_ite_pair
          | with_reducible apply State.applyCommit_keeps
          | with_reducible apply State.complete_keeps hK
          | with_reducible apply State.runBudget_keeps hK
          | (with_reducible refine State.runBudget_keepsE hK ?_ (by assumption))
          | with_reducible refine keeps_mk (by with_reducible assumption)
          | with_reducible refine keeps_mkMem (by with_reducible assumption)
          | dsimp only
          | split
          | (clear_value *; split)
          | with_reducible refine keeps_mk (by repeat' first | with_reducible assumption | with_reducible apply State.applyCommit_keeps | with_reducible apply State.complete_keeps hK | with_reducible apply State.runBudget_keeps hK | with_reducible refine State.runBudget_keepsE hK ?_ (by assumption) | decide)
          | with_reducible refine keeps_mkMem (by repeat' first | with_reducible assumption | with_reducible apply State.applyCommit_keeps | with_reducible apply State.complete_keeps hK | with_reducible apply State.runBudget_keeps hK | with_reducible refine State.runBudget_keepsE hK ?_ (by assumption) | decide)); try clear_value x)
    | extract_lets +onlyGivenNames _
    | with_reducible apply keeps_ite
    | with_reducible apply keeps_ite_pair
    | with_reducible apply State.applyCommit_keeps
    | with_reducible apply State.complete_keeps hK
    | with_reducible apply State.runBudget_keeps hK
    | (with_reducible refine State.runBudget_keepsE hK ?_ (by assumption))
    | with_reducible refine keeps_mk (by with_reducible assumption)
    | with_reducible refine keeps_mkMem (by with_reducible assumption)
    | dsimp only
    | split
    | (clear_value *; split)
    | with_reducible refine keeps_mk (by repeat' first | with_reducible assumption | with_reducible apply State.applyCommit_keeps | with_reducible apply State.complete_keeps hK | with_reducible apply State.runBudget_keeps hK | with_reducible refine State.runBudget_keepsE hK ?_ (by assumption) | decide)
    | with_reducible refine keeps_mkMem (by repeat' first | with_reducible assumption | with_reducible apply State.applyCommit_keeps | with_reducible apply State.complete_keeps hK | with_reducible apply State.runBudget_keeps hK | with_reducible refine State.runBudget_keepsE hK ?_ (by assumption) | decide)

theorem State.windowStart_keeps {K : Nat → Bool} (hK : Quiet K) {sA : State} {s : State} (hI : Keeps K sA s) (a : Pending) :
    Keeps K sA (State.windowStart s a) := by
  unfold State.windowStart
  repeat' first
    | with_reducible assumption
    | with_reducible apply keeps_ite
    | with_reducible apply keeps_ite_pair
    | with_reducible apply State.complete_keeps hK
    | with_reducible apply State.streamBegin_keeps hK
    | with_reducible apply State.runBudget_keeps hK
    | (with_reducible refine State.runBudget_keepsE hK ?_ (by assumption))
    | with_reducible refine keeps_mk (by with_reducible assumption)
    | dsimp only
    | split
    | (clear_value *; split)

theorem State.windowStop_keeps {K : Nat → Bool} (hK : Quiet K) {sA : State} {s : State} (hI : Keeps K sA s) (h : Option Hdr) :
    Keeps K sA (State.windowStop s h) := by
  unfold State.windowStop
  repeat' first
    | with_reducible assumption
    | (extract_lets +onlyGivenNames x; have hx : Keeps K sA x := (by
        unfold x
        repeat' first
          | with_reducible assumption
          | with_reducible apply keeps_ite
          | with_reducible apply State.complete_keeps hK
          | with_reducible apply State.p_keeps hK
          | with_reducible refine keeps_mk (by with_reducible assumption)
          | dsimp only
          | split
          | (clear_value *; split)
          | decide); try clear_value x)
    | extract_lets +onlyGivenNames _
    | with_reducible apply keeps_ite
    | with_reducible apply State.complete_keeps hK
    | with_reducible apply State.p_keeps hK
    | with_reducible refine keeps_mk (by with_reducible assumption)
    | split
    | (clear_value *; split)
    | decide

theorem State.windowDrill_keeps {K : Nat → Bool} (hK : Quiet K) {sA : State} {s : State} (hI : Keeps K sA s) (a : Pending) :
    Keeps K sA (State.windowDrill s a) := by
  unfold State.windowDrill
  repeat' first
    | with_reducible assumption
    | with_reducible apply keeps_ite
    | with_reducible apply State.complete_keeps hK
    | with_reducible apply State.gr_keeps hK
    | with_reducible refine keeps_mk (by with_reducible assumption)
    | dsimp only
    | split
    | (clear_value *; split)

theorem State.windowAction_keeps {sA : State} {s : State} (hI : Keeps noField sA s) :
    Keeps noField sA (State.windowAction s) := by
  have hK := quiet_no
  unfold State.windowAction
  repeat' first
    | with_reducible assumption
    | with_reducible apply keeps_ite
    | with_reducible apply State.complete_keeps hK
    | with_reducible apply State.fallback_keeps
    | with_reducible apply State.marginEffect_keeps hK
    | with_reducible apply State.windowCommit_keeps
    | with_reducible apply State.windowDrill_keeps hK
    | with_reducible apply State.windowStart_keeps hK
    | with_reducible apply State.windowStop_keeps hK
    | with_reducible refine keeps_mk (by with_reducible assumption)
    | dsimp only
    | split
    | (clear_value *; split)

theorem State.portLossStop_keeps {K : Nat → Bool} (hK : Quiet K) {sA : State} {s : State} (hI : Keeps K sA s) :
    Keeps K sA (State.portLossStop s) := by
  unfold State.portLossStop
  repeat' first
    | with_reducible assumption
    | with_reducible apply keeps_ite
    | with_reducible apply State.p_keeps hK
    | with_reducible refine keeps_mk (by with_reducible assumption)
    | with_reducible refine keeps_mkMem (by with_reducible assumption)
    | dsimp only
    | split
    | (clear_value *; split)
    | decide

theorem State.degradedFault_keeps {K : Nat → Bool} (hK : Quiet K) {sA : State} {s : State} (hI : Keeps K sA s) (before : Nat) :
    Keeps K sA (State.degradedFault s before) := by
  unfold State.degradedFault
  repeat' first
    | with_reducible assumption
    | with_reducible apply keeps_ite
    | with_reducible apply State.releaseFault_keeps hK
    | split
    | decide

theorem State.windowConfig_keeps {sA : State} {s : State} (hI : Keeps noField sA s) :
    Keeps noField sA (State.windowConfig s) := by
  have hK := quiet_no
  unfold State.windowConfig
  repeat' first
    | with_reducible assumption
    | with_reducible apply State.degradedFault_keeps hK
    | with_reducible apply State.memWindow_keeps
    | with_reducible apply State.portLossStop_keeps hK
    | with_reducible apply State.windowAction_keeps
    | decide

theorem State.windowBeds_keeps {K : Nat → Bool} (hK : Quiet K) {sA : State} {s : State} (hI : Keeps K sA s) (q : QuietIn) :
    Keeps K sA (State.windowBeds s q).1 := by
  unfold State.windowBeds
  repeat' first
    | with_reducible assumption
    | intro a b c
    | with_reducible apply forAll_keeps
    | with_reducible apply State.rotateBed_keeps hK
    | with_reducible apply State.tuneFilter_keeps hK
    | dsimp only

theorem State.windowBeds_keepsE {K : Nat → Bool} (hK : Quiet K) {sA : State} {s : State} (hI : Keeps K sA s) {q : QuietIn} {tE : State} {rE : List Nat} (eE : State.windowBeds s q = (tE, rE)) :
    Keeps K sA tE := by
  have hE := State.windowBeds_keeps hK hI q
  rw [eE] at hE
  exact hE

theorem State.windowActions_keeps {sA : State} {s : State} (hI : Keeps noField sA s) (q : QuietIn) :
    Keeps noField sA (State.windowActions s q) := by
  have hK := quiet_no
  unfold State.windowActions
  repeat' first
    | with_reducible assumption
    | (extract_lets +onlyGivenNames x; have hx : Keeps noField sA x := (by
        unfold x
        repeat' first
          | with_reducible assumption
          | intro a b c
          | with_reducible apply keeps_ite
          | with_reducible apply keeps_ite_pair
          | with_reducible apply forAll_keeps
          | with_reducible apply State.calibrateApply_keeps hK
          | with_reducible apply State.followerApply_keeps hK
          | with_reducible apply State.followerKeep_keeps hK
          | with_reducible apply State.lineCheckRun_keeps hK
          | with_reducible apply State.memPause_keeps hK
          | with_reducible apply State.prevUpdate_keeps hK
          | with_reducible apply State.retrainStart_keeps hK
          | with_reducible apply State.rotatorStep_keeps hK
          | with_reducible apply State.startMigration_keeps hK
          | with_reducible apply State.tendWindow_keeps hK
          | with_reducible apply State.tr_keeps hK
          | with_reducible apply State.windowConfig_keeps
          | with_reducible apply State.windowBeds_keeps hK
          | (with_reducible refine State.windowBeds_keepsE hK ?_ (by assumption))
          | with_reducible refine keeps_mk (by with_reducible assumption)
          | with_reducible refine keeps_mkMem (by with_reducible assumption)
          | dsimp only
          | split
          | (clear_value *; split)); try clear_value x)
    | extract_lets +onlyGivenNames _
    | intro a b c
    | with_reducible apply keeps_ite
    | with_reducible apply keeps_ite_pair
    | with_reducible apply forAll_keeps
    | with_reducible apply State.calibrateApply_keeps hK
    | with_reducible apply State.followerApply_keeps hK
    | with_reducible apply State.followerKeep_keeps hK
    | with_reducible apply State.lineCheckRun_keeps hK
    | with_reducible apply State.memPause_keeps hK
    | with_reducible apply State.prevUpdate_keeps hK
    | with_reducible apply State.retrainStart_keeps hK
    | with_reducible apply State.rotatorStep_keeps hK
    | with_reducible apply State.startMigration_keeps hK
    | with_reducible apply State.tendWindow_keeps hK
    | with_reducible apply State.tr_keeps hK
    | with_reducible apply State.windowConfig_keeps
    | with_reducible apply State.windowBeds_keeps hK
    | (with_reducible refine State.windowBeds_keepsE hK ?_ (by assumption))
    | with_reducible refine keeps_mk (by with_reducible assumption)
    | with_reducible refine keeps_mkMem (by with_reducible assumption)
    | dsimp only
    | split
    | (clear_value *; split)

theorem State.quietWindow_keeps {sA : State} {s : State} (hI : Keeps noField sA s) (q : QuietIn) :
    Keeps noField sA (State.quietWindow s q) := by
  have hK := quiet_no
  unfold State.quietWindow
  repeat' first
    | with_reducible assumption
    | with_reducible apply keeps_ite
    | with_reducible apply State.orbitEdge_keeps hK
    | with_reducible apply State.tr_keeps hK
    | with_reducible apply State.windowActions_keeps
    | (with_reducible refine State.toWindow_keeps hK ?_ (by assumption))
    | with_reducible refine keeps_mk (by with_reducible assumption)
    | dsimp only
    | split
    | (clear_value *; split)

end Sys2Proof.Machine
end

