-- ==== Sys2Proof/Laws/State.lean ====
section
/-! SUPPORT. One lemma for each field and each named update of the state. -/
namespace Sys2Proof.Machine

@[simp] theorem State.pi_pending (s : State) (f : Fld) (i v : Nat) : (s.pi f i v).pending = s.pending := rfl
@[simp] theorem State.pi_prevRegs (s : State) (f : Fld) (i v : Nat) : (s.pi f i v).prevRegs = s.prevRegs := rfl
@[simp] theorem State.pi_switchTick (s : State) (f : Fld) (i v : Nat) : (s.pi f i v).switchTick = s.switchTick := rfl
@[simp] theorem State.pi_olderRegs (s : State) (f : Fld) (i v : Nat) : (s.pi f i v).olderRegs = s.olderRegs := rfl
@[simp] theorem State.pi_latches (s : State) (f : Fld) (i v : Nat) : (s.pi f i v).latches = s.latches := rfl
@[simp] theorem State.pi_held (s : State) (f : Fld) (i v : Nat) : (s.pi f i v).held = s.held := rfl
@[simp] theorem State.pi_nowNs (s : State) (f : Fld) (i v : Nat) : (s.pi f i v).nowNs = s.nowNs := rfl
@[simp] theorem State.pi_freeCtr (s : State) (f : Fld) (i v : Nat) : (s.pi f i v).freeCtr = s.freeCtr := rfl
@[simp] theorem State.pi_outbox (s : State) (f : Fld) (i v : Nat) : (s.pi f i v).outbox = s.outbox := rfl
@[simp] theorem State.pi_trellis (s : State) (f : Fld) (i v : Nat) : (s.pi f i v).trellis = s.trellis := rfl
@[simp] theorem State.pi_hist (s : State) (f : Fld) (i v : Nat) : (s.pi f i v).hist = s.hist := rfl
@[simp] theorem State.pi_beds (s : State) (f : Fld) (i v : Nat) : (s.pi f i v).beds = s.beds := rfl
@[simp] theorem State.pi_followers (s : State) (f : Fld) (i v : Nat) : (s.pi f i v).followers = s.followers := rfl
@[simp] theorem State.pi_rises (s : State) (f : Fld) (i v : Nat) : (s.pi f i v).rises = s.rises := rfl
@[simp] theorem State.pi_shearTick (s : State) (f : Fld) (i v : Nat) : (s.pi f i v).shearTick = s.shearTick := rfl
@[simp] theorem State.pi_behind (s : State) (f : Fld) (i v : Nat) : (s.pi f i v).behind = s.behind := rfl
@[simp] theorem State.pi_sentinels (s : State) (f : Fld) (i v : Nat) : (s.pi f i v).sentinels = s.sentinels := rfl
@[simp] theorem State.pi_lanesT (s : State) (f : Fld) (i v : Nat) : (s.pi f i v).lanesT = s.lanesT := rfl
@[simp] theorem State.pi_lanesH (s : State) (f : Fld) (i v : Nat) : (s.pi f i v).lanesH = s.lanesH := rfl
@[simp] theorem State.pi_ports (s : State) (f : Fld) (i v : Nat) : (s.pi f i v).ports = s.ports := rfl
@[simp] theorem State.pi_dibber (s : State) (f : Fld) (i v : Nat) : (s.pi f i v).dibber = s.dibber := rfl
@[simp] theorem State.pi_sums (s : State) (f : Fld) (i v : Nat) : (s.pi f i v).sums = s.sums := rfl
@[simp] theorem State.pi_fsegs (s : State) (f : Fld) (i v : Nat) : (s.pi f i v).fsegs = s.fsegs := rfl
@[simp] theorem State.pi_furrows (s : State) (f : Fld) (i v : Nat) : (s.pi f i v).furrows = s.furrows := rfl
@[simp] theorem State.pi_hubQ (s : State) (f : Fld) (i v : Nat) : (s.pi f i v).hubQ = s.hubQ := rfl
@[simp] theorem State.pi_looks (s : State) (f : Fld) (i v : Nat) : (s.pi f i v).looks = s.looks := rfl
@[simp] theorem State.pi_closes (s : State) (f : Fld) (i v : Nat) : (s.pi f i v).closes = s.closes := rfl
@[simp] theorem State.pi_intake (s : State) (f : Fld) (i v : Nat) : (s.pi f i v).intake = s.intake := rfl
@[simp] theorem State.pi_intakeFrom (s : State) (f : Fld) (i v : Nat) : (s.pi f i v).intakeFrom = s.intakeFrom := rfl
@[simp] theorem State.pi_stopping (s : State) (f : Fld) (i v : Nat) : (s.pi f i v).stopping = s.stopping := rfl
@[simp] theorem State.pi_mem (s : State) (f : Fld) (i v : Nat) : (s.pi f i v).mem = s.mem := rfl
@[simp] theorem State.pi_engines (s : State) (f : Fld) (i v : Nat) : (s.pi f i v).engines = s.engines := rfl
@[simp] theorem State.pi_harvest (s : State) (f : Fld) (i v : Nat) : (s.pi f i v).harvest = s.harvest := rfl
@[simp] theorem State.pi_zcs (s : State) (f : Fld) (i v : Nat) : (s.pi f i v).zcs = s.zcs := rfl
@[simp] theorem State.pi_image (s : State) (f : Fld) (i v : Nat) : (s.pi f i v).image = s.image := rfl
@[simp] theorem State.pi_slow (s : State) (f : Fld) (i v : Nat) : (s.pi f i v).slow = s.slow := rfl
@[simp] theorem State.pi_wall (s : State) (f : Fld) (i v : Nat) : (s.pi f i v).wall = s.wall := rfl
@[simp] theorem State.pi_hdg (s : State) (f : Fld) (i v : Nat) : (s.pi f i v).hdg = s.hdg := rfl
@[simp] theorem State.pi_nvm (s : State) (f : Fld) (i v : Nat) : (s.pi f i v).nvm = s.nvm := rfl
@[simp] theorem State.pi_cpu (s : State) (f : Fld) (i v : Nat) : (s.pi f i v).cpu = s.cpu := rfl
@[simp] theorem State.pi_graft (s : State) (f : Fld) (i v : Nat) : (s.pi f i v).graft = s.graft := rfl
@[simp] theorem State.pi_tend (s : State) (f : Fld) (i v : Nat) : (s.pi f i v).tend = s.tend := rfl
@[simp] theorem State.pi_power (s : State) (f : Fld) (i v : Nat) : (s.pi f i v).power = s.power := rfl
@[simp] theorem State.pi_cold (s : State) (f : Fld) (i v : Nat) : (s.pi f i v).cold = s.cold := rfl
@[simp] theorem State.pi_xspi (s : State) (f : Fld) (i v : Nat) : (s.pi f i v).xspi = s.xspi := rfl
@[simp] theorem State.pi_boot (s : State) (f : Fld) (i v : Nat) : (s.pi f i v).boot = s.boot := rfl

@[simp] theorem State.p_pending (s : State) (f : Fld) (v : Nat) : (s.p f v).pending = s.pending := rfl
@[simp] theorem State.p_prevRegs (s : State) (f : Fld) (v : Nat) : (s.p f v).prevRegs = s.prevRegs := rfl
@[simp] theorem State.p_switchTick (s : State) (f : Fld) (v : Nat) : (s.p f v).switchTick = s.switchTick := rfl
@[simp] theorem State.p_olderRegs (s : State) (f : Fld) (v : Nat) : (s.p f v).olderRegs = s.olderRegs := rfl
@[simp] theorem State.p_latches (s : State) (f : Fld) (v : Nat) : (s.p f v).latches = s.latches := rfl
@[simp] theorem State.p_held (s : State) (f : Fld) (v : Nat) : (s.p f v).held = s.held := rfl
@[simp] theorem State.p_nowNs (s : State) (f : Fld) (v : Nat) : (s.p f v).nowNs = s.nowNs := rfl
@[simp] theorem State.p_freeCtr (s : State) (f : Fld) (v : Nat) : (s.p f v).freeCtr = s.freeCtr := rfl
@[simp] theorem State.p_outbox (s : State) (f : Fld) (v : Nat) : (s.p f v).outbox = s.outbox := rfl
@[simp] theorem State.p_trellis (s : State) (f : Fld) (v : Nat) : (s.p f v).trellis = s.trellis := rfl
@[simp] theorem State.p_hist (s : State) (f : Fld) (v : Nat) : (s.p f v).hist = s.hist := rfl
@[simp] theorem State.p_beds (s : State) (f : Fld) (v : Nat) : (s.p f v).beds = s.beds := rfl
@[simp] theorem State.p_followers (s : State) (f : Fld) (v : Nat) : (s.p f v).followers = s.followers := rfl
@[simp] theorem State.p_rises (s : State) (f : Fld) (v : Nat) : (s.p f v).rises = s.rises := rfl
@[simp] theorem State.p_shearTick (s : State) (f : Fld) (v : Nat) : (s.p f v).shearTick = s.shearTick := rfl
@[simp] theorem State.p_behind (s : State) (f : Fld) (v : Nat) : (s.p f v).behind = s.behind := rfl
@[simp] theorem State.p_sentinels (s : State) (f : Fld) (v : Nat) : (s.p f v).sentinels = s.sentinels := rfl
@[simp] theorem State.p_lanesT (s : State) (f : Fld) (v : Nat) : (s.p f v).lanesT = s.lanesT := rfl
@[simp] theorem State.p_lanesH (s : State) (f : Fld) (v : Nat) : (s.p f v).lanesH = s.lanesH := rfl
@[simp] theorem State.p_ports (s : State) (f : Fld) (v : Nat) : (s.p f v).ports = s.ports := rfl
@[simp] theorem State.p_dibber (s : State) (f : Fld) (v : Nat) : (s.p f v).dibber = s.dibber := rfl
@[simp] theorem State.p_sums (s : State) (f : Fld) (v : Nat) : (s.p f v).sums = s.sums := rfl
@[simp] theorem State.p_fsegs (s : State) (f : Fld) (v : Nat) : (s.p f v).fsegs = s.fsegs := rfl
@[simp] theorem State.p_furrows (s : State) (f : Fld) (v : Nat) : (s.p f v).furrows = s.furrows := rfl
@[simp] theorem State.p_hubQ (s : State) (f : Fld) (v : Nat) : (s.p f v).hubQ = s.hubQ := rfl
@[simp] theorem State.p_looks (s : State) (f : Fld) (v : Nat) : (s.p f v).looks = s.looks := rfl
@[simp] theorem State.p_closes (s : State) (f : Fld) (v : Nat) : (s.p f v).closes = s.closes := rfl
@[simp] theorem State.p_intake (s : State) (f : Fld) (v : Nat) : (s.p f v).intake = s.intake := rfl
@[simp] theorem State.p_intakeFrom (s : State) (f : Fld) (v : Nat) : (s.p f v).intakeFrom = s.intakeFrom := rfl
@[simp] theorem State.p_stopping (s : State) (f : Fld) (v : Nat) : (s.p f v).stopping = s.stopping := rfl
@[simp] theorem State.p_mem (s : State) (f : Fld) (v : Nat) : (s.p f v).mem = s.mem := rfl
@[simp] theorem State.p_engines (s : State) (f : Fld) (v : Nat) : (s.p f v).engines = s.engines := rfl
@[simp] theorem State.p_harvest (s : State) (f : Fld) (v : Nat) : (s.p f v).harvest = s.harvest := rfl
@[simp] theorem State.p_zcs (s : State) (f : Fld) (v : Nat) : (s.p f v).zcs = s.zcs := rfl
@[simp] theorem State.p_image (s : State) (f : Fld) (v : Nat) : (s.p f v).image = s.image := rfl
@[simp] theorem State.p_slow (s : State) (f : Fld) (v : Nat) : (s.p f v).slow = s.slow := rfl
@[simp] theorem State.p_wall (s : State) (f : Fld) (v : Nat) : (s.p f v).wall = s.wall := rfl
@[simp] theorem State.p_hdg (s : State) (f : Fld) (v : Nat) : (s.p f v).hdg = s.hdg := rfl
@[simp] theorem State.p_nvm (s : State) (f : Fld) (v : Nat) : (s.p f v).nvm = s.nvm := rfl
@[simp] theorem State.p_cpu (s : State) (f : Fld) (v : Nat) : (s.p f v).cpu = s.cpu := rfl
@[simp] theorem State.p_graft (s : State) (f : Fld) (v : Nat) : (s.p f v).graft = s.graft := rfl
@[simp] theorem State.p_tend (s : State) (f : Fld) (v : Nat) : (s.p f v).tend = s.tend := rfl
@[simp] theorem State.p_power (s : State) (f : Fld) (v : Nat) : (s.p f v).power = s.power := rfl
@[simp] theorem State.p_cold (s : State) (f : Fld) (v : Nat) : (s.p f v).cold = s.cold := rfl
@[simp] theorem State.p_xspi (s : State) (f : Fld) (v : Nat) : (s.p f v).xspi = s.xspi := rfl
@[simp] theorem State.p_boot (s : State) (f : Fld) (v : Nat) : (s.p f v).boot = s.boot := rfl

@[simp] theorem State.inc_pending (s : State) (f : Fld) (i n : Nat) : (s.inc f i n).pending = s.pending := rfl
@[simp] theorem State.inc_prevRegs (s : State) (f : Fld) (i n : Nat) : (s.inc f i n).prevRegs = s.prevRegs := rfl
@[simp] theorem State.inc_switchTick (s : State) (f : Fld) (i n : Nat) : (s.inc f i n).switchTick = s.switchTick := rfl
@[simp] theorem State.inc_olderRegs (s : State) (f : Fld) (i n : Nat) : (s.inc f i n).olderRegs = s.olderRegs := rfl
@[simp] theorem State.inc_latches (s : State) (f : Fld) (i n : Nat) : (s.inc f i n).latches = s.latches := rfl
@[simp] theorem State.inc_held (s : State) (f : Fld) (i n : Nat) : (s.inc f i n).held = s.held := rfl
@[simp] theorem State.inc_nowNs (s : State) (f : Fld) (i n : Nat) : (s.inc f i n).nowNs = s.nowNs := rfl
@[simp] theorem State.inc_freeCtr (s : State) (f : Fld) (i n : Nat) : (s.inc f i n).freeCtr = s.freeCtr := rfl
@[simp] theorem State.inc_outbox (s : State) (f : Fld) (i n : Nat) : (s.inc f i n).outbox = s.outbox := rfl
@[simp] theorem State.inc_trellis (s : State) (f : Fld) (i n : Nat) : (s.inc f i n).trellis = s.trellis := rfl
@[simp] theorem State.inc_hist (s : State) (f : Fld) (i n : Nat) : (s.inc f i n).hist = s.hist := rfl
@[simp] theorem State.inc_beds (s : State) (f : Fld) (i n : Nat) : (s.inc f i n).beds = s.beds := rfl
@[simp] theorem State.inc_followers (s : State) (f : Fld) (i n : Nat) : (s.inc f i n).followers = s.followers := rfl
@[simp] theorem State.inc_rises (s : State) (f : Fld) (i n : Nat) : (s.inc f i n).rises = s.rises := rfl
@[simp] theorem State.inc_shearTick (s : State) (f : Fld) (i n : Nat) : (s.inc f i n).shearTick = s.shearTick := rfl
@[simp] theorem State.inc_behind (s : State) (f : Fld) (i n : Nat) : (s.inc f i n).behind = s.behind := rfl
@[simp] theorem State.inc_sentinels (s : State) (f : Fld) (i n : Nat) : (s.inc f i n).sentinels = s.sentinels := rfl
@[simp] theorem State.inc_lanesT (s : State) (f : Fld) (i n : Nat) : (s.inc f i n).lanesT = s.lanesT := rfl
@[simp] theorem State.inc_lanesH (s : State) (f : Fld) (i n : Nat) : (s.inc f i n).lanesH = s.lanesH := rfl
@[simp] theorem State.inc_ports (s : State) (f : Fld) (i n : Nat) : (s.inc f i n).ports = s.ports := rfl
@[simp] theorem State.inc_dibber (s : State) (f : Fld) (i n : Nat) : (s.inc f i n).dibber = s.dibber := rfl
@[simp] theorem State.inc_sums (s : State) (f : Fld) (i n : Nat) : (s.inc f i n).sums = s.sums := rfl
@[simp] theorem State.inc_fsegs (s : State) (f : Fld) (i n : Nat) : (s.inc f i n).fsegs = s.fsegs := rfl
@[simp] theorem State.inc_furrows (s : State) (f : Fld) (i n : Nat) : (s.inc f i n).furrows = s.furrows := rfl
@[simp] theorem State.inc_hubQ (s : State) (f : Fld) (i n : Nat) : (s.inc f i n).hubQ = s.hubQ := rfl
@[simp] theorem State.inc_looks (s : State) (f : Fld) (i n : Nat) : (s.inc f i n).looks = s.looks := rfl
@[simp] theorem State.inc_closes (s : State) (f : Fld) (i n : Nat) : (s.inc f i n).closes = s.closes := rfl
@[simp] theorem State.inc_intake (s : State) (f : Fld) (i n : Nat) : (s.inc f i n).intake = s.intake := rfl
@[simp] theorem State.inc_intakeFrom (s : State) (f : Fld) (i n : Nat) : (s.inc f i n).intakeFrom = s.intakeFrom := rfl
@[simp] theorem State.inc_stopping (s : State) (f : Fld) (i n : Nat) : (s.inc f i n).stopping = s.stopping := rfl
@[simp] theorem State.inc_mem (s : State) (f : Fld) (i n : Nat) : (s.inc f i n).mem = s.mem := rfl
@[simp] theorem State.inc_engines (s : State) (f : Fld) (i n : Nat) : (s.inc f i n).engines = s.engines := rfl
@[simp] theorem State.inc_harvest (s : State) (f : Fld) (i n : Nat) : (s.inc f i n).harvest = s.harvest := rfl
@[simp] theorem State.inc_zcs (s : State) (f : Fld) (i n : Nat) : (s.inc f i n).zcs = s.zcs := rfl
@[simp] theorem State.inc_image (s : State) (f : Fld) (i n : Nat) : (s.inc f i n).image = s.image := rfl
@[simp] theorem State.inc_slow (s : State) (f : Fld) (i n : Nat) : (s.inc f i n).slow = s.slow := rfl
@[simp] theorem State.inc_wall (s : State) (f : Fld) (i n : Nat) : (s.inc f i n).wall = s.wall := rfl
@[simp] theorem State.inc_hdg (s : State) (f : Fld) (i n : Nat) : (s.inc f i n).hdg = s.hdg := rfl
@[simp] theorem State.inc_nvm (s : State) (f : Fld) (i n : Nat) : (s.inc f i n).nvm = s.nvm := rfl
@[simp] theorem State.inc_cpu (s : State) (f : Fld) (i n : Nat) : (s.inc f i n).cpu = s.cpu := rfl
@[simp] theorem State.inc_graft (s : State) (f : Fld) (i n : Nat) : (s.inc f i n).graft = s.graft := rfl
@[simp] theorem State.inc_tend (s : State) (f : Fld) (i n : Nat) : (s.inc f i n).tend = s.tend := rfl
@[simp] theorem State.inc_power (s : State) (f : Fld) (i n : Nat) : (s.inc f i n).power = s.power := rfl
@[simp] theorem State.inc_cold (s : State) (f : Fld) (i n : Nat) : (s.inc f i n).cold = s.cold := rfl
@[simp] theorem State.inc_xspi (s : State) (f : Fld) (i n : Nat) : (s.inc f i n).xspi = s.xspi := rfl
@[simp] theorem State.inc_boot (s : State) (f : Fld) (i n : Nat) : (s.inc f i n).boot = s.boot := rfl

@[simp] theorem State.incW_pending (s : State) (f : Fld) (i n : Nat) : (s.incW f i n).pending = s.pending := rfl
@[simp] theorem State.incW_prevRegs (s : State) (f : Fld) (i n : Nat) : (s.incW f i n).prevRegs = s.prevRegs := rfl
@[simp] theorem State.incW_switchTick (s : State) (f : Fld) (i n : Nat) : (s.incW f i n).switchTick = s.switchTick := rfl
@[simp] theorem State.incW_olderRegs (s : State) (f : Fld) (i n : Nat) : (s.incW f i n).olderRegs = s.olderRegs := rfl
@[simp] theorem State.incW_latches (s : State) (f : Fld) (i n : Nat) : (s.incW f i n).latches = s.latches := rfl
@[simp] theorem State.incW_held (s : State) (f : Fld) (i n : Nat) : (s.incW f i n).held = s.held := rfl
@[simp] theorem State.incW_nowNs (s : State) (f : Fld) (i n : Nat) : (s.incW f i n).nowNs = s.nowNs := rfl
@[simp] theorem State.incW_freeCtr (s : State) (f : Fld) (i n : Nat) : (s.incW f i n).freeCtr = s.freeCtr := rfl
@[simp] theorem State.incW_outbox (s : State) (f : Fld) (i n : Nat) : (s.incW f i n).outbox = s.outbox := rfl
@[simp] theorem State.incW_trellis (s : State) (f : Fld) (i n : Nat) : (s.incW f i n).trellis = s.trellis := rfl
@[simp] theorem State.incW_hist (s : State) (f : Fld) (i n : Nat) : (s.incW f i n).hist = s.hist := rfl
@[simp] theorem State.incW_beds (s : State) (f : Fld) (i n : Nat) : (s.incW f i n).beds = s.beds := rfl
@[simp] theorem State.incW_followers (s : State) (f : Fld) (i n : Nat) : (s.incW f i n).followers = s.followers := rfl
@[simp] theorem State.incW_rises (s : State) (f : Fld) (i n : Nat) : (s.incW f i n).rises = s.rises := rfl
@[simp] theorem State.incW_shearTick (s : State) (f : Fld) (i n : Nat) : (s.incW f i n).shearTick = s.shearTick := rfl
@[simp] theorem State.incW_behind (s : State) (f : Fld) (i n : Nat) : (s.incW f i n).behind = s.behind := rfl
@[simp] theorem State.incW_sentinels (s : State) (f : Fld) (i n : Nat) : (s.incW f i n).sentinels = s.sentinels := rfl
@[simp] theorem State.incW_lanesT (s : State) (f : Fld) (i n : Nat) : (s.incW f i n).lanesT = s.lanesT := rfl
@[simp] theorem State.incW_lanesH (s : State) (f : Fld) (i n : Nat) : (s.incW f i n).lanesH = s.lanesH := rfl
@[simp] theorem State.incW_ports (s : State) (f : Fld) (i n : Nat) : (s.incW f i n).ports = s.ports := rfl
@[simp] theorem State.incW_dibber (s : State) (f : Fld) (i n : Nat) : (s.incW f i n).dibber = s.dibber := rfl
@[simp] theorem State.incW_sums (s : State) (f : Fld) (i n : Nat) : (s.incW f i n).sums = s.sums := rfl
@[simp] theorem State.incW_fsegs (s : State) (f : Fld) (i n : Nat) : (s.incW f i n).fsegs = s.fsegs := rfl
@[simp] theorem State.incW_furrows (s : State) (f : Fld) (i n : Nat) : (s.incW f i n).furrows = s.furrows := rfl
@[simp] theorem State.incW_hubQ (s : State) (f : Fld) (i n : Nat) : (s.incW f i n).hubQ = s.hubQ := rfl
@[simp] theorem State.incW_looks (s : State) (f : Fld) (i n : Nat) : (s.incW f i n).looks = s.looks := rfl
@[simp] theorem State.incW_closes (s : State) (f : Fld) (i n : Nat) : (s.incW f i n).closes = s.closes := rfl
@[simp] theorem State.incW_intake (s : State) (f : Fld) (i n : Nat) : (s.incW f i n).intake = s.intake := rfl
@[simp] theorem State.incW_intakeFrom (s : State) (f : Fld) (i n : Nat) : (s.incW f i n).intakeFrom = s.intakeFrom := rfl
@[simp] theorem State.incW_stopping (s : State) (f : Fld) (i n : Nat) : (s.incW f i n).stopping = s.stopping := rfl
@[simp] theorem State.incW_mem (s : State) (f : Fld) (i n : Nat) : (s.incW f i n).mem = s.mem := rfl
@[simp] theorem State.incW_engines (s : State) (f : Fld) (i n : Nat) : (s.incW f i n).engines = s.engines := rfl
@[simp] theorem State.incW_harvest (s : State) (f : Fld) (i n : Nat) : (s.incW f i n).harvest = s.harvest := rfl
@[simp] theorem State.incW_zcs (s : State) (f : Fld) (i n : Nat) : (s.incW f i n).zcs = s.zcs := rfl
@[simp] theorem State.incW_image (s : State) (f : Fld) (i n : Nat) : (s.incW f i n).image = s.image := rfl
@[simp] theorem State.incW_slow (s : State) (f : Fld) (i n : Nat) : (s.incW f i n).slow = s.slow := rfl
@[simp] theorem State.incW_wall (s : State) (f : Fld) (i n : Nat) : (s.incW f i n).wall = s.wall := rfl
@[simp] theorem State.incW_hdg (s : State) (f : Fld) (i n : Nat) : (s.incW f i n).hdg = s.hdg := rfl
@[simp] theorem State.incW_nvm (s : State) (f : Fld) (i n : Nat) : (s.incW f i n).nvm = s.nvm := rfl
@[simp] theorem State.incW_cpu (s : State) (f : Fld) (i n : Nat) : (s.incW f i n).cpu = s.cpu := rfl
@[simp] theorem State.incW_graft (s : State) (f : Fld) (i n : Nat) : (s.incW f i n).graft = s.graft := rfl
@[simp] theorem State.incW_tend (s : State) (f : Fld) (i n : Nat) : (s.incW f i n).tend = s.tend := rfl
@[simp] theorem State.incW_power (s : State) (f : Fld) (i n : Nat) : (s.incW f i n).power = s.power := rfl
@[simp] theorem State.incW_cold (s : State) (f : Fld) (i n : Nat) : (s.incW f i n).cold = s.cold := rfl
@[simp] theorem State.incW_xspi (s : State) (f : Fld) (i n : Nat) : (s.incW f i n).xspi = s.xspi := rfl
@[simp] theorem State.incW_boot (s : State) (f : Fld) (i n : Nat) : (s.incW f i n).boot = s.boot := rfl

@[simp] theorem State.pbit_pending (s : State) (f : Fld) (i n : Nat) (b : Bool) : (s.pbit f i n b).pending = s.pending := rfl
@[simp] theorem State.pbit_prevRegs (s : State) (f : Fld) (i n : Nat) (b : Bool) : (s.pbit f i n b).prevRegs = s.prevRegs := rfl
@[simp] theorem State.pbit_switchTick (s : State) (f : Fld) (i n : Nat) (b : Bool) : (s.pbit f i n b).switchTick = s.switchTick := rfl
@[simp] theorem State.pbit_olderRegs (s : State) (f : Fld) (i n : Nat) (b : Bool) : (s.pbit f i n b).olderRegs = s.olderRegs := rfl
@[simp] theorem State.pbit_latches (s : State) (f : Fld) (i n : Nat) (b : Bool) : (s.pbit f i n b).latches = s.latches := rfl
@[simp] theorem State.pbit_held (s : State) (f : Fld) (i n : Nat) (b : Bool) : (s.pbit f i n b).held = s.held := rfl
@[simp] theorem State.pbit_nowNs (s : State) (f : Fld) (i n : Nat) (b : Bool) : (s.pbit f i n b).nowNs = s.nowNs := rfl
@[simp] theorem State.pbit_freeCtr (s : State) (f : Fld) (i n : Nat) (b : Bool) : (s.pbit f i n b).freeCtr = s.freeCtr := rfl
@[simp] theorem State.pbit_outbox (s : State) (f : Fld) (i n : Nat) (b : Bool) : (s.pbit f i n b).outbox = s.outbox := rfl
@[simp] theorem State.pbit_trellis (s : State) (f : Fld) (i n : Nat) (b : Bool) : (s.pbit f i n b).trellis = s.trellis := rfl
@[simp] theorem State.pbit_hist (s : State) (f : Fld) (i n : Nat) (b : Bool) : (s.pbit f i n b).hist = s.hist := rfl
@[simp] theorem State.pbit_beds (s : State) (f : Fld) (i n : Nat) (b : Bool) : (s.pbit f i n b).beds = s.beds := rfl
@[simp] theorem State.pbit_followers (s : State) (f : Fld) (i n : Nat) (b : Bool) : (s.pbit f i n b).followers = s.followers := rfl
@[simp] theorem State.pbit_rises (s : State) (f : Fld) (i n : Nat) (b : Bool) : (s.pbit f i n b).rises = s.rises := rfl
@[simp] theorem State.pbit_shearTick (s : State) (f : Fld) (i n : Nat) (b : Bool) : (s.pbit f i n b).shearTick = s.shearTick := rfl
@[simp] theorem State.pbit_behind (s : State) (f : Fld) (i n : Nat) (b : Bool) : (s.pbit f i n b).behind = s.behind := rfl
@[simp] theorem State.pbit_sentinels (s : State) (f : Fld) (i n : Nat) (b : Bool) : (s.pbit f i n b).sentinels = s.sentinels := rfl
@[simp] theorem State.pbit_lanesT (s : State) (f : Fld) (i n : Nat) (b : Bool) : (s.pbit f i n b).lanesT = s.lanesT := rfl
@[simp] theorem State.pbit_lanesH (s : State) (f : Fld) (i n : Nat) (b : Bool) : (s.pbit f i n b).lanesH = s.lanesH := rfl
@[simp] theorem State.pbit_ports (s : State) (f : Fld) (i n : Nat) (b : Bool) : (s.pbit f i n b).ports = s.ports := rfl
@[simp] theorem State.pbit_dibber (s : State) (f : Fld) (i n : Nat) (b : Bool) : (s.pbit f i n b).dibber = s.dibber := rfl
@[simp] theorem State.pbit_sums (s : State) (f : Fld) (i n : Nat) (b : Bool) : (s.pbit f i n b).sums = s.sums := rfl
@[simp] theorem State.pbit_fsegs (s : State) (f : Fld) (i n : Nat) (b : Bool) : (s.pbit f i n b).fsegs = s.fsegs := rfl
@[simp] theorem State.pbit_furrows (s : State) (f : Fld) (i n : Nat) (b : Bool) : (s.pbit f i n b).furrows = s.furrows := rfl
@[simp] theorem State.pbit_hubQ (s : State) (f : Fld) (i n : Nat) (b : Bool) : (s.pbit f i n b).hubQ = s.hubQ := rfl
@[simp] theorem State.pbit_looks (s : State) (f : Fld) (i n : Nat) (b : Bool) : (s.pbit f i n b).looks = s.looks := rfl
@[simp] theorem State.pbit_closes (s : State) (f : Fld) (i n : Nat) (b : Bool) : (s.pbit f i n b).closes = s.closes := rfl
@[simp] theorem State.pbit_intake (s : State) (f : Fld) (i n : Nat) (b : Bool) : (s.pbit f i n b).intake = s.intake := rfl
@[simp] theorem State.pbit_intakeFrom (s : State) (f : Fld) (i n : Nat) (b : Bool) : (s.pbit f i n b).intakeFrom = s.intakeFrom := rfl
@[simp] theorem State.pbit_stopping (s : State) (f : Fld) (i n : Nat) (b : Bool) : (s.pbit f i n b).stopping = s.stopping := rfl
@[simp] theorem State.pbit_mem (s : State) (f : Fld) (i n : Nat) (b : Bool) : (s.pbit f i n b).mem = s.mem := rfl
@[simp] theorem State.pbit_engines (s : State) (f : Fld) (i n : Nat) (b : Bool) : (s.pbit f i n b).engines = s.engines := rfl
@[simp] theorem State.pbit_harvest (s : State) (f : Fld) (i n : Nat) (b : Bool) : (s.pbit f i n b).harvest = s.harvest := rfl
@[simp] theorem State.pbit_zcs (s : State) (f : Fld) (i n : Nat) (b : Bool) : (s.pbit f i n b).zcs = s.zcs := rfl
@[simp] theorem State.pbit_image (s : State) (f : Fld) (i n : Nat) (b : Bool) : (s.pbit f i n b).image = s.image := rfl
@[simp] theorem State.pbit_slow (s : State) (f : Fld) (i n : Nat) (b : Bool) : (s.pbit f i n b).slow = s.slow := rfl
@[simp] theorem State.pbit_wall (s : State) (f : Fld) (i n : Nat) (b : Bool) : (s.pbit f i n b).wall = s.wall := rfl
@[simp] theorem State.pbit_hdg (s : State) (f : Fld) (i n : Nat) (b : Bool) : (s.pbit f i n b).hdg = s.hdg := rfl
@[simp] theorem State.pbit_nvm (s : State) (f : Fld) (i n : Nat) (b : Bool) : (s.pbit f i n b).nvm = s.nvm := rfl
@[simp] theorem State.pbit_cpu (s : State) (f : Fld) (i n : Nat) (b : Bool) : (s.pbit f i n b).cpu = s.cpu := rfl
@[simp] theorem State.pbit_graft (s : State) (f : Fld) (i n : Nat) (b : Bool) : (s.pbit f i n b).graft = s.graft := rfl
@[simp] theorem State.pbit_tend (s : State) (f : Fld) (i n : Nat) (b : Bool) : (s.pbit f i n b).tend = s.tend := rfl
@[simp] theorem State.pbit_power (s : State) (f : Fld) (i n : Nat) (b : Bool) : (s.pbit f i n b).power = s.power := rfl
@[simp] theorem State.pbit_cold (s : State) (f : Fld) (i n : Nat) (b : Bool) : (s.pbit f i n b).cold = s.cold := rfl
@[simp] theorem State.pbit_xspi (s : State) (f : Fld) (i n : Nat) (b : Bool) : (s.pbit f i n b).xspi = s.xspi := rfl
@[simp] theorem State.pbit_boot (s : State) (f : Fld) (i n : Nat) (b : Bool) : (s.pbit f i n b).boot = s.boot := rfl

@[simp] theorem State.event_pending (s : State) (page : Nat) : (s.event page).pending = s.pending := rfl
@[simp] theorem State.event_prevRegs (s : State) (page : Nat) : (s.event page).prevRegs = s.prevRegs := rfl
@[simp] theorem State.event_switchTick (s : State) (page : Nat) : (s.event page).switchTick = s.switchTick := rfl
@[simp] theorem State.event_olderRegs (s : State) (page : Nat) : (s.event page).olderRegs = s.olderRegs := rfl
@[simp] theorem State.event_latches (s : State) (page : Nat) : (s.event page).latches = s.latches := rfl
@[simp] theorem State.event_held (s : State) (page : Nat) : (s.event page).held = s.held := rfl
@[simp] theorem State.event_nowNs (s : State) (page : Nat) : (s.event page).nowNs = s.nowNs := rfl
@[simp] theorem State.event_freeCtr (s : State) (page : Nat) : (s.event page).freeCtr = s.freeCtr := rfl
@[simp] theorem State.event_outbox (s : State) (page : Nat) : (s.event page).outbox = s.outbox := rfl
@[simp] theorem State.event_trellis (s : State) (page : Nat) : (s.event page).trellis = s.trellis := rfl
@[simp] theorem State.event_hist (s : State) (page : Nat) : (s.event page).hist = s.hist := rfl
@[simp] theorem State.event_beds (s : State) (page : Nat) : (s.event page).beds = s.beds := rfl
@[simp] theorem State.event_followers (s : State) (page : Nat) : (s.event page).followers = s.followers := rfl
@[simp] theorem State.event_rises (s : State) (page : Nat) : (s.event page).rises = s.rises := rfl
@[simp] theorem State.event_shearTick (s : State) (page : Nat) : (s.event page).shearTick = s.shearTick := rfl
@[simp] theorem State.event_behind (s : State) (page : Nat) : (s.event page).behind = s.behind := rfl
@[simp] theorem State.event_sentinels (s : State) (page : Nat) : (s.event page).sentinels = s.sentinels := rfl
@[simp] theorem State.event_lanesT (s : State) (page : Nat) : (s.event page).lanesT = s.lanesT := rfl
@[simp] theorem State.event_lanesH (s : State) (page : Nat) : (s.event page).lanesH = s.lanesH := rfl
@[simp] theorem State.event_ports (s : State) (page : Nat) : (s.event page).ports = s.ports := rfl
@[simp] theorem State.event_dibber (s : State) (page : Nat) : (s.event page).dibber = s.dibber := rfl
@[simp] theorem State.event_sums (s : State) (page : Nat) : (s.event page).sums = s.sums := rfl
@[simp] theorem State.event_fsegs (s : State) (page : Nat) : (s.event page).fsegs = s.fsegs := rfl
@[simp] theorem State.event_furrows (s : State) (page : Nat) : (s.event page).furrows = s.furrows := rfl
@[simp] theorem State.event_hubQ (s : State) (page : Nat) : (s.event page).hubQ = s.hubQ := rfl
@[simp] theorem State.event_looks (s : State) (page : Nat) : (s.event page).looks = s.looks := rfl
@[simp] theorem State.event_closes (s : State) (page : Nat) : (s.event page).closes = s.closes := rfl
@[simp] theorem State.event_intake (s : State) (page : Nat) : (s.event page).intake = s.intake := rfl
@[simp] theorem State.event_intakeFrom (s : State) (page : Nat) : (s.event page).intakeFrom = s.intakeFrom := rfl
@[simp] theorem State.event_stopping (s : State) (page : Nat) : (s.event page).stopping = s.stopping := rfl
@[simp] theorem State.event_mem (s : State) (page : Nat) : (s.event page).mem = s.mem := rfl
@[simp] theorem State.event_engines (s : State) (page : Nat) : (s.event page).engines = s.engines := rfl
@[simp] theorem State.event_harvest (s : State) (page : Nat) : (s.event page).harvest = s.harvest := rfl
@[simp] theorem State.event_zcs (s : State) (page : Nat) : (s.event page).zcs = s.zcs := rfl
@[simp] theorem State.event_image (s : State) (page : Nat) : (s.event page).image = s.image := rfl
@[simp] theorem State.event_slow (s : State) (page : Nat) : (s.event page).slow = s.slow := rfl
@[simp] theorem State.event_wall (s : State) (page : Nat) : (s.event page).wall = s.wall := rfl
@[simp] theorem State.event_hdg (s : State) (page : Nat) : (s.event page).hdg = s.hdg := rfl
@[simp] theorem State.event_nvm (s : State) (page : Nat) : (s.event page).nvm = s.nvm := rfl
@[simp] theorem State.event_cpu (s : State) (page : Nat) : (s.event page).cpu = s.cpu := rfl
@[simp] theorem State.event_graft (s : State) (page : Nat) : (s.event page).graft = s.graft := rfl
@[simp] theorem State.event_tend (s : State) (page : Nat) : (s.event page).tend = s.tend := rfl
@[simp] theorem State.event_power (s : State) (page : Nat) : (s.event page).power = s.power := rfl
@[simp] theorem State.event_cold (s : State) (page : Nat) : (s.event page).cold = s.cold := rfl
@[simp] theorem State.event_xspi (s : State) (page : Nat) : (s.event page).xspi = s.xspi := rfl
@[simp] theorem State.event_boot (s : State) (page : Nat) : (s.event page).boot = s.boot := rfl

@[simp] theorem State.emit_pending (s : State) (e : Emit) : (s.emit e).pending = s.pending := rfl
@[simp] theorem State.emit_regs (s : State) (e : Emit) : (s.emit e).regs = s.regs := rfl
@[simp] theorem State.emit_prevRegs (s : State) (e : Emit) : (s.emit e).prevRegs = s.prevRegs := rfl
@[simp] theorem State.emit_switchTick (s : State) (e : Emit) : (s.emit e).switchTick = s.switchTick := rfl
@[simp] theorem State.emit_olderRegs (s : State) (e : Emit) : (s.emit e).olderRegs = s.olderRegs := rfl
@[simp] theorem State.emit_latches (s : State) (e : Emit) : (s.emit e).latches = s.latches := rfl
@[simp] theorem State.emit_held (s : State) (e : Emit) : (s.emit e).held = s.held := rfl
@[simp] theorem State.emit_nowNs (s : State) (e : Emit) : (s.emit e).nowNs = s.nowNs := rfl
@[simp] theorem State.emit_freeCtr (s : State) (e : Emit) : (s.emit e).freeCtr = s.freeCtr := rfl
@[simp] theorem State.emit_trellis (s : State) (e : Emit) : (s.emit e).trellis = s.trellis := rfl
@[simp] theorem State.emit_hist (s : State) (e : Emit) : (s.emit e).hist = s.hist := rfl
@[simp] theorem State.emit_beds (s : State) (e : Emit) : (s.emit e).beds = s.beds := rfl
@[simp] theorem State.emit_followers (s : State) (e : Emit) : (s.emit e).followers = s.followers := rfl
@[simp] theorem State.emit_rises (s : State) (e : Emit) : (s.emit e).rises = s.rises := rfl
@[simp] theorem State.emit_shearTick (s : State) (e : Emit) : (s.emit e).shearTick = s.shearTick := rfl
@[simp] theorem State.emit_behind (s : State) (e : Emit) : (s.emit e).behind = s.behind := rfl
@[simp] theorem State.emit_sentinels (s : State) (e : Emit) : (s.emit e).sentinels = s.sentinels := rfl
@[simp] theorem State.emit_lanesT (s : State) (e : Emit) : (s.emit e).lanesT = s.lanesT := rfl
@[simp] theorem State.emit_lanesH (s : State) (e : Emit) : (s.emit e).lanesH = s.lanesH := rfl
@[simp] theorem State.emit_ports (s : State) (e : Emit) : (s.emit e).ports = s.ports := rfl
@[simp] theorem State.emit_dibber (s : State) (e : Emit) : (s.emit e).dibber = s.dibber := rfl
@[simp] theorem State.emit_sums (s : State) (e : Emit) : (s.emit e).sums = s.sums := rfl
@[simp] theorem State.emit_fsegs (s : State) (e : Emit) : (s.emit e).fsegs = s.fsegs := rfl
@[simp] theorem State.emit_furrows (s : State) (e : Emit) : (s.emit e).furrows = s.furrows := rfl
@[simp] theorem State.emit_hubQ (s : State) (e : Emit) : (s.emit e).hubQ = s.hubQ := rfl
@[simp] theorem State.emit_looks (s : State) (e : Emit) : (s.emit e).looks = s.looks := rfl
@[simp] theorem State.emit_closes (s : State) (e : Emit) : (s.emit e).closes = s.closes := rfl
@[simp] theorem State.emit_intake (s : State) (e : Emit) : (s.emit e).intake = s.intake := rfl
@[simp] theorem State.emit_intakeFrom (s : State) (e : Emit) : (s.emit e).intakeFrom = s.intakeFrom := rfl
@[simp] theorem State.emit_stopping (s : State) (e : Emit) : (s.emit e).stopping = s.stopping := rfl
@[simp] theorem State.emit_mem (s : State) (e : Emit) : (s.emit e).mem = s.mem := rfl
@[simp] theorem State.emit_engines (s : State) (e : Emit) : (s.emit e).engines = s.engines := rfl
@[simp] theorem State.emit_harvest (s : State) (e : Emit) : (s.emit e).harvest = s.harvest := rfl
@[simp] theorem State.emit_zcs (s : State) (e : Emit) : (s.emit e).zcs = s.zcs := rfl
@[simp] theorem State.emit_image (s : State) (e : Emit) : (s.emit e).image = s.image := rfl
@[simp] theorem State.emit_slow (s : State) (e : Emit) : (s.emit e).slow = s.slow := rfl
@[simp] theorem State.emit_wall (s : State) (e : Emit) : (s.emit e).wall = s.wall := rfl
@[simp] theorem State.emit_hdg (s : State) (e : Emit) : (s.emit e).hdg = s.hdg := rfl
@[simp] theorem State.emit_nvm (s : State) (e : Emit) : (s.emit e).nvm = s.nvm := rfl
@[simp] theorem State.emit_cpu (s : State) (e : Emit) : (s.emit e).cpu = s.cpu := rfl
@[simp] theorem State.emit_graft (s : State) (e : Emit) : (s.emit e).graft = s.graft := rfl
@[simp] theorem State.emit_tend (s : State) (e : Emit) : (s.emit e).tend = s.tend := rfl
@[simp] theorem State.emit_power (s : State) (e : Emit) : (s.emit e).power = s.power := rfl
@[simp] theorem State.emit_cold (s : State) (e : Emit) : (s.emit e).cold = s.cold := rfl
@[simp] theorem State.emit_xspi (s : State) (e : Emit) : (s.emit e).xspi = s.xspi := rfl
@[simp] theorem State.emit_boot (s : State) (e : Emit) : (s.emit e).boot = s.boot := rfl

@[simp] theorem State.drew_pending (s : State) : (s.drew).pending = s.pending := rfl
@[simp] theorem State.drew_regs (s : State) : (s.drew).regs = s.regs := rfl
@[simp] theorem State.drew_prevRegs (s : State) : (s.drew).prevRegs = s.prevRegs := rfl
@[simp] theorem State.drew_switchTick (s : State) : (s.drew).switchTick = s.switchTick := rfl
@[simp] theorem State.drew_olderRegs (s : State) : (s.drew).olderRegs = s.olderRegs := rfl
@[simp] theorem State.drew_latches (s : State) : (s.drew).latches = s.latches := rfl
@[simp] theorem State.drew_held (s : State) : (s.drew).held = s.held := rfl
@[simp] theorem State.drew_nowNs (s : State) : (s.drew).nowNs = s.nowNs := rfl
@[simp] theorem State.drew_outbox (s : State) : (s.drew).outbox = s.outbox := rfl
@[simp] theorem State.drew_trellis (s : State) : (s.drew).trellis = s.trellis := rfl
@[simp] theorem State.drew_hist (s : State) : (s.drew).hist = s.hist := rfl
@[simp] theorem State.drew_beds (s : State) : (s.drew).beds = s.beds := rfl
@[simp] theorem State.drew_followers (s : State) : (s.drew).followers = s.followers := rfl
@[simp] theorem State.drew_rises (s : State) : (s.drew).rises = s.rises := rfl
@[simp] theorem State.drew_shearTick (s : State) : (s.drew).shearTick = s.shearTick := rfl
@[simp] theorem State.drew_behind (s : State) : (s.drew).behind = s.behind := rfl
@[simp] theorem State.drew_sentinels (s : State) : (s.drew).sentinels = s.sentinels := rfl
@[simp] theorem State.drew_lanesT (s : State) : (s.drew).lanesT = s.lanesT := rfl
@[simp] theorem State.drew_lanesH (s : State) : (s.drew).lanesH = s.lanesH := rfl
@[simp] theorem State.drew_ports (s : State) : (s.drew).ports = s.ports := rfl
@[simp] theorem State.drew_dibber (s : State) : (s.drew).dibber = s.dibber := rfl
@[simp] theorem State.drew_sums (s : State) : (s.drew).sums = s.sums := rfl
@[simp] theorem State.drew_fsegs (s : State) : (s.drew).fsegs = s.fsegs := rfl
@[simp] theorem State.drew_furrows (s : State) : (s.drew).furrows = s.furrows := rfl
@[simp] theorem State.drew_hubQ (s : State) : (s.drew).hubQ = s.hubQ := rfl
@[simp] theorem State.drew_looks (s : State) : (s.drew).looks = s.looks := rfl
@[simp] theorem State.drew_closes (s : State) : (s.drew).closes = s.closes := rfl
@[simp] theorem State.drew_intake (s : State) : (s.drew).intake = s.intake := rfl
@[simp] theorem State.drew_intakeFrom (s : State) : (s.drew).intakeFrom = s.intakeFrom := rfl
@[simp] theorem State.drew_stopping (s : State) : (s.drew).stopping = s.stopping := rfl
@[simp] theorem State.drew_mem (s : State) : (s.drew).mem = s.mem := rfl
@[simp] theorem State.drew_engines (s : State) : (s.drew).engines = s.engines := rfl
@[simp] theorem State.drew_harvest (s : State) : (s.drew).harvest = s.harvest := rfl
@[simp] theorem State.drew_zcs (s : State) : (s.drew).zcs = s.zcs := rfl
@[simp] theorem State.drew_image (s : State) : (s.drew).image = s.image := rfl
@[simp] theorem State.drew_slow (s : State) : (s.drew).slow = s.slow := rfl
@[simp] theorem State.drew_wall (s : State) : (s.drew).wall = s.wall := rfl
@[simp] theorem State.drew_hdg (s : State) : (s.drew).hdg = s.hdg := rfl
@[simp] theorem State.drew_nvm (s : State) : (s.drew).nvm = s.nvm := rfl
@[simp] theorem State.drew_cpu (s : State) : (s.drew).cpu = s.cpu := rfl
@[simp] theorem State.drew_graft (s : State) : (s.drew).graft = s.graft := rfl
@[simp] theorem State.drew_tend (s : State) : (s.drew).tend = s.tend := rfl
@[simp] theorem State.drew_power (s : State) : (s.drew).power = s.power := rfl
@[simp] theorem State.drew_cold (s : State) : (s.drew).cold = s.cold := rfl
@[simp] theorem State.drew_xspi (s : State) : (s.drew).xspi = s.xspi := rfl
@[simp] theorem State.drew_boot (s : State) : (s.drew).boot = s.boot := rfl

@[simp] theorem State.tr_pending (s : State) (f : Trellis → Trellis) : (s.tr f).pending = s.pending := rfl
@[simp] theorem State.tr_regs (s : State) (f : Trellis → Trellis) : (s.tr f).regs = s.regs := rfl
@[simp] theorem State.tr_prevRegs (s : State) (f : Trellis → Trellis) : (s.tr f).prevRegs = s.prevRegs := rfl
@[simp] theorem State.tr_switchTick (s : State) (f : Trellis → Trellis) : (s.tr f).switchTick = s.switchTick := rfl
@[simp] theorem State.tr_olderRegs (s : State) (f : Trellis → Trellis) : (s.tr f).olderRegs = s.olderRegs := rfl
@[simp] theorem State.tr_latches (s : State) (f : Trellis → Trellis) : (s.tr f).latches = s.latches := rfl
@[simp] theorem State.tr_held (s : State) (f : Trellis → Trellis) : (s.tr f).held = s.held := rfl
@[simp] theorem State.tr_nowNs (s : State) (f : Trellis → Trellis) : (s.tr f).nowNs = s.nowNs := rfl
@[simp] theorem State.tr_freeCtr (s : State) (f : Trellis → Trellis) : (s.tr f).freeCtr = s.freeCtr := rfl
@[simp] theorem State.tr_outbox (s : State) (f : Trellis → Trellis) : (s.tr f).outbox = s.outbox := rfl
@[simp] theorem State.tr_hist (s : State) (f : Trellis → Trellis) : (s.tr f).hist = s.hist := rfl
@[simp] theorem State.tr_beds (s : State) (f : Trellis → Trellis) : (s.tr f).beds = s.beds := rfl
@[simp] theorem State.tr_followers (s : State) (f : Trellis → Trellis) : (s.tr f).followers = s.followers := rfl
@[simp] theorem State.tr_rises (s : State) (f : Trellis → Trellis) : (s.tr f).rises = s.rises := rfl
@[simp] theorem State.tr_shearTick (s : State) (f : Trellis → Trellis) : (s.tr f).shearTick = s.shearTick := rfl
@[simp] theorem State.tr_behind (s : State) (f : Trellis → Trellis) : (s.tr f).behind = s.behind := rfl
@[simp] theorem State.tr_sentinels (s : State) (f : Trellis → Trellis) : (s.tr f).sentinels = s.sentinels := rfl
@[simp] theorem State.tr_lanesT (s : State) (f : Trellis → Trellis) : (s.tr f).lanesT = s.lanesT := rfl
@[simp] theorem State.tr_lanesH (s : State) (f : Trellis → Trellis) : (s.tr f).lanesH = s.lanesH := rfl
@[simp] theorem State.tr_ports (s : State) (f : Trellis → Trellis) : (s.tr f).ports = s.ports := rfl
@[simp] theorem State.tr_dibber (s : State) (f : Trellis → Trellis) : (s.tr f).dibber = s.dibber := rfl
@[simp] theorem State.tr_sums (s : State) (f : Trellis → Trellis) : (s.tr f).sums = s.sums := rfl
@[simp] theorem State.tr_fsegs (s : State) (f : Trellis → Trellis) : (s.tr f).fsegs = s.fsegs := rfl
@[simp] theorem State.tr_furrows (s : State) (f : Trellis → Trellis) : (s.tr f).furrows = s.furrows := rfl
@[simp] theorem State.tr_hubQ (s : State) (f : Trellis → Trellis) : (s.tr f).hubQ = s.hubQ := rfl
@[simp] theorem State.tr_looks (s : State) (f : Trellis → Trellis) : (s.tr f).looks = s.looks := rfl
@[simp] theorem State.tr_closes (s : State) (f : Trellis → Trellis) : (s.tr f).closes = s.closes := rfl
@[simp] theorem State.tr_intake (s : State) (f : Trellis → Trellis) : (s.tr f).intake = s.intake := rfl
@[simp] theorem State.tr_intakeFrom (s : State) (f : Trellis → Trellis) : (s.tr f).intakeFrom = s.intakeFrom := rfl
@[simp] theorem State.tr_stopping (s : State) (f : Trellis → Trellis) : (s.tr f).stopping = s.stopping := rfl
@[simp] theorem State.tr_mem (s : State) (f : Trellis → Trellis) : (s.tr f).mem = s.mem := rfl
@[simp] theorem State.tr_engines (s : State) (f : Trellis → Trellis) : (s.tr f).engines = s.engines := rfl
@[simp] theorem State.tr_harvest (s : State) (f : Trellis → Trellis) : (s.tr f).harvest = s.harvest := rfl
@[simp] theorem State.tr_zcs (s : State) (f : Trellis → Trellis) : (s.tr f).zcs = s.zcs := rfl
@[simp] theorem State.tr_image (s : State) (f : Trellis → Trellis) : (s.tr f).image = s.image := rfl
@[simp] theorem State.tr_slow (s : State) (f : Trellis → Trellis) : (s.tr f).slow = s.slow := rfl
@[simp] theorem State.tr_wall (s : State) (f : Trellis → Trellis) : (s.tr f).wall = s.wall := rfl
@[simp] theorem State.tr_hdg (s : State) (f : Trellis → Trellis) : (s.tr f).hdg = s.hdg := rfl
@[simp] theorem State.tr_nvm (s : State) (f : Trellis → Trellis) : (s.tr f).nvm = s.nvm := rfl
@[simp] theorem State.tr_cpu (s : State) (f : Trellis → Trellis) : (s.tr f).cpu = s.cpu := rfl
@[simp] theorem State.tr_graft (s : State) (f : Trellis → Trellis) : (s.tr f).graft = s.graft := rfl
@[simp] theorem State.tr_tend (s : State) (f : Trellis → Trellis) : (s.tr f).tend = s.tend := rfl
@[simp] theorem State.tr_power (s : State) (f : Trellis → Trellis) : (s.tr f).power = s.power := rfl
@[simp] theorem State.tr_cold (s : State) (f : Trellis → Trellis) : (s.tr f).cold = s.cold := rfl
@[simp] theorem State.tr_xspi (s : State) (f : Trellis → Trellis) : (s.tr f).xspi = s.xspi := rfl
@[simp] theorem State.tr_boot (s : State) (f : Trellis → Trellis) : (s.tr f).boot = s.boot := rfl

@[simp] theorem State.bed_pending (s : State) (b : Nat) (f : Bed → Bed) : (s.bed b f).pending = s.pending := rfl
@[simp] theorem State.bed_regs (s : State) (b : Nat) (f : Bed → Bed) : (s.bed b f).regs = s.regs := rfl
@[simp] theorem State.bed_prevRegs (s : State) (b : Nat) (f : Bed → Bed) : (s.bed b f).prevRegs = s.prevRegs := rfl
@[simp] theorem State.bed_switchTick (s : State) (b : Nat) (f : Bed → Bed) : (s.bed b f).switchTick = s.switchTick := rfl
@[simp] theorem State.bed_olderRegs (s : State) (b : Nat) (f : Bed → Bed) : (s.bed b f).olderRegs = s.olderRegs := rfl
@[simp] theorem State.bed_latches (s : State) (b : Nat) (f : Bed → Bed) : (s.bed b f).latches = s.latches := rfl
@[simp] theorem State.bed_held (s : State) (b : Nat) (f : Bed → Bed) : (s.bed b f).held = s.held := rfl
@[simp] theorem State.bed_nowNs (s : State) (b : Nat) (f : Bed → Bed) : (s.bed b f).nowNs = s.nowNs := rfl
@[simp] theorem State.bed_freeCtr (s : State) (b : Nat) (f : Bed → Bed) : (s.bed b f).freeCtr = s.freeCtr := rfl
@[simp] theorem State.bed_outbox (s : State) (b : Nat) (f : Bed → Bed) : (s.bed b f).outbox = s.outbox := rfl
@[simp] theorem State.bed_trellis (s : State) (b : Nat) (f : Bed → Bed) : (s.bed b f).trellis = s.trellis := rfl
@[simp] theorem State.bed_hist (s : State) (b : Nat) (f : Bed → Bed) : (s.bed b f).hist = s.hist := rfl
@[simp] theorem State.bed_followers (s : State) (b : Nat) (f : Bed → Bed) : (s.bed b f).followers = s.followers := rfl
@[simp] theorem State.bed_rises (s : State) (b : Nat) (f : Bed → Bed) : (s.bed b f).rises = s.rises := rfl
@[simp] theorem State.bed_shearTick (s : State) (b : Nat) (f : Bed → Bed) : (s.bed b f).shearTick = s.shearTick := rfl
@[simp] theorem State.bed_behind (s : State) (b : Nat) (f : Bed → Bed) : (s.bed b f).behind = s.behind := rfl
@[simp] theorem State.bed_sentinels (s : State) (b : Nat) (f : Bed → Bed) : (s.bed b f).sentinels = s.sentinels := rfl
@[simp] theorem State.bed_lanesT (s : State) (b : Nat) (f : Bed → Bed) : (s.bed b f).lanesT = s.lanesT := rfl
@[simp] theorem State.bed_lanesH (s : State) (b : Nat) (f : Bed → Bed) : (s.bed b f).lanesH = s.lanesH := rfl
@[simp] theorem State.bed_ports (s : State) (b : Nat) (f : Bed → Bed) : (s.bed b f).ports = s.ports := rfl
@[simp] theorem State.bed_dibber (s : State) (b : Nat) (f : Bed → Bed) : (s.bed b f).dibber = s.dibber := rfl
@[simp] theorem State.bed_sums (s : State) (b : Nat) (f : Bed → Bed) : (s.bed b f).sums = s.sums := rfl
@[simp] theorem State.bed_fsegs (s : State) (b : Nat) (f : Bed → Bed) : (s.bed b f).fsegs = s.fsegs := rfl
@[simp] theorem State.bed_furrows (s : State) (b : Nat) (f : Bed → Bed) : (s.bed b f).furrows = s.furrows := rfl
@[simp] theorem State.bed_hubQ (s : State) (b : Nat) (f : Bed → Bed) : (s.bed b f).hubQ = s.hubQ := rfl
@[simp] theorem State.bed_looks (s : State) (b : Nat) (f : Bed → Bed) : (s.bed b f).looks = s.looks := rfl
@[simp] theorem State.bed_closes (s : State) (b : Nat) (f : Bed → Bed) : (s.bed b f).closes = s.closes := rfl
@[simp] theorem State.bed_intake (s : State) (b : Nat) (f : Bed → Bed) : (s.bed b f).intake = s.intake := rfl
@[simp] theorem State.bed_intakeFrom (s : State) (b : Nat) (f : Bed → Bed) : (s.bed b f).intakeFrom = s.intakeFrom := rfl
@[simp] theorem State.bed_stopping (s : State) (b : Nat) (f : Bed → Bed) : (s.bed b f).stopping = s.stopping := rfl
@[simp] theorem State.bed_mem (s : State) (b : Nat) (f : Bed → Bed) : (s.bed b f).mem = s.mem := rfl
@[simp] theorem State.bed_engines (s : State) (b : Nat) (f : Bed → Bed) : (s.bed b f).engines = s.engines := rfl
@[simp] theorem State.bed_harvest (s : State) (b : Nat) (f : Bed → Bed) : (s.bed b f).harvest = s.harvest := rfl
@[simp] theorem State.bed_zcs (s : State) (b : Nat) (f : Bed → Bed) : (s.bed b f).zcs = s.zcs := rfl
@[simp] theorem State.bed_image (s : State) (b : Nat) (f : Bed → Bed) : (s.bed b f).image = s.image := rfl
@[simp] theorem State.bed_slow (s : State) (b : Nat) (f : Bed → Bed) : (s.bed b f).slow = s.slow := rfl
@[simp] theorem State.bed_wall (s : State) (b : Nat) (f : Bed → Bed) : (s.bed b f).wall = s.wall := rfl
@[simp] theorem State.bed_hdg (s : State) (b : Nat) (f : Bed → Bed) : (s.bed b f).hdg = s.hdg := rfl
@[simp] theorem State.bed_nvm (s : State) (b : Nat) (f : Bed → Bed) : (s.bed b f).nvm = s.nvm := rfl
@[simp] theorem State.bed_cpu (s : State) (b : Nat) (f : Bed → Bed) : (s.bed b f).cpu = s.cpu := rfl
@[simp] theorem State.bed_graft (s : State) (b : Nat) (f : Bed → Bed) : (s.bed b f).graft = s.graft := rfl
@[simp] theorem State.bed_tend (s : State) (b : Nat) (f : Bed → Bed) : (s.bed b f).tend = s.tend := rfl
@[simp] theorem State.bed_power (s : State) (b : Nat) (f : Bed → Bed) : (s.bed b f).power = s.power := rfl
@[simp] theorem State.bed_cold (s : State) (b : Nat) (f : Bed → Bed) : (s.bed b f).cold = s.cold := rfl
@[simp] theorem State.bed_xspi (s : State) (b : Nat) (f : Bed → Bed) : (s.bed b f).xspi = s.xspi := rfl
@[simp] theorem State.bed_boot (s : State) (b : Nat) (f : Bed → Bed) : (s.bed b f).boot = s.boot := rfl

@[simp] theorem State.port_pending (s : State) (n : Nat) (f : Port → Port) : (s.port n f).pending = s.pending := rfl
@[simp] theorem State.port_regs (s : State) (n : Nat) (f : Port → Port) : (s.port n f).regs = s.regs := rfl
@[simp] theorem State.port_prevRegs (s : State) (n : Nat) (f : Port → Port) : (s.port n f).prevRegs = s.prevRegs := rfl
@[simp] theorem State.port_switchTick (s : State) (n : Nat) (f : Port → Port) : (s.port n f).switchTick = s.switchTick := rfl
@[simp] theorem State.port_olderRegs (s : State) (n : Nat) (f : Port → Port) : (s.port n f).olderRegs = s.olderRegs := rfl
@[simp] theorem State.port_latches (s : State) (n : Nat) (f : Port → Port) : (s.port n f).latches = s.latches := rfl
@[simp] theorem State.port_held (s : State) (n : Nat) (f : Port → Port) : (s.port n f).held = s.held := rfl
@[simp] theorem State.port_nowNs (s : State) (n : Nat) (f : Port → Port) : (s.port n f).nowNs = s.nowNs := rfl
@[simp] theorem State.port_freeCtr (s : State) (n : Nat) (f : Port → Port) : (s.port n f).freeCtr = s.freeCtr := rfl
@[simp] theorem State.port_outbox (s : State) (n : Nat) (f : Port → Port) : (s.port n f).outbox = s.outbox := rfl
@[simp] theorem State.port_trellis (s : State) (n : Nat) (f : Port → Port) : (s.port n f).trellis = s.trellis := rfl
@[simp] theorem State.port_hist (s : State) (n : Nat) (f : Port → Port) : (s.port n f).hist = s.hist := rfl
@[simp] theorem State.port_beds (s : State) (n : Nat) (f : Port → Port) : (s.port n f).beds = s.beds := rfl
@[simp] theorem State.port_followers (s : State) (n : Nat) (f : Port → Port) : (s.port n f).followers = s.followers := rfl
@[simp] theorem State.port_rises (s : State) (n : Nat) (f : Port → Port) : (s.port n f).rises = s.rises := rfl
@[simp] theorem State.port_shearTick (s : State) (n : Nat) (f : Port → Port) : (s.port n f).shearTick = s.shearTick := rfl
@[simp] theorem State.port_behind (s : State) (n : Nat) (f : Port → Port) : (s.port n f).behind = s.behind := rfl
@[simp] theorem State.port_sentinels (s : State) (n : Nat) (f : Port → Port) : (s.port n f).sentinels = s.sentinels := rfl
@[simp] theorem State.port_lanesT (s : State) (n : Nat) (f : Port → Port) : (s.port n f).lanesT = s.lanesT := rfl
@[simp] theorem State.port_lanesH (s : State) (n : Nat) (f : Port → Port) : (s.port n f).lanesH = s.lanesH := rfl
@[simp] theorem State.port_dibber (s : State) (n : Nat) (f : Port → Port) : (s.port n f).dibber = s.dibber := rfl
@[simp] theorem State.port_sums (s : State) (n : Nat) (f : Port → Port) : (s.port n f).sums = s.sums := rfl
@[simp] theorem State.port_fsegs (s : State) (n : Nat) (f : Port → Port) : (s.port n f).fsegs = s.fsegs := rfl
@[simp] theorem State.port_furrows (s : State) (n : Nat) (f : Port → Port) : (s.port n f).furrows = s.furrows := rfl
@[simp] theorem State.port_hubQ (s : State) (n : Nat) (f : Port → Port) : (s.port n f).hubQ = s.hubQ := rfl
@[simp] theorem State.port_looks (s : State) (n : Nat) (f : Port → Port) : (s.port n f).looks = s.looks := rfl
@[simp] theorem State.port_closes (s : State) (n : Nat) (f : Port → Port) : (s.port n f).closes = s.closes := rfl
@[simp] theorem State.port_intake (s : State) (n : Nat) (f : Port → Port) : (s.port n f).intake = s.intake := rfl
@[simp] theorem State.port_intakeFrom (s : State) (n : Nat) (f : Port → Port) : (s.port n f).intakeFrom = s.intakeFrom := rfl
@[simp] theorem State.port_stopping (s : State) (n : Nat) (f : Port → Port) : (s.port n f).stopping = s.stopping := rfl
@[simp] theorem State.port_mem (s : State) (n : Nat) (f : Port → Port) : (s.port n f).mem = s.mem := rfl
@[simp] theorem State.port_engines (s : State) (n : Nat) (f : Port → Port) : (s.port n f).engines = s.engines := rfl
@[simp] theorem State.port_harvest (s : State) (n : Nat) (f : Port → Port) : (s.port n f).harvest = s.harvest := rfl
@[simp] theorem State.port_zcs (s : State) (n : Nat) (f : Port → Port) : (s.port n f).zcs = s.zcs := rfl
@[simp] theorem State.port_image (s : State) (n : Nat) (f : Port → Port) : (s.port n f).image = s.image := rfl
@[simp] theorem State.port_slow (s : State) (n : Nat) (f : Port → Port) : (s.port n f).slow = s.slow := rfl
@[simp] theorem State.port_wall (s : State) (n : Nat) (f : Port → Port) : (s.port n f).wall = s.wall := rfl
@[simp] theorem State.port_hdg (s : State) (n : Nat) (f : Port → Port) : (s.port n f).hdg = s.hdg := rfl
@[simp] theorem State.port_nvm (s : State) (n : Nat) (f : Port → Port) : (s.port n f).nvm = s.nvm := rfl
@[simp] theorem State.port_cpu (s : State) (n : Nat) (f : Port → Port) : (s.port n f).cpu = s.cpu := rfl
@[simp] theorem State.port_graft (s : State) (n : Nat) (f : Port → Port) : (s.port n f).graft = s.graft := rfl
@[simp] theorem State.port_tend (s : State) (n : Nat) (f : Port → Port) : (s.port n f).tend = s.tend := rfl
@[simp] theorem State.port_power (s : State) (n : Nat) (f : Port → Port) : (s.port n f).power = s.power := rfl
@[simp] theorem State.port_cold (s : State) (n : Nat) (f : Port → Port) : (s.port n f).cold = s.cold := rfl
@[simp] theorem State.port_xspi (s : State) (n : Nat) (f : Port → Port) : (s.port n f).xspi = s.xspi := rfl
@[simp] theorem State.port_boot (s : State) (n : Nat) (f : Port → Port) : (s.port n f).boot = s.boot := rfl

@[simp] theorem State.furrow_pending (s : State) (n : Nat) (f : Furrow → Furrow) : (s.furrow n f).pending = s.pending := rfl
@[simp] theorem State.furrow_regs (s : State) (n : Nat) (f : Furrow → Furrow) : (s.furrow n f).regs = s.regs := rfl
@[simp] theorem State.furrow_prevRegs (s : State) (n : Nat) (f : Furrow → Furrow) : (s.furrow n f).prevRegs = s.prevRegs := rfl
@[simp] theorem State.furrow_switchTick (s : State) (n : Nat) (f : Furrow → Furrow) : (s.furrow n f).switchTick = s.switchTick := rfl
@[simp] theorem State.furrow_olderRegs (s : State) (n : Nat) (f : Furrow → Furrow) : (s.furrow n f).olderRegs = s.olderRegs := rfl
@[simp] theorem State.furrow_latches (s : State) (n : Nat) (f : Furrow → Furrow) : (s.furrow n f).latches = s.latches := rfl
@[simp] theorem State.furrow_held (s : State) (n : Nat) (f : Furrow → Furrow) : (s.furrow n f).held = s.held := rfl
@[simp] theorem State.furrow_nowNs (s : State) (n : Nat) (f : Furrow → Furrow) : (s.furrow n f).nowNs = s.nowNs := rfl
@[simp] theorem State.furrow_freeCtr (s : State) (n : Nat) (f : Furrow → Furrow) : (s.furrow n f).freeCtr = s.freeCtr := rfl
@[simp] theorem State.furrow_outbox (s : State) (n : Nat) (f : Furrow → Furrow) : (s.furrow n f).outbox = s.outbox := rfl
@[simp] theorem State.furrow_trellis (s : State) (n : Nat) (f : Furrow → Furrow) : (s.furrow n f).trellis = s.trellis := rfl
@[simp] theorem State.furrow_hist (s : State) (n : Nat) (f : Furrow → Furrow) : (s.furrow n f).hist = s.hist := rfl
@[simp] theorem State.furrow_beds (s : State) (n : Nat) (f : Furrow → Furrow) : (s.furrow n f).beds = s.beds := rfl
@[simp] theorem State.furrow_followers (s : State) (n : Nat) (f : Furrow → Furrow) : (s.furrow n f).followers = s.followers := rfl
@[simp] theorem State.furrow_rises (s : State) (n : Nat) (f : Furrow → Furrow) : (s.furrow n f).rises = s.rises := rfl
@[simp] theorem State.furrow_shearTick (s : State) (n : Nat) (f : Furrow → Furrow) : (s.furrow n f).shearTick = s.shearTick := rfl
@[simp] theorem State.furrow_behind (s : State) (n : Nat) (f : Furrow → Furrow) : (s.furrow n f).behind = s.behind := rfl
@[simp] theorem State.furrow_sentinels (s : State) (n : Nat) (f : Furrow → Furrow) : (s.furrow n f).sentinels = s.sentinels := rfl
@[simp] theorem State.furrow_lanesT (s : State) (n : Nat) (f : Furrow → Furrow) : (s.furrow n f).lanesT = s.lanesT := rfl
@[simp] theorem State.furrow_lanesH (s : State) (n : Nat) (f : Furrow → Furrow) : (s.furrow n f).lanesH = s.lanesH := rfl
@[simp] theorem State.furrow_ports (s : State) (n : Nat) (f : Furrow → Furrow) : (s.furrow n f).ports = s.ports := rfl
@[simp] theorem State.furrow_dibber (s : State) (n : Nat) (f : Furrow → Furrow) : (s.furrow n f).dibber = s.dibber := rfl
@[simp] theorem State.furrow_sums (s : State) (n : Nat) (f : Furrow → Furrow) : (s.furrow n f).sums = s.sums := rfl
@[simp] theorem State.furrow_fsegs (s : State) (n : Nat) (f : Furrow → Furrow) : (s.furrow n f).fsegs = s.fsegs := rfl
@[simp] theorem State.furrow_hubQ (s : State) (n : Nat) (f : Furrow → Furrow) : (s.furrow n f).hubQ = s.hubQ := rfl
@[simp] theorem State.furrow_looks (s : State) (n : Nat) (f : Furrow → Furrow) : (s.furrow n f).looks = s.looks := rfl
@[simp] theorem State.furrow_closes (s : State) (n : Nat) (f : Furrow → Furrow) : (s.furrow n f).closes = s.closes := rfl
@[simp] theorem State.furrow_intake (s : State) (n : Nat) (f : Furrow → Furrow) : (s.furrow n f).intake = s.intake := rfl
@[simp] theorem State.furrow_intakeFrom (s : State) (n : Nat) (f : Furrow → Furrow) : (s.furrow n f).intakeFrom = s.intakeFrom := rfl
@[simp] theorem State.furrow_stopping (s : State) (n : Nat) (f : Furrow → Furrow) : (s.furrow n f).stopping = s.stopping := rfl
@[simp] theorem State.furrow_mem (s : State) (n : Nat) (f : Furrow → Furrow) : (s.furrow n f).mem = s.mem := rfl
@[simp] theorem State.furrow_engines (s : State) (n : Nat) (f : Furrow → Furrow) : (s.furrow n f).engines = s.engines := rfl
@[simp] theorem State.furrow_harvest (s : State) (n : Nat) (f : Furrow → Furrow) : (s.furrow n f).harvest = s.harvest := rfl
@[simp] theorem State.furrow_zcs (s : State) (n : Nat) (f : Furrow → Furrow) : (s.furrow n f).zcs = s.zcs := rfl
@[simp] theorem State.furrow_image (s : State) (n : Nat) (f : Furrow → Furrow) : (s.furrow n f).image = s.image := rfl
@[simp] theorem State.furrow_slow (s : State) (n : Nat) (f : Furrow → Furrow) : (s.furrow n f).slow = s.slow := rfl
@[simp] theorem State.furrow_wall (s : State) (n : Nat) (f : Furrow → Furrow) : (s.furrow n f).wall = s.wall := rfl
@[simp] theorem State.furrow_hdg (s : State) (n : Nat) (f : Furrow → Furrow) : (s.furrow n f).hdg = s.hdg := rfl
@[simp] theorem State.furrow_nvm (s : State) (n : Nat) (f : Furrow → Furrow) : (s.furrow n f).nvm = s.nvm := rfl
@[simp] theorem State.furrow_cpu (s : State) (n : Nat) (f : Furrow → Furrow) : (s.furrow n f).cpu = s.cpu := rfl
@[simp] theorem State.furrow_graft (s : State) (n : Nat) (f : Furrow → Furrow) : (s.furrow n f).graft = s.graft := rfl
@[simp] theorem State.furrow_tend (s : State) (n : Nat) (f : Furrow → Furrow) : (s.furrow n f).tend = s.tend := rfl
@[simp] theorem State.furrow_power (s : State) (n : Nat) (f : Furrow → Furrow) : (s.furrow n f).power = s.power := rfl
@[simp] theorem State.furrow_cold (s : State) (n : Nat) (f : Furrow → Furrow) : (s.furrow n f).cold = s.cold := rfl
@[simp] theorem State.furrow_xspi (s : State) (n : Nat) (f : Furrow → Furrow) : (s.furrow n f).xspi = s.xspi := rfl
@[simp] theorem State.furrow_boot (s : State) (n : Nat) (f : Furrow → Furrow) : (s.furrow n f).boot = s.boot := rfl

@[simp] theorem State.poke_pending (s : State) (a : Nat) (l : List Byte) : (s.poke a l).pending = s.pending := rfl
@[simp] theorem State.poke_regs (s : State) (a : Nat) (l : List Byte) : (s.poke a l).regs = s.regs := rfl
@[simp] theorem State.poke_prevRegs (s : State) (a : Nat) (l : List Byte) : (s.poke a l).prevRegs = s.prevRegs := rfl
@[simp] theorem State.poke_switchTick (s : State) (a : Nat) (l : List Byte) : (s.poke a l).switchTick = s.switchTick := rfl
@[simp] theorem State.poke_olderRegs (s : State) (a : Nat) (l : List Byte) : (s.poke a l).olderRegs = s.olderRegs := rfl
@[simp] theorem State.poke_latches (s : State) (a : Nat) (l : List Byte) : (s.poke a l).latches = s.latches := rfl
@[simp] theorem State.poke_held (s : State) (a : Nat) (l : List Byte) : (s.poke a l).held = s.held := rfl
@[simp] theorem State.poke_nowNs (s : State) (a : Nat) (l : List Byte) : (s.poke a l).nowNs = s.nowNs := rfl
@[simp] theorem State.poke_freeCtr (s : State) (a : Nat) (l : List Byte) : (s.poke a l).freeCtr = s.freeCtr := rfl
@[simp] theorem State.poke_outbox (s : State) (a : Nat) (l : List Byte) : (s.poke a l).outbox = s.outbox := rfl
@[simp] theorem State.poke_trellis (s : State) (a : Nat) (l : List Byte) : (s.poke a l).trellis = s.trellis := rfl
@[simp] theorem State.poke_hist (s : State) (a : Nat) (l : List Byte) : (s.poke a l).hist = s.hist := rfl
@[simp] theorem State.poke_beds (s : State) (a : Nat) (l : List Byte) : (s.poke a l).beds = s.beds := rfl
@[simp] theorem State.poke_followers (s : State) (a : Nat) (l : List Byte) : (s.poke a l).followers = s.followers := rfl
@[simp] theorem State.poke_rises (s : State) (a : Nat) (l : List Byte) : (s.poke a l).rises = s.rises := rfl
@[simp] theorem State.poke_shearTick (s : State) (a : Nat) (l : List Byte) : (s.poke a l).shearTick = s.shearTick := rfl
@[simp] theorem State.poke_behind (s : State) (a : Nat) (l : List Byte) : (s.poke a l).behind = s.behind := rfl
@[simp] theorem State.poke_sentinels (s : State) (a : Nat) (l : List Byte) : (s.poke a l).sentinels = s.sentinels := rfl
@[simp] theorem State.poke_lanesT (s : State) (a : Nat) (l : List Byte) : (s.poke a l).lanesT = s.lanesT := rfl
@[simp] theorem State.poke_lanesH (s : State) (a : Nat) (l : List Byte) : (s.poke a l).lanesH = s.lanesH := rfl
@[simp] theorem State.poke_ports (s : State) (a : Nat) (l : List Byte) : (s.poke a l).ports = s.ports := rfl
@[simp] theorem State.poke_dibber (s : State) (a : Nat) (l : List Byte) : (s.poke a l).dibber = s.dibber := rfl
@[simp] theorem State.poke_sums (s : State) (a : Nat) (l : List Byte) : (s.poke a l).sums = s.sums := rfl
@[simp] theorem State.poke_fsegs (s : State) (a : Nat) (l : List Byte) : (s.poke a l).fsegs = s.fsegs := rfl
@[simp] theorem State.poke_furrows (s : State) (a : Nat) (l : List Byte) : (s.poke a l).furrows = s.furrows := rfl
@[simp] theorem State.poke_hubQ (s : State) (a : Nat) (l : List Byte) : (s.poke a l).hubQ = s.hubQ := rfl
@[simp] theorem State.poke_looks (s : State) (a : Nat) (l : List Byte) : (s.poke a l).looks = s.looks := rfl
@[simp] theorem State.poke_closes (s : State) (a : Nat) (l : List Byte) : (s.poke a l).closes = s.closes := rfl
@[simp] theorem State.poke_intake (s : State) (a : Nat) (l : List Byte) : (s.poke a l).intake = s.intake := rfl
@[simp] theorem State.poke_intakeFrom (s : State) (a : Nat) (l : List Byte) : (s.poke a l).intakeFrom = s.intakeFrom := rfl
@[simp] theorem State.poke_stopping (s : State) (a : Nat) (l : List Byte) : (s.poke a l).stopping = s.stopping := rfl
@[simp] theorem State.poke_engines (s : State) (a : Nat) (l : List Byte) : (s.poke a l).engines = s.engines := rfl
@[simp] theorem State.poke_harvest (s : State) (a : Nat) (l : List Byte) : (s.poke a l).harvest = s.harvest := rfl
@[simp] theorem State.poke_zcs (s : State) (a : Nat) (l : List Byte) : (s.poke a l).zcs = s.zcs := rfl
@[simp] theorem State.poke_image (s : State) (a : Nat) (l : List Byte) : (s.poke a l).image = s.image := rfl
@[simp] theorem State.poke_slow (s : State) (a : Nat) (l : List Byte) : (s.poke a l).slow = s.slow := rfl
@[simp] theorem State.poke_wall (s : State) (a : Nat) (l : List Byte) : (s.poke a l).wall = s.wall := rfl
@[simp] theorem State.poke_hdg (s : State) (a : Nat) (l : List Byte) : (s.poke a l).hdg = s.hdg := rfl
@[simp] theorem State.poke_nvm (s : State) (a : Nat) (l : List Byte) : (s.poke a l).nvm = s.nvm := rfl
@[simp] theorem State.poke_cpu (s : State) (a : Nat) (l : List Byte) : (s.poke a l).cpu = s.cpu := rfl
@[simp] theorem State.poke_graft (s : State) (a : Nat) (l : List Byte) : (s.poke a l).graft = s.graft := rfl
@[simp] theorem State.poke_tend (s : State) (a : Nat) (l : List Byte) : (s.poke a l).tend = s.tend := rfl
@[simp] theorem State.poke_power (s : State) (a : Nat) (l : List Byte) : (s.poke a l).power = s.power := rfl
@[simp] theorem State.poke_cold (s : State) (a : Nat) (l : List Byte) : (s.poke a l).cold = s.cold := rfl
@[simp] theorem State.poke_xspi (s : State) (a : Nat) (l : List Byte) : (s.poke a l).xspi = s.xspi := rfl
@[simp] theorem State.poke_boot (s : State) (a : Nat) (l : List Byte) : (s.poke a l).boot = s.boot := rfl

@[simp] theorem State.elapse_pending (s : State) (n : Nat) : (s.elapse n).pending = s.pending := rfl
@[simp] theorem State.elapse_regs (s : State) (n : Nat) : (s.elapse n).regs = s.regs := rfl
@[simp] theorem State.elapse_prevRegs (s : State) (n : Nat) : (s.elapse n).prevRegs = s.prevRegs := rfl
@[simp] theorem State.elapse_switchTick (s : State) (n : Nat) : (s.elapse n).switchTick = s.switchTick := rfl
@[simp] theorem State.elapse_olderRegs (s : State) (n : Nat) : (s.elapse n).olderRegs = s.olderRegs := rfl
@[simp] theorem State.elapse_latches (s : State) (n : Nat) : (s.elapse n).latches = s.latches := rfl
@[simp] theorem State.elapse_held (s : State) (n : Nat) : (s.elapse n).held = s.held := rfl
@[simp] theorem State.elapse_freeCtr (s : State) (n : Nat) : (s.elapse n).freeCtr = s.freeCtr := rfl
@[simp] theorem State.elapse_outbox (s : State) (n : Nat) : (s.elapse n).outbox = s.outbox := rfl
@[simp] theorem State.elapse_trellis (s : State) (n : Nat) : (s.elapse n).trellis = s.trellis := rfl
@[simp] theorem State.elapse_hist (s : State) (n : Nat) : (s.elapse n).hist = s.hist := rfl
@[simp] theorem State.elapse_beds (s : State) (n : Nat) : (s.elapse n).beds = s.beds := rfl
@[simp] theorem State.elapse_followers (s : State) (n : Nat) : (s.elapse n).followers = s.followers := rfl
@[simp] theorem State.elapse_rises (s : State) (n : Nat) : (s.elapse n).rises = s.rises := rfl
@[simp] theorem State.elapse_shearTick (s : State) (n : Nat) : (s.elapse n).shearTick = s.shearTick := rfl
@[simp] theorem State.elapse_behind (s : State) (n : Nat) : (s.elapse n).behind = s.behind := rfl
@[simp] theorem State.elapse_sentinels (s : State) (n : Nat) : (s.elapse n).sentinels = s.sentinels := rfl
@[simp] theorem State.elapse_lanesT (s : State) (n : Nat) : (s.elapse n).lanesT = s.lanesT := rfl
@[simp] theorem State.elapse_lanesH (s : State) (n : Nat) : (s.elapse n).lanesH = s.lanesH := rfl
@[simp] theorem State.elapse_ports (s : State) (n : Nat) : (s.elapse n).ports = s.ports := rfl
@[simp] theorem State.elapse_dibber (s : State) (n : Nat) : (s.elapse n).dibber = s.dibber := rfl
@[simp] theorem State.elapse_sums (s : State) (n : Nat) : (s.elapse n).sums = s.sums := rfl
@[simp] theorem State.elapse_fsegs (s : State) (n : Nat) : (s.elapse n).fsegs = s.fsegs := rfl
@[simp] theorem State.elapse_furrows (s : State) (n : Nat) : (s.elapse n).furrows = s.furrows := rfl
@[simp] theorem State.elapse_hubQ (s : State) (n : Nat) : (s.elapse n).hubQ = s.hubQ := rfl
@[simp] theorem State.elapse_looks (s : State) (n : Nat) : (s.elapse n).looks = s.looks := rfl
@[simp] theorem State.elapse_closes (s : State) (n : Nat) : (s.elapse n).closes = s.closes := rfl
@[simp] theorem State.elapse_intake (s : State) (n : Nat) : (s.elapse n).intake = s.intake := rfl
@[simp] theorem State.elapse_intakeFrom (s : State) (n : Nat) : (s.elapse n).intakeFrom = s.intakeFrom := rfl
@[simp] theorem State.elapse_stopping (s : State) (n : Nat) : (s.elapse n).stopping = s.stopping := rfl
@[simp] theorem State.elapse_mem (s : State) (n : Nat) : (s.elapse n).mem = s.mem := rfl
@[simp] theorem State.elapse_engines (s : State) (n : Nat) : (s.elapse n).engines = s.engines := rfl
@[simp] theorem State.elapse_harvest (s : State) (n : Nat) : (s.elapse n).harvest = s.harvest := rfl
@[simp] theorem State.elapse_zcs (s : State) (n : Nat) : (s.elapse n).zcs = s.zcs := rfl
@[simp] theorem State.elapse_image (s : State) (n : Nat) : (s.elapse n).image = s.image := rfl
@[simp] theorem State.elapse_slow (s : State) (n : Nat) : (s.elapse n).slow = s.slow := rfl
@[simp] theorem State.elapse_hdg (s : State) (n : Nat) : (s.elapse n).hdg = s.hdg := rfl
@[simp] theorem State.elapse_nvm (s : State) (n : Nat) : (s.elapse n).nvm = s.nvm := rfl
@[simp] theorem State.elapse_cpu (s : State) (n : Nat) : (s.elapse n).cpu = s.cpu := rfl
@[simp] theorem State.elapse_graft (s : State) (n : Nat) : (s.elapse n).graft = s.graft := rfl
@[simp] theorem State.elapse_tend (s : State) (n : Nat) : (s.elapse n).tend = s.tend := rfl
@[simp] theorem State.elapse_power (s : State) (n : Nat) : (s.elapse n).power = s.power := rfl
@[simp] theorem State.elapse_cold (s : State) (n : Nat) : (s.elapse n).cold = s.cold := rfl
@[simp] theorem State.elapse_xspi (s : State) (n : Nat) : (s.elapse n).xspi = s.xspi := rfl
@[simp] theorem State.elapse_boot (s : State) (n : Nat) : (s.elapse n).boot = s.boot := rfl

@[simp] theorem State.emit_gi (s : State) (e : Emit) (g : Fld) (j : Nat) : (s.emit e).gi g j = s.gi g j := rfl
@[simp] theorem State.drew_gi (s : State) (g : Fld) (j : Nat) : (s.drew).gi g j = s.gi g j := rfl
@[simp] theorem State.tr_gi (s : State) (f : Trellis → Trellis) (g : Fld) (j : Nat) : (s.tr f).gi g j = s.gi g j := rfl
@[simp] theorem State.bed_gi (s : State) (b : Nat) (f : Bed → Bed) (g : Fld) (j : Nat) : (s.bed b f).gi g j = s.gi g j := rfl
@[simp] theorem State.port_gi (s : State) (n : Nat) (f : Port → Port) (g : Fld) (j : Nat) : (s.port n f).gi g j = s.gi g j := rfl
@[simp] theorem State.furrow_gi (s : State) (n : Nat) (f : Furrow → Furrow) (g : Fld) (j : Nat) : (s.furrow n f).gi g j = s.gi g j := rfl
@[simp] theorem State.poke_gi (s : State) (a : Nat) (l : List Byte) (g : Fld) (j : Nat) : (s.poke a l).gi g j = s.gi g j := rfl
@[simp] theorem State.elapse_gi (s : State) (n : Nat) (g : Fld) (j : Nat) : (s.elapse n).gi g j = s.gi g j := rfl

@[simp] theorem State.tr_trellis (s : State) (f : Trellis → Trellis) : (s.tr f).trellis = f s.trellis := rfl
@[simp] theorem State.emit_outbox (s : State) (e : Emit) : (s.emit e).outbox = s.outbox ++ [e] := rfl
@[simp] theorem State.drew_freeCtr (s : State) : s.drew.freeCtr = s.freeCtr + 1 := rfl
@[simp] theorem State.elapse_nowNs (s : State) (n : Nat) : (s.elapse n).nowNs = s.nowNs + n := rfl
@[simp] theorem State.bed_beds (s : State) (b : Nat) (f : Bed → Bed) : (s.bed b f).beds = modAt s.beds b f := rfl
@[simp] theorem State.port_ports (s : State) (n : Nat) (f : Port → Port) : (s.port n f).ports = modAt s.ports n f := rfl

@[simp] theorem State.mport_pending (s : State) (m : Nat) (f : MPort → MPort) : (s.mport m f).pending = s.pending := rfl
@[simp] theorem State.mport_regs (s : State) (m : Nat) (f : MPort → MPort) : (s.mport m f).regs = s.regs := rfl
@[simp] theorem State.mport_prevRegs (s : State) (m : Nat) (f : MPort → MPort) : (s.mport m f).prevRegs = s.prevRegs := rfl
@[simp] theorem State.mport_switchTick (s : State) (m : Nat) (f : MPort → MPort) : (s.mport m f).switchTick = s.switchTick := rfl
@[simp] theorem State.mport_olderRegs (s : State) (m : Nat) (f : MPort → MPort) : (s.mport m f).olderRegs = s.olderRegs := rfl
@[simp] theorem State.mport_latches (s : State) (m : Nat) (f : MPort → MPort) : (s.mport m f).latches = s.latches := rfl
@[simp] theorem State.mport_held (s : State) (m : Nat) (f : MPort → MPort) : (s.mport m f).held = s.held := rfl
@[simp] theorem State.mport_nowNs (s : State) (m : Nat) (f : MPort → MPort) : (s.mport m f).nowNs = s.nowNs := rfl
@[simp] theorem State.mport_freeCtr (s : State) (m : Nat) (f : MPort → MPort) : (s.mport m f).freeCtr = s.freeCtr := rfl
@[simp] theorem State.mport_outbox (s : State) (m : Nat) (f : MPort → MPort) : (s.mport m f).outbox = s.outbox := rfl
@[simp] theorem State.mport_trellis (s : State) (m : Nat) (f : MPort → MPort) : (s.mport m f).trellis = s.trellis := rfl
@[simp] theorem State.mport_hist (s : State) (m : Nat) (f : MPort → MPort) : (s.mport m f).hist = s.hist := rfl
@[simp] theorem State.mport_beds (s : State) (m : Nat) (f : MPort → MPort) : (s.mport m f).beds = s.beds := rfl
@[simp] theorem State.mport_followers (s : State) (m : Nat) (f : MPort → MPort) : (s.mport m f).followers = s.followers := rfl
@[simp] theorem State.mport_rises (s : State) (m : Nat) (f : MPort → MPort) : (s.mport m f).rises = s.rises := rfl
@[simp] theorem State.mport_shearTick (s : State) (m : Nat) (f : MPort → MPort) : (s.mport m f).shearTick = s.shearTick := rfl
@[simp] theorem State.mport_behind (s : State) (m : Nat) (f : MPort → MPort) : (s.mport m f).behind = s.behind := rfl
@[simp] theorem State.mport_sentinels (s : State) (m : Nat) (f : MPort → MPort) : (s.mport m f).sentinels = s.sentinels := rfl
@[simp] theorem State.mport_lanesT (s : State) (m : Nat) (f : MPort → MPort) : (s.mport m f).lanesT = s.lanesT := rfl
@[simp] theorem State.mport_lanesH (s : State) (m : Nat) (f : MPort → MPort) : (s.mport m f).lanesH = s.lanesH := rfl
@[simp] theorem State.mport_ports (s : State) (m : Nat) (f : MPort → MPort) : (s.mport m f).ports = s.ports := rfl
@[simp] theorem State.mport_dibber (s : State) (m : Nat) (f : MPort → MPort) : (s.mport m f).dibber = s.dibber := rfl
@[simp] theorem State.mport_sums (s : State) (m : Nat) (f : MPort → MPort) : (s.mport m f).sums = s.sums := rfl
@[simp] theorem State.mport_fsegs (s : State) (m : Nat) (f : MPort → MPort) : (s.mport m f).fsegs = s.fsegs := rfl
@[simp] theorem State.mport_furrows (s : State) (m : Nat) (f : MPort → MPort) : (s.mport m f).furrows = s.furrows := rfl
@[simp] theorem State.mport_hubQ (s : State) (m : Nat) (f : MPort → MPort) : (s.mport m f).hubQ = s.hubQ := rfl
@[simp] theorem State.mport_looks (s : State) (m : Nat) (f : MPort → MPort) : (s.mport m f).looks = s.looks := rfl
@[simp] theorem State.mport_closes (s : State) (m : Nat) (f : MPort → MPort) : (s.mport m f).closes = s.closes := rfl
@[simp] theorem State.mport_intake (s : State) (m : Nat) (f : MPort → MPort) : (s.mport m f).intake = s.intake := rfl
@[simp] theorem State.mport_intakeFrom (s : State) (m : Nat) (f : MPort → MPort) : (s.mport m f).intakeFrom = s.intakeFrom := rfl
@[simp] theorem State.mport_stopping (s : State) (m : Nat) (f : MPort → MPort) : (s.mport m f).stopping = s.stopping := rfl
@[simp] theorem State.mport_engines (s : State) (m : Nat) (f : MPort → MPort) : (s.mport m f).engines = s.engines := rfl
@[simp] theorem State.mport_harvest (s : State) (m : Nat) (f : MPort → MPort) : (s.mport m f).harvest = s.harvest := rfl
@[simp] theorem State.mport_zcs (s : State) (m : Nat) (f : MPort → MPort) : (s.mport m f).zcs = s.zcs := rfl
@[simp] theorem State.mport_image (s : State) (m : Nat) (f : MPort → MPort) : (s.mport m f).image = s.image := rfl
@[simp] theorem State.mport_slow (s : State) (m : Nat) (f : MPort → MPort) : (s.mport m f).slow = s.slow := rfl
@[simp] theorem State.mport_wall (s : State) (m : Nat) (f : MPort → MPort) : (s.mport m f).wall = s.wall := rfl
@[simp] theorem State.mport_hdg (s : State) (m : Nat) (f : MPort → MPort) : (s.mport m f).hdg = s.hdg := rfl
@[simp] theorem State.mport_nvm (s : State) (m : Nat) (f : MPort → MPort) : (s.mport m f).nvm = s.nvm := rfl
@[simp] theorem State.mport_cpu (s : State) (m : Nat) (f : MPort → MPort) : (s.mport m f).cpu = s.cpu := rfl
@[simp] theorem State.mport_graft (s : State) (m : Nat) (f : MPort → MPort) : (s.mport m f).graft = s.graft := rfl
@[simp] theorem State.mport_tend (s : State) (m : Nat) (f : MPort → MPort) : (s.mport m f).tend = s.tend := rfl
@[simp] theorem State.mport_power (s : State) (m : Nat) (f : MPort → MPort) : (s.mport m f).power = s.power := rfl
@[simp] theorem State.mport_cold (s : State) (m : Nat) (f : MPort → MPort) : (s.mport m f).cold = s.cold := rfl
@[simp] theorem State.mport_xspi (s : State) (m : Nat) (f : MPort → MPort) : (s.mport m f).xspi = s.xspi := rfl
@[simp] theorem State.mport_boot (s : State) (m : Nat) (f : MPort → MPort) : (s.mport m f).boot = s.boot := rfl
@[simp] theorem State.mport_gi (s : State) (m : Nat) (f : MPort → MPort) (g : Fld) (j : Nat) : (s.mport m f).gi g j = s.gi g j := rfl

@[simp] theorem State.tx_pending (s : State) (n : Nat) (f : Tx → Tx) : (s.tx n f).pending = s.pending := rfl
@[simp] theorem State.tx_regs (s : State) (n : Nat) (f : Tx → Tx) : (s.tx n f).regs = s.regs := rfl
@[simp] theorem State.tx_prevRegs (s : State) (n : Nat) (f : Tx → Tx) : (s.tx n f).prevRegs = s.prevRegs := rfl
@[simp] theorem State.tx_switchTick (s : State) (n : Nat) (f : Tx → Tx) : (s.tx n f).switchTick = s.switchTick := rfl
@[simp] theorem State.tx_olderRegs (s : State) (n : Nat) (f : Tx → Tx) : (s.tx n f).olderRegs = s.olderRegs := rfl
@[simp] theorem State.tx_latches (s : State) (n : Nat) (f : Tx → Tx) : (s.tx n f).latches = s.latches := rfl
@[simp] theorem State.tx_held (s : State) (n : Nat) (f : Tx → Tx) : (s.tx n f).held = s.held := rfl
@[simp] theorem State.tx_nowNs (s : State) (n : Nat) (f : Tx → Tx) : (s.tx n f).nowNs = s.nowNs := rfl
@[simp] theorem State.tx_freeCtr (s : State) (n : Nat) (f : Tx → Tx) : (s.tx n f).freeCtr = s.freeCtr := rfl
@[simp] theorem State.tx_outbox (s : State) (n : Nat) (f : Tx → Tx) : (s.tx n f).outbox = s.outbox := rfl
@[simp] theorem State.tx_trellis (s : State) (n : Nat) (f : Tx → Tx) : (s.tx n f).trellis = s.trellis := rfl
@[simp] theorem State.tx_hist (s : State) (n : Nat) (f : Tx → Tx) : (s.tx n f).hist = s.hist := rfl
@[simp] theorem State.tx_beds (s : State) (n : Nat) (f : Tx → Tx) : (s.tx n f).beds = s.beds := rfl
@[simp] theorem State.tx_followers (s : State) (n : Nat) (f : Tx → Tx) : (s.tx n f).followers = s.followers := rfl
@[simp] theorem State.tx_rises (s : State) (n : Nat) (f : Tx → Tx) : (s.tx n f).rises = s.rises := rfl
@[simp] theorem State.tx_shearTick (s : State) (n : Nat) (f : Tx → Tx) : (s.tx n f).shearTick = s.shearTick := rfl
@[simp] theorem State.tx_behind (s : State) (n : Nat) (f : Tx → Tx) : (s.tx n f).behind = s.behind := rfl
@[simp] theorem State.tx_sentinels (s : State) (n : Nat) (f : Tx → Tx) : (s.tx n f).sentinels = s.sentinels := rfl
@[simp] theorem State.tx_lanesT (s : State) (n : Nat) (f : Tx → Tx) : (s.tx n f).lanesT = s.lanesT := rfl
@[simp] theorem State.tx_lanesH (s : State) (n : Nat) (f : Tx → Tx) : (s.tx n f).lanesH = s.lanesH := rfl
@[simp] theorem State.tx_ports (s : State) (n : Nat) (f : Tx → Tx) : (s.tx n f).ports = s.ports := rfl
@[simp] theorem State.tx_dibber (s : State) (n : Nat) (f : Tx → Tx) : (s.tx n f).dibber = s.dibber := rfl
@[simp] theorem State.tx_sums (s : State) (n : Nat) (f : Tx → Tx) : (s.tx n f).sums = s.sums := rfl
@[simp] theorem State.tx_fsegs (s : State) (n : Nat) (f : Tx → Tx) : (s.tx n f).fsegs = s.fsegs := rfl
@[simp] theorem State.tx_furrows (s : State) (n : Nat) (f : Tx → Tx) : (s.tx n f).furrows = s.furrows := rfl
@[simp] theorem State.tx_hubQ (s : State) (n : Nat) (f : Tx → Tx) : (s.tx n f).hubQ = s.hubQ := rfl
@[simp] theorem State.tx_looks (s : State) (n : Nat) (f : Tx → Tx) : (s.tx n f).looks = s.looks := rfl
@[simp] theorem State.tx_closes (s : State) (n : Nat) (f : Tx → Tx) : (s.tx n f).closes = s.closes := rfl
@[simp] theorem State.tx_intake (s : State) (n : Nat) (f : Tx → Tx) : (s.tx n f).intake = s.intake := rfl
@[simp] theorem State.tx_intakeFrom (s : State) (n : Nat) (f : Tx → Tx) : (s.tx n f).intakeFrom = s.intakeFrom := rfl
@[simp] theorem State.tx_stopping (s : State) (n : Nat) (f : Tx → Tx) : (s.tx n f).stopping = s.stopping := rfl
@[simp] theorem State.tx_mem (s : State) (n : Nat) (f : Tx → Tx) : (s.tx n f).mem = s.mem := rfl
@[simp] theorem State.tx_engines (s : State) (n : Nat) (f : Tx → Tx) : (s.tx n f).engines = s.engines := rfl
@[simp] theorem State.tx_zcs (s : State) (n : Nat) (f : Tx → Tx) : (s.tx n f).zcs = s.zcs := rfl
@[simp] theorem State.tx_image (s : State) (n : Nat) (f : Tx → Tx) : (s.tx n f).image = s.image := rfl
@[simp] theorem State.tx_slow (s : State) (n : Nat) (f : Tx → Tx) : (s.tx n f).slow = s.slow := rfl
@[simp] theorem State.tx_wall (s : State) (n : Nat) (f : Tx → Tx) : (s.tx n f).wall = s.wall := rfl
@[simp] theorem State.tx_hdg (s : State) (n : Nat) (f : Tx → Tx) : (s.tx n f).hdg = s.hdg := rfl
@[simp] theorem State.tx_nvm (s : State) (n : Nat) (f : Tx → Tx) : (s.tx n f).nvm = s.nvm := rfl
@[simp] theorem State.tx_cpu (s : State) (n : Nat) (f : Tx → Tx) : (s.tx n f).cpu = s.cpu := rfl
@[simp] theorem State.tx_graft (s : State) (n : Nat) (f : Tx → Tx) : (s.tx n f).graft = s.graft := rfl
@[simp] theorem State.tx_tend (s : State) (n : Nat) (f : Tx → Tx) : (s.tx n f).tend = s.tend := rfl
@[simp] theorem State.tx_power (s : State) (n : Nat) (f : Tx → Tx) : (s.tx n f).power = s.power := rfl
@[simp] theorem State.tx_cold (s : State) (n : Nat) (f : Tx → Tx) : (s.tx n f).cold = s.cold := rfl
@[simp] theorem State.tx_xspi (s : State) (n : Nat) (f : Tx → Tx) : (s.tx n f).xspi = s.xspi := rfl
@[simp] theorem State.tx_boot (s : State) (n : Nat) (f : Tx → Tx) : (s.tx n f).boot = s.boot := rfl
@[simp] theorem State.tx_gi (s : State) (n : Nat) (f : Tx → Tx) (g : Fld) (j : Nat) : (s.tx n f).gi g j = s.gi g j := rfl

@[simp] theorem State.tendEvent_pending (s : State) (what index : Nat) : (s.tendEvent what index).pending = s.pending := rfl
@[simp] theorem State.tendEvent_regs (s : State) (what index : Nat) : (s.tendEvent what index).regs = s.regs := rfl
@[simp] theorem State.tendEvent_prevRegs (s : State) (what index : Nat) : (s.tendEvent what index).prevRegs = s.prevRegs := rfl
@[simp] theorem State.tendEvent_switchTick (s : State) (what index : Nat) : (s.tendEvent what index).switchTick = s.switchTick := rfl
@[simp] theorem State.tendEvent_olderRegs (s : State) (what index : Nat) : (s.tendEvent what index).olderRegs = s.olderRegs := rfl
@[simp] theorem State.tendEvent_latches (s : State) (what index : Nat) : (s.tendEvent what index).latches = s.latches := rfl
@[simp] theorem State.tendEvent_held (s : State) (what index : Nat) : (s.tendEvent what index).held = s.held := rfl
@[simp] theorem State.tendEvent_nowNs (s : State) (what index : Nat) : (s.tendEvent what index).nowNs = s.nowNs := rfl
@[simp] theorem State.tendEvent_freeCtr (s : State) (what index : Nat) : (s.tendEvent what index).freeCtr = s.freeCtr := rfl
@[simp] theorem State.tendEvent_outbox (s : State) (what index : Nat) : (s.tendEvent what index).outbox = s.outbox := rfl
@[simp] theorem State.tendEvent_trellis (s : State) (what index : Nat) : (s.tendEvent what index).trellis = s.trellis := rfl
@[simp] theorem State.tendEvent_hist (s : State) (what index : Nat) : (s.tendEvent what index).hist = s.hist := rfl
@[simp] theorem State.tendEvent_beds (s : State) (what index : Nat) : (s.tendEvent what index).beds = s.beds := rfl
@[simp] theorem State.tendEvent_followers (s : State) (what index : Nat) : (s.tendEvent what index).followers = s.followers := rfl
@[simp] theorem State.tendEvent_rises (s : State) (what index : Nat) : (s.tendEvent what index).rises = s.rises := rfl
@[simp] theorem State.tendEvent_shearTick (s : State) (what index : Nat) : (s.tendEvent what index).shearTick = s.shearTick := rfl
@[simp] theorem State.tendEvent_behind (s : State) (what index : Nat) : (s.tendEvent what index).behind = s.behind := rfl
@[simp] theorem State.tendEvent_sentinels (s : State) (what index : Nat) : (s.tendEvent what index).sentinels = s.sentinels := rfl
@[simp] theorem State.tendEvent_lanesT (s : State) (what index : Nat) : (s.tendEvent what index).lanesT = s.lanesT := rfl
@[simp] theorem State.tendEvent_lanesH (s : State) (what index : Nat) : (s.tendEvent what index).lanesH = s.lanesH := rfl
@[simp] theorem State.tendEvent_ports (s : State) (what index : Nat) : (s.tendEvent what index).ports = s.ports := rfl
@[simp] theorem State.tendEvent_dibber (s : State) (what index : Nat) : (s.tendEvent what index).dibber = s.dibber := rfl
@[simp] theorem State.tendEvent_sums (s : State) (what index : Nat) : (s.tendEvent what index).sums = s.sums := rfl
@[simp] theorem State.tendEvent_fsegs (s : State) (what index : Nat) : (s.tendEvent what index).fsegs = s.fsegs := rfl
@[simp] theorem State.tendEvent_furrows (s : State) (what index : Nat) : (s.tendEvent what index).furrows = s.furrows := rfl
@[simp] theorem State.tendEvent_hubQ (s : State) (what index : Nat) : (s.tendEvent what index).hubQ = s.hubQ := rfl
@[simp] theorem State.tendEvent_looks (s : State) (what index : Nat) : (s.tendEvent what index).looks = s.looks := rfl
@[simp] theorem State.tendEvent_closes (s : State) (what index : Nat) : (s.tendEvent what index).closes = s.closes := rfl
@[simp] theorem State.tendEvent_intake (s : State) (what index : Nat) : (s.tendEvent what index).intake = s.intake := rfl
@[simp] theorem State.tendEvent_intakeFrom (s : State) (what index : Nat) : (s.tendEvent what index).intakeFrom = s.intakeFrom := rfl
@[simp] theorem State.tendEvent_stopping (s : State) (what index : Nat) : (s.tendEvent what index).stopping = s.stopping := rfl
@[simp] theorem State.tendEvent_mem (s : State) (what index : Nat) : (s.tendEvent what index).mem = s.mem := rfl
@[simp] theorem State.tendEvent_engines (s : State) (what index : Nat) : (s.tendEvent what index).engines = s.engines := rfl
@[simp] theorem State.tendEvent_harvest (s : State) (what index : Nat) : (s.tendEvent what index).harvest = s.harvest := rfl
@[simp] theorem State.tendEvent_zcs (s : State) (what index : Nat) : (s.tendEvent what index).zcs = s.zcs := rfl
@[simp] theorem State.tendEvent_image (s : State) (what index : Nat) : (s.tendEvent what index).image = s.image := rfl
@[simp] theorem State.tendEvent_slow (s : State) (what index : Nat) : (s.tendEvent what index).slow = s.slow := rfl
@[simp] theorem State.tendEvent_wall (s : State) (what index : Nat) : (s.tendEvent what index).wall = s.wall := rfl
@[simp] theorem State.tendEvent_hdg (s : State) (what index : Nat) : (s.tendEvent what index).hdg = s.hdg := rfl
@[simp] theorem State.tendEvent_nvm (s : State) (what index : Nat) : (s.tendEvent what index).nvm = s.nvm := rfl
@[simp] theorem State.tendEvent_cpu (s : State) (what index : Nat) : (s.tendEvent what index).cpu = s.cpu := rfl
@[simp] theorem State.tendEvent_graft (s : State) (what index : Nat) : (s.tendEvent what index).graft = s.graft := rfl
@[simp] theorem State.tendEvent_power (s : State) (what index : Nat) : (s.tendEvent what index).power = s.power := rfl
@[simp] theorem State.tendEvent_cold (s : State) (what index : Nat) : (s.tendEvent what index).cold = s.cold := rfl
@[simp] theorem State.tendEvent_xspi (s : State) (what index : Nat) : (s.tendEvent what index).xspi = s.xspi := rfl
@[simp] theorem State.tendEvent_boot (s : State) (what index : Nat) : (s.tendEvent what index).boot = s.boot := rfl
@[simp] theorem State.tendEvent_gi (s : State) (what index : Nat) (g : Fld) (j : Nat) : (s.tendEvent what index).gi g j = s.gi g j := rfl

@[simp] theorem State.anchor_pending (s : State) : (s.anchor).pending = s.pending := rfl
@[simp] theorem State.anchor_regs (s : State) : (s.anchor).regs = s.regs := rfl
@[simp] theorem State.anchor_prevRegs (s : State) : (s.anchor).prevRegs = s.prevRegs := rfl
@[simp] theorem State.anchor_switchTick (s : State) : (s.anchor).switchTick = s.switchTick := rfl
@[simp] theorem State.anchor_olderRegs (s : State) : (s.anchor).olderRegs = s.olderRegs := rfl
@[simp] theorem State.anchor_latches (s : State) : (s.anchor).latches = s.latches := rfl
@[simp] theorem State.anchor_held (s : State) : (s.anchor).held = s.held := rfl
@[simp] theorem State.anchor_nowNs (s : State) : (s.anchor).nowNs = s.nowNs := rfl
@[simp] theorem State.anchor_freeCtr (s : State) : (s.anchor).freeCtr = s.freeCtr := rfl
@[simp] theorem State.anchor_outbox (s : State) : (s.anchor).outbox = s.outbox := rfl
@[simp] theorem State.anchor_trellis (s : State) : (s.anchor).trellis = s.trellis := rfl
@[simp] theorem State.anchor_hist (s : State) : (s.anchor).hist = s.hist := rfl
@[simp] theorem State.anchor_beds (s : State) : (s.anchor).beds = s.beds := rfl
@[simp] theorem State.anchor_followers (s : State) : (s.anchor).followers = s.followers := rfl
@[simp] theorem State.anchor_rises (s : State) : (s.anchor).rises = s.rises := rfl
@[simp] theorem State.anchor_shearTick (s : State) : (s.anchor).shearTick = s.shearTick := rfl
@[simp] theorem State.anchor_behind (s : State) : (s.anchor).behind = s.behind := rfl
@[simp] theorem State.anchor_sentinels (s : State) : (s.anchor).sentinels = s.sentinels := rfl
@[simp] theorem State.anchor_lanesT (s : State) : (s.anchor).lanesT = s.lanesT := rfl
@[simp] theorem State.anchor_lanesH (s : State) : (s.anchor).lanesH = s.lanesH := rfl
@[simp] theorem State.anchor_ports (s : State) : (s.anchor).ports = s.ports := rfl
@[simp] theorem State.anchor_dibber (s : State) : (s.anchor).dibber = s.dibber := rfl
@[simp] theorem State.anchor_sums (s : State) : (s.anchor).sums = s.sums := rfl
@[simp] theorem State.anchor_fsegs (s : State) : (s.anchor).fsegs = s.fsegs := rfl
@[simp] theorem State.anchor_furrows (s : State) : (s.anchor).furrows = s.furrows := rfl
@[simp] theorem State.anchor_hubQ (s : State) : (s.anchor).hubQ = s.hubQ := rfl
@[simp] theorem State.anchor_looks (s : State) : (s.anchor).looks = s.looks := rfl
@[simp] theorem State.anchor_closes (s : State) : (s.anchor).closes = s.closes := rfl
@[simp] theorem State.anchor_intake (s : State) : (s.anchor).intake = s.intake := rfl
@[simp] theorem State.anchor_intakeFrom (s : State) : (s.anchor).intakeFrom = s.intakeFrom := rfl
@[simp] theorem State.anchor_stopping (s : State) : (s.anchor).stopping = s.stopping := rfl
@[simp] theorem State.anchor_mem (s : State) : (s.anchor).mem = s.mem := rfl
@[simp] theorem State.anchor_engines (s : State) : (s.anchor).engines = s.engines := rfl
@[simp] theorem State.anchor_harvest (s : State) : (s.anchor).harvest = s.harvest := rfl
@[simp] theorem State.anchor_zcs (s : State) : (s.anchor).zcs = s.zcs := rfl
@[simp] theorem State.anchor_image (s : State) : (s.anchor).image = s.image := rfl
@[simp] theorem State.anchor_slow (s : State) : (s.anchor).slow = s.slow := rfl
@[simp] theorem State.anchor_hdg (s : State) : (s.anchor).hdg = s.hdg := rfl
@[simp] theorem State.anchor_nvm (s : State) : (s.anchor).nvm = s.nvm := rfl
@[simp] theorem State.anchor_cpu (s : State) : (s.anchor).cpu = s.cpu := rfl
@[simp] theorem State.anchor_graft (s : State) : (s.anchor).graft = s.graft := rfl
@[simp] theorem State.anchor_tend (s : State) : (s.anchor).tend = s.tend := rfl
@[simp] theorem State.anchor_power (s : State) : (s.anchor).power = s.power := rfl
@[simp] theorem State.anchor_cold (s : State) : (s.anchor).cold = s.cold := rfl
@[simp] theorem State.anchor_xspi (s : State) : (s.anchor).xspi = s.xspi := rfl
@[simp] theorem State.anchor_boot (s : State) : (s.anchor).boot = s.boot := rfl
@[simp] theorem State.anchor_gi (s : State) (g : Fld) (j : Nat) : (s.anchor).gi g j = s.gi g j := rfl

end Sys2Proof.Machine
end

