-- ==== Sys2Proof/WellFormed.lean ====
section
/-! DEFINITION. The operand ranges the spec gives the commands: numbers of ports, lanes, beds, sentinels and the like.
A command outside these ranges names no
instance of the hub, or is one that the hub answers with a status of R362; the meanings are total and take it all the same. -/
namespace Sys2Proof

/-- The operands of a command name instances that the hub has. DEDUCED, log entry 117. DEDUCED, log entry 118. -/
def Instr.wellFormed : Instr → Bool
  | .ping _ data => decide (data.length ≤ 64)
  | .regRead _ addr count _ => decide (addr < 2 ^ 24) && decide (1 ≤ count) && decide (count ≤ 256)
  | .regWrite _ addr _ words => decide (addr < 2 ^ 24) && decide (1 ≤ words.length) && decide (words.length ≤ 1018)
  | .regModify _ addr _ _ => decide (addr < 2 ^ 24)
  | .registerWrite _ addr _ => decide (addr < 2 ^ 24)
  | .imageLoad _ offset total bytes =>
      decide (offset < 2 ^ 32) && decide (total < 2 ^ 32) && decide (bytes.length ≤ 4072)
  | .overlayStage _ mode => decide (mode < 256)
  | .overlayCommit _ orbit _ | .streamStart _ orbit _ | .streamStop _ orbit _ => decide (orbit < 2 ^ 48)
  | .lookback _ furrow kind first last =>
      decide (furrow < 65536) && decide (kind < 256) && decide (first < 2 ^ 64) && decide (last < 2 ^ 64)
  | .lineCheckStart bed _ | .bedPowerUpCal bed | .bedCalDone bed _ => decide (bed < 24)
  | .clampConduct ch | .termDisconnect ch | .termReconnect ch => decide (ch < 768)
  | .sentinelFreeze sn => decide (sn < 16)
  | .rxBlock lane symbols => decide (lane < 48) && (symbols.length == 64 || symbols.length == 65)
  | .blockLockAcquire lane | .blockLockLoss lane | .frameLockAcquire lane | .frameLockLoss lane
  | .laneRetrainEnd lane | .laneExitComplete lane _ | .shallowIdleBurst lane => decide (lane < 48)
  | .eyeScanDone lane low mid high _ =>
      decide (lane < 48) && [low, mid, high].all fun x => decide (x.phases.length = 64)
  | .tribFrame port herr _ => decide (port < 32) && decide (herr < 256)
  | .portDrainEnd port => decide (port < 32)
  | .trigEdge input _ _ => decide (input < 8)
  | .markBucketRefill bucket => decide (bucket < 10)
  | .segmentAgeClose furrow => decide (furrow < 65536)
  | .compressJobDone eng _ => decide (eng < 36)
  | .segmentTxDone lane | .laneMarkSend lane _ | .laneDropTimeout lane => decide (lane < 16)
  | .refreshCommand port slot _ | .mr4Poll port slot _ _ | .rankRetire _ port slot =>
      decide (port < 8) && decide (slot < 3)
  | .ilPeriodEnd il | .ilStale il => decide (il < 8)
  | .hedgerowNodeTimeout node => decide (node < 32)
  | .pdRampEnd pd _ => decide (pd < 24)
  | .railFault rail => decide (rail < 12)
  | _ => true

end Sys2Proof
end

