-- ==== Sys2Proof/Tests/Slice0.lean ====
section
/-! SUPPORT. Tests: ill-formed commands are refused by each check of WellFormed; single steps; witnesses of the
hypotheses of the statements. -/
namespace Sys2Proof.Machine

set_option Elab.async false

/-- A header for tests. -/
def h0 : Hdr := ⟨.xspi, 1#32, 1#32⟩

theorem test_illFormed_ping : Instr.wellFormed (.ping h0 (List.replicate 65 0#8)) = false := by decide

theorem test_illFormed_regRead_addr : Instr.wellFormed (.regRead h0 (2 ^ 24) 1 false) = false := by decide

theorem test_illFormed_regRead_none : Instr.wellFormed (.regRead h0 0 0 false) = false := by decide

theorem test_illFormed_regRead_count : Instr.wellFormed (.regRead h0 0 257 false) = false := by decide

theorem test_illFormed_regWrite_addr : Instr.wellFormed (.regWrite h0 (2 ^ 24) false [0#32]) = false := by decide

theorem test_illFormed_regWrite_none : Instr.wellFormed (.regWrite h0 0 false []) = false := by decide

theorem test_illFormed_regWrite_count : Instr.wellFormed (.regWrite h0 0 false (List.replicate 1019 0#32)) = false := by
  simp only [Instr.wellFormed, List.length_replicate]; decide

theorem test_illFormed_regModify : Instr.wellFormed (.regModify h0 (2 ^ 24) 0#32 0#32) = false := by decide

theorem test_illFormed_registerWrite : Instr.wellFormed (.registerWrite .xspi (2 ^ 24) 0#32) = false := by decide

theorem test_illFormed_imageLoad_offset : Instr.wellFormed (.imageLoad h0 (2 ^ 32) 0 []) = false := by decide

theorem test_illFormed_imageLoad_total : Instr.wellFormed (.imageLoad h0 0 (2 ^ 32) []) = false := by decide

theorem test_illFormed_imageLoad_bytes : Instr.wellFormed (.imageLoad h0 0 0 (List.replicate 4073 0#8)) = false := by
  simp only [Instr.wellFormed, List.length_replicate]; decide

theorem test_illFormed_overlayStage : Instr.wellFormed (.overlayStage h0 256) = false := by decide

theorem test_illFormed_overlayCommit : Instr.wellFormed (.overlayCommit h0 (2 ^ 48) true) = false := by decide

theorem test_illFormed_streamStart : Instr.wellFormed (.streamStart h0 (2 ^ 48) true) = false := by decide

theorem test_illFormed_streamStop : Instr.wellFormed (.streamStop h0 (2 ^ 48) true) = false := by decide

theorem test_illFormed_lookback_furrow : Instr.wellFormed (.lookback h0 65536 0 0 0) = false := by decide

theorem test_illFormed_lookback_kind : Instr.wellFormed (.lookback h0 0 256 0 0) = false := by decide

theorem test_illFormed_lookback_first : Instr.wellFormed (.lookback h0 0 0 (2 ^ 64) 0) = false := by decide

theorem test_illFormed_lookback_last : Instr.wellFormed (.lookback h0 0 0 0 (2 ^ 64)) = false := by decide

theorem test_illFormed_lineCheckStart : Instr.wellFormed (.lineCheckStart 24 0#32) = false := by decide

theorem test_illFormed_bedPowerUpCal : Instr.wellFormed (.bedPowerUpCal 24) = false := by decide

theorem test_illFormed_bedCalDone : Instr.wellFormed (.bedCalDone 24 []) = false := by decide

theorem test_illFormed_clampConduct : Instr.wellFormed (.clampConduct 768) = false := by decide

theorem test_illFormed_termDisconnect : Instr.wellFormed (.termDisconnect 768) = false := by decide

theorem test_illFormed_termReconnect : Instr.wellFormed (.termReconnect 768) = false := by decide

theorem test_illFormed_sentinelFreeze : Instr.wellFormed (.sentinelFreeze 16) = false := by decide

theorem test_illFormed_rxBlock_lane : Instr.wellFormed (.rxBlock 48 (List.replicate 64 0)) = false := by decide

theorem test_illFormed_rxBlock_symbols : Instr.wellFormed (.rxBlock 0 []) = false := by decide

theorem test_illFormed_blockLockAcquire : Instr.wellFormed (.blockLockAcquire 48) = false := by decide

theorem test_illFormed_blockLockLoss : Instr.wellFormed (.blockLockLoss 48) = false := by decide

theorem test_illFormed_frameLockAcquire : Instr.wellFormed (.frameLockAcquire 48) = false := by decide

theorem test_illFormed_frameLockLoss : Instr.wellFormed (.frameLockLoss 48) = false := by decide

theorem test_illFormed_laneRetrainEnd : Instr.wellFormed (.laneRetrainEnd 48) = false := by decide

theorem test_illFormed_laneExitComplete : Instr.wellFormed (.laneExitComplete 48 true) = false := by decide

theorem test_illFormed_shallowIdleBurst : Instr.wellFormed (.shallowIdleBurst 48) = false := by decide

theorem test_illFormed_eyeScanDone : Instr.wellFormed (.eyeScanDone 48 ⟨[], []⟩ ⟨[], []⟩ ⟨[], []⟩ true) = false := by decide

theorem test_illFormed_tribFrame_port : Instr.wellFormed (.tribFrame 32 0 0#504) = false := by decide

theorem test_illFormed_tribFrame_herr : Instr.wellFormed (.tribFrame 0 256 0#504) = false := by decide

theorem test_illFormed_portDrainEnd : Instr.wellFormed (.portDrainEnd 32) = false := by decide

theorem test_illFormed_trigEdge : Instr.wellFormed (.trigEdge 8 true 0) = false := by decide

theorem test_illFormed_markBucketRefill : Instr.wellFormed (.markBucketRefill 10) = false := by decide

theorem test_illFormed_segmentAgeClose : Instr.wellFormed (.segmentAgeClose 65536) = false := by decide

theorem test_illFormed_compressJobDone : Instr.wellFormed (.compressJobDone 36 .verified) = false := by decide

theorem test_illFormed_segmentTxDone : Instr.wellFormed (.segmentTxDone 16) = false := by decide

theorem test_illFormed_laneMarkSend : Instr.wellFormed (.laneMarkSend 16 0) = false := by decide

theorem test_illFormed_laneDropTimeout : Instr.wellFormed (.laneDropTimeout 16) = false := by decide

theorem test_illFormed_refreshCommand_port : Instr.wellFormed (.refreshCommand 8 0 ⟨0, .ok⟩) = false := by decide

theorem test_illFormed_refreshCommand_slot : Instr.wellFormed (.refreshCommand 0 3 ⟨0, .ok⟩) = false := by decide

theorem test_illFormed_mr4Poll_port : Instr.wellFormed (.mr4Poll 8 0 [] ⟨0, .ok⟩) = false := by decide

theorem test_illFormed_mr4Poll_slot : Instr.wellFormed (.mr4Poll 0 3 [] ⟨0, .ok⟩) = false := by decide

theorem test_illFormed_rankRetire_port : Instr.wellFormed (.rankRetire h0 8 0) = false := by decide

theorem test_illFormed_rankRetire_slot : Instr.wellFormed (.rankRetire h0 0 3) = false := by decide

theorem test_illFormed_ilPeriodEnd : Instr.wellFormed (.ilPeriodEnd 8) = false := by decide

theorem test_illFormed_ilStale : Instr.wellFormed (.ilStale 8) = false := by decide

theorem test_illFormed_hedgerowNodeTimeout : Instr.wellFormed (.hedgerowNodeTimeout 32) = false := by decide

theorem test_illFormed_pdRampEnd : Instr.wellFormed (.pdRampEnd 24 true) = false := by decide

theorem test_illFormed_railFault : Instr.wellFormed (.railFault 12) = false := by decide

theorem test_wellFormed_ping : Instr.wellFormed (.ping h0 (List.replicate 64 0#8)) = true := by decide
/-! ## Witnesses: for each statement, states in canonical form that meet its hypotheses, at the values where its clauses
meet, and what the command leaves there -/

/-- The state is in canonical form, and the command answers a next state of which `p` holds. -/
def ok (s : State) (c : Instr) (p : State → Bool) : Bool :=
  mwf 0 s.regs && Memory.wf s && (match exec c s with | .next t => p t | _ => false)

/-- The hub with every power domain on, READY, in PIN mode. -/
def hub : State := (State.reset.p R.global_PD_STAT_ON (2 ^ 24 - 1)).p R.global_STATE_STATE 1

/-- The hub with its orbit locked at a slot of an orbit of 256 slots, whose cycle has run or not. -/
def timed (orbit slot : Nat) (ran : Bool) : State :=
  ((hub.p R.trellis_TSTAT_ORBIT_LOCK 1).p R.trellis_TSTAT_BC_LOCK 1).tr fun t =>
    { t with everLocked := true, orbit := orbit, slot := slot, tick := orbit * 256 + slot, ran := ran }

/-- A step answers a next state of which `p` holds. -/
def stepOk (s : State) (p : State → Bool) : Bool :=
  mwf 0 s.regs && Memory.wf s && (match step s with | .next t => p t | _ => false)

theorem wit_StepRunsFrontCommand : stepOk (hub.given [.alignLost, .alignHold]) (fun t => t == hub.given [.alignHold]) = true := by
  decide +kernel

theorem wit_IdleStepPassesTime :
    stepOk (hub.p R.clocks_REF_STAT_HREF 1) (fun t => t.nowNs == 40 && t.wall.ns == 40 && t.wall.sec == 0 && t.wall.frac == 0) = true
    ∧ stepOk { hub.p R.clocks_REF_STAT_HREF 1 with wall := { hub.wall with ns := 999999960 } }
        (fun t => t.wall.ns == 0 && t.wall.sec == 1) = true
    ∧ stepOk hub (fun t => t.nowNs == 40 && t.wall == hub.wall) = true := by
  decide +kernel

theorem wit_StepKeepsInvariant :
    stepOk (hub.given [.clockDomainLoss 0]) (fun t => mwf 0 t.regs && Memory.wf t && t.regs != hub.regs) = true := by
  decide +kernel

theorem wit_CommandsKeepQueue : ok (hub.given [.alignHold]) .alignLost (fun t => t.pending == [.alignHold]) = true := by
  decide +kernel

theorem wit_OtherCommandsKeepConfiguration : mayConfigure .orbitMarker = false
    ∧ ok (timed 5 3 true) .orbitMarker (fun t => t.nSlot == 256) = true := by
  decide +kernel

/-- Timing lost and orbit and clock locked again, the phase to be decided at the next marker, in a slot of orbit 5. -/
def relocking (slot : Nat) : State :=
  ((timed 5 slot true).p R.trellis_TSTAT_TIMING_LOST 1).tr fun t => { t with restartDue := true }

theorem wit_OrbitMarkers :
    ok hub (.orbitLoadArm 0x80000005#32) (fun t => t.trellis.loadArmed && t.loadValue == 5 * 2 ^ 32) = true
    ∧ ok hub (.orbitLoadArm 5#32) (fun t => !t.trellis.loadArmed && t.g R.trellis_ORBIT_LOAD_HI_ORBIT_HI == 5) = true
    ∧ ok (hub.p R.trellis_TIMING_MODE 1) .orbitMarker (fun t => t.trellis.lastMark == none) = true
    ∧ ok (timed 5 0 true) .orbitMarker (fun t => t.trellis.marked && !t.trellis.orbitBad) = true
    ∧ ok (timed 5 1 true) .orbitMarker (fun t => t.trellis.orbitBad && t.g R.trellis_ORBIT_SLIP_COUNT == 1) = true
    ∧ ok (((timed 5 0 true).p R.trellis_ORBIT_LOAD_LO_ORBIT_LO 9).tr fun t => { t with loadArmed := true }) .orbitMarker
        (fun t => t.trellis.orbit == 9 && !t.trellis.loadArmed) = true
    ∧ ok (((timed 5 1 true).p R.trellis_ORBIT_LOAD_LO_ORBIT_LO 9).tr fun t => { t with loadArmed := true }) .orbitMarker
        (fun t => t.trellis.orbit == 5 && t.trellis.loadArmed) = true
    ∧ ok (((((timed 5 0 true).p R.trellis_ORBIT_LOAD_LO_ORBIT_LO 9).p R.graft_CFG_ARMED 1).p R.graft_STAT_ROLE 2).tr fun t =>
        { t with loadArmed := true }) .orbitMarker (fun t => t.trellis.orbit == 5 && t.trellis.loadArmed) = true
    ∧ ok (timed 5 0 true) .orbitMarkerMiss (fun t => t.trellis.orbitBad && t.g R.trellis_ORBIT_MISS_COUNT == 1) = true
    ∧ ok hub .orbitMarkerMiss (fun t => t == hub) = true
    ∧ ok (relocking 7) .orbitMarker (fun t => t.trellis.restartOrbit == some 6 && t.trellis.slot == 0 && t.trellis.orbit == 6
        && !t.trellis.restartDue && t.trellis.clearDue) = true
    ∧ ok (relocking 0) .orbitMarker (fun t => t.trellis.restartOrbit == none && t.trellis.clearDue) = true
    ∧ ok ((timed 5 0 true).tr fun t => { t with missed := true }) .orbitMarkerMiss
        (fun t => t.g R.trellis_ORBIT_MISS_COUNT == 0) = true
    ∧ ok (hub.p R.trellis_TIMING_MODE 1) (.orbitLoadArm 0x80000005#32) (fun t => !t.trellis.loadArmed) = true := by
  decide +kernel

/-- The hub at its fourth marker, in slot 7. -/
def fourth : State :=
  (hub.p R.trellis_ORBIT_LOAD_LO_ORBIT_LO 3).tr fun t => { t with markRun := 4, tick := 7, lastMark := some 7, loadArmed := true }

theorem wit_OrbitLockAndLoss :
    ok fourth .orbitLockAcquire (fun t => t.locked && t.trellis.orbit == 3 && t.trellis.slot == 0 && t.trellis.mNow == 48) = true
    ∧ ok (fourth.tr fun t => { t with markRun := 3 }) .orbitLockAcquire (fun t => !t.locked) = true
    ∧ ok ((timed 5 0 true).tr fun t => { t with badRun := 4 }) .orbitLockLoss
        (fun t => !t.locked && t.lost && t.on R.trellis_TSTAT_HOLDOVER 0 && t.entriesMade == 1) = true
    ∧ ok ((timed 5 0 true).tr fun t => { t with badRun := 3 }) .orbitLockLoss (fun t => t.locked && !t.lost) = true
    ∧ ok (((timed 5 0 true).p R.trellis_TSTAT_TIMING_LOST 1).tr fun t => { t with badRun := 4 }) .orbitLockLoss
        (fun t => !t.locked && t.lost && t.entriesMade == 0) = true
    ∧ ok (fourth.p R.trellis_TSTAT_BC_LOCK 1) .orbitLockAcquire (fun t => t.trellis.filter.isSome) = true
    ∧ ok ((fourth.p R.trellis_TSTAT_BC_LOCK 1).p R.trellis_BC_NOMINAL_FREQ 37500000) .orbitLockAcquire
        (fun t => t.trellis.filter == some (t.k, 37500000)) = true
    ∧ ok (((fourth.p R.graft_CFG_ARMED 1).p R.graft_STAT_ROLE 2)) .orbitLockAcquire
        (fun t => t.locked && t.trellis.orbit == 0 && t.trellis.loadArmed) = true
    ∧ ok (fourth.tr fun t => { t with everLocked := true, renumber := some 8, loadArmed := false }) .orbitLockAcquire
        (fun t => t.locked && t.trellis.orbit == 9 && t.trellis.renumber == none) = true
    ∧ ok (fourth.tr fun t => { t with everLocked := true, orbit := 8, slot := 0 }) .orbitLockAcquire
        (fun t => t.locked && t.trellis.orbit == 8 && t.trellis.restartOrbit == none) = true
    ∧ ok (fourth.tr fun t => { t with everLocked := true, orbit := 8, slot := 1 }) .orbitLockAcquire
        (fun t => t.locked && t.trellis.orbit == 9 && t.trellis.slot == 0 && t.trellis.restartOrbit == some 9) = true := by
  decide +kernel

/-- The same hub with a bunch clock of 37.5 MHz and HREF. -/
def nominal (s : State) : State := (s.p R.trellis_BC_NOMINAL_FREQ 37500000).p R.clocks_REF_STAT_HREF 1

/-- The orbit locked and the PLL not, at slot 0 of orbit 5, timing lost or not. -/
def halfLocked (lost : Nat) : State :=
  nominal (((timed 5 0 true).p R.trellis_TSTAT_BC_LOCK 0).p R.trellis_TSTAT_TIMING_LOST lost)

theorem wit_BunchClockAndDomains :
    ok (timed 5 0 true) (.bclkFault true 0) (fun t => !t.bcLock && t.lost && !t.trellis.bclk) = true
    ∧ ok ((timed 5 0 true).p R.trellis_TIMING_MODE 1) (.bclkFault true 0) (fun t => t.bcLock) = true
    ∧ ok hub .bcPllLock (fun t => t.bcLock) = true
    ∧ ok ((((timed 5 0 true).p R.trellis_TSTAT_SRC_H01 1).pi R.lane_LANE_STAT_BLOCK_LOCK 32 1).tr fun t =>
        { t with h00Orbits := 1024, inWindow := true, qwLen := 64 }) .srcReturnH00
        (fun t => t.g R.trellis_TSTAT_SRC_H01 == 0) = true
    ∧ ok (hub.p R.clocks_REF_STAT_HREF 1) (.clockDomainLoss 49)
        (fun t => t.gi R.hdr_IRQ_STAT_EVENT 0x002 == 1 && t.g R.clocks_REF_STAT_HREF == 0
          && t.g R.clocks_REF_STAT_ON_CD01 == 1) = true
    ∧ ok hub (.clockDomainLoss 0) (fun t => bitAt (t.g R.clocks_LOSS_LO_CD) 0) = true
    ∧ ok hub (.clockDomainLoss 64) (fun t => t == hub) = true
    ∧ ok hub (.referenceClockPresent 49) (fun t => t.g R.clocks_REF_STAT_HREF == 1 && t.g R.clocks_REF_STAT_ON_CD01 == 0) = true
    ∧ ok (nominal (timed 5 0 true)) (.bclkFault false 37518750) (fun t => t == nominal (timed 5 0 true)) = true
    ∧ ok (nominal (timed 5 0 true)) (.bclkFault false 37518751) (fun t => !t.bcLock && t.lost && bitAt (t.g R.clocks_LOSS_LO_CD) 3
        && !bitAt (t.g R.clocks_LOSS_LO_CD) 2) = true
    ∧ ok (timed 5 0 true) (.bclkFault false 1) (fun t => t == timed 5 0 true) = true
    ∧ ok (halfLocked 0) .bcPllLock (fun t => t.bcLock && !t.trellis.clearDue && !t.trellis.restartDue
        && t.trellis.filter == some (t.k, 37500000)) = true
    ∧ ok (halfLocked 1) .bcPllLock (fun t => t.bcLock && !t.trellis.clearDue && t.trellis.restartDue) = true := by
  decide +kernel

/-- A hub in EMBEDDED mode at slot 0 of orbit 48, with a number and light on H00, before that slot's cycle. -/
def embed : State :=
  ((((timed 48 0 false).p R.trellis_TIMING_MODE 1).p R.global_HUB_ID_ID 7).p R.harv_LIT_LIT 1).lane 32 fun x => { x with tx := 0 }

theorem wit_ProbeEchoLoop :
    ok embed (.probeLaunch 0 0) (fun _ => true) = true
    ∧ (embed.embedded && embed.g R.global_HUB_ID_ID != 0 && embed.counting && embed.trellis.orbit % embed.probeInterval == 0
        && embed.trellis.slot == 0 && !embed.trellis.ran && (embed.laneOf 32).tx == 0
        && embed.trellis.probe.lastOrbit != some embed.trellis.orbit) = true
    ∧ ok (embed.tr fun t => { t with ran := true }) (.probeLaunch 0 0) (fun t => t.trellis.probe.waiting == false) = true
    ∧ ok hub (.probeLaunch 0 0) (fun t => t == hub) = true
    ∧ ok (hub.probe fun p => { p with outlierRun := 4 }) .alignLost (fun t => t.g R.trellis_TSTAT_ALIGN_LOST == 1) = true
    ∧ ok (hub.probe fun p => { p with outlierRun := 3 }) .alignLost (fun t => t.g R.trellis_TSTAT_ALIGN_LOST == 0) = true
    ∧ ok (hub.probe fun p => { p with missRun := 16 }) .alignHold (fun t => t.g R.trellis_TSTAT_ALIGN_HOLD == 1) = true
    ∧ ok (hub.probe fun p => { p with missRun := 15 }) .alignHold (fun t => t.g R.trellis_TSTAT_ALIGN_HOLD == 0) = true
    ∧ ok (hub.probe fun p => { p with calib := some [] }) .phaseCalibrateDone (fun t => t.trellis.probe.calib == some []) = true := by
  decide +kernel

/-- A hub that streams. -/
def live (s : State) : State := s.p R.global_STATE_STATE 2

/-- The hub with a lane's state. -/
def laned (l : Nat) (f : Lane → Lane) : State := hub.lane l fun x => f { x with tx := 0, rx := 0, txTo := 0, rxTo := 0 }

theorem wit_ReceiversTakeBlocks :
    ok (laned 0 id) (.rxBlock 0 (1 :: List.replicate 63 0)) (fun t => (t.laneOf 0).blk == 1 && (t.laneOf 0).valid == 1) = true
    ∧ ok (laned 0 id) (.rxBlock 0 (List.replicate 64 0)) (fun t => (t.laneOf 0).blk == 0 && (t.laneOf 0).slip == 1) = true
    ∧ ok hub (.rxBlock 33 (1 :: List.replicate 63 0)) (fun t => t == hub) = true
    ∧ ok (laned 34 id) (.rxBlock 34 (1 :: List.replicate 63 0)) (fun t => t == laned 34 id) = true
    ∧ ok (laned 33 fun x => { x with blk := 1, valid := 9 }) (.rxBlock 33 (3 :: List.replicate 63 0))
        (fun t => (t.laneOf 33).valid == 10) = true
    ∧ ok (laned 0 fun x => { x with rx := 1, blk := 2, pos := 3 }) (.rxBlock 0 (List.replicate 64 0)) (fun t => (t.laneOf 0).pos == 0) = true
    ∧ ok (laned 0 fun x => { x with rx := 1, blk := 1, pos := 3 }) (.rxBlock 0 (List.replicate 64 0)) (fun t => (t.laneOf 0).pos == 3) = true
    ∧ ok ((laned 0 fun x => { x with lastIn := 1 }).pi R.lane_LANE_CFG_RX_PRECODE 0 1) (.rxBlock 0 (List.replicate 64 0))
        (fun t => (t.laneOf 0).blk == 1) = true
    ∧ ok ((laned 0 id).pi R.lane_LANE_CFG_RX_INV 0 1) (.rxBlock 0 (List.replicate 64 0)) (fun t => (t.laneOf 0).blk == 1) = true := by decide +kernel

theorem wit_LaneLocks :
    ok (laned 5 fun x => { x with blk := 1, valid := 64 }) (.blockLockAcquire 5) (fun t => t.blockLock 5) = true
    ∧ ok (laned 5 fun x => { x with blk := 1, valid := 63 }) (.blockLockAcquire 5) (fun t => !t.blockLock 5) = true
    ∧ ok ((laned 5 fun x => { x with blk := 2, recent := List.replicate 16 false }).pi R.lane_LANE_STAT_BLOCK_LOCK 5 1)
        (.blockLockLoss 5) (fun t => !t.blockLock 5 && t.gi R.lane_LOCK_LOSS_BLOCK 5 == 1) = true
    ∧ ok ((laned 5 fun x => { x with blk := 2, recent := List.replicate 15 false }).pi R.lane_LANE_STAT_BLOCK_LOCK 5 1)
        (.blockLockLoss 5) (fun t => t.blockLock 5) = true
    ∧ ok (laned 5 fun x => { x with blk := 2, good := 16 }) (.frameLockAcquire 5) (fun t => t.frameLock 5) = true
    ∧ ok (laned 5 fun x => { x with blk := 2, good := 15 }) (.frameLockAcquire 5) (fun t => !t.frameLock 5) = true
    ∧ ok ((laned 5 fun x => { x with blk := 2, bad := 4 }).pi R.lane_LANE_STAT_FRAME_LOCK 5 1) (.frameLockLoss 5)
        (fun t => !t.frameLock 5 && t.gi R.lane_LOCK_LOSS_FRAME 5 == 1) = true
    ∧ ok (laned 5 id) (.frameLockLoss 5) (fun t => t == laned 5 id) = true
    ∧ ok ((laned 33 fun x => { x with blk := 1, valid := 64 }).p R.trellis_TIMING_MODE 1) (.blockLockAcquire 33)
        (fun t => t.blockLock 33 && t.g R.trellis_TSTAT_SRC_H01 == 1) = true
    ∧ ok (((laned 32 fun x => { x with blk := 1, valid := 64 }).p R.trellis_TIMING_MODE 1).p R.trellis_TSTAT_SRC_H01 1)
        (.blockLockAcquire 32) (fun t => t.blockLock 32 && t.g R.trellis_TSTAT_SRC_H01 == 0) = true := by decide +kernel

theorem wit_LanePowerAndEye :
    ok (laned 5 fun x => { x with pausing := true }) (.laneRetrainEnd 5) (fun t => t.gi R.lane_RETRAIN_COUNT 5 == 1) = true
    ∧ ok (laned 5 id) (.laneRetrainEnd 5) (fun t => t.gi R.lane_RETRAIN_COUNT 5 == 0) = true
    ∧ ok (laned 32 fun x => { x with tx := 3, txWait := true }) .laneDeepExitStart
        (fun t => t.power.wakes == [0] && !(t.laneOf 32).txWait) = true
    ∧ ok { (laned 32 fun x => { x with tx := 3, txWait := true }) with
        nowNs := 9999, power := { hub.power with wakes := [0, 0] } } .laneDeepExitStart (fun t => (t.laneOf 32).txWait) = true
    ∧ ok hub .laneDeepExitStart (fun t => t == hub) = true
    ∧ ok { (laned 40 fun x => { x with tx := 3 }) with nowNs := 1001 } (.laneExitComplete 40 true) (fun _ => true) = true
    ∧ ok { (laned 5 fun x => { x with tx := 3 }) with nowNs := 1001 } (.laneExitComplete 5 true)
        (fun t => (t.laneOf 5).tx == 0 && (t.laneOf 5).upNs == 1001) = true
    ∧ ok (laned 5 fun x => { x with rx := 3, rxTo := 1 }) (.laneExitComplete 5 false) (fun t => (t.laneOf 5).rx == 1) = true
    ∧ ok (laned 5 fun x => { x with rx := 3, rxWait := true }) (.laneExitComplete 5 false) (fun t => (t.laneOf 5).rx == 3) = true
    ∧ ok (laned 47 fun x => { x with tx := 1 }) (.shallowIdleBurst 47) (fun t => t.outbox.getLast? == some (.control 15 1 0 64)) = true
    ∧ ok (laned 31 fun x => { x with tx := 1 }) (.shallowIdleBurst 31) (fun t => t.outbox == []) = true
    ∧ ok (laned 33 fun x => { x with scan := true }) (.eyeScanDone 33 ⟨[16, 17, 16, 16, 16], [0]⟩ ⟨[17, 0, 16, 17], [0, 16, 0]⟩ ⟨[0, 0], [0, 0, 0, 0]⟩ true)
        (fun t => t.gi R.lane_EYE_RESULT_VALID 33 == 1 && t.gi R.lane_EYE_RESULT_WIDTH 33 == 2
          && t.gi R.lane_EYE_RESULT_HEIGHT 33 == 3 && t.gi R.lane_EYE_RESULT_WORST 33 == 1) = true
    ∧ ok (laned 33 fun x => { x with scan := true }) (.eyeScanDone 33 ⟨[0], [0]⟩ ⟨[0], [0]⟩ ⟨[0], [0]⟩ false)
        (fun t => t.gi R.lane_EYE_RESULT_VALID 33 == 0) = true
    ∧ ok (laned 5 fun x => { x with pausing := true }) (.laneRetrainEnd 5) (fun t => (t.laneOf 5).bank) = true := by decide +kernel

theorem wit_Beds :
    ok hub (.lineCheckStart 23 0x9F#32) (fun t => (t.bedOf 23).lineReq == some 31 && t.gi R.bed_LINECHK_CH (23 * 64) == 31) = true
    ∧ ok hub (.lineCheckStart 23 0x1F#32) (fun t => (t.bedOf 23).lineReq == none) = true
    ∧ ok (hub.p R.graft_CFG_ARMED 1) (.lineCheckStart 0 0x80#32) (fun t => t.gi R.hdr_ERR_CAPT_CAUSE 0x010 == 2) = true
    ∧ ok (hub.bed 0 fun x => { x with lineReq := some 1 }) (.lineCheckStart 0 0x80#32)
        (fun t => t.gi R.hdr_ERR_CAPT_CAUSE 0x010 == 3 && t.gi R.hdr_ERR_CAPT_WHAT 0x010 == 0x074) = true
    ∧ ok hub (.clampConduct 767) (fun t => t.gi R.bed_CLAMP_CH (23 * 64) == 2 ^ 31) = true
    ∧ ok hub (.clampConduct 768) (fun t => t == hub) = true
    ∧ ok (hub.pi R.bed_AFE_CFG_TERM (afeIdx 33) 0) (.termDisconnect 33) (fun t => (t.bedOf 1).opened == 2 && t.gi R.bed_TERM_OPEN_CH 64 == 2) = true
    ∧ ok ((hub.p R.graft_CFG_ARMED 1).pi R.bed_AFE_CFG_TERM (afeIdx 33) 0) (.termDisconnect 33) (fun t => (t.bedOf 1).opened == 0) = true
    ∧ ok (hub.bed 1 fun x => { x with opened := 3 }) (.termReconnect 33) (fun t => (t.bedOf 1).opened == 1) = true
    ∧ ok ((timed 5 1 true).bed 1 fun x => { x with opened := 3 }) (.termReconnect 33) (fun t => (t.bedOf 1).opened == 3) = true
    ∧ ok hub (.bedPowerUpCal 23) (fun t => (t.bedOf 23).calRun) = true
    ∧ ok hub (.bedPowerUpCal 24) (fun t => t == hub) = true
    ∧ ok (hub.bed 2 fun x => { x with calRun := true }) (.bedCalDone 2 (List.replicate 33 ⟨5#16, 6#16, 7#6⟩))
        (fun t => !(t.bedOf 2).uncal && t.gi R.bed_SLICE_OFFSET_OFFSET (2 * 64 + 32) == 5
          && t.gi R.bed_SLICE_GAIN_GAIN (2 * 64 + 32) == 6 && t.gi R.bed_SLICE_SKEW_SKEW (2 * 64) == 7) = true := by decide +kernel

/-- The follower of channel 0 at the end of a window of 64 slots, one bed group and the shears powered. -/
def following (n4 : Nat) (s4 b4 : Int) (seeded : Bool) (run : Nat) : State :=
  { (forAll (List.range 24) (State.reset.p R.global_PD_STAT_ON (2 ^ 10)) fun s b => s.pi R.rec_BED_CFG_MODE b (b2n (b == 0))).tr
      fun t => { t with winLen := 64, pfDone := false } with shearTick := 64 }.follower 0
    fun _ => { Follower.empty with n4 := n4, s4 := s4, n0 := n4, s0 := 2 * s4, b4 := b4, p0 := b4, seeded := seeded, run := run }

theorem wit_PedestalFollowers :
    ok (following 31 3100 5 true 0) .pedestalFollowerUpdate
        (fun t => t.trellis.pfDone && (t.foll 0).b4 == 5 && (t.foll 0).n4 == 0) = true
    ∧ ok (following 32 3200 5 false 0) .pedestalFollowerUpdate
        (fun t => (t.foll 0).b4 == 100 && (t.foll 0).p0 == 200 && (t.foll 0).seeded) = true
    ∧ ok ((following 32 3200 96 true 3).p R.rec_PF_CFG_JUMP 4) .pedestalFollowerUpdate
        (fun t => (t.foll 0).run == 0 && (t.foll 0).b4 == 96 + roundShift 4 (t.g R.rec_PF_CFG_TAU)) = true
    ∧ ok ((following 32 3200 96 true 3).p R.rec_PF_CFG_JUMP 3) .pedestalFollowerUpdate
        (fun t => (t.foll 0).run == 4 && (t.foll 0).b4 == 96) = true
    ∧ ok ((following 32 3200 96 true 7).p R.rec_PF_CFG_JUMP 3) .pedestalFollowerUpdate
        (fun t => (t.foll 0).run == 0 && (t.foll 0).b4 == 100) = true
    ∧ ok ((following 32 3200 96 true 7).tr fun t => { t with pfDone := true }) .pedestalFollowerUpdate
        (fun t => (t.foll 0).n4 == 32) = true
    ∧ ok ((following 32 3200 5 false 0).tr fun t => { t with prevWin := some (0, 64), prevDone := [0] }) .pedestalFollowerUpdate
        (fun t => t.trellis.prevWin == none && (t.foll 0).n4 == 32 && (t.foll 1).n4 == 0) = true
    ∧ ok ((following 32 3200 5 false 0).tr fun t => { t with prevWin := some (0, 64), prevDone := [1] }) .pedestalFollowerUpdate
        (fun t => (t.foll 0).b4 == 100 && !t.trellis.pfDone) = true := by decide +kernel

/-- Port 3 in use since slot 1000, its lane locked and the hub taking records, at slot 9 of orbit 4. -/
def porting : State :=
  { (((timed 4 9 true).pi R.ing_PORT_CFG_ENABLE 3 1).pi R.lane_LANE_STAT_FRAME_LOCK 3 1).port 3 fun p => { p with first := some 1000 }
    with intake := true }

/-- The last four blocks of port 3 have brought a frame. -/
def framed (herr f : Nat) : State := porting.lane 3 fun x => { x with rx := 0, rxTo := 0, up := some (herr, f) }

theorem wit_TributaryFrames :
    ok (framed 1 0) (.tribFrame 3 1 0#504) (fun t => t.gi R.ing_CNT_HERR_HERR 3 == 1 && t.gi R.ing_CNT_FRAMES_FRAMES 3 == 1) = true
    ∧ ok (framed 0 0x3FFF) (.tribFrame 3 0 0x3FFF#504) (fun t => t.gi R.ing_CNT_FRAMES_FILLER 3 == 1) = true
    ∧ ok (framed 0 9) (.tribFrame 3 0 9#504)
        (fun t => (t.portOf 3).onTime.map (fun g => (g.orbit, g.slot, g.at_)) == [(4, 9, 1033 + 512)] && t.lastFrame 3 == none) = true
    ∧ ok ((framed 0 9).port 3 fun p => { p with onTime := [⟨4, 8, 1033 + 511, []⟩] }) (.tribFrame 3 0 9#504)
        (fun t => (t.portOf 3).onTime.length == 2) = true
    ∧ ok (framed 0 9) (.tribFrame 3 1 9#504) (fun t => t == framed 0 9) = true
    ∧ ok (framed 0 10) (.tribFrame 3 0 10#504)
        (fun t => (t.portOf 3).onTime.map (fun g => (g.orbit, g.slot, g.at_)) == []) = true
    ∧ ok porting (.tribFrame 3 0 9#504) (fun t => t == porting) = true
    ∧ ok ((timed 4 9 true).port 3 fun p => { p with drain := some (1033 - 516) }) (.portDrainEnd 3)
        (fun t => (t.portOf 3).drain == none) = true
    ∧ ok ((timed 4 9 true).port 3 fun p => { p with drain := some (1033 - 515) }) (.portDrainEnd 3)
        (fun t => (t.portOf 3).drain == some 518) = true := by decide +kernel

/-- A rising edge at input 7 some slots ago, the input's marks enabled and the hub taking records. -/
def edged (ago : Nat) : State :=
  { (timed 4 9 true).p R.dib_SRC_EN_TRIG 128 with
    intake := true, dibber := { hub.dibber with edges := [⟨1033 - ago, (1033 - ago) * 4096, 7, true, 5⟩] } }

theorem wit_TriggersAndRation :
    ok (hub.tr fun t => { t with tick := 128 }) (.markBucketRefill 7) (fun t => (t.bucket 7).tokens == 1 && (t.bucket 7).last == 128) = true
    ∧ ok (hub.tr fun t => { t with tick := 127 }) (.markBucketRefill 7) (fun t => (t.bucket 7).tokens == 0) = true
    ∧ ok hub (.markBucketRefill 10) (fun t => t == hub) = true
    ∧ ok (timed 4 9 true) (.trigEdge 7 true 4097) (fun t => t.dibber.edges == [⟨1033, (timed 4 9 true).pos, 7, true, 1⟩]) = true
    ∧ ok (timed 4 9 true) (.trigEdge 8 true 5) (fun t => t == timed 4 9 true) = true
    ∧ ok hub (.trigEdge 7 true 5) (fun t => t == hub) = true
    ∧ (edged 2).knowEdges = edged 2
    ∧ ((edged 3).knowEdges.dibber.waiting.map fun m => (m.known, m.sid, m.typ)) = [(1033, 7, 0)]
    ∧ ({ edged 3 with intake := false } : State).knowEdges.dibber.waiting = []
    ∧ ((edged 3).knowEdge ⟨1030, 0, 7, false, 5⟩) = edged 3
    ∧ ({ edged 3 with dibber := { (edged 3).dibber with dead := List.replicate 8 (1030 * 4096 + 6) } } : State).knowEdges.g
        R.dib_DROP_TRIG_DEAD = 1 := by decide +kernel

theorem wit_SentinelsFreezeAndRearm :
    ok { (hub.sentinel 15 fun x => { x with state := 2, vSample := 10, post := 5 }).tr (fun t => { t with tick := 15 }) with intake := true }
        (.sentinelFreeze 15) (fun t => (t.sn 15).state == 3 && t.gi R.sent_SN_STAT_SNAP 15 == 1 && t.hubQ.length == 8) = true
    ∧ ok ((hub.sentinel 15 fun x => { x with state := 2, vSample := 10, post := 5 }).tr fun t => { t with tick := 14 })
        (.sentinelFreeze 15) (fun t => (t.sn 15).state == 2) = true
    ∧ ok (hub.sentinel 15 fun x => { x with state := 3 }) (.sentinelRearmRequest 0x8000#32) (fun t => (t.sn 15).rearm) = true
    ∧ ok (hub.sentinel 15 fun x => { x with state := 3 }) (.sentinelRearmRequest 0x7FFF#32) (fun t => !(t.sn 15).rearm) = true := by
  decide +kernel

/-- A unit open in furrow 16 since slot 0, with the hub at a slot. -/
def opened (tick : Nat) : State :=
  (hub.tr fun t => { t with ran := true, tick := tick }).furrow 16 fun u => { u with
    cur := some ⟨9, 0x10, some (3, 4), 0, 77, [1#8, 2#8, 3#8], [], false, false, [3], false, false⟩ }

theorem wit_SegmentAgeClose :
    ok (opened (64 * (opened 0).gi R.fwin_D_CFG_AGE 16 - 1)) (.segmentAgeClose 16) (fun t =>
        (t.fur 16).cur == none && (t.fur 16).wr == 10 && t.peek (t.segAddr 16 9 + 32) 3 == [1#8, 2#8, 3#8]
        && leAt (t.peek (t.segAddr 16 9) 32) 18 2 == 3) = true
    ∧ ok (opened (64 * (opened 0).gi R.fwin_D_CFG_AGE 16 - 2)) (.segmentAgeClose 16) (fun t => (t.fur 16).cur != none) = true
    ∧ ok hub (.segmentAgeClose 16) (fun t => t == hub) = true := by decide +kernel

/-- The hub with a closed segment of furrow 16 to send, and H00 lit. -/
def sendable : State :=
  (((hub.p R.harv_LIT_LIT 1).lane 32 fun x => { x with tx := 0 }).poke 0x10000 (le 18 0 ++ le 2 4 ++ le 12 0 ++ [5#8, 6#8, 7#8, 8#8])).furrow
    16 fun u => { u with wr := 2, rd := 1, segs := [⟨1, 0x10000, 36, 0x10, 0, 3, [3], 9, false, false, 0, false, false, false, false, false, false⟩] }

theorem wit_SegmentDispatch :
    ok sendable .segmentDispatch (fun t => (t.fur 16).rd == 2 && t.harvest.chunks == 1532
        && (t.engines.map fun e => e.comp.map fun j => (j.furrow, j.seq, j.lane, j.payload)).headD none
          == some (16, 1, 0, [5#8, 6#8, 7#8, 8#8])) = true
    ∧ ok (sendable.p R.graft_STAT_ROLE 2) .segmentDispatch (fun t => (t.fur 16).rd == 1) = true
    ∧ ok (hub.p R.global_STATE_STATE 3) .segmentDispatch (fun t => t.g R.global_STATE_STATE == 1) = true := by decide +kernel

/-- Engine 35 compressing a job of a 16-byte payload. -/
def working (level : Nat) (verify poison : Bool) (crc : Nat) : State :=
  { hub with engines := modAt hub.engines 35 fun _ => ⟨some ⟨16, 0, 0x10000, 0, level, verify, poison, 0,
      le 20 0 ++ le 4 crc ++ le 8 0, List.replicate 16 5#8⟩, none, none⟩ }

/-- The CRC of its payload. -/
def workCrc : Nat := (crc32c (List.replicate 16 5#8)).toNat

theorem wit_CompressJobDone :
    ok (working 1 false false workCrc) (.compressJobDone 35 (.compressed [1#8])) (fun t =>
        t.harvest.outBytes == 9 && t.harvest.inBytes == 16 && t.gi R.comp_ENG_JOBS_COUNT 35 == 1) = true
    ∧ ok (working 1 false false workCrc) (.compressJobDone 35 (.compressed (List.replicate 8 1#8))) (fun t =>
        t.harvest.outBytes == 16 && t.g R.comp_STORED_COUNT == 1) = true
    ∧ ok (working 0 false false workCrc) (.compressJobDone 35 (.compressed [1#8])) (fun t => t.harvest.outBytes == 16) = true
    ∧ ok (working 1 false true 0) (.compressJobDone 35 (.compressed [1#8])) (fun t => t.harvest.outBytes == 0
        && (t.engineOf 35).comp.isNone && (t.engineOf 35).copy.isSome) = true
    ∧ ok (working 1 false false 0) (.compressJobDone 35 (.compressed [1#8])) (fun t => t.g R.comp_INPUT_CRC_COUNT == 1) = true
    ∧ ok (working 1 true false workCrc) (.compressJobDone 35 (.compressed [1#8])) (fun t => (t.engineOf 35).ver.isSome) = true
    ∧ ok ({ hub with engines := modAt hub.engines 35 fun _ => ⟨none, some (⟨16, 0, 0x10000, 0, 1, true, false, 0, le 32 0, []⟩, []), none⟩ }.pi
          R.comp_ENG_STAT_CONSEC_FAIL 35 15) (.compressJobDone 35 .verified)
        (fun t => t.g R.comp_VERIFY_FAIL_COUNT == 1 && t.gi R.comp_ENG_STAT_STORED_ONLY 35 == 1 && (t.engineOf 35).copy.isSome) = true
    ∧ ok { hub with engines := modAt hub.engines 35 fun _ => ⟨none, none, some ⟨16, 0, 0x10000, 0, 1, true, false, 0, le 32 0, [7#8]⟩⟩ }
        (.compressJobDone 35 .copied) (fun t => t.harvest.outBytes == 1 && (t.engineOf 35).copy.isNone) = true
    ∧ ok hub (.compressJobDone 35 (.compressed [1#8])) (fun t => t == hub) = true
    ∧ ok hub (.compressJobDone 35 .copied) (fun t => t == hub) = true := by decide +kernel

/-- Port 0 with a pause of a kind in progress, or none. -/
def atRest (pause : Nat) : State := (timed 5 0 true).mport 0 fun p => { p with pause := pause }

/-- The port of an address with a write of it in its buffer. -/
def buffered (a : Nat) : State :=
  (timed 5 0 true).mport ((timed 5 0 true).locate a).port fun p => { p with writes := [⟨⟨a, some [9#8], [], .ok, .ok, 100⟩, 0⟩] }

theorem wit_MemoryAccesses :
    (exec (.memoryAccess ⟨2 ^ 36, none, [], .ok, .ok, 100⟩) hub matches .fault .noAddress) = true
    ∧ ok (timed 5 0 true) (.memoryAccess ⟨2 ^ 36 - 256, some [9#8], [], .ok, .ok, 100⟩)
        (fun t => t.peek (2 ^ 36 - 256) 2 == [9#8, 0#8]) = true
    ∧ ok (timed 5 0 true) (.memoryAccess ⟨255, some [9#8], [], .failure, .ok, 100⟩) (fun t => t.mem.cells == []) = true
    ∧ ok ((timed 5 0 true).setPd 18 false) (.memoryAccess ⟨0, some [9#8], [], .ok, .ok, 100⟩) (fun t => t.mem.cells == []) = true
    ∧ ok (timed 5 0 true) (.memoryAccess ⟨256, some [9#8], [], .ok, .ok, 100⟩)
        (fun t => (t.mp (t.locate 256).port).writes.length == 1 && t.g R.scrub_CE_ALL_COUNT == 0) = true
    ∧ ok (buffered 256) (.memoryAccess ⟨300, none, [1, 2], .ok, .ok, 100⟩)
        (fun t => t.g R.scrub_UE_ALL_COUNT == 0 && t.gi R.mport_LAT_MAX_NS (mInst (t.locate 256).port) == 100) = true
    ∧ ok (atRest 0) (.memoryAccess ⟨0, none, [4], .ok, .ok, 100⟩) (fun t => t.g R.scrub_CE_ALL_COUNT == 1) = true
    ∧ ok (atRest 0) (.memoryAccess ⟨0, none, [4, 4, 5], .ok, .ok, 100⟩) (fun t => t.g R.scrub_CE_ALL_COUNT == 1) = true
    ∧ ok (atRest 0) (.memoryAccess ⟨0, none, [4, 0], .ok, .ok, 100⟩) (fun t => t.g R.scrub_UE_ALL_COUNT == 1
        && t.g R.scrub_UE_CAPT_LO_ADDR_LO == 0) = true
    ∧ ok (atRest 0) (.memoryAccess ⟨0, none, [4, 0], .failure, .ok, 100⟩) (fun t => t.g R.scrub_UE_ALL_COUNT == 0) = true
    ∧ ok (atRest 1) (.memoryAccess ⟨0, none, [4, 0], .ok, .ok, 100⟩)
        (fun t => t.g R.scrub_UE_ALL_COUNT == 0 && (t.mp (t.locate 0).port).reads.length == 1) = true
    ∧ ok ((timed 5 0 true).setRank 0 0 fun k => { k with selfRef := true }) (.memoryAccess ⟨0, some [9#8], [], .ok, .ok, 100⟩)
        (fun t => t.mem.cells == []) = true := by
  decide +kernel

/-- Port 7 in a pause, slot B with a number of refresh commands postponed. -/
def paused7 (n : Nat) : State :=
  (hub.mport 7 fun p => { p with pause := 1 }).setRank 7 1 fun k => { k with postponed := List.replicate n (0, .ok) }

theorem wit_Scrubbing :
    ok ((timed 5 0 true).p R.scrub_POS_GRANULE (2 ^ 28 - 1)) (.scrubGranule ⟨[], .ok⟩)
        (fun t => t.g R.scrub_POS_GRANULE == 0 && t.g R.scrub_PASSES_COUNT == 1) = true
    ∧ ok (timed 5 0 true) (.scrubGranule ⟨[2], .ok⟩) (fun t => t.g R.scrub_POS_GRANULE == 1 && t.g R.scrub_CE_ALL_COUNT == 1) = true
    ∧ ok ((timed 5 0 true).p R.scrub_POS_GRANULE 8) (.scrubGranule ⟨[1, 2], .ok⟩)
        (fun t => t.g R.scrub_UE_ALL_COUNT == 1 && t.g R.scrub_UE_CAPT_LO_ADDR_LO == 2048) = true
    ∧ ok ((timed 5 0 true).p R.scrub_POS_GRANULE 8) (.scrubGranule ⟨[1, 2], .failure⟩) (fun t => t.g R.scrub_UE_ALL_COUNT == 0) = true
    ∧ ok ((buffered 2048).p R.scrub_POS_GRANULE 8) (.scrubGranule ⟨[1, 2], .ok⟩)
        (fun t => t.g R.scrub_UE_ALL_COUNT == 0 && t.g R.scrub_POS_GRANULE == 9) = true
    ∧ ok ((timed 5 0 true).mport 0 fun p => { p with pause := 1 }) (.scrubGranule ⟨[2], .ok⟩)
        (fun t => t.g R.scrub_CE_ALL_COUNT == 0) = true
    ∧ ok (hub.mport 7 fun p => { p with rows := [(17, 3), (18, 4)] }) (.refreshCommand 7 1 ⟨8, .ok⟩) (fun t => (t.mp 7).rows == [(17, 3), (18, 4)]) = true
    ∧ ok (hub.mport 7 fun p => { p with rows := [(17, 3), (18, 4)] }) (.refreshCommand 7 1 ⟨0, .ok⟩) (fun t => (t.mp 7).rows == [(18, 4)]) = true
    ∧ ok hub (.refreshCommand 7 1 ⟨0, .error⟩) (fun t => t.gi R.spare_SLOT_HEALTH_CA (hInst 7 1) == 1) = true
    ∧ ok (hub.mport 7 fun p => { p with rows := [(17, 3), (18, 4)] }) (.refreshCommand 7 1 ⟨0, .failure⟩)
        (fun t => t.gi R.spare_SLOT_HEALTH_CAUSE (hInst 7 1) != 0 && (t.mp 7).rows.length == 2) = true
    ∧ ok (hub.setRank 0 0 fun k => { k with table := [(0, [(1, 2)])] }) .rdTableClear (fun t => (t.rank 0 0).table == []) = true
    ∧ ok (hub.pi R.spare_SLOT_HEALTH_CE (hInst 7 2) 5) .ceWindowEnd (fun t => t.gi R.spare_SLOT_HEALTH_CE (hInst 7 2) == 0) = true
    ∧ ok ((timed 0 0 true).pi R.spare_SLOT_HEALTH_CE (hInst 7 2) 5) .ceWindowEnd (fun t => t.gi R.spare_SLOT_HEALTH_CE (hInst 7 2) == 0) = true
    ∧ ok ((timed 0 1 true).pi R.spare_SLOT_HEALTH_CE (hInst 7 2) 5) .ceWindowEnd (fun t => t.gi R.spare_SLOT_HEALTH_CE (hInst 7 2) == 5) = true
    ∧ ok (paused7 6) (.refreshCommand 7 1 ⟨4, .error⟩) (fun t => (t.rank 7 1).postponed == List.replicate 6 (0, .ok) ++ [(4, .error)]) = true
    ∧ ok (paused7 7) (.refreshCommand 7 1 ⟨4, .ok⟩) (fun t => t == paused7 7) = true
    ∧ ok (hub.setRank 7 1 fun k => { k with selfRef := true }) (.refreshCommand 7 1 ⟨0, .ok⟩)
        (fun t => t == hub.setRank 7 1 fun k => { k with selfRef := true }) = true
    ∧ ok ((timed 5 0 true).setRank 0 0 fun k => { k with selfRef := true }) (.scrubGranule ⟨[2], .ok⟩) (fun t => t.g R.scrub_CE_ALL_COUNT == 0) = true := by
  decide +kernel

/-- Slot A of port 0 at a refresh rate after calm readings. -/
def cooled (rate cool calm : Nat) : State := hub.setRank 0 0 fun k => { k with rate := rate, cool := cool, calm := calm }

theorem wit_Mr4Poll :
    ok hub (.mr4Poll 0 0 [106, -5] ⟨4, .ok⟩) (fun t => (t.rank 0 0).rate == 2 && t.gi R.mport_TEMP_OVER (mInst 0) == 1
        && t.gi R.mport_TEMP_HOT (mInst 0) == 1 && t.gi R.mport_TEMP_MR4 (mInst 0) == 4) = true
    ∧ ok hub (.mr4Poll 0 0 [105] ⟨4, .ok⟩) (fun t => (t.rank 0 0).rate == 1 && t.gi R.mport_TEMP_HOT (mInst 0) == 1) = true
    ∧ ok hub (.mr4Poll 0 0 [85] ⟨4, .ok⟩) (fun t => (t.rank 0 0).rate == 0) = true
    ∧ ok (cooled 2 0 1) (.mr4Poll 0 0 [105] ⟨4, .ok⟩) (fun t => (t.rank 0 0).rate == 1) = true
    ∧ ok (cooled 2 0 0) (.mr4Poll 0 0 [105] ⟨4, .ok⟩) (fun t => (t.rank 0 0).rate == 2) = true
    ∧ ok (cooled 1 1 0) (.mr4Poll 0 0 [79] ⟨4, .ok⟩) (fun t => (t.rank 0 0).rate == 0) = true
    ∧ ok (cooled 1 1 0) (.mr4Poll 0 0 [80] ⟨4, .ok⟩) (fun t => (t.rank 0 0).rate == 1) = true
    ∧ ok hub (.mr4Poll 0 0 [] ⟨4, .ok⟩) (fun t => t == hub) = true
    ∧ ok (cooled 2 0 0) (.mr4Poll 0 0 [106] ⟨4, .ok⟩) (fun t => (t.rank 0 0).rate == 2 && t.entriesMade == 1
        && t.gi R.hdr_IRQ_STAT_EVENT 0x041 == 1) = true
    ∧ ok (hub.mport 0 fun p => { p with pause := 1 }) (.mr4Poll 0 0 [106] ⟨4, .ok⟩) (fun t => t.entriesMade == 0) = true
    ∧ ok hub (.mr4Poll 0 0 [106] ⟨4, .error⟩) (fun t => (t.rank 0 0).rate == 2 && t.gi R.spare_SLOT_HEALTH_CA (hInst 0 0) == 1) = true
    ∧ ok hub (.mr4Poll 0 0 [106] ⟨4, .failure⟩) (fun t => (t.rank 0 0).rate == 0) = true := by decide +kernel

/-- The port of address 0 copying the slot that holds it. -/
def copying (a : Nat) : State :=
  let p := (timed 5 0 true).locate a
  (timed 5 0 true).mport p.port fun q => { q with mig := 2, src := (timed 5 0 true).slotOf p.port p.rank }

theorem wit_RetrainingAndCopies :
    ok ((timed 5 0 true).mport 0 fun p => { p with pause := 1 }) (.memRetrainEnd 0 [] [(20, 0x030201)]) (fun t => (t.mp 0).pause == 0
        && t.gi R.mport_RT_STAT_COUNT (mInst 0) == 1 && t.gi R.mport_WIN_RD (mInst 0 + 20) == 1
        && t.gi R.mport_WIN_WR (mInst 0 + 20) == 2 && t.gi R.mport_WIN_CA (mInst 0 + 20) == 3) = true
    ∧ ok ((timed 5 0 true).mport 0 fun p => { p with pause := 2 }) (.memRetrainEnd 0 [2] [])
        (fun t => t.gi R.mport_RT_STAT_COUNT (mInst 0) == 0 && t.gi R.mport_RT_STAT_FAIL (mInst 0) == 1
          && t.gi R.spare_SLOT_HEALTH_CAUSE (hInst 0 2) == 5) = true
    ∧ ok hub (.memRetrainEnd 0 [2] []) (fun t => t == hub) = true
    ∧ ok hub (.memRetrainUnlocked 7) (fun t => (t.mp 7).pause == 1) = true
    ∧ ok (timed 5 0 true) (.memRetrainUnlocked 7) (fun t => (t.mp 7).pause == 0) = true
    ∧ ok ((timed 5 0 true).mport 7 fun p => { p with mig := 2 }) (.migrationCopyDone ⟨7, []⟩) (fun t => (t.mp 7).mig == 3) = true
    ∧ ok ((timed 5 0 true).mport 7 fun p => { p with mig := 1 }) (.migrationCopyDone ⟨7, []⟩) (fun t => (t.mp 7).mig == 1) = true
    ∧ ok (copying 0) (.migrationCopyDone ⟨0, [(0, [2])]⟩) (fun t => (t.mp 0).mig == 3 && t.g R.scrub_CE_ALL_COUNT == 1) = true
    ∧ ok (copying 0) (.migrationCopyDone ⟨0, [(0, [2, 3])]⟩) (fun t => t.g R.scrub_UE_ALL_COUNT == 1) = true
    ∧ ok hub (.coherentRequest 5 none [1, 5, 0]) (fun t => t.mem.owners.map (fun (l, o) => (l, o.agent)) == [(5, 5)]) = true
    ∧ ok hub (.coherentRequest 5 none [6]) (fun t => t.mem.owners == []) = true
    ∧ ok (paused7 3) (.memRetrainEnd 7 [] []) (fun t => (t.rank 7 1).postponed == [] && (t.mp 7).pause == 0) = true
    ∧ ok (hub.mport 7 fun p => { p with pause := 1, pauseAt := 1 }) (.memRetrainEnd 7 [] []) (fun t => (t.mp 7).pause == 1) = true
    ∧ ok { hub with mem := { hub.mem with owners := [(5, ⟨2, List.replicate 64 0⟩)] } } (.coherentRequest 5 (some (2, [9#8])) [4])
        (fun t => t.peek 320 2 == [9#8, 0#8] && t.mem.owners.map (fun (l, o) => (l, o.agent, o.line.headD 0)) == [(5, 4, 9#8)]) = true
    ∧ ok hub (.coherentRequest (tableLines + 3) (some (2, [9#8])) [])
        (fun t => t.mem.cells == [] && t.lineAt (tableLines + 3) == padTo 64 [9#8] && t.mem.owners == []) = true
    ∧ ok hub (.coherentRequest (tableLines + sramLines) (some (2, [9#8])) [1]) (fun t => t == hub) = true := by decide +kernel

/-- H00 active with the packet of furrow 16's segment in progress, 126 of its bits to come. -/
def sending (draining : Bool) : State :=
  (sendable.furrow 16 fun u => { u with rd := 2, segs := u.segs.map fun g => { g with handed := true } }).tx 0
    fun t => { t with sending := [⟨16, 1, some (List.replicate 16 1#8), 1, 2⟩], draining := draining }

theorem wit_LanesSendAndLight :
    ok (sending false) (.segmentTxDone 0) (fun t => (t.fur 16).segs.map (·.sent) == [true] && t.outbox.getLast? == some (.packet 0 (List.replicate 16 1#8))
        && t.harvest.chunks == 1537 && (t.txOf 0).sending == []) = true
    ∧ ok hub (.segmentTxDone 0) (fun t => t == hub) = true
    ∧ ok (((hub.p R.harv_LIT_LIT 1).lane 32 fun x => { x with tx := 0 }).tx 0 fun t => { t with blocks := 1023 }) (.laneMarkSend 0 1024)
        (fun t => t.outbox.getLast? == some (.control 0 0x12 (2 ^ 40) 1) && (t.txOf 0).blocks == 0) = true
    ∧ ok ((sending false).tx 0 fun t => { t with blocks := 1023 }) (.laneMarkSend 0 1024)
        (fun t => t.outbox.getLast? == some (.control 0 0x12 (2 ^ 24 * 126 + 2 ^ 40) 1) && (t.txOf 0).sending.length == 1) = true
    ∧ ok ((sending false).tx 0 fun t => { t with blocks := 1022 }) (.laneMarkSend 0 1024)
        (fun t => t == (sending false).tx 0 fun t => { t with blocks := 1022 }) = true
    ∧ ok (((hub.p R.harv_LIT_LIT 1).lane 32 fun x => { x with tx := 0 }).tx 0 fun t => { t with blocks := 1024 }) (.laneMarkSend 0 1025)
        (fun t => (t.txOf 0).blocks == 0) = true
    ∧ ok (sending false) (.laneMarkSend 0 1023) (fun t => t == sending false) = true
    ∧ ok hub (.laneMarkSend 0 0) (fun t => t == hub) = true
    ∧ ok (sendable.tr fun t => { t with tick := 73 }) .backlogWaitTrigger
        (fun t => t.g R.harv_FORE_WAIT_TRIG == 1 && t.g R.harv_LIT_LIT == 0xFFFF) = true
    ∧ ok (sendable.tr fun t => { t with tick := 72 }) .backlogWaitTrigger (fun t => t.g R.harv_LIT_LIT == 1) = true
    ∧ ok { (((hub.p R.global_STATE_STATE 2).p R.harv_LIT_LIT 5).lane 34 fun x => { x with tx := 0 }) with
        harvest := { hub.harvest with ovr := hub.g R.harv_CFG_DARK_HOLD } } .laneDarken
        (fun t => t.g R.harv_LIT_LIT == 1 && (t.laneOf 34).tx == 2) = true
    ∧ ok (hub.p R.harv_LIT_LIT 5) .laneDarken (fun t => t.g R.harv_LIT_LIT == 5) = true := by decide +kernel

/-- A return frame that acknowledges up to segment 1 of furrow 16. -/
def frameBytes : List Byte := le 1 0 ++ le 2 1 ++ le 1 3 ++ le 6 5 ++ le 2 7 ++ le 1 1 ++ le 2 16 ++ le 5 1 ++ le 41 0

/-- A return frame with its CRC. -/
def frame : List Byte := frameBytes ++ le 2 (natOfBits (crcBits (crc16 (bitsOfBytes frameBytes))))

/-- H00 with frame lock, furrow 16 enabled and its segment sent. -/
def returning : State :=
  (((sending false).pi R.lane_LANE_STAT_FRAME_LOCK 32 1).pi R.fwin_D_CFG_ENABLE 16 1).tr fun t => { t with orbit := 5, slot := 7 }

/-- That hub with the given frame brought by the last four blocks of H00. -/
def brought (b : List Byte) : State := returning.lane 32 fun x => { x with rx := 0, rxTo := 0, up := some (0, natOfBits (bitsOfBytes b)) }

set_option maxRecDepth 4096 in
theorem wit_ReturnChannel :
    frame.length = 63
    ∧ ok ((brought frame).p R.harv_RC_STAT_RC_DOWN 1) (.returnFrame 0 frame)
        (fun t => t.g R.harv_RC_STAT_RC_DOWN == 0 && (t.fur 16).ack == 1 && t.harvest.lastTick == some 0
          && t.g R.harv_RC_STAT_DROPS == 3 && (t.txOf 0).locked) = true
    ∧ ok ((brought frame).tr fun t => { t with slot := 8 }) (.returnFrame 0 frame)
        (fun t => t.g R.harv_RC_MISC_MISMATCH == 1 && (t.fur 16).ack == 0) = true
    ∧ ok (brought (frame.set 61 0#8)) (.returnFrame 0 (frame.set 61 0#8)) (fun t => t.g R.harv_RC_CRC_H00 == 1 && (t.fur 16).ack == 0) = true
    ∧ ok { brought frame with harvest := { returning.harvest with seen := [5 * 256 + 7] } } (.returnFrame 0 frame)
        (fun t => (t.fur 16).ack == 0 && t.g R.harv_RC_STAT_RC_DOWN == 0) = true
    ∧ ok returning (.returnFrame 1 frame) (fun t => t == returning) = true
    ∧ ok (brought frame) (.returnFrame 0 (frame.set 61 0#8)) (fun t => t == brought frame) = true
    ∧ ok { (returning.p R.harv_LIT_LIT 3 |>.lane 33 fun x => { x with tx := 0 }) with nowNs := 199999 } (.laneDropTimeout 0)
        (fun t => !(t.txOf 0).dropped) = true
    ∧ ok { (returning.p R.harv_LIT_LIT 3 |>.lane 33 fun x => { x with tx := 0 }) with nowNs := 200000 } (.laneDropTimeout 0) (fun t =>
        (t.txOf 0).dropped && t.g R.harv_RC_STAT_DROPPED == 1 && (t.fur 16).segs.map (·.resend) == [true]) = true
    ∧ ok { (returning.tx 0 fun t => { t with locked := true }) with nowNs := 200000 } (.laneDropTimeout 0) (fun t => !(t.txOf 0).dropped) = true
    ∧ ok { (hub.tr fun t => { t with tick := 64 }) with harvest := { hub.harvest with lastTick := some 0 } } .returnChannelDown
        (fun t => t.g R.harv_RC_STAT_RC_DOWN == 1) = true
    ∧ ok { (hub.tr fun t => { t with tick := 63 }) with harvest := { hub.harvest with lastTick := some 0 } } .returnChannelDown
        (fun t => t.g R.harv_RC_STAT_RC_DOWN == 0) = true := by decide +kernel

/-- The scan of channel 3, in volts, with COARSE_EN as given. -/
def scan3 (coarseEn : Nat) : Scan := ⟨some 3, [0, 0, 0, 0, 0, coarseEn, 0, 127, 0, 0, 0, 0], false, 0, [], 0, 0⟩

/-- The slow front end running, group 0 converting channel 3 with COARSE_EN as given; output 0 enabled on channel 3. -/
def slowHub (coarseEn : Nat) : State :=
  let s := ((((hub.p R.clocks_REF_STAT_HREF 1).p R.slow_CTRL_ENABLE 1).pi R.il_IL_CFG_EN 0 1).pi R.il_IL_CFG_SRC 0 3).scan 0
    fun _ => scan3 coarseEn
  { s with slow := { s.slow with scanning := true } }

/-- A result of group 0 at 0 V. -/
def zeroVolt : SlowIn := ⟨0, 0, false, false, false, 5001, 300, none⟩

theorem wit_SlowResults :
    (slowHub 1).slowRuns = true ∧ (slowHub 1).scanOf 0 = scan3 1
    ∧ ok (slowHub 1) (.slowCoarseResult zeroVolt) (fun t => t.slow.recs.length == 1) = true
    ∧ ok ((slowHub 0).p R.slow_CTRL_VEXC_EN 1) (.slowCoarseResult zeroVolt)
        (fun t => (t.scanOf 0).coarse && t.slow.recs == [] && t.slow.vexcBad && t.slow.vexcLoad == 255) = true
    ∧ ok (slowHub 1) (.slowCoarseResult { zeroVolt with group := 1 }) (fun t => t == slowHub 1) = true
    ∧ ok (slowHub 1) (.slowFineResult zeroVolt) (fun t =>
        (t.fineOf 3).any (fun f => f.code == 0#24 && f.value == 0#32 && f.flags % 4 == 1) && t.slow.recs.length == 1) = true
    ∧ ok (slowHub 1) (.slowFineResult { zeroVolt with overload := true }) (fun t => (t.fineOf 3).any fun f => bitAt f.flags 1) = true
    ∧ ok (slowHub 1) (.slowFineResult { zeroVolt with group := 3 }) (fun t => t == slowHub 1) = true
    ∧ ok { slowHub 1 with slow := { (slowHub 1).slow with scanning := false } } (.slowFineResult zeroVolt)
        (fun t => t.slow.recs == []) = true
    ∧ ok { hub with slow := { hub.slow with rot := .calibrating 4 } } (.slowModCalDone 4)
        (fun t => t.slow.rot == .idle && t.g R.slow_GROUP_MAP_SPARE == 4) = true
    ∧ ok { hub with slow := { hub.slow with rot := .calibrating 4 } } (.slowModCalDone 3) (fun t => t.slow.rot == .calibrating 4) = true := by
  decide +kernel

/-- The slow front end with a fine value of channel 3 of 100 ns. -/
def valued : State :=
  { slowHub 1 with slow := { (slowHub 1).slow with fine := [(3, ⟨5#24, 0x40000000#32, 1, 100⟩)] } }

theorem wit_SlowFaultsAndOutputs :
    ok hub (.slowClamp 95) (fun t => bitAt (t.gi R.slow_FLAG_BITS_CH 2) 31) = true
    ∧ ok (hub.pi R.slow_CH_CFG_DIFF 94 1) (.slowClamp 95) (fun t => bitAt (t.gi R.slow_FLAG_BITS_CH 2) 30) = true
    ∧ ok hub (.slowClamp 96) (fun t => t == hub) = true
    ∧ ok (hub.p R.slow_CTRL_VEXC_EN 1) (.vexcOverloadTrip 300)
        (fun t => !t.vexcOn && t.g R.slow_VEXC_STAT_EXC_FAULT == 1 && t.slow.vexcLoad == 255) = true
    ∧ ok hub (.vexcOverloadTrip 300) (fun t => t == hub) = true
    ∧ ok (hub.pi R.slow_IX_CFG_LEVEL 7 1) (.ixCompliance 7) (fun t => t.g R.slow_IX_STAT_COMPLY == 128) = true
    ∧ ok hub (.ixCompliance 7) (fun t => t == hub) = true
    ∧ ok hub (.ilPeriodEnd 7) (fun t => t.gi R.il_IL_STAT_FAULT 7 == 1 && t.gi R.il_IL_STAT_CAUSE 7 == 1 && t.gi R.il_IL_STAT_OUT 7 == 0) = true
    ∧ ok (hub.pi R.il_IL_CFG_MODE 7 1) (.ilPeriodEnd 7) (fun t => t.gi R.il_IL_STAT_OUT 7 == 250) = true
    ∧ valued.ilCause 0 = 0 ∧ ok (valued.pi R.il_IL_STAT_FAULT 0 0) (.ilPeriodEnd 0) (fun _ => true) = true
    ∧ ok ({ valued with nowNs := 100 + valued.gi R.il_IL_CFG_STALE 0 * 1000000 }) (.ilStale 0) (fun t => (t.ilOf 0).stale) = true
    ∧ ok ({ valued with nowNs := 99 + valued.gi R.il_IL_CFG_STALE 0 * 1000000 }) (.ilStale 0) (fun t => !(t.ilOf 0).stale) = true := by
  decide +kernel

theorem wit_SafeLatch :
    ok (hub.p R.slow_CTRL_VEXC_EN 1) (.safeNAssert 1000) (fun t => t.g R.il_SAFE_STAT_LATCH == 1 && !t.vexcOn
        && t.g R.il_SAFE_STAT_EDGES == 1 && t.gi R.il_IL_STAT_FAULT 7 == 1 && t.slow.safeLow == some 0) = true
    ∧ ok hub (.safeNAssert 499) (fun t => t.g R.il_SAFE_STAT_LATCH == 0 && t.g R.il_SAFE_STAT_PIN == 0) = true
    ∧ ok { hub.p R.il_SAFE_STAT_PIN 0 with nowNs := 7 } .safeNRelease (fun t => t.g R.il_SAFE_STAT_PIN == 1 && t.slow.safeHigh == 7) = true
    ∧ ok (hub.p R.il_SAFE_STAT_PIN 1) .safeNRelease (fun t => t == hub.p R.il_SAFE_STAT_PIN 1) = true
    ∧ ok hub (.safeForce 1#32) (fun t => t.g R.il_SAFE_STAT_LATCH == 1 && t.g R.il_SAFE_STAT_EDGES == 0) = true
    ∧ ok hub (.safeForce 2#32) (fun t => t == hub) = true := by decide +kernel

theorem wit_ByteQueueRegisters :
    ok (hub.p R.ing_PORT_INDEX_PORT 31) (.fcReqWrite 0x1F#32) (fun t => (t.portOf 31).reqs == [(31, false)]) = true
    ∧ ok (hub.pi R.ing_PORT_CFG_ENABLE 2 1) (.fcReqWrite 0x84#32) (fun t => (t.portOf 2).reqs == [(4, false)] && (t.portOf 0).reqs == []) = true
    ∧ ok (hub.port 0 fun p => { p with reqs := List.replicate 16 (5, false) }) (.fcReqWrite 5#32)
        (fun t => t.gi R.ing_CNT_CMD_REQ 0 == 1 && (t.portOf 0).reqs.length == 16) = true
    ∧ ok hub (.fcReqWrite 0x20#32) (fun t => t.gi R.hdr_ERR_CAPT_CAUSE 0x032 == 1 && t.gi R.hdr_ERR_CAPT_WHAT 0x032 == 0x058) = true
    ∧ ok (hub.setPd 11 false) (.fcReqWrite 5#32) (fun t => t == hub.setPd 11 false) = true
    ∧ ok (hub.port 0 fun p => { p with txq := List.replicate 255 0 }) (.scTxWrite 0x7FF#32) (fun t => (t.portOf 0).txq.getLast? == some 1023) = true
    ∧ ok (hub.port 0 fun p => { p with txq := List.replicate 256 0 }) (.scTxWrite 0x7FF#32)
        (fun t => (t.portOf 0).txq.length == 256 && t.gi R.hdr_ERR_CAPT_CAUSE 0x032 == 3) = true
    ∧ ok (hub.port 0 fun p => { p with rxq := [7, 8] }) .scRxRead (fun t => (t.portOf 0).rxq == [8]) = true
    ∧ ok hub .scRxRead (fun t => t == hub) = true
    ∧ ok hub (.hdgTxWrite 0x1FF#32) (fun t => t.hdg.bcast == [255]) = true
    ∧ ok (hub.p R.hdg_NODE_INDEX_NODE 31) (.hdgTxWrite 0xFF#32) (fun t => (t.hnode 31).txq == [255]) = true
    ∧ ok { hub with hdg := { hub.hdg with bcast := List.replicate 256 0 } } (.hdgTxWrite 0x100#32)
        (fun t => t.gi R.hdr_ERR_CAPT_CAUSE 0x00D == 3 && t.hdg.bcast.length == 256) = true
    ∧ ok { hub with hdg := { hub.hdg with nodes := [⟨none, 0, false, false, [], [9, 8]⟩] } } .hdgRxRead (fun t => (t.hnode 0).rxq == [8]) = true
    ∧ ok hub .hdgRxRead (fun t => t == hub) = true := by decide +kernel

theorem wit_ReadsThatAct :
    ok (hub.p R.coldframe_RET_INDEX_WORD 63) .retDataRead (fun t => t.g R.coldframe_RET_INDEX_WORD == 0) = true
    ∧ ok (hub.setPd 0 false) .retDataRead (fun t => t.g R.coldframe_RET_INDEX_WORD == 0) = true
    ∧ ok ((hub.p R.rec_MEAS_INDEX_CH 767).pi R.rec_MEAS_PCOUNT_COUNT 767 9) .measPcountRead (fun t =>
        t.gi R.rec_MEAS_PCOUNT_COUNT 767 == 0 && t.gi R.rec_MEAS_PMIN_PMIN 767 == 0xFFFFFFFF && t.gi R.rec_MEAS_PMAX_PMAX 767 == 0) = true
    ∧ ok (hub.p R.rec_MEAS_INDEX_CH 768) .measPcountRead (fun t => t == hub.p R.rec_MEAS_INDEX_CH 768) = true := by decide +kernel

theorem wit_WindowsStageAndAdvance :
    ok (hub.p R.coef_TAP_INDEX_TAP 39) (.coefAccess (.write .xspi 0x18001#32)) (fun t => t.g R.coef_TAP_INDEX_TAP == 0
        && t.zcs.staged == [⟨0x029, R.coef_COEF_VALUE, 39, 0x8001⟩] && t.zcs.owner == some .xspi) = true
    ∧ ok hub (.coefAccess .read) (fun t => t.g R.coef_TAP_INDEX_TAP == 1 && t.zcs.staged == []) = true
    ∧ ok { hub with zcs := { hub.zcs with owner := some (.session 1#32) } } (.coefAccess (.write .xspi 5#32))
        (fun t => t.g R.coef_TAP_INDEX_TAP == 0 && t.zcs.staged == []) = true
    ∧ ok (hub.p R.sent_MASK_INDEX_I 63) (.maskAccess (.write .xspi 0x00020003#32)) (fun t => t.g R.sent_MASK_INDEX_I == 0
        && t.zcs.staged.map (fun x => (x.idx, x.val)) == [(63, 3), (63, 2)]) = true
    ∧ ok (hub.p R.fsum_MEMBER_INDEX_MEMBER 31) (.memberAccess (.write .xspi 0x00020003#32)) (fun t => t.g R.fsum_MEMBER_INDEX_MEMBER == 0
        && t.zcs.staged.map (fun x => (x.idx, x.val)) == [(31, 3), (31, 2)]) = true
    ∧ ok ((hub.p R.cwin_CS_INDEX_WORD 32767).p R.cwin_CS_INDEX_PORT 31) (.csDataAccess (.write .xspi 9#32)) (fun t =>
        t.g R.cwin_CS_INDEX_WORD == 0 && t.g R.cwin_CS_INDEX_PORT == 0
        && t.zcs.staged == [⟨0x033, R.cwin_CS_DATA_CLASSES, 31 * 32768 + 32767, 9⟩]) = true
    ∧ ok (hub.setPd 11 false) (.csDataAccess .read) (fun t => t == hub.setPd 11 false) = true := by decide +kernel

/-- A standby of a graft pair. -/
def standing : State := ((timed 5 0 true).p R.graft_CFG_ARMED 1).p R.graft_STAT_ROLE 2

theorem wit_LaneRequests :
    ok ((timed 5 0 true).pi R.lane_LANE_INDEX_LANE 32 1) (.lanePwrReq true 0x9#32) (fun t => t.gi R.lane_PWR_REQ_TX_REQ 33 == 1
        && t.gi R.lane_PWR_REQ_RX_REQ 33 == 2 && (t.laneOf 33).rxDue && (t.laneOf 33).txDue) = true
    ∧ ok ((timed 5 0 true).p R.global_STATE_STATE 2) (.lanePwrReq true 0#32) (fun t => (t.laneOf 32).txDue && (t.laneOf 32).rxDue) = true
    ∧ ok ((timed 5 0 true).p R.global_STATE_STATE 2) (.lanePwrReq true 2#32) (fun t => t.gi R.hdr_ERR_CAPT_CAUSE 0x031 == 2) = true
    ∧ ok (laned 0 id) (.eyeScanStart false 0x15#32) (fun t => (t.laneOf 0).scan && t.gi R.lane_EYE_CTRL_DWELL 0 == 10) = true
    ∧ ok (laned 0 id) (.eyeScanStart false 0x32#32) (fun t => !(t.laneOf 0).scan && t.gi R.lane_EYE_CTRL_DWELL 0 == hub.gi R.lane_EYE_CTRL_DWELL 0) = true
    ∧ ok (laned 0 fun x => { x with scan := true }) (.eyeScanStart false 0x15#32) (fun t => t.gi R.hdr_ERR_CAPT_CAUSE 0x030 == 3) = true
    ∧ ok hub (.eyeScanStart false 0x15#32) (fun t => !(t.laneOf 0).scan && t.gi R.lane_EYE_RESULT_VALID 0 == 0) = true
    ∧ ok (hub.setPd 12 false |>.setPd 13 false) (.eyeScanStart false 0x15#32) (fun t => t.gi R.lane_EYE_CTRL_DWELL 0 == hub.gi R.lane_EYE_CTRL_DWELL 0) = true
    ∧ ok ((timed 5 0 true).pi R.lane_LANE_INDEX_LANE 32 2) (.lanePwrReq true 0x8#32) (fun t => t.gi R.lane_PWR_REQ_TX_REQ 34 == 0
        && t.gi R.hdr_ERR_COUNT_COUNT 0x031 == 0) = true
    ∧ ok ((timed 5 0 true).pi R.lane_LANE_INDEX_LANE 32 2) (.lanePwrReq true 0x4#32) (fun t => t.gi R.hdr_ERR_CAPT_CAUSE 0x031 == 1) = true
    ∧ standing.standby = true
    ∧ ok (standing.pi R.lane_LANE_INDEX_LANE 32 1) (.lanePwrReq true 0x9#32) (fun t => t.gi R.lane_PWR_REQ_TX_REQ 33 == 1
        && t.gi R.hdr_ERR_COUNT_COUNT 0x031 == 0) = true
    ∧ ok (standing.pi R.lane_LANE_INDEX_LANE 32 1) (.lanePwrReq true 0#32) (fun t => !(t.laneOf 33).txDue && (t.laneOf 33).rxDue
        && t.gi R.hdr_ERR_CAPT_CAUSE 0x031 == 2 && t.gi R.hdr_ERR_COUNT_COUNT 0x031 == 1) = true
    ∧ ok ((live (timed 5 0 true)).pi R.lane_LANE_INDEX_LANE 32 1) (.lanePwrReq true 0x9#32) (fun t => !(t.laneOf 33).txDue
        && !(t.laneOf 33).rxDue && t.gi R.hdr_ERR_COUNT_COUNT 0x031 == 1) = true
    ∧ ok (standing.pi R.lane_LANE_INDEX_LANE 32 2) (.lanePwrReq true 0xA#32) (fun t => t.gi R.hdr_ERR_COUNT_COUNT 0x031 == 0) = true
    ∧ ok (laned 0 fun x => { x with pausing := true }) (.eyeScanStart false 0x15#32) (fun t => !(t.laneOf 0).scan) = true
    ∧ ok (laned 0 fun x => { x with pausing := true, pauseAt := 1 }) (.eyeScanStart false 0x15#32) (fun t => (t.laneOf 0).scan) = true := by
  decide +kernel

theorem wit_ControlRegisters :
    ok hub (.mapOrderWrite 2#32) (fun t => t.g R.memctl_MAP_ORDER == 2) = true
    ∧ ok hub (.mapOrderWrite 3#32) (fun t => t.g R.memctl_MAP_ORDER == 0 && t.gi R.hdr_ERR_CAPT_CAUSE 0x040 == 1) = true
    ∧ ok (hub.setPd 18 false) (.mapOrderWrite 2#32) (fun t => t.g R.memctl_MAP_ORDER == 0) = true
    ∧ ok ((hub.p R.comp_ENG_INDEX_ENG 35).pi R.comp_ENG_STAT_STORED_ONLY 35 1) (.storedOnlyClear 2#32)
        (fun t => t.gi R.comp_ENG_STAT_STORED_ONLY 35 == 0) = true
    ∧ ok ((hub.p R.comp_ENG_INDEX_ENG 35).pi R.comp_ENG_STAT_STORED_ONLY 35 1) (.storedOnlyClear 1#32)
        (fun t => t.gi R.comp_ENG_STAT_STORED_ONLY 35 == 1) = true
    ∧ ok (hub.p R.comp_ENG_INDEX_ENG 36) (.storedOnlyClear 2#32) (fun t => t == hub.p R.comp_ENG_INDEX_ENG 36) = true
    ∧ ok (hub.p R.slow_VEXC_STAT_EXC_FAULT 1) (.vexcFaultClear 2#32) (fun t => t.g R.slow_VEXC_STAT_EXC_FAULT == 0) = true
    ∧ ok (hub.p R.slow_VEXC_STAT_EXC_FAULT 1) (.vexcFaultClear 1#32) (fun t => t.g R.slow_VEXC_STAT_EXC_FAULT == 1) = true
    ∧ ok { hub with xspi := { hub.xspi with lines := [4] } } (.xspiModeWrite (BitVec.ofNat 32 (1 - hub.g R.xspi_CFG_MODE)))
        (fun t => t.g R.xspi_CFG_MODE == 1 - hub.g R.xspi_CFG_MODE && t.xspi.lines == []) = true := by decide +kernel

theorem wit_PageHeaders :
    ok (hub.err 0x001 3 9) (.errClear 0x001) (fun t => t.gi R.hdr_ERR_COUNT_COUNT 0x001 == 0 && t.gi R.hdr_ERR_CAPT_WHAT 0x001 == 0) = true
    ∧ ok (hub.err 0x001 3 9) (.errClear 0x005) (fun t => t.gi R.hdr_ERR_COUNT_COUNT 0x001 == 1) = true
    ∧ ok (hub.p R.trellis_ORBIT_SLIP_COUNT 4) (.counterClear 0x001) (fun t => t.g R.trellis_ORBIT_SLIP_COUNT == 0) = true
    ∧ ok ((hub.pi R.mport_RT_STAT_COUNT 0 5).pi R.mport_RT_STAT_FAIL 32 5) (.counterClear 0x041)
        (fun t => t.gi R.mport_RT_STAT_FAIL 32 == 5) = true
    ∧ ok (hub.stage .xspi [⟨0x001, R.trellis_TIMING_NSLOT, 0, 300⟩, ⟨0x039, R.bud_RESERVE_LB, 0, 1⟩]) (.shadowDiscard .xspi 0x001 3#32)
        (fun t => t.zcs.staged == [⟨0x039, R.bud_RESERVE_LB, 0, 1⟩] && t.zcs.owner == some .xspi
          && t.gi R.hdr_SHADOW_CTRL_READ_STAGED 0x001 == 1) = true
    ∧ ok (hub.stage .xspi [⟨0x001, R.trellis_TIMING_NSLOT, 0, 300⟩]) (.shadowDiscard .xspi 0x001 2#32)
        (fun t => t.zcs.staged == [] && t.zcs.owner == none) = true
    ∧ ok (hub.stage (.session 1#32) [⟨0x001, R.trellis_TIMING_NSLOT, 0, 300⟩]) (.shadowDiscard .xspi 0x001 2#32)
        (fun t => t.zcs.staged.length == 1) = true := by decide +kernel

/-- The hub with a quiet window of 64 slots and every bed's records off, so that no source is routed. -/
def windowed (s : State) : State :=
  (forAll (List.range 24) (s.p R.trellis_QUIET_QW_LEN 64) fun s b => s.pi R.rec_BED_CFG_MODE b 0).tr fun t => { t with qwLen := 64 }

theorem wit_RegistersThatCommit :
    ok (windowed hub) (.budgetReserveWrite .xspi 5#32) (fun t => t.g R.bud_RESERVE_LB == 5 && t.zcs.action == none) = true
    ∧ ok (windowed (timed 5 0 true)) (.budgetReserveWrite .xspi 5#32)
        (fun t => t.g R.bud_RESERVE_LB == hub.g R.bud_RESERVE_LB
          && t.zcs.action.map (·.snap) == some [⟨0x039, R.bud_RESERVE_LB, 0, 5⟩]) = true
    ∧ ok hub (.budgetReserveWrite .xspi 5#32) (fun t => t.g R.bud_RESERVE_LB == hub.g R.bud_RESERVE_LB) = true
    ∧ ok ((windowed hub).setPd 2 false) (.budgetReserveWrite .xspi 5#32) (fun t => t.g R.bud_RESERVE_LB == hub.g R.bud_RESERVE_LB) = true := by
  decide +kernel

theorem wit_RegisterWrites :
    ok hub (.registerWrite .xspi 0x001040 0x01000003#32) (fun t => t.g R.trellis_TIMING_MODE == 1 && t.zcs.owner == some .xspi
        && t.zcs.staged.contains ⟨0x001, R.trellis_TIMING_NSLOT, 0, 256⟩ && t.zcs.staged.contains ⟨0x001, R.trellis_TIMING_KSEL, 0, 1⟩) = true
    ∧ ok hub (.registerWrite .xspi 0x001041 1#32) (fun t => t == hub) = true
    ∧ ok (hub.p R.slow_VEXC_STAT_EXC_FAULT 1) (.registerWrite .xspi R.slow_VEXC_STAT_EXC_FAULT.addr 2#32)
        (fun t => t.g R.slow_VEXC_STAT_EXC_FAULT == 0) = true
    ∧ ok { hub with zcs := { hub.zcs with owner := some (.session 1#32) } } (.registerWrite .xspi 0x001040 1#32)
        (fun t => t.g R.trellis_TIMING_MODE == 0) = true
    ∧ ok (hub.pi R.lane_LANE_INDEX_LANE 32 1) (.registerWrite .xspi 0x031044 8#32)
        (fun t => t.zcs.staged.contains ⟨0x031, R.lane_LANE_CFG_RX_INV, 33, 1⟩) = true
    ∧ ok (hub.pi R.lane_LANE_INDEX_LANE 32 2) (.registerWrite .xspi 0x031044 8#32)
        (fun t => !t.zcs.staged.any fun x => x.fld == R.lane_LANE_CFG_RX_INV) = true
    ∧ ok hub (.registerWrite .xspi 0x010044 6#32) (fun t => t.zcs.staged.contains ⟨0x010, R.bed_AFE_CFG_TERM, 0, 0⟩) = true
    ∧ ok (hub.p R.graft_CFG_ARMED 1) (.registerWrite .xspi 0x010044 6#32)
        (fun t => t.zcs.staged == [] && t.gi R.hdr_ERR_CAPT_CAUSE 0x010 == 2) = true := by decide +kernel

/-- The serial port as a master with an image device, a prefetch line as given. -/
def xipHub (lines : List Nat) : State :=
  { hub.p R.xspi_CFG_MODE 0 with xspi := { hub.xspi with dev := some ⟨1, true, 200, 100, true⟩, lines := lines } }

theorem wit_XipWindow :
    ok (xipHub [7, 9]) (.xipRead (9 * 256) 0) (fun t => t.g R.xspi_PF_STAT_HIT == 1 && t.xspi.lines == [9, 7]
        && t.outbox == [.xip (9 * 256) true]) = true
    ∧ ok (xipHub []) (.xipRead (2 ^ 28 - 1) 9) (fun t => t.g R.xspi_PF_STAT_MISS == 1 && t.xspi.lines.contains (2 ^ 20 - 1)) = true
    ∧ ok (xipHub []) (.xipRead 0 0) (fun t => t.xspi.lines.contains 1) = true
    ∧ ok ((xipHub []).p R.xspi_MST_STAT_DDR 1) (.xipRead 0 3) (fun t => t.g R.xspi_MST_ERR_ABANDONED == 0) = true
    ∧ ok ((xipHub []).p R.xspi_MST_STAT_DDR 1) (.xipRead 0 4) (fun t => t.g R.xspi_MST_ERR_ABANDONED == 1 && t.xspi.abandoned
        && t.gi R.hdr_IRQ_STAT_EVENT 0x00A == 1) = true
    ∧ ok (xipHub []) (.xipRead (2 ^ 28) 0) (fun t => t == xipHub []) = true
    ∧ ok hub (.xipRead 0 0) (fun t => t == hub) = true := by decide +kernel

/-- The serial port as a slave, up. -/
def slave : State := { hub.p R.xspi_CFG_MODE 1 with boot := { hub.boot with step := 14 } }

theorem wit_SlaveRegisterTransactions :
    ok slave (.xspiRegRead 0x001040 1 false true 1 false) (fun t => t.g R.xspi_SLV_STAT_LAST_ERR == 0 && t.g R.xspi_SLV_STAT_SEQ == 1
        && t.outbox == [.slave (slave.slaveStatus true) (le 4 (256 * 65536))]) = true
    ∧ ok slave (.xspiRegRead 0x001040 64 false false 64 false) (fun t => t.g R.xspi_SLV_STAT_LAST_ERR == 4) = true
    ∧ ok slave (.xspiRegRead 0x001040 2 false true 1 true) (fun t => t.g R.xspi_SLV_STAT_LAST_ERR == 5) = true
    ∧ ok slave (.xspiRegRead 0x001041 1 false true 1 false) (fun t => t.g R.xspi_SLV_STAT_LAST_ERR != 0 && t.g R.xspi_SLV_TRANS_COUNT == 1) = true
    ∧ ok slave (.xspiRegRead 0x001040 65 false true 65 false) (fun t => t == slave) = true
    ∧ ok slave (.xspiRegWrite 0x001040 1 false true [1#32] false) (fun t => t.g R.trellis_TIMING_MODE == 1 && t.g R.xspi_SLV_STAT_SEQ == 1) = true
    ∧ ok slave (.xspiRegWrite 0x001041 1 false true [1#32] false) (fun t => t.g R.trellis_TIMING_MODE == 0 && t.g R.xspi_SLV_STAT_LAST_ERR != 0) = true
    ∧ ok slave (.xspiRegWrite 0x001040 1 false false [1#32] false) (fun t => t.g R.trellis_TIMING_MODE == 0 && t.g R.xspi_SLV_STAT_LAST_ERR == 4) = true
    ∧ ok hub (.xspiRegWrite 0x001040 1 false true [1#32] false) (fun t => t == hub) = true := by decide +kernel

/-- A PING of 20 bytes by session 1, tag 2. -/
def pingBytes : List Byte := [0x32#8, 0#8] ++ le 2 1 ++ le 4 2 ++ le 4 1 ++ le 2 20 ++ le 2 0 ++ le 4 0xABCD

theorem wit_SlaveMessages :
    ok slave .xspiStatus (fun t => t.g R.xspi_SLV_STAT_SEQ == 1 && t.outbox.length == 1) = true
    ∧ ok slave (.xspiZcsWrite 20 pingBytes) (fun t => t.xspi.reqBuf == some pingBytes && t.zcs.queue == []) = true
    ∧ ok (slave.p R.cpu_PAIR_STAT_CMD_RUN 1) (.xspiZcsWrite 20 pingBytes) (fun t =>
        t.zcs.queue == [⟨⟨.xspi, 1#32, 2#32⟩, 1, pingBytes, 0⟩]) = true
    ∧ ok slave (.xspiZcsWrite 15 pingBytes) (fun t => t.g R.xspi_SLV_STAT_LAST_ERR == 7 && t.xspi.reqBuf == none) = true
    ∧ ok slave (.xspiZcsWrite 4097 pingBytes) (fun t => t.g R.xspi_SLV_STAT_LAST_ERR == 7) = true
    ∧ ok slave (.xspiZcsWrite 24 pingBytes) (fun t => t.xspi.reqBuf == none && t.g R.xspi_SLV_STAT_LAST_ERR == 0) = true
    ∧ ok { slave with xspi := { slave.xspi with reqBuf := some [] } } (.xspiZcsWrite 20 pingBytes) (fun t => t.g R.xspi_SLV_STAT_LAST_ERR == 6) = true
    ∧ ok { slave with xspi := { slave.xspi with resps := [[1#8, 2#8], [3#8]] } } (.xspiZcsRead 2 true) (fun t => t.xspi.resps == [[3#8]]) = true
    ∧ ok { slave with xspi := { slave.xspi with resps := [[1#8, 2#8]] } } (.xspiZcsRead 1 true) (fun t => t.xspi.resps == [[1#8, 2#8]]) = true
    ∧ ok slave (.xspiZcsRead 0 true) (fun t => t.g R.xspi_SLV_TRANS_COUNT == 1) = true
    ∧ ok slave (.xspiUnknownCmd 0) (fun t => t.g R.xspi_SLV_STAT_LAST_ERR == 1) = true
    ∧ ok slave (.xspiUnknownCmd 0x0B) (fun t => t == slave) = true
    ∧ ok slave (.xspiAbort 0x02 true true) (fun t => t.g R.xspi_SLV_CNT_SLAVE_ABORT == 1 && t.g R.xspi_SLV_STAT_LAST_ERR == 5) = true
    ∧ ok slave (.xspiAbort 0x02 false true) (fun t => t.g R.xspi_SLV_TRANS_COUNT == 1) = true
    ∧ ok slave (.xspiAbort 0x02 false false) (fun t => t.g R.xspi_SLV_STAT_LAST_ERR == 4) = true := by decide +kernel

/-- Ethernet port 1 enabled with address 9, the command pair running, session 1 open. -/
def netHub : State :=
  let s := ((hub.pi R.eth_PORT_CFG_EN 1 1).pi R.eth_IP_ADDR_ADDR 1 9).p R.cpu_PAIR_STAT_CMD_RUN 1
  { s with boot := { s.boot with step := 6 }, nowNs := 70, zcs := { s.zcs with sessions := [⟨1#32, 1000, 5, [], []⟩] } }

/-- A datagram of which a part has come. -/
def reassembling (ns : Nat) : State :=
  { hub with nowNs := ns, wall := { hub.wall with reasm := [⟨1, 5, 6, 7, [], none, 0⟩] } }

theorem wit_Ethernet :
    ok netHub (.ethFrame ⟨1, .bad⟩) (fun t => t.gi R.eth_RX_DROP_BAD 1 == 1) = true
    ∧ ok netHub (.ethFrame ⟨1, .arp 9 5⟩) (fun t => t.outbox == [.arp 1 5]) = true
    ∧ ok netHub (.ethFrame ⟨1, .arp 8 5⟩) (fun t => t.outbox == []) = true
    ∧ ok netHub (.ethFrame ⟨1, .icmpEcho 9 5 [1#8]⟩) (fun t => t.outbox == [.echo 1 5 [1#8]]) = true
    ∧ ok netHub (.ethFrame ⟨1, .zcs 9 5 6 7 0 false pingBytes⟩)
        (fun t => t.zcs.queue == [⟨⟨.udp 1 5 6, 1#32, 2#32⟩, 1, pingBytes, 70⟩] && t.zcs.sessions.map (·.last) == [70]) = true
    ∧ ok { netHub with boot := { netHub.boot with step := 5 } } (.ethFrame ⟨1, .arp 9 5⟩) (fun t => t.outbox == []) = true
    ∧ ok netHub (.ethFrame ⟨1, .zcs 8 5 6 7 0 false pingBytes⟩) (fun t => t == netHub) = true
    ∧ ok netHub (.ethFrame ⟨2, .bad⟩) (fun t => t == netHub) = true
    ∧ ok (reassembling 99999999) (.reasmTimeout 5 7) (fun t => t.wall.reasm.length == 1) = true
    ∧ ok (reassembling 100000000) (.reasmTimeout 5 7)
        (fun t => t.wall.reasm == [] && t.gi R.eth_RX_DROP_REASM 1 == 1) = true
    ∧ ok (reassembling 100000000) (.reasmTimeout 5 8)
        (fun t => t.wall.reasm.length == 1) = true
    ∧ ok (((hub.pi R.eth_PORT_STAT_LINK 0 1).p R.ptp_CFG_EN 1).p R.ptp_CFG_FAILOVER 1) (.ethLinkChange 0 false true)
        (fun t => t.g R.ptp_STAT_PORT_NOW == 1 && t.gi R.eth_PORT_STAT_LINK 0 == 0 && t.gi R.eth_PORT_STAT_MODULE 0 == 1) = true
    ∧ ok ((hub.pi R.eth_PORT_STAT_LINK 0 1).p R.ptp_CFG_EN 1 |>.p R.ptp_CFG_FAILOVER 0) (.ethLinkChange 0 false true)
        (fun t => t.g R.ptp_STAT_PORT_NOW == 0) = true
    ∧ ok hub (.ethLinkChange 2 false true) (fun t => t == hub) = true := by decide +kernel

/-- The data set of a master better than the hub's own clock, the identity of its port 3 last. -/
def master : List Nat := [1, 6, 0x21, 0x4E5D, 1, 3, 0, 3]

/-- PTP on port 0, following that master or not. -/
def ptpHub (follows : Bool) : State :=
  { ((hub.p R.ptp_CFG_EN 1).pi R.eth_PORT_CFG_EN 0 1).p R.cpu_PAIR_STAT_TND_RUN 1 with
    wall := { hub.wall with best := if follows then some master else none, sec := 5, rates := [4, 6] } }

/-- A message of port 3 that the port, transport and domain of `ptpHub` admit. -/
def ptpMsg (logSync : Int) (b : PtpBody) : PtpIn :=
  ⟨0, 3, (ptpHub true).g R.ptp_CFG_TRANSPORT == 1, (ptpHub true).g R.ptp_CFG_DOMAIN, logSync, b⟩

/-- That hub as one that may be a master, and as a master. -/
def mayMaster (is : Bool) : State :=
  { (ptpHub false).p R.ptp_CFG_SLAVE_ONLY 0 with wall := { (ptpHub false).wall with isMaster := is } }

theorem wit_PtpClock :
    ok (ptpHub false) (.ptpMessage (ptpMsg 0 (.announce 37 (master.take 7))))
        (fun t => t.wall.best == some master && t.g R.ptp_STAT_UTC_OFFSET == 37) = true
    ∧ ok (ptpHub true) (.ptpMessage { ptpMsg 0 (.announce 37 [0, 6, 0x21, 0x4E5D, 1, 4, 0]) with sender := 4 })
        (fun t => t.wall.best.any fun b => b.getLast? == some 4) = true
    ∧ ok (ptpHub true) (.ptpMessage { ptpMsg 0 (.announce 37 [2, 6, 0x21, 0x4E5D, 1, 4, 0]) with sender := 4 })
        (fun t => t == ptpHub true) = true
    ∧ ok (mayMaster false) (.ptpMessage (ptpMsg 0 (.announce 37 [255, 6, 0x21, 0x4E5D, 1, 3, 0])))
        (fun t => t.wall.isMaster && t.wall.best == none) = true
    ∧ ok (ptpHub true) (.ptpMessage (ptpMsg (-7) (.syncDone (256 * 10 ^ 9)))) (fun _ => true) = true
    ∧ ok (ptpHub true) (.ptpMessage (ptpMsg 1 (.syncDone 0))) (fun _ => true) = true
    ∧ ok (ptpHub true) (.ptpMessage (ptpMsg 2 (.syncDone 0))) (fun t => t == ptpHub true) = true
    ∧ ok (ptpHub true) (.ptpMessage (ptpMsg (-8) (.syncDone 0))) (fun t => t == ptpHub true) = true
    ∧ ok (ptpHub false) (.ptpMessage (ptpMsg 0 (.syncDone 0))) (fun t => t == ptpHub false) = true
    ∧ ok (ptpHub true) (.ptpMessage (ptpMsg 0 (.delayReq 5))) (fun t => t.outbox == []) = true
    ∧ ok (mayMaster true) (.ptpMessage (ptpMsg 0 (.delayReq 5))) (fun t => t.outbox.length == 1) = true
    ∧ ok hub (.ptpMessage (ptpMsg 0 (.announce 37 []))) (fun t => t == hub) = true
    ∧ ok ((ptpHub true).p R.ptp_CFG_FAILOVER 1) .ptpAnnounceTimeout
        (fun t => t.wall.best == none && t.g R.ptp_STAT_HOLDOVER == 1 && t.g R.ptp_STAT_PORT_NOW == 1 && t.wall.rate == 5) = true
    ∧ ok ((ptpHub false).p R.ptp_CFG_FAILOVER 0) .ptpAnnounceTimeout
        (fun t => t.g R.ptp_STAT_HOLDOVER == 1 && t.wall.rate == 5 && t.g R.ptp_STAT_PORT_NOW == 0) = true
    ∧ ok (mayMaster true) .ptpAnnounceTimeout (fun t => t.wall.isMaster) = true
    ∧ ok (mayMaster false) .ptpAnnounceTimeout (fun t => t.wall.isMaster) = true
    ∧ ok hub .ptpAnnounceTimeout (fun t => t == hub) = true := by decide +kernel

/-- The Hedgerow bus enabled, node 3 active after SEQ 9, node 4 to be quarantined. -/
def busHub : State :=
  (((hub.p R.hdg_CTRL_EN 1).p R.global_HUB_ID_ID 5).pi R.hdg_NODE_STAT_ACTIVE 3 1).hset 3 fun x => { x with seq := some 9, silent := 16 }

/-- The bus with a grant for node 31 and a quarantine for node 4 due. -/
def granting : State :=
  { busHub.hset 4 (fun x => { x with quarDue := true }) with
    hdg := { (busHub.hset 4 fun x => { x with quarDue := true }).hdg with grant := some (31, 77) } }

/-- A frame as it comes, with its CRC-32C. -/
def withCrc (b : List Byte) : List Byte := b ++ le 4 (crc32c b).toNat

/-- A data frame of two bytes in node slot 3. -/
def nodeFrame (seq : Nat) : List Byte := [1#8, 3#8, BitVec.ofNat 8 seq, 2#8, 5#8, 0#8, 0#8, 0#8, 0xAA#8, 0xBB#8]

theorem wit_HedgerowBus :
    ok granting .hedgerowTimerCycle (fun t => t.g R.hdg_CYCLE_COUNT == 1 && t.gi R.hdg_NODE_STAT_ACTIVE 31 == 1
          && t.nodeUid 31 == 77 && t.gi R.hdg_NODE_STAT_QUAR 4 == 1 && t.hdg.grant == none && t.outbox.length == 1) = true
    ∧ ok (granting.p R.global_HUB_ID_ID 0) .hedgerowTimerCycle (fun t => t.g R.hdg_CYCLE_COUNT == 0 && t.outbox == []) = true
    ∧ ok { granting with wall := { granting.wall with isMaster := true } } .hedgerowTimerCycle (fun t => t.g R.hdg_CYCLE_COUNT == 1) = true
    ∧ ok ((timed 5 0 true).p R.hdg_CTRL_EN 1) .hedgerowTimerCycle (fun t => t.g R.hdg_CYCLE_COUNT == 0) = true
    ∧ ok busHub (.hedgerowFrameRx ⟨32, 0, false, []⟩) (fun t => t.g R.hdg_BUS_ERR_ADMIT_FAIL == 1) = true
    ∧ ok busHub (.hedgerowFrameRx ⟨32, 0, false, withCrc ([2#8, 0xFF#8] ++ le 6 0 ++ le 8 77)⟩) (fun t => t.hdg.grant == some (0, 77)) = true
    ∧ ok busHub (.hedgerowFrameRx ⟨31, 0, true, []⟩) (fun t => t.gi R.hdg_NODE_ERR_OVERRUN 31 == 1) = true
    ∧ ok busHub (.hedgerowFrameRx ⟨3, 0, false, withCrc [1#8]⟩) (fun t => t.gi R.hdg_NODE_ERR_CRC 3 == 1) = true
    ∧ ok busHub (.hedgerowFrameRx ⟨3, 0, false, withCrc (nodeFrame 10)⟩) (fun t => t.gi R.hdg_NODE_STATUS_STATUS 3 == 5
        && (t.hnode 3).rxq.map (· % 256) == [0xAA, 0xBB] && (t.hnode 3).seq == some 10 && (t.hnode 3).heard) = true
    ∧ ok busHub (.hedgerowFrameRx ⟨3, 0, false, withCrc (nodeFrame 9)⟩) (fun t => (t.hnode 3).rxq == []) = true
    ∧ ok busHub (.hedgerowFrameRx ⟨34, 0, false, []⟩) (fun t => t == busHub) = true
    ∧ ok busHub (.hedgerowNodeTimeout 3) (fun t => t.gi R.hdg_NODE_STAT_ACTIVE 3 == 0) = true
    ∧ ok (busHub.hset 3 fun x => { x with silent := 15 }) (.hedgerowNodeTimeout 3) (fun t => t.gi R.hdg_NODE_STAT_ACTIVE 3 == 1) = true
    ∧ ok busHub (.hedgerowNodeTimeout 32) (fun t => t == busHub) = true := by decide +kernel

/-- The hub with both processor pairs running, a session with the given tags running, its outputs lit. -/
def sess (running : List (BitVec 32)) : State :=
  { (hub.p R.cpu_PAIR_STAT_CMD_RUN 1).p R.cpu_PAIR_STAT_TND_RUN 1 with
    zcs := { hub.zcs with sessions := [⟨7, 30000000000, 0, [⟨8, 1, 0, [5#8]⟩], running⟩] } }

/-- A hub whose last lockstep mismatch was at the given time. -/
def mism (s : State) (ns now : Nat) : State := { s with nowNs := now, cpu := { s.cpu with mismNs := some ns } }

/-- The hub restarts for the named cause. -/
def isReset (kind : Nat) (t : State) : Bool :=
  t.g R.global_RESET_CAUSE_KIND == kind && t.boot.step == (if kind < 3 then 2 else 4) && t.zcs.sessions == [] && t.pd 2 == false

/-- A log entry of a mismatch. -/
def found : LogE := ⟨5, 6, 0x004, 0x40, 0, 2, 0, 0, []⟩

theorem wit_ProcessorFaults :
    ok (sess [3]) (.lockstepMismatch 2) (fun t => t == sess [3]) = true
    ∧ ok (mism (sess [3]) 5 1000000004) (.lockstepMismatch 0) (isReset 4) = true
    ∧ ok (mism (sess []) 5 1000000005) (.lockstepMismatch 0) (fun t => t.g R.cpu_PAIR_STAT_CMD_RUN == 0
          && t.g R.cpu_MISMATCH_CMD == 1 && t.zcs.sessions == [] && t.cpu.restarting == 1) = true
    ∧ ok ((sess []).p R.graft_STAT_ROLE 1) (.lockstepMismatch 1) (fun t => t.g R.cpu_PAIR_STAT_TND_RUN == 0
          && t.graft.releaseOrbit == some 1 && t.graft.releaseCause == 1 && t.zcs.sessions.length == 1) = true
    ∧ ok (sess []) (.pairRestartDone 1) (fun t => t == sess []) = true
    ∧ ok { hub with cpu := { hub.cpu with restarting := 2, found := [(1, [found])], waiting := [found] } } (.pairRestartDone 1)
        (fun t => t.g R.cpu_PAIR_STAT_TND_RUN == 1 && t.cpu.restarting == 0 && t.cpu.lseq == 2 && t.cpu.waiting == []) = true
    ∧ ok (sess []) .watchdogExpiry (isReset 4) = true
    ∧ ok hub (.sramScrubPass [3, 9] none) (fun t => t.g R.cpu_SRAM_CE_COUNT == 2 && t.g R.cpu_SRAM_CE_ADDR_WORD == 9) = true
    ∧ ok hub (.sramScrubPass [] none) (fun t => t == hub) = true
    ∧ ok hub (.sramScrubPass [] (some 64)) (fun t => isReset 4 t && leAt t.cold.ret 96 4 == 64) = true
    ∧ ok hub (.romRecheck true) (fun t => t == hub) = true
    ∧ ok hub (.romRecheck false) (fun t => t == hub) = true
    ∧ ok (sess []) (.romRecheck false) (isReset 4) = true
    ∧ ok { sess [] with nvm := { hub.nvm with ops := [⟨3, [9#8], false⟩] } } .watchdogExpiry (fun _ => true) = true
    ∧ ({ sess [] with nvm := { hub.nvm with ops := [⟨3, [9#8], false⟩] } } : State).writing = true := by decide +kernel

/-- A reset of a kind waits for an orbit. -/
def resetDue (s : State) (kind orbit : Nat) : State := s.bt fun b => { b with req := some (kind, orbit) }

theorem wit_Resets :
    ok hub (.resetNAssert 999) (fun t => t == hub) = true
    ∧ ok { hub with power := { hub.power with unpowered := true } } (.resetNAssert 10000) (fun t => t.boot.held == false) = true
    ∧ ok hub (.resetNAssert 1000) (fun _ => true) = true
    ∧ ok hub (.resetNAssert 10000) (fun t => isReset 1 t && t.boot.held) = true
    ∧ ok (hub.bt fun b => { b with held := true }) (.resetNRelease true) (fun t => !t.boot.held && t.g R.xspi_CFG_MODE == 0) = true
    ∧ ok (hub.bt fun b => { b with held := true }) (.resetNRelease false) (fun t => !t.boot.held && t.g R.xspi_CFG_MODE == 1) = true
    ∧ ok hub (.resetNRelease true) (fun t => t == hub) = true
    ∧ ok (hub.bt fun b => { b with restart := true }) .resetTakeEffect (fun _ => true) = true
    ∧ ok hub .resetTakeEffect (fun t => t == hub) = true
    ∧ (live (timed 5 0 true)).live = true
    ∧ ok (resetDue (live (timed 5 0 true)) 3 6) .resetTakeEffect (fun t => t.boot.req == some (3, 6)) = true
    ∧ ok (resetDue (live (timed 6 0 true)) 3 6) .resetTakeEffect (fun t => t.boot.step == 4 && t.boot.req == none) = true
    ∧ ok (resetDue hub 2 6) .resetTakeEffect (isReset 2) = true
    ∧ ok ((hub.pi R.bed_SLICE_MAP_CH (64 + 3) 63).pi R.bed_SLICE_MAP_CH (64 + 32) 9) .watchdogExpiry
        (fun t => t.gi R.bed_SLICE_MAP_CH (64 + 3) == 63 && t.gi R.bed_SLICE_MAP_CH (64 + 32) == 3 && t.gi R.bed_ROT_STAT_SPARE 64 == 63) = true
    ∧ ok ((hub.pi R.bed_SLICE_MAP_CH 3 32).pi R.bed_SLICE_MAP_CH 32 3) .watchdogExpiry
        (fun t => t.gi R.bed_SLICE_MAP_CH 3 == 3 && t.gi R.bed_SLICE_MAP_CH 32 == R.bed_SLICE_MAP_CH.resetOf 32) = true := by decide +kernel

set_option maxRecDepth 4096 in
theorem wit_ResetsCloseSessions :
    ok (sess [3]) (.resetNAssert 10000) (fun t => t.zcs.sessions == [] && t.zcs.action == none) = true
    ∧ ok (resetDue (sess [3]) 2 0) .resetTakeEffect (fun t => t.zcs.sessions == [] && t.boot.req == none) = true
    ∧ ok ((sess [3]).bt fun b => { b with restart := true }) .resetTakeEffect (fun _ => true) = true
    ∧ ok (sess [3]) .watchdogExpiry (fun t => t.zcs.sessions == []) = true
    ∧ ok (sess [3]) (.romRecheck false) (fun t => t.zcs.sessions == []) = true
    ∧ ok (sess [3]) (.sramScrubPass [] (some 1)) (fun t => t.zcs.sessions == []) = true
    ∧ ok ((sess [3]).pw fun p => { p with pfail := true }) .powerRestore (fun t => t.zcs.sessions == []) = true
    ∧ ok ((sess [3]).pw fun p => { p with unpowered := true }) .powerRestore (fun t => t.zcs.sessions == []) = true
    ∧ ok (sess [3]) .powerLoss (fun t => t.zcs.sessions == [] && t.power.unpowered) = true := by decide +kernel

/-- An armed hub in a role at an orbit, hub number 5, its peer 3, in PIN mode with the orbit locked. -/
def grafted (role orbit : Nat) : State :=
  ((((timed orbit 0 false).p R.graft_CFG_ARMED 1).p R.graft_STAT_ROLE role).p R.global_HUB_ID_ID 5).p R.graft_CFG_PEER_ID 3

/-- An armed standby that is eligible to take a free token. -/
def eligibleAt (orbit : Nat) : State :=
  ((live (grafted 2 orbit)).p R.graft_STAT_SYNC_OK 1).p R.graft_STAT_ELIGIBLE 1

/-- A standby that has loaded its orbit number. -/
def loaded (orbit : Nat) : State := (grafted 2 orbit).gr fun g => { g with orbitLoaded := true }

/-- The active hub's frame for an orbit: EPOCH 9, hub 3. -/
def syncBytes (orbit : Nat) : List Byte := [0xA1#8, 9#8] ++ le 2 3 ++ le 6 orbit ++ [2#8, 0#8] ++ le 4 0xFF ++ le 4 77 ++ le 4 5

/-- The standby's reply. -/
def replyBytes : List Byte := [0xA2#8, 9#8] ++ le 2 3 ++ le 6 4 ++ [1#8, 0#8] ++ le 4 0

set_option maxRecDepth 4096 in
theorem wit_Grafting :
    ok hub .graftSyncSend (fun t => t == hub) = true
    ∧ (grafted 1 0).role = 1
    ∧ ok (grafted 1 0) .graftSyncSend (fun t => t.outbox.length == 1 && t.graft.sentOrbit == some 0) = true
    ∧ ok ((grafted 1 0).tr fun t => { t with slot := 1 }) .graftSyncSend (fun t => t.outbox == []) = true
    ∧ ok ((grafted 1 0).gr fun g => { g with sentOrbit := some 0 }) .graftSyncSend (fun t => t.outbox == []) = true
    ∧ ok ((grafted 1 0).gr fun g => { g with listening := true }) (.graftSyncRx (syncBytes 4) (crc32c (syncBytes 4)) true)
        (fun t => t.role == 2 && !t.graft.listening) = true
    ∧ ok ((grafted 1 0).gr fun g => { g with listening := true }) .graftSyncSend (fun t => t.outbox == []) = true
    ∧ ok hub (.graftSyncRx (syncBytes 4) (crc32c (syncBytes 4)) true) (fun t => t == hub) = true
    ∧ (grafted 2 4).standby = true
    ∧ ok (grafted 2 4) (.graftSyncRx [5#8] 0#32 true) (fun t => t.g R.graft_SYNC_ERR_CRC == 1) = true
    ∧ ok (grafted 2 4) (.graftSyncRx [] (crc32c []) true) (fun t => t == grafted 2 4) = true
    ∧ ok (loaded 4) (.graftSyncRx (syncBytes 5) (crc32c (syncBytes 5)) true) (fun t => t == loaded 4) = true
    ∧ ok (loaded 4) (.graftSyncRx (syncBytes 4) (crc32c (syncBytes 4)) false) (fun t => t == loaded 4) = true
    ∧ ok (grafted 2 4) (.graftSyncRx (syncBytes 4) (crc32c (syncBytes 4)) true) (fun t => t.graft.heardNow && t.graft.answer == some 4
          && t.g R.graft_STAT_EPOCH == 9 && t.g R.graft_STAT_SYNC_OK == 1 && t.on R.il_SAFE_STAT_LATCH 0) = true
    ∧ ok (grafted 2 4) (.graftSyncRx (syncBytes 5) (crc32c (syncBytes 5)) false) (fun t => t.trellis.orbit == 5 && t.graft.orbitLoaded) = true
    ∧ ok ((grafted 2 4).p R.trellis_TIMING_MODE 1) (.graftSyncRx (syncBytes 5) (crc32c (syncBytes 5)) true) (fun t => t.trellis.orbit == 4) = true
    ∧ ok (grafted 2 4) .graftReplySend (fun t => t == grafted 2 4) = true
    ∧ ok ((grafted 2 4).gr fun g => { g with answer := some 4 }) .graftReplySend
        (fun t => t.graft.answer == none && t.outbox.length == 1) = true
    ∧ ok hub (.graftReplyRx replyBytes (crc32c replyBytes)) (fun t => t == hub) = true
    ∧ ok (grafted 1 4) (.graftReplyRx replyBytes 0#32) (fun t => t.g R.graft_SYNC_ERR_CRC == 1) = true
    ∧ ok (grafted 1 4) (.graftReplyRx [] (crc32c [])) (fun t => t == grafted 1 4) = true
    ∧ ok (grafted 1 4) (.graftReplyRx replyBytes (crc32c replyBytes)) (fun t => t.graft.replySeen && t.on R.graft_STAT_PEER_ELIGIBLE 0) = true
    ∧ ok (grafted 1 4) .graftRelease (fun t => t == grafted 1 4) = true
    ∧ ok ((grafted 1 4).gr fun g => { g with releaseOrbit := some 5, releaseCause := 7 }) .graftRelease
        (fun t => t.g R.graft_STAT_ROLE == 1) = true
    ∧ ok ((grafted 1 5).gr fun g => { g with releaseOrbit := some 5, releaseCause := 7 }) .graftRelease
        (fun t => t.g R.graft_STAT_ROLE == 2 && t.g R.graft_STAT_RELEASED == 1 && t.g R.graft_STAT_CAUSE == 7) = true
    ∧ ok ((grafted 1 5).gr fun g => { g with releaseOrbit := some 5, releaseCause := 1 }) .graftRelease
        (fun t => t.g R.graft_INELIG_RELEASED == 1) = true
    ∧ ok hub (.graftTokenSeenReleased ⟨true, false⟩) (fun t => t == hub) = true
    ∧ ok ((eligibleAt 20).gr fun g => { g with lineLow := true }) (.graftTokenSeenReleased ⟨true, false⟩)
        (fun t => t.graft.takeAt == none) = true
    ∧ ok (grafted 2 4) (.graftTokenSeenReleased ⟨true, false⟩) (fun t => t.graft.takeAt == none && t.tokenFree) = true
    ∧ (eligibleAt 20).eligible = true
    ∧ ok (eligibleAt 20) (.graftTokenSeenReleased ⟨true, false⟩) (fun t => t.graft.takeAt == some 22) = true
    ∧ ok (eligibleAt 20) (.graftTokenSeenReleased ⟨false, false⟩) (fun t => t.graft.takeAt == some 23) = true
    ∧ ok (eligibleAt 20) (.graftTokenSeenReleased ⟨false, true⟩) (fun t => t.graft.takeAt == some 24) = true
    ∧ ok ((eligibleAt 20).p R.global_HUB_ID_ID 2) (.graftTokenSeenReleased ⟨false, true⟩) (fun t => t.graft.takeAt == some 23) = true
    ∧ ok ((eligibleAt 20).gr fun g => { g with lastRelease := some 9 }) (.graftTokenSeenReleased ⟨true, false⟩)
        (fun t => t.graft.takeAt == some 25) = true
    ∧ ok (eligibleAt 20) .graftTakeover (fun t => t == eligibleAt 20) = true
    ∧ ok ((eligibleAt 20).gr fun g => { g with takeAt := some 21 }) .graftTakeover (fun t => t.g R.graft_STAT_ROLE == 2) = true
    ∧ ok ((eligibleAt 20).gr fun g => { g with takeAt := some 20, highNs := some 0 }) .graftTakeover
        (fun t => t.g R.graft_STAT_ROLE == 2) = true
    ∧ ok ((eligibleAt 20).gr fun g => { g with takeAt := some 20, peerEpoch := some 255 }) .graftTakeover
        (fun t => t.g R.graft_STAT_ROLE == 1 && t.g R.graft_STAT_EPOCH == 0 && t.graft.listening && !t.tokenFree) = true
    ∧ ok (grafted 1 4) (.graftListenEnd true) (fun t => t == grafted 1 4) = true
    ∧ ok ((grafted 1 4).gr fun g => { g with listening := true }) (.graftListenEnd false) (fun t => t == grafted 1 4) = true
    ∧ ok ((grafted 1 4).gr fun g => { g with listening := true }) (.graftListenEnd true) (fun t => t.role == 2) = true
    ∧ ok hub .catchUpDone (fun t => t == hub) = true
    ∧ ok (hub.p R.graft_STAT_CATCH_UP 1) .catchUpDone (fun t => t.g R.graft_STAT_CATCH_UP == 0) = true := by decide +kernel

/-- The hub whose re-plan is due at orbit 0 of frames of 48 orbits. -/
def replanning : State := ((timed 0 0 true).p R.cpu_PAIR_STAT_TND_RUN 1).tr fun t => { t with mNow := 48 }

theorem wit_Tending :
    ok hub .tendingReplan (fun t => t == hub) = true
    ∧ (replanning.tndRuns && replanning.trellis.everLocked && replanning.trellis.mNow == replanning.g R.trellis_MFRAME_MF_ORBITS
        && replanning.trellis.orbit % (65536 * 48) == 0 && replanning.tend.lastOrbit == none) = true
    ∧ ok replanning .tendingReplan (fun _ => true) = true
    ∧ ok (hub.bed 3 fun x => { x with reload := .covered 33 false }) (.trimReloadDone 3)
        (fun t => (t.bedOf 3).reload == .none && t.g R.tending_TRIM_FIX_RELOADS == 1) = true
    ∧ ok (hub.bed 3 fun x => { x with reload := .covered 32 false }) (.trimReloadDone 3) (fun t => t.g R.tending_TRIM_FIX_RELOADS == 0) = true
    ∧ ok (hub.bed 3 fun x => { x with reload := .uncovered 0 true }) (.trimReloadDone 3)
        (fun t => (t.bedOf 3).reload == .none && t.g R.tending_TRIM_FIX_RELOADS == 1) = true
    ∧ ok (hub.td fun t => { t with ended := [25, 24] }) (.trimReloadDone 24)
        (fun t => t.tend.ended == [25] && t.g R.tending_TRIM_FIX_RELOADS == 1) = true
    ∧ ok hub (.trimReloadDone 24) (fun t => t == hub) = true := by decide +kernel

/-- The hub with PD04 and PD10 on beside the first four domains. -/
def few : State := hub.p R.global_PD_STAT_ON 0x41F

/-- The hub with domain 10 off and its start waiting, VINT in regulation. -/
def starting (d : Nat) (vint : Nat) : State :=
  ((hub.p R.global_PD_STAT_ON 15).p R.power_PD_WAIT_WAIT (2 ^ d)).p R.power_CONV_STAT_VINT_OK vint

/-- Its start ramps. -/
def rampUp (d : Nat) : State := (hub.p R.global_PD_STAT_ON 15).pw fun p => { p with ramping := [(d, 0)] }

theorem wit_PowerDomains :
    ok State.reset (.pdReqWrite 0#32) (fun _ => true) = true
    ∧ ok (timed 5 0 true) (.pdReqWrite 0x3F#32) (fun t => t.g R.power_PD_REQ_ON == 0x3F && t.power.reqDue) = true
    ∧ ok ((live (timed 5 0 true)).p R.power_PD_REQ_ON (2 ^ 24 - 1)) (.pdReqWrite 15#32)
        (fun t => bitAt (t.g R.power_PD_REQ_ON) 10 && t.gi R.hdr_ERR_CAPT_CAUSE 0x003 == 2) = true
    ∧ ok (timed 5 0 true) (.pdReqWrite 0#32) (fun t => t.g R.power_PD_REQ_ON == 15 && t.gi R.hdr_ERR_CAPT_CAUSE 0x003 == 1) = true
    ∧ ok few (.pdReqWrite 15#32) (fun t => t.pd 10 == false && !t.power.reqDue) = true
    ∧ ok hub (.vinChange 48000 47000) (fun t => t.g R.power_VIN_STAT_VIN_A == 2400 && t.g R.power_VIN_STAT_A_FEEDS == 1
          && t.g R.power_VIN_STAT_B_FEEDS == 0) = true
    ∧ ok hub (.vinChange 1 2) (fun t => t.g R.power_VIN_STAT_A_FEEDS == 0 && t.g R.power_VIN_STAT_B_FEEDS == 1) = true
    ∧ ok hub (.vinChange 0 0) (fun t => t.g R.power_VIN_STAT_A_FEEDS == 0 && t.g R.power_VIN_STAT_B_FEEDS == 0) = true
    ∧ ok hub (.vinChange 7 7) (fun _ => true) = true
    ∧ ok hub (.railFault 12) (fun t => t == hub) = true
    ∧ ok hub (.railFault 11) (fun t => t.pd 23 == false && t.pd 22 && t.g R.power_PD_FAULT_FAULT == 2 ^ 23) = true
    ∧ ok (hub.p R.graft_STAT_ROLE 1) (.railFault 11) (fun t => t.g R.global_RESET_CAUSE_KIND == 5 && t.pd 23 == false) = true
    ∧ ok hub (.railFault 1) (isReset 4) = true
    ∧ ok hub .pdStartAdmit (fun t => t == hub) = true
    ∧ ok (starting 10 0) .pdStartAdmit (fun t => t == starting 10 0) = true
    ∧ ok (starting 10 1) .pdStartAdmit (fun t => t.power.ramping == [(10, 0)] && t.g R.power_PD_WAIT_WAIT == 0) = true
    ∧ ok (starting 3 0) .pdStartAdmit (fun t => t.power.ramping == [(3, 0)]) = true
    ∧ ok hub (.pdRampEnd 10 true) (fun t => t == hub) = true
    ∧ ok (rampUp 10) (.pdRampEnd 10 true) (fun t => t.pd 10 && t.power.ramping == []) = true
    ∧ ok (rampUp 10) (.pdRampEnd 10 false) (fun _ => true) = true := by
  decide +kernel

/-- The hub with the trip latch set. -/
def latched : State := hub.p R.trip_PTRIP_STAT_LATCH 1

theorem wit_PowerTrip :
    ok hub (.ptripNAssert 49 false) (fun t => t.g R.trip_PTRIP_STAT_PIN == 0 && t.g R.trip_PTRIP_STAT_LATCH == 0) = true
    ∧ ok (hub.pw fun p => { p with unpowered := true }) (.ptripNAssert 200 false) (fun t => t.g R.trip_PTRIP_STAT_LATCH == 0) = true
    ∧ ok hub (.ptripNAssert 50 false) (fun _ => true) = true
    ∧ ok few (.ptripNAssert 200 true) (fun t => t.g R.trip_PTRIP_STAT_LATCH == 1 && t.g R.trip_CAUSE_PTRIP == 1
          && t.pd 3 && !t.pd 4 && !t.pd 23 && t.power.saving.isSome) = true
    ∧ ok latched (.ptripNAssert 200 true) (fun t => t.g R.trip_PTRIP_STAT_EDGES == 1 && t.g R.trip_PTRIP_STAT_IN_DEAD == 1
          && t.pd 10) = true
    ∧ ok hub (.converterTrip 0) (fun t => t == hub) = true
    ∧ ok hub (.converterTrip 4) (fun t => t == hub) = true
    ∧ ok few (.converterTrip 1) (fun t => t.g R.trip_CAUSE_VINT_OV == 1 && !t.pd 10 && t.g R.power_CONV_STAT_LATCHED == 1) = true
    ∧ ok latched (.converterTrip 3) (fun t => t.g R.trip_CAUSE_OVERTEMP == 1 && t.pd 10) = true
    ∧ ok (hub.p R.trip_PTRIP_STAT_PIN 1) .ptripNRelease (fun t => t.power.ptripHigh == 0) = true
    ∧ ok { hub.p R.trip_PTRIP_STAT_PIN 0 with nowNs := 50 } .ptripNRelease
        (fun t => t.g R.trip_PTRIP_STAT_PIN == 1 && t.power.ptripHigh == 50) = true := by decide +kernel

/-- The hub with an emergency save in progress. -/
def saving (record : List Byte) : State := hub.pw fun p => { p with saving := some record }

theorem wit_PowerFailureAndColdFrame :
    ok (hub.pw fun p => { p with pfail := true }) (.pfailDetect 5) (fun t => t.power.saving == none) = true
    ∧ ok few (.pfailDetect 799) (fun t => t.power.pfail && t.pd 3 && !t.pd 4 && t.power.saving.isSome && t.boot.step == 2) = true
    ∧ ok few (.pfailDetect 800) (fun t => t == few) = true
    ∧ ok hub (.emergencySaveDone true) (fun t => t == hub) = true
    ∧ (saving [1#8]).secState hub.nvm.save = 2 ∧ hub.nvm.peNext < 16 ∧ hub.nvm.age.all (· < 496) = true
    ∧ ok (saving [1#8]) (.emergencySaveDone false) (fun _ => true) = true
    ∧ ok ((saving [1#8]).setPd 3 false) (.emergencySaveDone true) (fun t => t.cold.saveFailed && t.power.saving == none) = true
    ∧ hub.nvm.save < 544
    ∧ ok (saving [1#8]) (.emergencySaveDone true)
        (fun _ => true) = true
    ∧ ok (hub.pw fun p => { p with pfail := true }) .powerRestore (fun t => t.boot.step == 0 && t.g R.global_RESET_CAUSE_KIND == 0) = true
    ∧ ok hub .powerRestore (fun t => t == hub) = true
    ∧ ok (saving [1#8]) .powerRestore (fun t => t == saving [1#8]) = true
    ∧ ok (hub.pw fun p => { p with unpowered := true }) .powerLoss (fun t => t.pd 10) = true
    ∧ ok (saving [1#8]) .powerLoss (fun _ => true) = true
    ∧ ok hub .powerLoss (fun t => t.power.unpowered && !t.cold.saveFailed && t.g R.global_PD_STAT_ON == 1) = true
    ∧ ok (hub.p R.power_CONV_STAT_VINT_OK 1) .coldframeToMain (fun t => t.g R.coldframe_CF_STAT_ON_MAIN == 1) = true
    ∧ ok ((hub.p R.power_CONV_STAT_VINT_OK 0).p R.coldframe_CF_STAT_ON_MAIN 1) .coldframeToVbat
        (fun t => t.g R.coldframe_CF_STAT_ON_MAIN == 0) = true
    ∧ ok (hub.p R.coldframe_CF_STAT_ON_MAIN 1) (.vbatLow 2199)
        (fun t => t.g R.coldframe_CF_STAT_VBAT_LOW == 1 && t.g R.coldframe_VBAT_MV == 2199) = true
    ∧ ok (hub.p R.coldframe_CF_STAT_ON_MAIN 1) (.vbatLow 2200)
        (fun t => t.g R.coldframe_CF_STAT_VBAT_LOW == 0 && t.g R.coldframe_VBAT_MV == 2200) = true
    ∧ ok hub .coldframeTimeSet (fun t => t == hub) = true
    ∧ ok { hub with wall := { hub.wall with setCold := true, sec := 9, ns := 500000000 } } .coldframeTimeSet
        (fun t => t.cold.sec == 9 && t.cold.sub == 16384 && t.g R.coldframe_CF_STAT_TIME_VALID == 1) = true := by decide +kernel

/-- A hub of which start-up has completed `n` steps after a reset of a kind, HREF present. -/
def bootAt (n kind : Nat) : State :=
  ((State.reset.p R.clocks_REF_STAT_HREF 1).p R.global_RESET_CAUSE_KIND kind).bt fun b => { b with step := n }

/-- The retention SRAM with 256 bytes of zeros and no valid CRC. -/
def retained (s : State) : State := { s with cold := { s.cold with ret := List.replicate 256 0#8 } }

set_option maxRecDepth 65536 in
theorem wit_StartupToTheStore :
    ok (bootAt 0 0) (.startupVinGood 9000) (fun t => t.boot.step == 1 && t.cpu.waiting.length == 1) = true
    ∧ ok (bootAt 0 0) (.startupVinGood 8999) (fun t => t == bootAt 0 0) = true
    ∧ ok (bootAt 1 0) (.startupVinGood 9000) (fun t => t == bootAt 1 0) = true
    ∧ ok (bootAt 1 0) (.startupVintStart 5000 true) (fun t => t.boot.step == 2 && t.g R.power_CONV_STAT_VINT == 5000) = true
    ∧ ok (bootAt 1 0) (.startupVintStart 3000 false) (fun t => t.boot.step == 1 && t.g R.power_CONV_STAT_VINT == 3000) = true
    ∧ ok (bootAt 2 0) (.startupPd01On false) (fun t => t.boot.step == 3 && t.pd 1 && t.g R.xspi_CFG_MODE == 1) = true
    ∧ ok (bootAt 2 1) (.startupPd01On true) (fun t => t.boot.step == 3 && t.g R.xspi_CFG_MODE == (bootAt 2 1).g R.xspi_CFG_MODE) = true
    ∧ ok (retained (bootAt 3 0)) (.startupCanaryCheck true) (fun t => t.boot.step == 4 && t.cold.retOk && leAt t.cold.ret 0 4 == 1
          && t.g R.coldframe_CF_STAT_TIME_VALID == 1 && t.g R.coldframe_CF_STAT_RETAIN_CRC == 1) = true
    ∧ ok { bootAt 3 1 with cold := { State.reset.cold with saveFailed := true } } (.startupCanaryCheck false) (fun t =>
          t.g R.coldframe_CF_STAT_COLD_FRAME_LOST == 1 && t.g R.coldframe_CF_STAT_SAVE_FAIL == 1 && leAt t.cold.ret 0 4 == 0) = true
    ∧ ok (bootAt 4 0) .startupRomBoot (fun _ => true) = true
    ∧ ok (bootAt 5 0) (.startupTrimLoad true false false) (fun t => t.boot.step == 6 && t.g R.tending_STAT_TRIM_COPY2 == 1) = true
    ∧ ok (bootAt 5 0) (.startupTrimLoad true true false) (fun t => t.g R.tending_STAT_TRIM_DIFFER == 1) = true
    ∧ ok (bootAt 5 0) (.startupTrimLoad false false true) (fun t => t.g R.tending_STAT_TRIM_INVALID == 1) = true
    ∧ ok (bootAt 6 0) .startupStoreScan (fun t => t.boot.step == 7 && t.pd 3) = true
    ∧ ok (bootAt 6 4) .startupStoreScan (fun t => t.boot.step == 7) = true := by decide +kernel

/-- A boot record: the image device on chip select 2, its image 16 blocks in, port 0 at address 9, with its CRC. -/
def recBytes : List Byte :=
  let b := le 4 0x5442474C ++ le 2 1 ++ [0#8, 2#8] ++ le 2 16 ++ le 2 0 ++ le 4 9 ++ le 16 0
  b ++ le 4 (crc32c b).toNat

/-- The store holding that record in sector 0. -/
def recorded (kind : Nat) : State :=
  { bootAt 6 kind with nvm := { (bootAt 6 kind).nvm with sectors := [(0, Sector.made 0 1 0 recBytes)] } }

set_option maxRecDepth 65536 in
theorem wit_bootRecord : (recorded 0).bootRecord = some recBytes
    ∧ ok (recorded 0) .startupStoreScan (fun t => t.g R.xspi_MST_CFG_CS == 2 && t.g R.xspi_MST_CFG_IMG_OFF == 16
        && t.gi R.eth_IP_ADDR_ADDR 0 == 9) = true
    ∧ ok { bootAt 6 0 with nvm := { (bootAt 6 0).nvm with
          sectors := [(0, Sector.made 9 1 0 [1#8]), (3, Sector.made 9 2 0 [2#8]), (5, ⟨[3#8], 3, 9, 0, 0⟩)] } } .startupStoreScan
        (fun t => t.secState 3 == 0 && t.gi R.nvm_SEC_STAT_LOGICAL 3 == 9 && t.secState 0 == 1 && t.secState 5 == 1) = true
    ∧ ok (recorded 3) .startupStoreScan (fun t => t.g R.xspi_MST_CFG_CS == (recorded 3).g R.xspi_MST_CFG_CS) = true := by
  decide +kernel

/-- The sections of an image: the base asks for PD04 and sets BUDGET.ACK_WIN; mode 2 sets BUDGET.RESERVE. -/
def imageBody : List Byte :=
  [1#8, 0#8, 0#8, 0#8] ++ le 4 16 ++ le 4 16 ++ le 4 0
  ++ le 4 (0x003060 + 2 ^ 24) ++ le 4 0x1F ++ le 4 (0x039044 + 2 ^ 24) ++ le 4 2000
  ++ [5#8, 0#8, 0#8, 0#8] ++ le 4 32 ++ le 4 32 ++ le 4 0
  ++ [2#8, 0xFF#8] ++ le 2 8 ++ le 16 0x41 ++ le 4 0 ++ le 4 (0x039040 + 2 ^ 24) ++ le 4 9

/-- The image: header with length and CRC, then its two sections. -/
def imageBytes : List Byte :=
  let tail := [0xC0#8, 0x32#8] ++ le 46 0 ++ imageBody
  le 4 0x4D49474C ++ le 2 1 ++ le 2 2 ++ le 4 144 ++ le 4 (crc32c tail).toNat ++ tail

/-- Its sections. -/
def imageSects : List Sect :=
  [.runs [⟨0x003060, false, [0x1F]⟩, ⟨0x039044, false, [2000]⟩], .overlay ⟨2, 0xFF, [], [⟨0x039040, false, [9]⟩]⟩]

set_option maxRecDepth 65536 in
theorem wit_image : (parseImage imageBytes).toOption = some imageSects := by decide +kernel

/-- An image device found by discovery. -/
def flashDev : FlashIn := ⟨15, true, 200, 100, true⟩

set_option maxRecDepth 65536 in
theorem wit_StartupToReady :
    ok ((bootAt 7 0).p R.xspi_CFG_MODE 1) (.startupImageSource flashDev []) (fun t => t.boot.step == 8 && t.boot.want == 2 ^ 24 - 1) = true
    ∧ ok ((bootAt 7 0).p R.xspi_CFG_MODE 0) (.startupImageSource flashDev imageBytes) (fun t => t.boot.step == 8 && t.boot.flash
          && t.boot.want == 0x1F) = true
    ∧ ok ((bootAt 7 0).p R.xspi_CFG_MODE 0) (.startupImageSource flashDev []) (fun t => t.boot.step == 8 && !t.boot.flash) = true
    ∧ ok { bootAt 7 3 with image := { State.reset.image with copy := some imageBytes } } (.startupImageSource flashDev [])
        (fun t => t.boot.want == 0x1F && !t.boot.flash) = true
    ∧ ok ((bootAt 8 0).bt fun b => { b with want := 0x1F }) .startupDomains
        (fun t => t.g R.power_PD_REQ_ON == 0x1F && t.g R.power_PD_WAIT_WAIT == 0x10 && t.boot.step == 8) = true
    ∧ ok (((bootAt 8 0).p R.global_PD_STAT_ON 0x1F).bt fun b => { b with want := 0x1F }) .startupDomains
        (fun t => t.g R.power_PD_WAIT_WAIT == 0 && t.boot.step == 9) = true
    ∧ ok ((bootAt 8 0).p R.clocks_REF_STAT_HREF 0) .startupDomains (fun t => t.boot.step == 8) = true
    ∧ ok (bootAt 9 0) (.startupTrainAndApply [] 70000 []) (fun t => t.boot.step == 10 && !t.boot.applied
          && t.g R.memctl_TRAIN_STAT_TIME == 65535) = true
    ∧ ok (((bootAt 9 0).p R.global_PD_STAT_ON (2 ^ 24 - 1)).bt fun b => { b with flash := true }) (.startupTrainAndApply [] 1 imageBytes)
        (fun _ => true) = true
    ∧ (parseImage (flashImage imageBytes)).toOption.isSome
    ∧ ok (bootAt 10 0) .startupLaneBringup (fun t => t.boot.step == 10) = true
    ∧ ok ((bootAt 10 0).bt fun b => { b with applied := true }) .startupLaneBringup (fun _ => true) = true
    ∧ ok ((timed 5 0 true).bt fun b => { b with step := 11 }) .startupTimeLock (fun t => t.boot.step == 11) = true
    ∧ ok (((timed 5 0 true).p R.clocks_REF_STAT_HREF 1).bt fun b => { b with step := 11 }) .startupTimeLock
        (fun t => t.boot.step == 12) = true
    ∧ ok ((embed.p R.clocks_REF_STAT_HREF 1).bt fun b => { b with step := 11 }) .startupTimeLock
        (fun t => t.boot.step == 11 && t.trellis.probe.calib == some []) = true
    ∧ ok (bootAt 12 0) .startupBudgetCheck (fun t => t.boot.step == 13) = true
    ∧ ok (bootAt 13 0) .ready (fun t => t.boot.step == 14 && t.g R.global_STATE_STATE == 1 && t.boot.everReady) = true := by
  decide +kernel

/-- The samples of no channel. -/
def noSamples : CycleIn := ⟨[], [], false⟩

/-- The counters have just entered orbit 5 at a marker in a slot whose cycle has run, a window's first slot as given. -/
def enters (first : Nat) : State := (timed 5 0 true).tr fun t => { t with edgeDue := true, qwFirst := first, qwLen := 64 }

set_option maxRecDepth 4096 in
theorem wit_SlotsOrbitsAndWindows :
    ok (timed 5 255 true) (.collectorCycle noSamples) (fun t => t == timed 5 255 true) = true
    ∧ ok (timed 5 254 true) (.collectorCycle noSamples) (fun _ => true) = true
    ∧ ok (timed 5 255 false) (.collectorCycle noSamples) (fun _ => true) = true
    ∧ ((timed (2 ^ 48 - 1) 255 true).orbitEnds && (match exec .orbitBoundary (timed (2 ^ 48 - 1) 255 true) with
        | .fault .orbitWrap => true | _ => false)) = true
    ∧ ok (timed 5 254 true) .orbitBoundary (fun t => t == timed 5 254 true) = true
    ∧ ok (timed (2 ^ 48 - 2) 255 true) .orbitBoundary (fun t => t.trellis.orbit == 2 ^ 48 - 1 && t.trellis.slot == 0) = true
    ∧ ok (timed 5 255 true) .orbitBoundary (fun t => t.trellis.orbit == 6 && t.trellis.slot == 0 && !t.trellis.ran) = true
    ∧ ok hub (.mframeBoundary ⟨[], [], [], [], [], [], none, 0, false, [], 3, 4⟩) (fun t => t == hub) = true
    ∧ ok (((timed 48 0 true).p R.cpu_PAIR_STAT_TND_RUN 1).tr fun t => { t with frameDue := true })
        (.mframeBoundary ⟨[], [], [], [], [], [], none, 0, false, [], 3, 4⟩) (fun _ => true) = true
    ∧ ok hub (.quietWindowStart ⟨[], []⟩) (fun t => t == hub) = true
    ∧ ok ((timed 5 9 true).tr fun t => { t with qwFirst := 10, qwLen := 63 }) (.quietWindowStart ⟨[], []⟩)
        (fun t => t.trellis.inWindow && t.trellis.slot == 10 && !t.trellis.ran) = true
    ∧ ok ((timed 5 10 false).tr fun t => { t with qwFirst := 10, qwLen := 64 }) (.quietWindowStart ⟨[], []⟩)
        (fun t => t.trellis.inWindow && t.prevRegs == (timed 5 10 false).regs) = true
    ∧ (enters 0).trellis.ran = true
    ∧ ok (enters 0) (.quietWindowStart ⟨[], []⟩) (fun t => !t.trellis.edgeDue && t.trellis.slot == 0 && t.trellis.inWindow) = true
    ∧ ok (enters 9) (.quietWindowStart ⟨[], []⟩) (fun t => t == enters 9) = true
    ∧ ok (((enters 9).setPd 10 false).tr fun t => { t with ran := false }) (.collectorCycle noSamples) (fun t => t.trellis.ran && !t.trellis.edgeDue) = true
    ∧ ok ((timed 5 254 true).setPd 10 false) (.collectorCycle noSamples) (fun t => t.trellis.slot == 255 && t.hist.length == 1) = true := by decide +kernel

theorem wit_QuietWindowAndFrameChanges :
    ok ((timed 95 255 true).p R.trellis_QUIET_QW_FIRST 77) .orbitBoundary
        (fun t => t.trellis.qwFirst == 77 && t.trellis.frameDue && t.trellis.mNow == 48) = true
    ∧ ok ((timed 95 255 true).p R.trellis_MFRAME_MF_ORBITS 7) .orbitBoundary (fun t => !t.trellis.frameDue) = true
    ∧ ok ((timed 5 10 false).tr fun t => { t with qwFirst := 10, qwLen := 64 }) (.quietWindowStart ⟨[], []⟩)
        (fun t => t.trellis.inWindow && t.trellis.slot == 10 && t.trellis.qwFirst == 10 && t.trellis.qwLen == 64) = true := by
  decide +kernel

/-- The command part updated. -/
def State.zx (s : State) (f : Zcs → Zcs) : State := { s with zcs := f s.zcs }

/-- A header by UDP: session 7, tag 3. -/
def hz : Hdr := ⟨.udp 0 9 1, 7, 3⟩

/-- The command pair runs, and no session is open. -/
def cmd : State := sess [] |>.zx fun z => { z with sessions := [] }

/-- The status of the last response by UDP. -/
def status (t : State) : Nat :=
  match t.outbox.getLast? with
  | some (.zcs _ _ ((_, m) :: _)) => leAt m 14 2
  | _ => 0xFFFF

/-- The command hub with a message that waits. -/
def queued (m : Msg) : State := cmd.zx fun z => { z with queue := [m] }

/-- What makes a message new. -/
theorem takes_new (c : Instr) (h : Hdr) (op : Nat) (s : State) (h0 : h.session ≠ 0)
    (run : s.on R.cpu_PAIR_STAT_CMD_RUN 0 = true) (its : s.turn c = true) (free : s.session h.session = none)
    (room : s.zcs.sessions.length < 4) : takes c h op s :=
  ⟨run, its, fun e => absurd e h0, fun _ _ => room, fun x _ e => by rw [free] at e; exact absurd e (by simp)⟩

/-- The message of `hz` is new there (`takes_new`), and the command answers a next state of which `p` holds. -/
def okc (s : State) (c : Instr) (p : State → Bool) : Bool :=
  s.on R.cpu_PAIR_STAT_CMD_RUN 0 && s.turn c && (s.session hz.session).isNone && decide (s.zcs.sessions.length < 4) && ok s c p

theorem wit_CommandGates :
    ok hub (.ping hz []) (fun t => t == hub) = true
    ∧ ok cmd (.ping hz (List.replicate 65 0#8)) (fun t => status t == stBadLength && t.zcs.sessions == []) = true
    ∧ ok cmd (.regRead ⟨.udp 0 9 1, 0, 3⟩ 0x000078 1 false) (fun t => status t == stDenied) = true
    ∧ ok cmd (.ping ⟨.udp 0 9 1, 0, 3⟩ [5#8]) (fun t => status t == stOk) = true
    ∧ ok (cmd.zx fun z => { z with sessions := [⟨1, 1, 0, [], []⟩, ⟨2, 1, 0, [], []⟩, ⟨3, 1, 0, [], []⟩, ⟨4, 1, 0, [], []⟩] })
        (.ping hz []) (fun t => status t == stBusy) = true
    ∧ ok (queued ⟨hz, 0x0001, zcsMessage hz 0x0001 0 0 [6#8], 0⟩) (.ping hz [5#8])
        (fun t => t == queued ⟨hz, 0x0001, zcsMessage hz 0x0001 0 0 [6#8], 0⟩) = true
    ∧ okc (queued ⟨hz, 0x0001, zcsMessage hz 0x0001 0 0 [5#8], 0⟩) (.ping hz [5#8])
        (fun t => status t == stOk && t.zcs.queue == []) = true
    ∧ okc cmd (.nvmRead hz 0 0 1024) (fun t => t.outbox.any fun e =>
        match e with | .zcs (.udp 0 9 1) _ ps => ps.map (fun x => (x.1, x.2.length)) == [(0, 1040)] | _ => false) = true
    ∧ (mtuParts (List.replicate 4096 0#8)).map (fun x => (x.1, x.2.length)) = [(0, 1472), (1472, 1480), (2952, 1144)]
    ∧ ok (sess [3]) (.ping hz []) (fun t => status t == stBusy) = true
    ∧ ok (sess []) (.ping ⟨.udp 0 9 1, 7, 8⟩ []) (fun t => status t == stDuplicate) = true
    ∧ ok (sess []) (.ping hz []) (fun t => status t == stOk && (t.session 7).isSome) = true := by decide +kernel

set_option maxRecDepth 4096 in
theorem wit_CommandsThatReport :
    okc cmd (.ping hz [5#8]) (fun t => status t == stOk && (t.session 7).isSome) = true
    ∧ okc cmd (.ident hz none) (fun t => status t == stOk) = true
    ∧ okc cmd (.ident hz (some 600)) (fun t => status t == stOk) = true
    ∧ okc cmd (.ident hz (some 601)) (fun t => status t == stBadParam) = true
    ∧ okc cmd (.regRead hz 0x000078 2 true) (fun t => status t == stOk) = true
    ∧ okc cmd (.regRead hz 0x000079 1 true) (fun t => status t == stBadParam) = true
    ∧ okc cmd (.budgetCheck hz) (fun t => status t == stBadParam) = true
    ∧ okc (cmd.p R.trellis_BC_NOMINAL_FREQ 37500000) (.budgetCheck hz) (fun _ => true) = true
    ∧ okc ((cmd.p R.trellis_BC_NOMINAL_FREQ 37500000).p R.cpu_PAIR_STAT_TND_RUN 0) (.budgetCheck hz)
        (fun t => status t == stBusy) = true
    ∧ okc cmd (.lookback hz 16 1 0 0) (fun t => status t == stOk) = true
    ∧ okc cmd (.lookback hz 16 2 0 0) (fun t => status t == stBadParam) = true
    ∧ okc (cmd.p R.graft_STAT_ROLE 2) (.lookback hz 16 1 0 0) (fun _ => true) = true
    ∧ okc cmd (.graftStatus hz) (fun t => status t == stOk) = true
    ∧ okc cmd (.memHealth hz) (fun t => status t == stOk) = true
    ∧ okc cmd (.nvmRead hz 1 0 16) (fun t => status t == stOk) = true
    ∧ okc cmd (.nvmRead hz 0 65535 1) (fun _ => true) = true
    ∧ okc cmd (.nvmRead hz 2 0 16) (fun t => status t == stBadParam) = true
    ∧ okc (cmd.p R.global_PD_STAT_ON 7) (.nvmRead hz 1 0 16) (fun t => status t == stDenied) = true
    ∧ okc cmd (.logRead hz 0 8 0) (fun t => status t == stOk) = true
    ∧ okc cmd (.logRead hz 1 8 0) (fun _ => true) = true
    ∧ okc cmd (.logRead hz 2 8 0) (fun _ => true) = true
    ∧ okc cmd (.logRead hz 3 8 0) (fun t => status t == stBadParam) = true
    ∧ okc cmd (.tendingReport hz) (fun _ => true) = true
    ∧ okc cmd (.lookback hz 16 1 5 4) (fun t => status t == stOk && t.looks == []) = true
    ∧ okc { sendable with zcs := cmd.zcs, regs := (sendable.p R.cpu_PAIR_STAT_CMD_RUN 1).regs } (.lookback hz 16 1 1 1) (fun t => status t == stOk) = true := by decide +kernel

/-- The command hub with the image of `imageBytes` in effect. -/
def imaged : State := { cmd with image := { cmd.image with copy := some imageBytes, base := [⟨0x039, R.bud_ACK_WIN_WINDOW, 0, 2000⟩] } }

/-- A boundary action waits for orbit 9. -/
def waiting (s : State) : State := s.zx fun z => { z with action := some ⟨.stop, 0x0031, none, 9, [], none⟩ }

/-- The command hub locked at orbit 5, before its quiet window, PENDING_QUIET answers. -/
def cmdAt : State := ((windowed cmd).p R.trellis_TSTAT_ORBIT_LOCK 1).tr fun t => { t with everLocked := true, orbit := 5, ran := true }

/-- A hub that may start: 2,000 slots at 37.5 MHz, LAT 512, a number, and the six hub furrows enabled, each with its ring. -/
def startable : State :=
  forAll (List.range 24) (forAll (List.range 6) ((((cmdAt.p R.trellis_BC_NOMINAL_FREQ 37500000).p R.trellis_TIMING_NSLOT 2000).p R.global_HUB_ID_ID 5).p R.trellis_QUIET_QW_FIRST 1000)
    fun s f => ((((s.pi R.fwin_D_BASE_BASE f (16384 + f * 4096)).pi R.fwin_D_BASE_SIZE f 28).pi R.fwin_D_CFG_CLASS f (hubClass f)).pi R.fwin_D_CFG_ENABLE f 1).pi R.fwin_D_CFG_EFFORT f 0)
    fun s b => s.pi R.rec_BED_CFG_MODE b 0

theorem wit_streamStarts :
    okc (startable.p R.cpu_PAIR_STAT_TND_RUN 0) (.streamStart hz 0 false) (fun t => status t == stBusy && t.zcs.action == none) = true
    ∧ okc startable (.streamStart hz 0 false) (fun t => status t == stPending && t.zcs.action.any (·.orbit == 6)) = true := by
  decide +kernel

set_option maxRecDepth 65536 in
theorem wit_BoundaryCommands :
    okc (cmd.zx fun z => { z with owner := some .xspi }) (.overlayStage hz 2) (fun t => status t == stDenied) = true
    ∧ okc (cmd.zx fun z => { z with stagedMode := some 2 }) (.overlayStage hz 0xFE)
        (fun t => status t == stOk && t.zcs.stagedMode == none) = true
    ∧ okc (cmd.p R.spare_DEGRADE_IMAGE_LOST 1) (.overlayStage hz 2) (fun t => status t == stImage) = true
    ∧ okc cmd (.overlayStage hz 2) (fun t => status t == stBadParam) = true
    ∧ okc imaged (.overlayStage hz 0xFF) (fun t => status t == stOk && t.zcs.staged == imaged.image.base) = true
    ∧ okc imaged (.overlayStage hz 2) (fun t => status t == stOk && t.zcs.staged.length == 2 && t.zcs.stagedMode == some 2) = true
    ∧ okc (waiting cmd) (.overlayCommit hz 0 false) (fun t => status t == stBusy) = true
    ∧ okc (windowed cmd) (.overlayCommit hz 0 false) (fun t => status t == stOk && t.zcs.action == none) = true
    ∧ okc cmdAt (.overlayCommit hz 6 true) (fun t => status t == stPending && t.zcs.action.any (·.orbit == 6)) = true
    ∧ okc (waiting cmd) (.overlayRevert hz) (fun t => status t == stBusy) = true
    ∧ okc cmd (.overlayRevert hz) (fun t => status t == stDenied) = true
    ∧ okc (({ imaged with image := { imaged.image with hadMode := true } }.p R.global_STATE_MODE_PREV 2).tr fun _ => cmdAt.trellis)
        (.overlayRevert hz) (fun _ => true) = true
    ∧ okc cmd (.ackWindow hz 99) (fun t => status t == stBadParam) = true
    ∧ okc (waiting cmd) (.ackWindow hz 100) (fun t => status t == stBusy) = true
    ∧ okc (windowed cmd) (.ackWindow hz 100000) (fun _ => true) = true
    ∧ okc cmdAt (.ackWindow hz 100) (fun t => status t == stPending && t.zcs.action.any (·.orbit == 6)) = true
    ∧ okc (waiting cmd) (.streamStart hz 0 false) (fun t => status t == stBusy) = true
    ∧ okc (live cmd) (.streamStart hz 0 false) (fun t => status t == stDenied) = true
    ∧ okc (waiting cmd) (.streamStop hz 0 false) (fun t => status t == stBusy) = true
    ∧ okc cmd (.streamStop hz 0 false) (fun t => status t == stDenied) = true
    ∧ okc (live cmdAt) (.streamStop hz 5 true) (fun t => status t == stBadParam) = true
    ∧ okc (live cmdAt) (.streamStop hz 6 true) (fun t => status t == stPending && t.zcs.action.any (·.orbit == 6)) = true
    ∧ okc (waiting cmd) (.graftDrill hz) (fun t => status t == stBusy) = true
    ∧ okc cmd (.graftDrill hz) (fun t => status t == stDenied) = true
    ∧ okc (((cmdAt.p R.graft_CFG_ARMED 1).p R.graft_STAT_ROLE 1).p R.graft_STAT_PEER_ELIGIBLE 1) (.graftDrill hz)
        (fun t => status t == stPending && t.zcs.action.any (·.orbit == 6)) = true
    ∧ okc (waiting cmd) (.marginApply hz 0 60) (fun t => status t == stBusy) = true
    ∧ okc cmd (.marginApply hz 0 59) (fun t => status t == stBadParam) = true
    ∧ okc cmdAt (.marginApply hz 0 150) (fun t => status t == stPending) = true := by decide +kernel

/-- A long command runs. -/
def longing (op : Nat) : State := cmd.zx fun z => { z with long := some (⟨.udp 0 9 1, 0, 5⟩, op) }

/-- The command hub with a number. -/
def named : State := cmd.p R.global_HUB_ID_ID 5

/-- The hub past start-up with a load of 8 bytes that holds the first 4. -/
def loading : State := { cmd with image := { cmd.image with load := some (8, [1#8, 2#8, 3#8, 4#8]) }, boot := { cmd.boot with step := 14 } }

set_option maxRecDepth 65536 in
theorem wit_CommandsThatAct :
    okc cmd (.regWrite hz 0x000078 false [7#32]) (fun t => status t == stOk && t.g R.global_SCRATCH_DATA == 7) = true
    ∧ okc cmd (.regWrite hz 0x000079 false [7#32]) (fun t => status t == stBadParam) = true
    ∧ okc (cmd.p R.global_SCRATCH_DATA 0xF0) (.regModify hz 0x000078 0xFF#32 0x0A#32)
        (fun t => status t == stOk && t.g R.global_SCRATCH_DATA == 0x0A) = true
    ∧ okc (live loading) (.imageLoad hz 4 8 [5#8]) (fun t => status t == stDenied) = true
    ∧ okc cmd (.imageLoad hz 0 8 [5#8]) (fun t => status t == stBusy) = true
    ∧ okc loading (.imageLoad hz 0 8 [5#8]) (fun t => status t == stOk && t.image.load == some (8, [5#8])) = true
    ∧ okc loading (.imageLoad hz 0 1 [5#8]) (fun t => t.zcs.long == some (hz, 0x0020) && t.image.checking == some [5#8]) = true
    ∧ okc { loading with zcs := (longing 0x0020).zcs, image := { loading.image with checking := some [9#8] } }
        (.imageLoad hz 0 8 [5#8]) (fun t => status t == stOk && t.image.checking == some [9#8] && t.image.load == some (8, [5#8])) = true
    ∧ okc { loading with zcs := (longing 0x0020).zcs } (.imageLoad hz 4 8 [5#8, 6#8, 7#8, 8#8])
        (fun t => status t == stBusy && t.image == loading.image) = true
    ∧ okc (loading.p R.xspi_CFG_MODE 1) (.imageLoad hz 0 0 []) (fun t => status t == stDenied) = true
    ∧ okc loading (.imageLoad hz 0 0 [])
        (fun t => t.image.fetching && t.zcs.long == some (hz, 0x0020)) = true
    ∧ okc loading (.imageLoad hz 4 8 [5#8]) (fun t => status t == stOk && t.image.load == some (8, [1#8, 2#8, 3#8, 4#8, 5#8])) = true
    ∧ okc loading (.imageLoad hz 4 8 [5#8, 6#8, 7#8, 8#8]) (fun t => t.zcs.long == some (hz, 0x0020)) = true
    ∧ okc loading (.imageLoad hz 5 8 [5#8]) (fun t => status t == stBadParam && t.image.load == none) = true
    ∧ okc { loading with image := cmd.image } (.imageLoad hz 5 8 [5#8]) (fun t => status t == stBadParam) = true
    ∧ okc (cmd.p R.ptp_STAT_SYNC 1) (.timeSet hz 5 0 0) (fun t => status t == stDenied) = true
    ∧ okc cmd (.timeSet hz 5 (10 ^ 9) 0) (fun t => status t == stBadParam) = true
    ∧ okc cmd (.timeSet hz 5 (10 ^ 9 - 1) 65535) (fun t => status t == stOk && t.wall.sec == 5 && t.wall.setCold) = true
    ∧ okc (longing 0x0071) (.phaseCalibrate hz) (fun t => status t == stBusy) = true
    ∧ okc (cmd.tr fun x => { x with probe := { x.probe with calibApply := some 7 } }) (.phaseCalibrate hz)
        (fun t => status t == stBusy) = true
    ∧ okc cmd (.phaseCalibrate hz) (fun t => t.trellis.probe.calib == some []) = true
    ∧ okc cmd (.graftArm hz 3 9) (fun t => status t == stBadParam) = true
    ∧ okc cmd (.graftArm hz 1 9) (fun t => status t == stBadParam && t.g R.graft_CFG_ARMED == 0) = true
    ∧ okc (live named) (.graftArm hz 2 9) (fun t => status t == stDenied) = true
    ∧ okc named (.graftArm hz 2 9) (fun t => status t == stOk && t.g R.graft_CFG_ARMED == 0) = true
    ∧ okc named (.graftArm hz 0 5) (fun t => status t == stBadParam) = true
    ∧ okc named (.graftArm hz 1 9) (fun t => status t == stOk && t.g R.graft_CFG_ARMED == 1 && t.role == 2) = true
    ∧ okc cmd (.rankRetire hz 8 0) (fun t => status t == stBadParam) = true
    ∧ okc cmd (.rankRetire hz 7 3) (fun t => status t == stBadParam) = true
    ∧ okc cmdAt (.rankRetire hz 7 2) (fun _ => true) = true
    ∧ okc cmd (.nvmWrite hz 0 []) (fun t => status t == stBadParam) = true
    ∧ okc cmd (.nvmWrite hz 4096 [1#8]) (fun t => t.zcs.long == some (hz, 0x0071) && t.nvm.ops.any (·.logical == 1)) = true
    ∧ okc (cmd.p R.global_PD_STAT_ON 7) (.nvmWrite hz 0 [1#8]) (fun t => status t == stDenied) = true
    ∧ okc (cmd.p R.nvm_STORE_STAT_WORN 1) (.nvmWrite hz 0 [1#8]) (fun t => status t == stWorn) = true
    ∧ okc (longing 0x0020) (.nvmWrite hz 0 [1#8]) (fun t => status t == stBusy) = true
    ∧ okc cmd (.slowConfig hz 96 0#32 0#32 0#32 0#32) (fun t => status t == stBadParam) = true
    ∧ okc cmd (.slowConfig hz 95 1#32 2#32 3#32 4#32) (fun t => status t == stOk && t.zcs.owner == some (.session 7)) = true
    ∧ okc (cmd.zx fun z => { z with owner := some .xspi }) (.slowConfig hz 95 1#32 2#32 3#32 4#32)
        (fun t => status t == stDenied) = true := by decide +kernel

/-- The latch of the trip is set and its pin high for 1 µs. -/
def clearable : State :=
  { ((cmd.p R.trip_PTRIP_STAT_LATCH 1).p R.trip_PTRIP_STAT_PIN 1).p R.il_SAFE_STAT_PIN 0 with nowNs := 1000 }

theorem wit_clearsTestsAndResets :
    okc clearable (.tripClear hz false true) (fun t => status t == stOk && t.g R.trip_PTRIP_STAT_LATCH == 0 && t.boot.restart) = true
    ∧ okc { clearable with nowNs := 999 } (.tripClear hz false true) (fun t => status t == stTrip
        && t.g R.trip_PTRIP_STAT_REFUSED == 1) = true
    ∧ okc clearable (.tripClear hz true true) (fun t => status t == stTrip && t.g R.il_SAFE_STAT_REFUSED == 1
        && t.g R.trip_PTRIP_STAT_LATCH == 1) = true
    ∧ okc (live cmd) (.selftest hz 3#32) (fun t => status t == stDenied) = true
    ∧ okc (longing 0x0071) (.selftest hz 3#32) (fun t => status t == stBusy) = true
    ∧ okc cmd (.selftest hz 3#32) (fun t => t.zcs.long == some (hz, 0x00A0) && t.zcs.tests == 3) = true
    ∧ okc cmd (.reset hz 2) (fun t => status t == stBadParam) = true
    ∧ okc ((cmd.p R.graft_CFG_ARMED 1).p R.graft_STAT_ROLE 1) (.reset hz 1) (fun t => status t == stDenied) = true
    ∧ okc cmd (.reset hz 1) (fun t => status t == stOk && t.boot.req == some (2, 0)) = true
    ∧ okc (live (cmdAt.bt fun b => { b with everReady := true })) (.reset hz 1) (fun t => t.boot.req == some (3, 6)) = true := by
  decide +kernel

/-- A fetch is due that restores the image copy from flash. -/
def refetching : State := { cmd with image := { cmd.image with refetch := true, fromFlash := true } }

set_option maxRecDepth 65536 in
theorem wit_CommandsEnd :
    ok cmd (.imageLoadComplete none) (fun t => t == cmd) = true
    ∧ ok { longing 0x0020 with image := { cmd.image with checking := some [5#8] } } (.imageLoadComplete none)
        (fun t => t.zcs.long == none && t.image.checking == none && t.image.copy == none && status t == stImage) = true
    ∧ ok { live (longing 0x0020) with image := { cmd.image with checking := some [5#8] } } (.imageLoadComplete none)
        (fun t => t.zcs.long == none && t.image.checking == none) = true
    ∧ ((longing 0x0020).checkImage imageBytes).toOption.isSome
    ∧ ok { longing 0x0020 with image := { cmd.image with checking := some imageBytes } } (.imageLoadComplete none)
        (fun _ => true) = true
    ∧ ok { longing 0x0020 with image := { cmd.image with fetching := true } } (.imageLoadComplete none)
        (fun t => t.zcs.long == some (⟨.udp 0 9 1, 0, 5⟩, 0x0020)) = true
    ∧ ok cmd (.nvmWriteDone 5 false) (fun t => t == cmd) = true
    ∧ ok { cmd with nvm := { cmd.nvm with ops := [⟨3, [9#8], false⟩] } } (.nvmWriteDone 5 false) (fun _ => true) = true
    ∧ ok { cmd with nvm := { cmd.nvm with ops := [⟨3, [9#8], false⟩] } } (.nvmWriteDone 5 true) (fun _ => true) = true
    ∧ ok cmd (.selftestDone 1#32) (fun t => t == cmd) = true
    ∧ ok (longing 0x00A0) (.selftestDone 1#32) (fun t => t.zcs.long == none && status t == stOk) = true
    ∧ ok cmd (.sessionLeaseExpiry 7) (fun t => t == cmd) = true
    ∧ ok { sess [] with nowNs := 30000000000 } (.sessionLeaseExpiry 7) (fun t => (t.session 7).isSome) = true
    ∧ ok { (sess []).zx (fun z => { z with owner := some (.session 7) }) with nowNs := 30000000001 } (.sessionLeaseExpiry 7)
        (fun t => (t.session 7).isNone && t.zcs.owner == none) = true
    ∧ ok { cmd.zx (fun z => { z with owner := some .xspi }) with nowNs := 10000000000 } (.sessionLeaseExpiry 0)
        (fun t => t.zcs.owner == some .xspi) = true
    ∧ ok { cmd.zx (fun z => { z with owner := some .xspi }) with nowNs := 10000000001 } (.sessionLeaseExpiry 0)
        (fun t => t.zcs.owner == none) = true
    ∧ ok cmd (.zcsUnknownOpcode hz 0x0001) (fun t => t == cmd) = true
    ∧ ok cmd (.zcsUnknownOpcode hz 0x0003) (fun t => status t == stBadOpcode) = true
    ∧ ok { sess [] with nowNs := 9 } (.zcsUnknownOpcode hz 0x0003) (fun t => (t.session 7).any (·.last == 9)) = true
    ∧ ok refetching (.imageLoadComplete (some (flashDev, imageBytes)))
        (fun t => t.image.copy == some imageBytes && !t.image.refetch) = true
    ∧ ok refetching (.imageLoadComplete none) (fun t => t == refetching) = true := by decide +kernel

/-- R320's numbers as binary32. -/
theorem test_binary32 : toB32 ⟨1, 2⟩ = 0x3F000000#32 ∧ toB32 ⟨-3, 1⟩ = 0xC0400000#32 ∧ (b32 0x3FC00000#32).map toB32 = some 0x3FC00000#32
    ∧ limitB32 0x43800000#32 (-5) 100 = (0x42C80000#32, true) := by decide +kernel

theorem wit_WritesReadBack :
    (mwf 0 hub.regs && Memory.wf hub && (hub.pi R.lane_RETRAIN_INTERVAL 33 70000).gi R.lane_RETRAIN_INTERVAL 33 == 4464
      && (hub.poke 5 [1#8, 2#8]).peek 5 2 == [1#8, 2#8]) = true := by decide +kernel

theorem wit_ResetState : (mwf 0 State.reset.regs && Memory.wf State.reset && State.reset.g R.trellis_MFRAME_MF_ORBITS == 48) = true := by
  decide +kernel

theorem wit_TimingModeFixedWhileStreaming :
    (live hub).live = true ∧ (live hub).reachable 0x001 = true
    ∧ ok (live hub) (.registerWrite (.session 7) 0x001040 1#32) (fun t => t.g R.trellis_TIMING_MODE == 0
        && t.gi R.hdr_ERR_COUNT_COUNT 0x001 == 1 && t.gi R.hdr_ERR_CAPT_CAUSE 0x001 == 2) = true
    ∧ ok (live hub) (.registerWrite (.session 7) 0x001040 0#32) (fun t => t.gi R.hdr_ERR_COUNT_COUNT 0x001 == 0) = true
    ∧ ok hub (.registerWrite (.session 7) 0x001040 1#32) (fun t => t.g R.trellis_TIMING_MODE == 1) = true := by decide +kernel

theorem wit_RetirementIsPerPort :
    (let t := cmdAt.retire 4 2 6
     t.gi R.spare_SLOT_HEALTH_CAUSE (hInst 4 2) == 6 && t.gi R.spare_SLOT_HEALTH_PAIR_SUSPECT (hInst 5 2) == 1
       && t.gi R.spare_SLOT_HEALTH_CAUSE (hInst 5 2) == 0) = true
    ∧ (cmdAt.retire 5 2 6).gi R.spare_SLOT_HEALTH_PAIR_SUSPECT (hInst 4 2) = 1
    ∧ ok (cmdAt.pi R.spare_SLOT_HEALTH_CAUSE (hInst 7 1) 3) (.rankRetire hz 7 1)
        (fun t => t.gi R.spare_SLOT_HEALTH_CAUSE (hInst 7 1) == 3) = true := by decide +kernel

end Sys2Proof.Machine
end

section
/-! SUPPORT. A write of the TIMING register, whose MODE is an RW field beside two that are staged (R32, R55). -/
namespace Sys2Proof.Machine

/-- What a field holds depends on the register map alone. -/
theorem State.gi_congr {s t : State} (h : t.regs = s.regs) (f : Fld) (i : Nat) : t.gi f i = s.gi f i := by
  unfold State.gi; rw [h]

@[simp] theorem State.renewActor_regs (s : State) (who : Actor) : (s.renewActor who).regs = s.regs := by
  cases who <;> rfl

@[simp] theorem State.renewActor_owner (s : State) (who : Actor) : (s.renewActor who).zcs.owner = s.zcs.owner := by
  cases who <;> rfl

theorem State.notOwner_congr {s t : State} (h : t.zcs.owner = s.zcs.owner) (who : Actor) :
    t.notOwner who = s.notOwner who := by
  unfold State.notOwner; rw [h]

theorem State.live_congr {s t : State} (h : t.regs = s.regs) : t.live = s.live := by
  unfold State.live State.g; rw [State.gi_congr h]

theorem State.reachable_congr {s t : State} (h : t.regs = s.regs) (p : Nat) : t.reachable p = s.reachable p := by
  unfold State.reachable State.pd State.g
  simp only [State.gi_congr h]

/-- Values staged leave every register field where none of them is a class word, which alone can be refused. -/
theorem State.stage_regs {who : Actor} {l : List Staged} (h : ∀ w ∈ l, w.fld ≠ R.cwin_CS_DATA_CLASSES) (s : State) :
    (s.stage who l).regs = s.regs := by
  unfold State.stage
  induction l generalizing s with
  | nil => rfl
  | cons w l ih =>
    rw [List.foldl_cons, ih fun x hx => h x (List.mem_cons_of_mem _ hx)]
    simp [h w List.mem_cons_self]

/-- Values that set no termination are staged as they are (R77). -/
theorem State.keepHighZ_eq {l : List Staged} (h : ∀ w ∈ l, w.fld ≠ R.bed_AFE_CFG_TERM) (s : State) :
    s.keepHighZ l = (s, l) := by
  have hbad : (l.filter fun w => w.fld == R.bed_AFE_CFG_TERM && w.val == 0) = [] :=
    List.filter_eq_nil_iff.mpr fun w hw => by simp [h w hw]
  unfold State.keepHighZ
  rw [hbad]
  cases s.armed <;> simp

/-- An error counted on a page: the page's count rises, the cause is captured, and every field but those of the error
header stays (R381). -/
theorem State.err_header {s : State} (h : s.Inv) (p c w : Nat) :
    (s.err p c w).gi R.hdr_ERR_COUNT_COUNT p = cap 65535 (s.gi R.hdr_ERR_COUNT_COUNT p + 1)
    ∧ (s.err p c w).gi R.hdr_ERR_CAPT_CAUSE p = c % 2 ^ R.hdr_ERR_CAPT_CAUSE.width
    ∧ s.fieldsBut (s.err p c w) errFields := by
  have counted : (s.inc R.hdr_ERR_COUNT_COUNT p 1).Inv := State.pi_inv h ..
  have caused := State.pi_inv counted R.hdr_ERR_CAPT_CAUSE p c
  have named := State.pi_inv caused R.hdr_ERR_CAPT_WHAT p w
  have indexed := State.pi_inv named R.hdr_ERR_CAPT_INDEX p (s.indexNow p w)
  unfold State.err State.errAt
  refine ⟨?_, ?_, fun g j hg => ?_⟩
  · rw [State.gi_pi_ne indexed (.inl (by decide)), State.gi_pi_ne named (.inl (by decide)),
      State.gi_pi_ne caused (.inl (by decide)), State.gi_pi_ne counted (.inl (by decide)), State.gi_inc_eq h]
    rfl
  · rw [State.gi_pi_ne indexed (.inl (by decide)), State.gi_pi_ne named (.inl (by decide)),
      State.gi_pi_ne caused (.inl (by decide)), State.gi_pi_eq counted]
  · rw [State.gi_pi_ne indexed (.inl (hg _ (by decide))), State.gi_pi_ne named (.inl (hg _ (by decide))),
      State.gi_pi_ne caused (.inl (hg _ (by decide))), State.gi_pi_ne counted (.inl (hg _ (by decide)))]
    exact State.gi_pi_ne h (.inl (hg _ (by decide))) _

theorem fieldsAt_timing :
    fieldsAt 0x001 0x040 = [R.trellis_TIMING_MODE, R.trellis_TIMING_KSEL, R.trellis_TIMING_NSLOT] := by decide

/-- Of the register's fields the write itself sets MODE alone; the others are staged. -/
theorem State.writeWord_timing (s : State) (w : Nat) :
    s.writeWord 0x001 0x040 0 w = s.writeField 0x001 0x040 0 w R.trellis_TIMING_MODE := by
  show (fieldsAt 0x001 0x040).foldl (fun s f => s.writeField 0x001 0x040 0 w f) s = _
  rw [fieldsAt_timing]
  rfl

/-- The values of KSEL and NSLOT that a write of the register stages. -/
def timingStaged (w : Nat) : List Staged :=
  [⟨0x001, R.trellis_TIMING_KSEL, 0, bitsAt w 1 2⟩, ⟨0x001, R.trellis_TIMING_NSLOT, 0, bitsAt w 16 14⟩]

theorem State.rwsOf_timing (s : State) (w : Nat) : s.rwsOf 0x001 0x040 w = timingStaged w := by
  unfold State.rwsOf
  rw [fieldsAt_timing]
  rfl

/-- An actor who may stage writes the register: MODE takes its bit where it may, and KSEL and NSLOT are staged. -/
theorem Written.write_timing {s : State} {a : Actor} (ho : s.notOwner a = false) (w : Nat) :
    (⟨s, false, [], []⟩ : Written).write (some a) 0x001040 w
      = ⟨(s.writeField 0x001 0x040 0 w R.trellis_TIMING_MODE).stage a (timingStaged w), false, [], []⟩ := by
  have hl : (timingStaged w).filter (fun v => !deadReceive v.fld v.idx) = timingStaged w := rfl
  have hk : s.keepHighZ (timingStaged w) = (s, timingStaged w) :=
    State.keepHighZ_eq (by simp [timingStaged]; decide) _
  have hi : s.inst 0x001 0x040 = some 0 := rfl
  have hoff : s.laneOff 0x001 0x040 = false := rfl
  have hadv : ∀ t : State, t.advance 0x001 0x040 = t := fun _ => rfl
  have hown : commitsItself 0x001 0x040 = false := by decide
  unfold Written.write
  simp [show pageOf 0x001040 = 0x001 from rfl, show offOf 0x001040 = 0x040 from rfl, hoff, hi, State.rwsOf_timing, hl, ho,
    hown, hk, hadv, State.writeWord_timing, fieldsAt_timing]

/-- A write of the register on a reachable page is a run of its one word (R376). -/
theorem State.writeReg_timing {s : State} {who : Actor} (hr : s.reachable 0x001 = true) (ho : s.notOwner who = false)
    (w : Word) : s.writeReg who 0x001040 w =
      ((s.renewActor who).writeField 0x001 0x040 0 w.toNat R.trellis_TIMING_MODE).stage who (timingStaged w.toNat) := by
  have hf : (s.renewActor who).runFault 0x001040 1 1 true = none := by
    simp [State.runFault, show pageOf 0x001040 = 0x001 from rfl, runAddr, show pageExists 0x001 = true from rfl,
      State.reachable_congr (s.renewActor_regs who), hr]
  have ho' : (s.renewActor who).notOwner who = false := by rw [State.notOwner_congr (s.renewActor_owner who), ho]
  simp only [State.writeReg, hf, State.writeRun, List.foldl_cons, List.foldl_nil, Written.write_timing ho']
  rfl

/-- Staging KSEL and NSLOT writes no register. -/
theorem State.stage_timing_gi (s : State) (who : Actor) (w : Nat) (f : Fld) (i : Nat) :
    (s.stage who (timingStaged w)).gi f i = s.gi f i :=
  State.gi_congr (State.stage_regs (by simp [timingStaged]; decide) s) f i

/-- MODE takes its bit of the word, or the write is counted where it is fixed (R11, R32). -/
theorem State.writeField_mode (s : State) (w : Nat) : s.writeField 0x001 0x040 0 w R.trellis_TIMING_MODE =
    if s.fixedWrite R.trellis_TIMING_MODE 0 (w % 2) then s.err 0x001 2 0x040 else s.p R.trellis_TIMING_MODE (w % 2) := by
  have hbit : bitsAt w R.trellis_TIMING_MODE.lsb R.trellis_TIMING_MODE.width = w % 2 := by
    simp [bitsAt, R.trellis_TIMING_MODE]
  have htakes : R.trellis_TIMING_MODE.takes (w % 2) = true := by
    rcases Nat.mod_two_eq_zero_or_one w with h | h <;> rw [h] <;> rfl
  unfold State.writeField
  dsimp only
  rw [hbit, htakes]
  rfl

/-- MODE is fixed while the hub streams, against a write that would change it (R32). -/
theorem State.fixedWrite_mode (s : State) (v : Nat) :
    s.fixedWrite R.trellis_TIMING_MODE 0 v = (s.live && decide (s.g R.trellis_TIMING_MODE ≠ v)) := by
  have hne : (R.trellis_TIMING_MODE == R.trellis_BC_NOMINAL_FREQ) = false := by decide
  simp only [State.fixedWrite, hne, beq_self_eq_true, Bool.true_and, Bool.false_or, decide_not]
  rfl

/-- Settles O59: the write comes to one of MODE, of which R32 decides, and to staged values that no register shows. -/
theorem timingModeFixedWhileStreaming : Obligations.TimingModeFixedWhileStreaming := by
  unfold Obligations.TimingModeFixedWhileStreaming
  refine ⟨fun s => (decide_not (p := s.g R.trellis_TIMING_MODE = 0)).symm, fun who w s hI hr ho => ?_⟩
  have hu := State.gi_congr (s.renewActor_regs who)
  have hlive := State.live_congr (s.renewActor_regs who)
  have huI : (s.renewActor who).Inv := by cases who <;> exact hI
  have hw := State.writeReg_timing hr ho w
  rw [State.writeField_mode, State.fixedWrite_mode, hlive, State.g, hu] at hw
  refine ⟨s.writeReg who 0x001040 w, rfl, fun hl hne => ?_, fun h => ?_⟩
  · have hfixed : (s.live && decide (s.gi R.trellis_TIMING_MODE 0 ≠ w.toNat % 2)) = true := by
      rw [hl]; exact decide_eq_true hne
    rw [if_pos hfixed] at hw
    obtain ⟨hcount, hcause, hrest⟩ := State.err_header huI 0x001 2 0x040
    have hmode : (s.writeReg who 0x001040 w).gi R.trellis_TIMING_MODE 0 = s.gi R.trellis_TIMING_MODE 0 := by
      rw [hw, State.stage_timing_gi, hrest _ _ (by decide), hu]
    refine ⟨hmode, by unfold State.embedded State.on; rw [hmode], ?_, ?_⟩
    · rw [hw, State.stage_timing_gi, hcount, hu]
    · rw [hw, State.stage_timing_gi, hcause]; rfl
  · have hfree : ¬ (s.live && decide (s.gi R.trellis_TIMING_MODE 0 ≠ w.toNat % 2)) = true := by
      rcases h with h | h
      · simp [h]
      · simp [← h, State.g]
    rw [hw, if_neg hfree]
    refine ⟨?_, ?_⟩
    · rw [State.g, State.stage_timing_gi, State.p, State.gi_pi_eq huI]
      exact Nat.mod_mod _ 2
    · rw [State.stage_timing_gi, State.p, State.gi_pi_ne huI (.inl (by decide)), hu]

end Sys2Proof.Machine
end
section
/-! SUPPORT. What the operations leave of machine time. Most leave the trellis as it is (`_trellis`); those that lose timing,
settle an orbit-time record or move the probe loop leave the schedule (`_schedule`). `simp` runs with `-implicitDefEqProofs`
where a step of `forAll` is true by definition: it then proves the hypothesis of `forAll_trellis` instead of leaving it to
unification. -/
namespace Sys2Proof.Machine

/-- The current slot, the quiet window and M in effect, and whether a frame has started (R24, R40, R42). -/
def Trellis.schedule (t : Trellis) : Nat × Nat × Nat × Nat × Bool := (t.slot, t.qwFirst, t.qwLen, t.mNow, t.frameDue)

@[simp] theorem State.trellis_ite (c : Prop) [Decidable c] (s t : State) :
    (if c then s else t).trellis = if c then s.trellis else t.trellis := apply_ite ..

@[simp] theorem Trellis.schedule_ite (c : Prop) [Decidable c] (s t : Trellis) :
    (if c then s else t).schedule = if c then s.schedule else t.schedule := apply_ite ..

/-- A choice between states keeps what both keep. -/
theorem State.ite_trellis_eq {c : Prop} [Decidable c] {s t : State} {x : Trellis} (hs : s.trellis = x) (ht : t.trellis = x) :
    (if c then s else t).trellis = x := by
  rw [State.trellis_ite, hs, ht, ite_self]

theorem State.ite_schedule_eq {c : Prop} [Decidable c] {s t : State} {x : Nat × Nat × Nat × Nat × Bool}
    (hs : s.trellis.schedule = x) (ht : t.trellis.schedule = x) : (if c then s else t).trellis.schedule = x := by
  rw [State.trellis_ite, Trellis.schedule_ite, hs, ht, ite_self]

@[simp] theorem foldl_trellis {α : Type} {f : State → α → State} (hf : ∀ s x, (f s x).trellis = s.trellis) (l : List α)
    (s : State) : (l.foldl f s).trellis = s.trellis := by
  induction l generalizing s with
  | nil => rfl
  | cons x l ih => rw [List.foldl_cons, ih, hf]

theorem foldl_fst_trellis {α β : Type} {f : State × β → α → State × β} (hf : ∀ x a, (f x a).1.trellis = x.1.trellis)
    (l : List α) (x : State × β) : (l.foldl f x).1.trellis = x.1.trellis := by
  induction l generalizing x with
  | nil => rfl
  | cons a l ih => rw [List.foldl_cons, ih, hf]

@[simp] theorem forAll_trellis {f : State → Nat → State} (hf : ∀ s n, (f s n).trellis = s.trellis) (l : List Nat)
    (s : State) : (forAll l s f).trellis = s.trellis := foldl_trellis hf l s

@[simp] theorem forAll_schedule {f : State → Nat → State}
    (hf : ∀ s n, (f s n).trellis.schedule = s.trellis.schedule) (l : List Nat) (s : State) :
    (forAll l s f).trellis.schedule = s.trellis.schedule := by
  unfold forAll
  induction l generalizing s with
  | nil => rfl
  | cons n l ih => rw [List.foldl_cons, ih, hf]



/-! ## The operations of Machine/Ops.lean -/

@[simp] theorem State.pmax_trellis (s : State) (f : Fld) (idx v : Nat) : (s.pmax f idx v).trellis = s.trellis := by
  simp [State.pmax]

@[simp] theorem State.setPd_trellis (s : State) (n : Nat) (b : Bool) : (s.setPd n b).trellis = s.trellis := rfl

@[simp] theorem State.commitField_trellis (s : State) (w : Staged) : (s.commitField w).trellis = s.trellis := by
  simp [State.commitField]

@[simp] theorem State.errAt_trellis (s : State) (page cause what index : Nat) :
    (s.errAt page cause what index).trellis = s.trellis := rfl

@[simp] theorem State.writeLog_trellis (s : State) (es : List LogE) : (s.writeLog es).trellis = s.trellis := rfl

@[simp] theorem State.logAs_trellis (s : State) (page reg bit sev : Nat) (detail : List Byte) :
    (s.logAs page reg bit sev detail).trellis = s.trellis := by
  simp [State.logAs]

@[simp] theorem State.logRaw_trellis (s : State) (page reg bit : Nat) (detail : List Byte) :
    (s.logRaw page reg bit detail).trellis = s.trellis := by
  simp [State.logRaw]

@[simp] theorem State.warn_trellis (s : State) (f : Fld) (page : Nat) (detail : List Byte) :
    (s.warn f page detail).trellis = s.trellis := by
  simp [State.warn]

@[simp] theorem State.log_trellis (s : State) (f : Fld) (page : Nat) (detail : List Byte) :
    (s.log f page detail).trellis = s.trellis := by
  simp [State.log]

@[simp] theorem State.logCode_trellis (s : State) (code : Nat) (detail : List Byte) :
    (s.logCode code detail).trellis = s.trellis := by
  simp [State.logCode]

@[simp] theorem State.setPoison_trellis (s : State) (a : Nat) (b : Bool) : (s.setPoison a b).trellis = s.trellis := by
  simp [State.setPoison]

@[simp] theorem State.lane_trellis (s : State) (l : Nat) (f : Lane → Lane) : (s.lane l f).trellis = s.trellis := by
  simp [State.lane]

@[simp] theorem State.follower_trellis (s : State) (ch : Nat) (f : Follower → Follower) :
    (s.follower ch f).trellis = s.trellis := rfl

@[simp] theorem State.slotPasses_schedule (s : State) : s.slotPasses.trellis.schedule = s.trellis.schedule := by
  unfold State.slotPasses
  dsimp only
  split <;> rfl

/-! ## The operations of Machine/Operands.lean -/

@[simp] theorem State.err_trellis (s : State) (page cause what : Nat) :
    (s.err page cause what).trellis = s.trellis := rfl

@[simp] theorem State.indexReset_trellis (s : State) (p : Nat) : (s.indexReset p).trellis = s.trellis := by
  simp -implicitDefEqProofs [State.indexReset]

/-! ## The operations of Machine/Line.lean -/

@[simp] theorem State.sendBlock_trellis (s : State) (l : Nat) (header : List Bool) (payload : List Bool) :
    (s.sendBlock l header payload).1.trellis = s.trellis := by
  simp [State.sendBlock]

@[simp] theorem State.code_trellis (s : State) (n : Nat) (bs : List Block) : (s.code n bs).1.trellis = s.trellis := by
  induction bs generalizing s with
  | nil => rfl
  | cons b bs ih => exact (ih _).trans (State.sendBlock_trellis ..)

@[simp] theorem State.lineOut_trellis (s : State) (n : Nat) (bs : List Block) :
    (s.lineOut n bs).trellis = s.trellis := by
  unfold State.lineOut
  split
  · rfl
  · exact State.code_trellis s n bs

@[simp] theorem State.sendControl_trellis (s : State) (n typ payload count : Nat) :
    (s.sendControl n typ payload count).trellis = s.trellis := by
  simp [State.sendControl]

@[simp] theorem State.finishBlock_trellis (s : State) (part : List Bool) (next : List Held) :
    (s.finishBlock part next).1.trellis = s.trellis := by
  unfold State.finishBlock
  dsimp only
  split
  · rfl
  · split <;> rfl

@[simp] theorem State.sendMark_trellis (s : State) (n : Nat) : (s.sendMark n).trellis = s.trellis := by
  unfold State.sendMark
  rw [State.tx_trellis, State.sendControl_trellis]

@[simp] theorem State.markDue_trellis (s : State) (n : Nat) : (s.markDue n).trellis = s.trellis := by
  simp [State.markDue]

@[simp] theorem State.sendIdle_trellis (s : State) (n : Nat) : (s.sendIdle n).trellis = s.trellis := by
  simp [State.sendIdle]

@[simp] theorem State.idleUntil_trellis (s : State) (n : Nat) : (s.idleUntil n).trellis = s.trellis := by
  simp [State.idleUntil]

@[simp] theorem State.goOn_trellis (s : State) (n k : Nat) : (s.goOn n k).trellis = s.trellis := by
  unfold State.goOn
  split
  · exact State.lineOut_trellis ..
  · rfl

@[simp] theorem State.sendHead_trellis (s : State) (n : Nat) : (s.sendHead n).trellis = s.trellis := by
  have hroom : (if 126 * s.markRoom n < ((((s.txOf n).sending.head?).map Held.bits).getD []).length
      then (s.goOn n (s.markRoom n)).sendMark n else s).trellis = s.trellis := by simp
  unfold State.sendHead
  dsimp only
  split
  · exact hroom
  · rw [State.tx_trellis, State.lineOut_trellis, State.finishBlock_trellis, hroom]

@[simp] theorem State.flushZcs_trellis (fuel n : Nat) (s : State) : (State.flushZcs fuel n s).trellis = s.trellis := by
  induction fuel generalizing s with
  | zero => rfl
  | succ fuel ih =>
    rw [State.flushZcs]
    split
    · split
      · rw [ih, State.emit_trellis, State.sendHead_trellis]
      · rfl
    · rfl

@[simp] theorem State.placeZcs_trellis (s : State) (m : List Byte) : (s.placeZcs m).trellis = s.trellis := by
  unfold State.placeZcs
  rw [State.flushZcs_trellis, State.tx_trellis, State.idleUntil_trellis]

@[simp] theorem State.admitZcs_trellis (fuel : Nat) (s : State) : (State.admitZcs fuel s).trellis = s.trellis := by
  induction fuel generalizing s with
  | zero => rfl
  | succ fuel ih =>
    rw [State.admitZcs]
    split
    · rfl
    · simp -implicitDefEqProofs [ih]

@[simp] theorem State.zcsOut_trellis (s : State) (m : List Byte) :
    (s.zcsOut m).trellis = s.trellis := State.admitZcs_trellis ..

/-! ## The operations of Machine/Sessions.lean -/

@[simp] theorem State.queueSlaveResponse_trellis (s : State) (m : List Byte) :
    (s.queueSlaveResponse m).trellis = s.trellis := by
  simp [State.queueSlaveResponse]

@[simp] theorem State.respondFrom_trellis (s : State) (src : Nat) (h : Hdr) (opcode flags status : Nat)
    (payload : List Byte) : (s.respondFrom src h opcode flags status payload).trellis = s.trellis := by
  unfold State.respondFrom
  dsimp only
  split
  · simp
  · simp
  · rfl

@[simp] theorem State.respond_trellis (s : State) (h : Hdr) (opcode flags status : Nat) (payload : List Byte) :
    (s.respond h opcode flags status payload).trellis = s.trellis := by
  simp [State.respond]

@[simp] theorem State.sess_trellis (s : State) (id : BitVec 32) (f : Session → Session) :
    (s.sess id f).trellis = s.trellis := rfl

@[simp] theorem State.cacheReply_trellis (s : State) (h : Hdr) (flags status : Nat) (payload : List Byte) :
    (s.cacheReply h flags status payload).trellis = s.trellis := rfl

@[simp] theorem State.finish_trellis (s : State) (h : Hdr) (opcode flags status : Nat) (payload : List Byte) :
    (s.finish h opcode flags status payload).trellis = s.trellis := by
  simp [State.finish]

@[simp] theorem State.complete_trellis (s : State) (h : Option Hdr) (opcode status : Nat) (payload : List Byte) :
    (s.complete h opcode status payload).trellis = s.trellis := by
  unfold State.complete
  split
  · simp
  · rfl

/-! ## The operations of Machine/Furrows.lean -/

@[simp] theorem State.writeDescriptors_trellis (s : State) : s.writeDescriptors.trellis = s.trellis := by
  simp -implicitDefEqProofs [State.writeDescriptors]

@[simp] theorem State.release_trellis (s : State) (f : Nat) : (s.release f).trellis = s.trellis := rfl

@[simp] theorem State.releaseAll_trellis (s : State) : s.releaseAll.trellis = s.trellis := by
  simp -implicitDefEqProofs [State.releaseAll]

@[simp] theorem State.backlogMax_trellis (s : State) : s.backlogMax.trellis = s.trellis := by simp [State.backlogMax]

@[simp] theorem State.closeSeg_trellis (s : State) (f : Nat) : (s.closeSeg f).trellis = s.trellis := by
  unfold State.closeSeg
  split
  · rfl
  split
  · rfl
  · rw [State.backlogMax_trellis, State.furrow_trellis, State.poke_trellis]
    split <;> rfl

@[simp] theorem State.hubRec_trellis (s : State) (f : Nat) (bytes : List Byte) :
    (s.hubRec f bytes).trellis = s.trellis := by
  simp [State.hubRec]

@[simp] theorem State.startFurrow_trellis (s : State) (f orbit slot : Nat) :
    (s.startFurrow f orbit slot).trellis = s.trellis := rfl

/-! ## The operations of Machine/Time.lean -/

@[simp] theorem State.tstat_trellis (s : State) (f : Fld) (b : Bool) : (s.tstat f b).trellis = s.trellis := rfl

@[simp] theorem State.releaseFault_trellis (s : State) (cause : Nat) (atOnce : Bool) :
    (s.releaseFault cause atOnce).trellis = s.trellis := by
  simp [State.releaseFault]

@[simp] theorem State.setPhase_trellis (s : State) (b : Nat) (ph : RotPhase) :
    (s.setPhase b ph).trellis = s.trellis := rfl

@[simp] theorem State.stopRotation_trellis (s : State) (b : Nat) : (s.stopRotation b).trellis = s.trellis := by
  unfold State.stopRotation
  split <;> rfl

@[simp] theorem State.loseTiming_schedule (s : State) : s.loseTiming.trellis.schedule = s.trellis.schedule := by
  simp [State.loseTiming, Trellis.schedule]

@[simp] theorem State.orbitTime_schedule (s : State) : s.orbitTime.trellis.schedule = s.trellis.schedule := by
  unfold State.orbitTime
  dsimp only
  split
  · split <;> rfl
  · rfl

@[simp] theorem State.orbitTimeAt0_schedule (s : State) : s.orbitTimeAt0.trellis.schedule = s.trellis.schedule := by
  unfold State.orbitTimeAt0
  split
  · rfl
  · simp

@[simp] theorem State.orbitTimeHeld_schedule (s : State) : s.orbitTimeHeld.trellis.schedule = s.trellis.schedule := by
  simp [State.orbitTimeHeld]

@[simp] theorem State.tuneNow_schedule (s : State) : s.tuneNow.trellis.schedule = s.trellis.schedule := by
  unfold State.tuneNow
  dsimp only
  split <;> rfl

@[simp] theorem State.cdLost_trellis (s : State) (n : Nat) : (s.cdLost n).trellis = s.trellis := by
  simp [State.cdLost]

@[simp] theorem State.lostSince_trellis (s old : State) : (s.lostSince old).trellis = s.trellis := by
  simp [State.lostSince]

@[simp] theorem State.pllHold_trellis (s : State) : s.pllHold.trellis = s.trellis := by simp [State.pllHold]

@[simp] theorem State.sourceLockLost_schedule (s : State) (lane : Nat) :
    (s.sourceLockLost lane).trellis.schedule = s.trellis.schedule := by
  unfold State.sourceLockLost
  split
  · rfl
  split
  · dsimp only
    split
    · rfl
    · rw [State.loseTiming_schedule, State.pllHold_trellis]
      rfl
  split
  · simp
  · rfl

@[simp] theorem State.structureChange_schedule (s : State) :
    s.structureChange.trellis.schedule = s.trellis.schedule := by
  unfold State.structureChange
  dsimp only
  split <;> rfl

@[simp] theorem State.kselChange_trellis (s : State) : s.kselChange.trellis = s.trellis := by simp [State.kselChange]

@[simp] theorem State.probe_schedule (s : State) (f : Probe → Probe) :
    (s.probe f).trellis.schedule = s.trellis.schedule := rfl

@[simp] theorem State.rotatorStep_schedule (s : State) : s.rotatorStep.trellis.schedule = s.trellis.schedule := by
  simp [State.rotatorStep]

@[simp] theorem State.calibrateApply_schedule (s : State) :
    s.calibrateApply.trellis.schedule = s.trellis.schedule := by
  unfold State.calibrateApply
  dsimp only
  split
  · rfl
  · rw [State.complete_trellis]
    rfl

/-! ## The operations of Machine/Beds.lean -/

@[simp] theorem State.keepHighZ_trellis (s : State) (l : List Staged) : (s.keepHighZ l).1.trellis = s.trellis := by
  unfold State.keepHighZ
  dsimp only
  split
  · rfl
  · exact foldl_trellis (by intros; rfl) _ _

@[simp] theorem State.tuneFilter_schedule (s : State) : s.tuneFilter.trellis.schedule = s.trellis.schedule := by
  simp [State.tuneFilter]

@[simp] theorem State.settleChannel_trellis (s : State) (ch : Nat) : (s.settleChannel ch).trellis = s.trellis := rfl

@[simp] theorem State.setCal_trellis (s : State) (b slice : Nat) (c : CalIn) :
    (s.setCal b slice c).trellis = s.trellis := rfl

@[simp] theorem State.spareOn_trellis (s : State) (b c : Nat) : (s.spareOn b c).trellis = s.trellis := rfl

@[simp] theorem State.takeOver_trellis (s : State) (b c fate : Nat) : (s.takeOver b c fate).trellis = s.trellis := by
  unfold State.takeOver
  split <;> rfl

@[simp] theorem State.calSpare_trellis (s : State) (b : Nat) (r : Option RotIn) :
    (s.calSpare b r).trellis = s.trellis := by
  unfold State.calSpare
  dsimp only
  split <;> rfl

@[simp] theorem State.rotationOut_trellis (s : State) (b : Nat) (f : Fld) (what : Nat) :
    (s.rotationOut b f what).trellis = s.trellis := by
  simp [State.rotationOut]

@[simp] theorem State.mismatch_trellis (s : State) (b : Nat) : (s.mismatch b).trellis = s.trellis := rfl

@[simp] theorem State.rotateBed_trellis (s : State) (rot : List RotIn) (b : Nat) :
    (s.rotateBed rot b).trellis = s.trellis := by
  unfold State.rotateBed
  dsimp only
  repeat' split
  all_goals simp

@[simp] theorem State.lineCheckRun_trellis (s : State) (line : List (Nat × Nat)) (b : Nat) :
    (s.lineCheckRun line b).trellis = s.trellis := by
  refine State.ite_trellis_eq rfl (State.ite_trellis_eq rfl ?_)
  dsimp only
  split <;> rfl

/-! ## The operations of Machine/Shears.lean -/

@[simp] theorem State.followUpdate_trellis (s : State) (ch : Nat) : (s.followUpdate ch).trellis = s.trellis := by
  simp [State.followUpdate]

@[simp] theorem State.prevUpdate_schedule (s : State) : s.prevUpdate.trellis.schedule = s.trellis.schedule := by
  show Trellis.schedule (forAll _ s State.followUpdate).trellis = _
  rw [forAll_trellis State.followUpdate_trellis]

@[simp] theorem State.followerApply_trellis (s : State) : s.followerApply.trellis = s.trellis := by
  simp [State.followerApply]

@[simp] theorem State.followerKeep_trellis (s : State) : s.followerKeep.trellis = s.trellis := by
  simp -implicitDefEqProofs [State.followerKeep]

@[simp] theorem State.unseed_trellis (s : State) (ch : Nat) : (s.unseed ch).trellis = s.trellis := rfl

/-! ## The operations of Machine/Marks.lean -/

@[simp] theorem State.dib_trellis (s : State) (f : Dibber → Dibber) : (s.dib f).trellis = s.trellis := rfl
@[simp] theorem State.startMarks_trellis (s : State) : s.startMarks.trellis = s.trellis := rfl

/-! ## The operations of Machine/Lanes.lean -/

@[simp] theorem State.dropFrameLock_trellis (s : State) (l : Nat) (count : Bool) :
    (s.dropFrameLock l count).trellis = s.trellis := by
  simp [State.dropFrameLock]

@[simp] theorem State.cutScan_trellis (s : State) (l : Nat) : (s.cutScan l).trellis = s.trellis := by
  simp [State.cutScan]

@[simp] theorem State.dropBlockLock_schedule (s : State) (l : Nat) (count : Bool) :
    (s.dropBlockLock l count).trellis.schedule = s.trellis.schedule := by
  simp [State.dropBlockLock]

@[simp] theorem State.deepExitStart_trellis (s : State) : s.deepExitStart.trellis = s.trellis := by
  unfold State.deepExitStart
  split
  · rfl
  split
  · rfl
  · exact State.lane_trellis ..

@[simp] theorem State.startExits_trellis (s : State) : s.startExits.trellis = s.trellis := by simp [State.startExits]

@[simp] theorem State.askTx_trellis (s : State) (l dest : Nat) : (s.askTx l dest).trellis = s.trellis := by
  simp [State.askTx]

@[simp] theorem State.askRx_schedule (s : State) (l dest : Nat) :
    (s.askRx l dest).trellis.schedule = s.trellis.schedule := by
  simp [State.askRx]

@[simp] theorem State.applyPower_schedule (s : State) (l : Nat) :
    (s.applyPower l).trellis.schedule = s.trellis.schedule := by
  simp [State.applyPower]

@[simp] theorem State.lanesBoundary_schedule (s : State) : s.lanesBoundary.trellis.schedule = s.trellis.schedule := by
  simp [State.lanesBoundary]

@[simp] theorem State.activatePort_schedule (s : State) (n : Nat) :
    (s.activatePort n).trellis.schedule = s.trellis.schedule := by
  simp [State.activatePort]

@[simp] theorem State.activateRx_schedule (s : State) (n : Nat) :
    (s.activateRx n).trellis.schedule = s.trellis.schedule := by
  simp [State.activateRx]

@[simp] theorem State.activateUplink_schedule (s : State) :
    s.activateUplink.trellis.schedule = s.trellis.schedule := by
  simp [State.activateUplink]

@[simp] theorem State.retrainStart_trellis (s : State) : s.retrainStart.trellis = s.trellis := by
  simp [State.retrainStart]

@[simp] theorem State.lanesOff_schedule (s : State) (pd : Nat) :
    (s.lanesOff pd).trellis.schedule = s.trellis.schedule := by
  simp [State.lanesOff]

/-! ## The operations of Machine/Tributary.lean -/

@[simp] theorem State.requestsBoundary_trellis (s : State) : s.requestsBoundary.trellis = s.trellis := rfl

@[simp] theorem State.startPorts_schedule (s : State) : s.startPorts.trellis.schedule = s.trellis.schedule := by
  simp [State.startPorts]

@[simp] theorem State.stopPorts_trellis (s : State) : s.stopPorts.trellis = s.trellis := rfl

@[simp] theorem State.portEnableChanged_schedule (s : State) (n : Nat) :
    (s.portEnableChanged n).trellis.schedule = s.trellis.schedule := by
  simp [State.portEnableChanged]

/-! ## The operations of Machine/Budget.lean -/

@[simp] theorem State.recordReport_trellis (s : State) (r : Report) : (s.recordReport r).trellis = s.trellis := by
  simp -implicitDefEqProofs [State.recordReport]

@[simp] theorem State.runBudget_trellis (s : State) (m : NMap) : (s.runBudget m).1.trellis = s.trellis := by
  unfold State.runBudget
  split
  · rfl
  · simp

theorem State.runBudget_eq_trellis {s t : State} {m : NMap} {r : Option Report} (h : s.runBudget m = (t, r)) :
    t.trellis = s.trellis := by
  rw [← State.runBudget_trellis s m, h]

@[simp] theorem State.ringCheckOnly_trellis (s : State) : s.ringCheckOnly.trellis = s.trellis := by
  simp [State.ringCheckOnly]

/-! ## The operations of Machine/Slow.lean -/

@[simp] theorem State.sl_trellis (s : State) (f : Slow → Slow) : (s.sl f).trellis = s.trellis := rfl
@[simp] theorem State.setIl_trellis (s : State) (i : Nat) (f : Il → Il) : (s.setIl i f).trellis = s.trellis := rfl

@[simp] theorem State.ilFault_trellis (s : State) (i cause : Nat) : (s.ilFault i cause).trellis = s.trellis := by
  simp [State.ilFault]

@[simp] theorem State.ilAllFault_trellis (s : State) : s.ilAllFault.trellis = s.trellis := by simp [State.ilAllFault]
@[simp] theorem State.slowOff_trellis (s : State) : s.slowOff.trellis = s.trellis := by simp [State.slowOff]

/-! ## The operations of Machine/Memory.lean -/

@[simp] theorem State.setSlotStat_trellis (s : State) (m slot v : Nat) :
    (s.setSlotStat m slot v).trellis = s.trellis := by
  simp [State.setSlotStat]

@[simp] theorem State.setRank_trellis (s : State) (m slot : Nat) (f : Rank → Rank) :
    (s.setRank m slot f).trellis = s.trellis := rfl

@[simp] theorem State.touchRow_trellis (s : State) (m slot bank row : Nat) :
    (s.touchRow m slot bank row).trellis = s.trellis := by
  simp [State.touchRow]

@[simp] theorem State.setMig_trellis (s : State) (m : Nat) (active fast : Bool) :
    (s.setMig m active fast).trellis = s.trellis := rfl

@[simp] theorem State.nextSpare_trellis (s : State) (m : Nat) : (s.nextSpare m).trellis = s.trellis := rfl

@[simp] theorem State.retire_trellis (s : State) (m slot cause : Nat) :
    (s.retire m slot cause).trellis = s.trellis := by
  simp [State.retire]

@[simp] theorem State.caCheck_trellis (s : State) (m slot : Nat) (c : CaOutcome) :
    (s.caCheck m slot c).1.trellis = s.trellis := by
  unfold State.caCheck
  split
  · rfl
  · simp
  · simp

@[simp] theorem State.rewriteDescriptor_trellis (s : State) (f : Nat) :
    (s.rewriteDescriptor f).trellis = s.trellis := rfl

@[simp] theorem State.restoreDescriptor_trellis (s : State) (f : Nat) :
    (s.restoreDescriptor f).trellis = s.trellis := by
  simp [State.restoreDescriptor]

@[simp] theorem State.scramble_trellis (s : State) (granule : Nat) (errs : List Nat) :
    (s.scramble granule errs).trellis = s.trellis := by
  simp -implicitDefEqProofs [State.scramble]

@[simp] theorem State.garble_trellis (s : State) (granule : Nat) (errs : List Nat) :
    (s.garble granule errs).trellis = s.trellis := by
  simp [State.garble]

@[simp] theorem State.refetchImage_trellis (s : State) : s.refetchImage.trellis = s.trellis := rfl

@[simp] theorem State.uncorrectable_trellis (s : State) (a : Nat) (errs : List Nat) :
    (s.uncorrectable a errs).trellis = s.trellis := by
  unfold State.uncorrectable
  dsimp only
  rw [State.retire_trellis]
  split
  all_goals simp -implicitDefEqProofs only [forAll_trellis, State.rewriteDescriptor_trellis,
    State.restoreDescriptor_trellis, State.poke_trellis, State.inc_trellis, State.p_trellis, State.refetchImage_trellis,
    State.setPoison_trellis, State.garble_trellis, State.trellis_ite, ite_self, implies_true]

@[simp] theorem State.corrected_trellis (s : State) (m slot : Nat) : (s.corrected m slot).trellis = s.trellis := by
  simp [State.corrected]

@[simp] theorem State.readOutcome_trellis (s : State) (a : Nat) (errs : List Nat) :
    (s.readOutcome a errs).trellis = s.trellis := by
  unfold State.readOutcome
  dsimp only
  split
  · rfl
  · simp
  · simp
  · split <;> simp

@[simp] theorem State.setChunks_trellis (s : State) (n : Nat) : (s.setChunks n).trellis = s.trellis := by
  simp [State.setChunks]

@[simp] theorem State.issue_trellis (s : State) (x : MemIn) (read : Bool) : (s.issue x read).trellis = s.trellis := by
  simp [State.issue]

@[simp] theorem State.issueWrite_trellis (s : State) (m : Nat) : (s.issueWrite m).trellis = s.trellis := by
  unfold State.issueWrite
  dsimp only
  split
  · simp
  · rfl

@[simp] theorem State.completeWrites_trellis (s : State) (m : Nat) : (s.completeWrites m).trellis = s.trellis := by
  simp [State.completeWrites]

@[simp] theorem State.scheduleCloses_trellis (s : State) (fs : List Nat) :
    (s.scheduleCloses fs).trellis = s.trellis := rfl

@[simp] theorem State.foldFurrow_trellis (s : State) (f : Nat) : (s.foldFurrow f).trellis = s.trellis := by
  unfold State.foldFurrow
  dsimp only
  simp only [State.furrow_trellis, State.trellis_ite, State.pi_trellis, ite_self]
  split
  · rfl
  · simp

@[simp] theorem State.rewriteTables_trellis (s : State) : s.rewriteTables.trellis = s.trellis := by
  simp [State.rewriteTables]

@[simp] theorem State.foldRings_trellis (s : State) (moved : Bool) : (s.foldRings moved).trellis = s.trellis := by
  unfold State.foldRings
  simp -implicitDefEqProofs

@[simp] theorem State.dropSlot_trellis (s : State) (m slot : Nat) : (s.dropSlot m slot).trellis = s.trellis := by
  simp [State.dropSlot]

@[simp] theorem State.shrinkPort_trellis (s : State) (m : Nat) : (s.shrinkPort m).trellis = s.trellis := by
  simp [State.shrinkPort]

@[simp] theorem State.step1_trellis (s : State) : s.step1.trellis = s.trellis := by simp [State.step1]
@[simp] theorem State.step2_trellis (s : State) (m : Nat) : (s.step2 m).trellis = s.trellis := by simp [State.step2]

@[simp] theorem State.secondPortLost_trellis (s : State) (m : Nat) : (s.secondPortLost m).trellis = s.trellis := by
  simp [State.secondPortLost]

@[simp] theorem State.takeSpare_trellis (s : State) (m : Nat) : (s.takeSpare m).trellis = s.trellis := by
  unfold State.takeSpare
  dsimp only
  split
  · split <;> rfl
  · rfl

@[simp] theorem State.degradedSteps_trellis (s : State) : s.degradedSteps.trellis = s.trellis := by
  simp [State.degradedSteps]

@[simp] theorem State.mapSwitch_trellis (s : State) (m : Nat) : (s.mapSwitch m).trellis = s.trellis := by
  simp [State.mapSwitch]

@[simp] theorem State.startMigration_trellis (s : State) (m : Nat) : (s.startMigration m).trellis = s.trellis := by
  simp [State.startMigration]

@[simp] theorem State.memWindow_trellis (s : State) : s.memWindow.trellis = s.trellis := by simp [State.memWindow]
@[simp] theorem State.setRetrain_trellis (s : State) (v : Nat) : (s.setRetrain v).trellis = s.trellis := rfl

@[simp] theorem State.retrainFirst_trellis (s : State) : s.retrainFirst.trellis = s.trellis := by
  unfold State.retrainFirst
  split
  · exact forAll_trellis (by intros; rfl) _ _
  · rfl

@[simp] theorem State.memPause_trellis (s : State) (switched : List Nat) :
    (s.memPause switched).trellis = s.trellis := by
  unfold State.memPause
  dsimp only
  split
  · exact forAll_trellis (by intros; rfl) _ _
  · rw [State.mport_trellis, State.trellis_ite, State.inc_trellis, ite_self]
    exact forAll_trellis (by intros; rfl) _ _

/-! ## The operations of Machine/Harvest.lean -/

@[simp] theorem State.cutLane_trellis (s : State) (n : Nat) : (s.cutLane n).trellis = s.trellis := by
  simp [State.cutLane]

@[simp] theorem State.light_trellis (s : State) (n : Nat) : (s.light n).trellis = s.trellis := by simp [State.light]

@[simp] theorem State.lightMask_trellis (s : State) (mask : Nat) : (s.lightMask mask).trellis = s.trellis := by
  simp [State.lightMask]

@[simp] theorem State.dropJobs_trellis (s : State) : s.dropJobs.trellis = s.trellis := by
  unfold State.dropJobs
  simp -implicitDefEqProofs

@[simp] theorem State.laneForecast_trellis (s : State) : s.laneForecast.trellis = s.trellis := by
  simp [State.laneForecast]

@[simp] theorem State.markResends_trellis (s : State) (f : Nat) : (s.markResends f).trellis = s.trellis := by
  simp -implicitDefEqProofs [State.markResends]

/-! ## The operations of Machine/Graft.lean -/

@[simp] theorem State.gr_trellis (s : State) (f : Graft → Graft) : (s.gr f).trellis = s.trellis := rfl
@[simp] theorem State.reEligible_trellis (s : State) : s.reEligible.trellis = s.trellis := by simp [State.reEligible]

@[simp] theorem State.peerEligible_trellis (s : State) (b : Bool) : (s.peerEligible b).trellis = s.trellis := by
  simp [State.peerEligible]

@[simp] theorem State.markEpoch_trellis (s : State) : s.markEpoch.trellis = s.trellis := by
  simp -implicitDefEqProofs [State.markEpoch]

@[simp] theorem State.seizeToken_trellis (s : State) : s.seizeToken.trellis = s.trellis := by simp [State.seizeToken]

@[simp] theorem State.intervalStart_trellis (s : State) : s.intervalStart.trellis = s.trellis := by
  simp [State.intervalStart]

@[simp] theorem State.armTake_trellis (s : State) : s.armTake.trellis = s.trellis := by simp [State.armTake]

@[simp] theorem State.graftBoundary_trellis (s : State) : s.graftBoundary.trellis = s.trellis := by
  simp [State.graftBoundary]

/-! ## The operations of Machine/Store.lean -/

@[simp] theorem State.retPut_trellis (s : State) (off : Nat) (b : List Byte) :
    (s.retPut off b).trellis = s.trellis := rfl

@[simp] theorem State.queueOp_trellis (s : State) (o : NvmOp) : (s.queueOp o).trellis = s.trellis := rfl

@[simp] theorem State.ageSnapshot_trellis (s : State) (snap : List Byte) :
    (s.ageSnapshot snap).trellis = s.trellis := by
  unfold State.ageSnapshot
  dsimp only
  split
  · rfl
  split
  · split <;> rfl
  · rfl

/-! ## The operations of Machine/Power.lean -/

@[simp] theorem State.pw_trellis (s : State) (f : Power → Power) : (s.pw f).trellis = s.trellis := rfl

@[simp] theorem State.requestStart_trellis (s : State) (d : Nat) : (s.requestStart d).trellis = s.trellis := by
  simp [State.requestStart]

@[simp] theorem State.stopNow_trellis (s : State) : s.stopNow.trellis = s.trellis := by
  simp -implicitDefEqProofs [State.stopNow]

@[simp] theorem State.memoryOff_trellis (s : State) (d : Nat) : (s.memoryOff d).trellis = s.trellis := by
  simp -implicitDefEqProofs [State.memoryOff]

@[simp] theorem State.domainOff_schedule (s : State) (d : Nat) :
    (s.domainOff d).trellis.schedule = s.trellis.schedule := by
  simp -implicitDefEqProofs [State.domainOff]

@[simp] theorem State.pdReqApply_schedule (s : State) : s.pdReqApply.trellis.schedule = s.trellis.schedule := by
  simp [State.pdReqApply]

/-! ## The operations of Machine/Tending.lean -/

@[simp] theorem State.td_trellis (s : State) (f : Tend → Tend) : (s.td f).trellis = s.trellis := rfl

@[simp] theorem State.reloadBlock_trellis (s : State) (force : Bool) (block : Nat) :
    (s.reloadBlock force block).trellis = s.trellis := by
  simp [State.reloadBlock]

@[simp] theorem State.reloadStat_trellis (s : State) : s.reloadStat.trellis = s.trellis := rfl

@[simp] theorem State.replan_trellis (s : State) : s.replan.trellis = s.trellis := by
  simp -implicitDefEqProofs [State.replan]

@[simp] theorem State.setBounds_trellis (s : State) (l lo hi h1 hn : Nat) :
    (s.setBounds l lo hi h1 hn).trellis = s.trellis := by
  simp [State.setBounds]

@[simp] theorem State.setLaneRetrain_trellis (s : State) (l v : Nat) :
    (s.setLaneRetrain l v).trellis = s.trellis := by
  simp [State.setLaneRetrain]

@[simp] theorem State.applyPlan_trellis (s : State) (x : Nat × Nat × Nat) : (s.applyPlan x).trellis = s.trellis := by
  unfold State.applyPlan
  dsimp only
  split
  all_goals simp

@[simp] theorem State.pin_trellis (s : State) (res : Nat) (v : Option Nat) : (s.pin res v).trellis = s.trellis := rfl

@[simp] theorem State.marginEffect_trellis (s : State) (resource v : Nat) :
    (s.marginEffect resource v).trellis = s.trellis := by
  unfold State.marginEffect
  split
  all_goals simp

@[simp] theorem State.tendApply_trellis (s : State) : s.tendApply.trellis = s.trellis := by simp [State.tendApply]

@[simp] theorem State.reloadCovered_trellis (s : State) (handed : List Nat) (b : Nat) :
    (s.reloadCovered handed b).trellis = s.trellis := by
  unfold State.reloadCovered
  dsimp only
  split
  · split <;> rfl
  · split <;> rfl
  · rfl

@[simp] theorem State.reloadPart_trellis (s : State) : s.reloadPart.trellis = s.trellis := by
  unfold State.reloadPart
  split
  · rfl
  · simp

@[simp] theorem State.reloadBlocks_trellis (s : State) : s.reloadBlocks.trellis = s.trellis := rfl

@[simp] theorem State.tendWindow_trellis (s : State) (handed : List Nat) :
    (s.tendWindow handed).trellis = s.trellis := by
  simp [State.tendWindow]

/-! ## The operations of Machine/Commit.lean -/

@[simp] theorem State.countShed_trellis (s : State) : s.countShed.trellis = s.trellis := by simp [State.countShed]

@[simp] theorem State.describe_trellis (s : State) (l : List Staged) : (s.describe l).trellis = s.trellis := by
  simp [State.describe]

@[simp] theorem State.changed_schedule (s : State) (old : NMap) (l : List Staged) :
    (s.changed old l).trellis.schedule = s.trellis.schedule := by
  simp -implicitDefEqProofs [State.changed]

@[simp] theorem State.enterMode_trellis (s : State) (mode : Option Nat) : (s.enterMode mode).trellis = s.trellis := by
  unfold State.enterMode
  split <;> rfl

/-- A commit sets the registers of the quiet window and of M, not what is in effect (R40, R42). -/
@[simp] theorem State.applyCommit_schedule (s : State) (l : List Staged) (mode : Option Nat) :
    (s.applyCommit l mode).trellis.schedule = s.trellis.schedule := by
  simp [State.applyCommit]

@[simp] theorem State.streamBegin_schedule (s : State) : s.streamBegin.trellis.schedule = s.trellis.schedule := by
  simp -implicitDefEqProofs [State.streamBegin]

@[simp] theorem State.advance_trellis (s : State) (p off : Nat) : (s.advance p off).trellis = s.trellis := by
  simp [State.advance]

@[simp] theorem State.putRw_trellis (s : State) (p off w : Nat) : (s.putRw p off w).trellis = s.trellis := by
  unfold State.putRw
  split
  · rfl
  · exact foldl_trellis (by intros; rfl) _ _

@[simp] theorem State.deltas_trellis (s : State) (rs : List Run) : (s.deltas rs).1.trellis = s.trellis := by
  refine foldl_fst_trellis (fun x a => ?_) _ _
  dsimp only
  split
  · exact State.putRw_trellis ..
  · exact State.advance_trellis ..

@[simp] theorem State.overlayValues_trellis (s : State) (o : Overlay) :
    (s.overlayValues o).1.trellis = s.trellis := by
  simp [State.overlayValues]

theorem State.modeValues_trellis {s t : State} {mode : Nat} {l : List Staged} (h : s.modeValues mode = some (t, l)) :
    t.trellis = s.trellis := by
  unfold State.modeValues at h
  split at h
  · cases h
  split at h
  · exact (congrArg (·.1.trellis) (Option.some.inj h)).symm.trans (State.keepHighZ_trellis ..)
  split at h
  · cases h
  · exact (congrArg (·.1.trellis) (Option.some.inj h)).symm.trans
      ((State.keepHighZ_trellis ..).trans (State.overlayValues_trellis ..))

/-! ## The operations of Machine/Cycle.lean -/

/-- An orbit boundary reaches the power domains, the lanes and the pair; none of them moves the schedule. -/
@[simp] theorem State.orbitEffects_schedule (s : State) : s.orbitEffects.trellis.schedule = s.trellis.schedule := by
  simp [State.orbitEffects]

@[simp] theorem State.orbitEdge_schedule (s : State) : s.orbitEdge.trellis.schedule = s.trellis.schedule := by
  unfold State.orbitEdge
  split
  · rw [State.orbitEffects_schedule]
    rfl
  · rfl

@[simp] theorem State.shedOne_trellis (s : State) (f : Nat) : (s.shedOne f).trellis = s.trellis := by
  simp [State.shedOne]

@[simp] theorem State.shedUntil_trellis (s : State) (fs : List Nat) : (s.shedUntil fs).trellis = s.trellis := by
  induction fs generalizing s with
  | nil => rfl
  | cons f fs ih => simp [State.shedUntil, ih]

@[simp] theorem State.streamDegraded_trellis (s : State) : s.streamDegraded.trellis = s.trellis := by
  unfold State.streamDegraded
  rw [State.countShed_trellis, State.runBudget_trellis, State.shedUntil_trellis]
  rfl

@[simp] theorem State.applyFallback_schedule (s : State) : s.applyFallback.trellis.schedule = s.trellis.schedule := by
  unfold State.applyFallback
  split
  · rfl
  split
  · rfl
  split
  · rfl
  · rename_i h
    split
    · rfl
    · rw [State.applyCommit_schedule, State.modeValues_trellis h]

@[simp] theorem State.fallback_schedule (s : State) : s.fallback.trellis.schedule = s.trellis.schedule := by
  unfold State.fallback
  split
  · rfl
  dsimp only
  split
  · rename_i h
    split
    · rw [State.runBudget_eq_trellis h, State.applyFallback_schedule]
    · rw [State.streamDegraded_trellis, State.runBudget_eq_trellis h, State.applyFallback_schedule]
  · rename_i h
    rw [State.runBudget_eq_trellis h, State.applyFallback_schedule]

@[simp] theorem State.windowCommit_schedule (s : State) (a : Pending) :
    (s.windowCommit a).trellis.schedule = s.trellis.schedule := by
  unfold State.windowCommit
  dsimp only
  split
  · rw [State.complete_trellis]
  split
  · rw [State.complete_trellis, State.runBudget_trellis]
  · rw [State.complete_trellis, State.applyCommit_schedule, State.runBudget_trellis]

@[simp] theorem State.windowStart_schedule (s : State) (a : Pending) :
    (s.windowStart a).trellis.schedule = s.trellis.schedule := by
  unfold State.windowStart
  dsimp only
  split
  · rw [State.complete_trellis]
  split
  · rw [State.complete_trellis]
  split
  · rename_i h
    rw [State.complete_trellis, State.runBudget_eq_trellis h]
  · rename_i h
    split
    · rw [State.complete_trellis, State.runBudget_eq_trellis h]
    · rw [State.complete_trellis, State.streamBegin_schedule, State.runBudget_eq_trellis h]

@[simp] theorem State.windowStop_trellis (s : State) (h : Option Hdr) : (s.windowStop h).trellis = s.trellis := by
  simp [State.windowStop]

@[simp] theorem State.windowDrill_trellis (s : State) (a : Pending) : (s.windowDrill a).trellis = s.trellis := by
  simp [State.windowDrill]

@[simp] theorem State.windowAction_schedule (s : State) : s.windowAction.trellis.schedule = s.trellis.schedule := by
  unfold State.windowAction
  split
  · exact State.fallback_schedule s
  split
  · exact State.fallback_schedule s
  dsimp only
  split
  · rw [State.fallback_schedule, State.windowCommit_schedule]
  · rw [State.windowStart_schedule, State.fallback_schedule]
  · rw [State.windowStop_trellis, State.fallback_schedule]
  · rw [State.windowDrill_trellis, State.fallback_schedule]
  · rw [State.complete_trellis, State.marginEffect_trellis, State.fallback_schedule]

@[simp] theorem State.portLossStop_trellis (s : State) : s.portLossStop.trellis = s.trellis := by
  simp [State.portLossStop]

@[simp] theorem State.degradedFault_trellis (s : State) (before : Nat) :
    (s.degradedFault before).trellis = s.trellis := by
  simp [State.degradedFault]

@[simp] theorem State.windowConfig_schedule (s : State) : s.windowConfig.trellis.schedule = s.trellis.schedule := by
  simp [State.windowConfig]

@[simp] theorem State.windowBeds_schedule (s : State) (q : QuietIn) :
    (s.windowBeds q).1.trellis.schedule = s.trellis.schedule := by
  simp [State.windowBeds]

/-- The actions of R25, a commit among them, leave the schedule of the orbit they run in. -/
@[simp] theorem State.windowActions_schedule (s : State) (q : QuietIn) :
    (s.windowActions q).trellis.schedule = s.trellis.schedule := by
  unfold State.windowActions
  dsimp only
  rw [State.rotatorStep_schedule, State.calibrateApply_schedule, State.memPause_trellis, State.retrainStart_trellis,
    forAll_trellis State.startMigration_trellis, forAll_trellis fun t b => State.lineCheckRun_trellis t q.line b,
    State.tendWindow_trellis, State.windowBeds_schedule, State.followerApply_trellis, State.windowConfig_schedule]
  show Trellis.schedule (State.followerKeep _).trellis = _
  rw [State.followerKeep_trellis]
  show Trellis.schedule (if _ then s.prevUpdate else s).trellis = _
  simp

end Sys2Proof.Machine
end

section
/-! SUPPORT. The quiet window and M across an orbit boundary and through a quiet window (R40 to R42). -/
namespace Sys2Proof.Machine

theorem Trellis.schedule_eq {t u : Trellis} (h : t.schedule = u.schedule) :
    t.slot = u.slot ∧ t.qwFirst = u.qwFirst ∧ t.qwLen = u.qwLen ∧ t.mNow = u.mNow ∧ t.frameDue = u.frameDue := by
  simpa [Trellis.schedule] using h

@[simp] theorem State.slotPasses_regs (s : State) : s.slotPasses.regs = s.regs := by
  unfold State.slotPasses
  dsimp only
  split <;> rfl

@[simp] theorem State.slotPasses_orbit (s : State) : s.slotPasses.trellis.orbit = s.trellis.orbit := by
  unfold State.slotPasses
  dsimp only
  split <;> rfl

@[simp] theorem State.orbitTime_regs (s : State) : s.orbitTime.regs = s.regs := by
  unfold State.orbitTime
  dsimp only
  split
  · split <;> rfl
  · rfl

@[simp] theorem State.orbitTime_orbit (s : State) : s.orbitTime.trellis.orbit = s.trellis.orbit := by
  unfold State.orbitTime
  dsimp only
  split
  · split <;> rfl
  · rfl

@[simp] theorem State.orbitTimeHeld_regs (s : State) : s.orbitTimeHeld.regs = s.regs := by
  unfold State.orbitTimeHeld
  split
  · exact s.orbitTime_regs
  · rfl

@[simp] theorem State.orbitTimeHeld_orbit (s : State) : s.orbitTimeHeld.trellis.orbit = s.trellis.orbit := by
  unfold State.orbitTimeHeld
  split
  · exact s.orbitTime_orbit
  · rfl

/-- A frame starts in the next orbit: its number is a whole multiple of the committed M (R42). -/
def State.frameNext (s : State) : Bool :=
  s.g R.trellis_MFRAME_MF_ORBITS != 0 && (s.trellis.orbit + 1) % s.g R.trellis_MFRAME_MF_ORBITS == 0

/-- What the next orbit starts with: slot 0, the committed quiet window, and the committed M where a frame starts. -/
def State.scheduleNext (s : State) : Nat × Nat × Nat × Nat × Bool :=
  (0, s.g R.trellis_QUIET_QW_FIRST, s.g R.trellis_QUIET_QW_LEN,
    if s.frameNext then s.g R.trellis_MFRAME_MF_ORBITS else s.trellis.mNow, s.frameNext)

/-- What the next orbit starts with is a matter of the registers, the orbit number and M in effect. -/
theorem State.scheduleNext_congr {s t : State} (hr : t.regs = s.regs) (ho : t.trellis.orbit = s.trellis.orbit)
    (hm : t.trellis.mNow = s.trellis.mNow) : t.scheduleNext = s.scheduleNext := by
  unfold State.scheduleNext State.frameNext State.g
  simp only [State.gi_congr hr, ho, hm]

/-- At a boundary the trellis takes the schedule of the next orbit. -/
theorem State.trellisBoundary_schedule (s : State) : s.trellisBoundary.trellis.schedule = s.scheduleNext := by
  obtain ⟨-, -, -, hm, -⟩ := Trellis.schedule_eq s.slotPasses_schedule
  rw [← State.scheduleNext_congr s.slotPasses_regs s.slotPasses_orbit hm]
  exact State.ite_schedule_eq rfl rfl

/-- What an orbit boundary brings besides leaves what the trellis took. -/
theorem State.orbitBoundary_schedule (s : State) : s.orbitBoundary.trellis.schedule = s.scheduleNext := by
  obtain ⟨-, -, -, hm, -⟩ := Trellis.schedule_eq s.orbitTimeHeld_schedule
  unfold State.orbitBoundary
  rw [State.requestsBoundary_trellis, State.orbitEffects_schedule, State.orbitTimeAt0_schedule,
    State.trellisBoundary_schedule]
  exact State.scheduleNext_congr s.orbitTimeHeld_regs s.orbitTimeHeld_orbit hm

/-- A quiet window starts at the first slot of the window in effect, which stays as it was. -/
theorem State.toWindow_some {s u : State} (h : s.toWindow = some u) :
    u.trellis.schedule = { s.trellis with slot := s.trellis.qwFirst : Trellis }.schedule := by
  unfold State.toWindow at h
  dsimp only at h
  split at h
  · cases h
  split at h
  · rename_i hnow
    obtain ⟨-, hslot⟩ := Bool.and_eq_true_iff.mp hnow
    rw [← Option.some.inj h, ← eq_of_beq hslot]
  split at h
  · rename_i hnext
    simp only [Bool.and_eq_true, beq_iff_eq] at hnext
    obtain ⟨⟨-, hslot⟩, -⟩ := hnext
    obtain ⟨hs, hfirst, hlen, hm, hframe⟩ := Trellis.schedule_eq
      (s.orbitTimeHeld.slotPasses_schedule.trans s.orbitTimeHeld_schedule)
    rw [← Option.some.inj h]
    simp only [State.tr_trellis, Trellis.schedule, hs, hfirst, hlen, hm, hframe, hslot]
  · cases h

/-- A window that does not start leaves the state; one that starts keeps the schedule of its first slot. -/
theorem State.quietWindow_cases (s : State) (q : QuietIn) : s.quietWindow q = s
    ∨ (s.quietWindow q).trellis.schedule = { s.trellis with slot := s.trellis.qwFirst : Trellis }.schedule := by
  unfold State.quietWindow
  split
  · exact .inl rfl
  · rename_i u h
    refine .inr ?_
    have hedge : (u.orbitEdge.tr fun t => { t with inWindow := true }).trellis.schedule = u.trellis.schedule :=
      u.orbitEdge_schedule
    rw [← State.toWindow_some h, ← hedge]
    dsimp only
    split
    · rfl
    · exact State.windowActions_schedule ..

/-- Settles O57: what a boundary and a window bring leaves the schedule that the trellis took at the boundary. -/
theorem quietWindowAndFrameChanges : Obligations.QuietWindowAndFrameChanges := by
  unfold Obligations.QuietWindowAndFrameChanges
  refine ⟨fun s _ hcount hran hslot hwrap => ?_, fun q s _ => ⟨s.quietWindow q, rfl, ?_⟩⟩
  · have hends : s.orbitEnds = true := by simp [State.orbitEnds, hcount, hran, hslot]
    have hnext : exec .orbitBoundary s = .next s.orbitBoundary := by
      show execOrbitBoundary s = _
      unfold execOrbitBoundary
      rw [hends, if_neg (by decide), if_neg (Nat.not_le.mpr hwrap)]
    obtain ⟨-, hfirst, hlen, hm, hframe⟩ : _ ∧ _ ∧ _ ∧ _ ∧ _ := by
      simpa only [Trellis.schedule, State.scheduleNext, Prod.mk.injEq] using s.orbitBoundary_schedule
    refine ⟨s.orbitBoundary, hnext, hfirst, hlen, fun hpos hmul => ?_, fun hnot => ?_⟩
    · have hstart : s.frameNext = true := by simp [State.frameNext, Nat.ne_of_gt hpos, hmul]
      rw [hm, hframe, hstart]
      exact ⟨rfl, rfl⟩
    · have hstart : s.frameNext = false := by
        rcases hnot with h | h <;> simp [State.frameNext, h]
      rw [hm, hframe, hstart]
      exact ⟨rfl, rfl⟩
  · rcases s.quietWindow_cases q with h | h
    · rw [h]
      exact ⟨rfl, rfl, rfl, fun h1 h0 => absurd (h1.symm.trans h0) (by decide)⟩
    · obtain ⟨hslot, hfirst, hlen, hm, -⟩ := Trellis.schedule_eq h
      exact ⟨hfirst, hlen, hm, fun _ _ => hslot⟩

end Sys2Proof.Machine
end

section
/-! SUPPORT. A command in turn: the state it acts on, and how the hub comes to its answer (R356 to R360). -/
namespace Sys2Proof.Machine

/-- The canonical form depends on the register map and stream memory alone. -/
theorem State.inv_congr {s t : State} (h : s.Inv) (hr : t.regs = s.regs) (hm : t.mem = s.mem) : t.Inv := by
  obtain ⟨hregs, hmem⟩ := h
  exact ⟨hr ▸ hregs, by unfold Memory.wf; rw [hm]; exact hmem⟩

@[simp] theorem State.takeMsg_regs (s : State) (h : Hdr) : (s.takeMsg h).regs = s.regs := by
  unfold State.takeMsg
  split <;> rfl

@[simp] theorem State.takeMsg_mem (s : State) (h : Hdr) : (s.takeMsg h).mem = s.mem := by
  unfold State.takeMsg
  split <;> rfl

@[simp] theorem acting_regs (h : Hdr) (s : State) : (acting h s).regs = s.regs := by
  unfold acting
  dsimp only
  split
  · exact s.takeMsg_regs h
  · exact s.takeMsg_regs h

@[simp] theorem acting_mem (h : Hdr) (s : State) : (acting h s).mem = s.mem := by
  unfold acting
  dsimp only
  split
  · exact s.takeMsg_mem h
  · exact s.takeMsg_mem h

theorem acting_inv {s : State} (hI : s.Inv) (h : Hdr) : (acting h s).Inv :=
  State.inv_congr hI (acting_regs h s) (acting_mem h s)

theorem State.ownIp_congr {s t : State} (hr : t.regs = s.regs) (h : Hdr) : t.ownIp h = s.ownIp h := by
  unfold State.ownIp
  split
  · exact State.gi_congr hr ..
  · rfl

@[simp] theorem State.takeMsg_sessions_length (s : State) (h : Hdr) :
    (s.takeMsg h).zcs.sessions.length = s.zcs.sessions.length := by
  unfold State.takeMsg
  split
  · exact List.length_map ..
  · rfl

/-- A session updated under its own number is found again. -/
theorem State.session_sess {f : Session → Session} (hf : ∀ x, (f x).id = x.id) (s : State) (id : BitVec 32) :
    (s.sess id f).session id = (s.session id).map f := by
  show (s.zcs.sessions.map _).find? _ = (s.zcs.sessions.find? _).map f
  induction s.zcs.sessions with
  | nil => rfl
  | cons x l ih =>
    by_cases hx : x.id = id
    · simp [hx, hf]
    · simpa [hx] using ih

theorem State.session_renew (s : State) (id : BitVec 32) :
    (s.renew id).session id = (s.session id).map fun x => { x with last := s.nowNs } :=
  State.session_sess (fun x => (rfl : ({ x with last := s.nowNs } : Session).id = x.id)) s id

/-- A message taken renews at most its session's lease: what runs and what is cached stays. -/
theorem State.session_takeMsg (s : State) (h : Hdr) : ∃ f : Session → Session,
    (∀ x, (f x).running = x.running ∧ (f x).cache = x.cache)
    ∧ (s.takeMsg h).session h.session = (s.session h.session).map f := by
  unfold State.takeMsg
  split
  · exact ⟨fun x => { x with last := s.nowNs }, fun _ => ⟨rfl, rfl⟩, s.session_renew h.session⟩
  · exact ⟨id, fun _ => ⟨rfl, rfl⟩, Option.map_id_apply.symm⟩

/-- A command that the hub takes runs on the state it acts on, and its reply is the answer. -/
theorem zcsRun_of_takes {c : Instr} {h : Hdr} {op : Nat} {s : State} (ht : takes c h op s)
    (body : State → State × Reply) :
    s.zcsRun c h op true body = answer s (body (acting h s)).1 h op (body (acting h s)).2 := by
  obtain ⟨hrun, hturn, hzero, hroom, hfresh⟩ := ht
  obtain ⟨f, hf, hsession⟩ := s.session_takeMsg h
  have hip : (s.takeMsg h).ownIp h = s.ownIp h := State.ownIp_congr (s.takeMsg_regs h) h
  unfold State.zcsRun answer acting
  dsimp only
  rw [hrun, hturn, hip, hsession]
  by_cases h0 : h.session = 0#32
  · simp [h0, hzero h0]
  cases hs : s.session h.session with
  | none => simp [h0, Nat.not_le.mpr (hroom h0 hs)]
  | some x =>
    obtain ⟨hrunning, hcache⟩ := hf x
    obtain ⟨htag, hcached⟩ := hfresh x h0 hs
    have hfind : x.cache.find? (fun e => e.tag == h.tag) = none :=
      List.find?_eq_none.mpr fun e he => by simp [hcached e he]
    simp [h0, hrunning, hcache, htag, hfind]

end Sys2Proof.Machine
end

section
/-! SUPPORT. The retirement of a rank slot: the mark that R256 and R257 set on the slot and on its partner port, and what
follows on the slot's own port (R258). -/
namespace Sys2Proof.Machine

@[simp] theorem State.log_regs (s : State) (f : Fld) (page : Nat) (detail : List Byte) :
    (s.log f page detail).regs = s.regs := by
  unfold State.log State.logRaw State.logAs
  dsimp only
  split <;> rfl

@[simp] theorem State.log_mem (s : State) (f : Fld) (page : Nat) (detail : List Byte) :
    (s.log f page detail).mem = s.mem := by
  unfold State.log State.logRaw State.logAs
  dsimp only
  split <;> rfl

theorem State.log_inv {s : State} (hI : s.Inv) (f : Fld) (page : Nat) (detail : List Byte) : (s.log f page detail).Inv :=
  State.inv_congr hI (State.log_regs ..) (State.log_mem ..)

/-- An element changed leaves the elements at other places. -/
theorem modAt_getD_ne {α : Type} {m n : Nat} (hne : n ≠ m) (l : List α) (f : α → α) (d : α) :
    (modAt l m f).getD n d = l.getD n d := by
  induction l generalizing m n with
  | nil => rfl
  | cons x l ih =>
    cases m with
    | zero => cases n with
      | zero => exact absurd rfl hne
      | succ n => rfl
    | succ m => cases n with
      | zero => rfl
      | succ n => exact ih fun h => hne (congrArg (· + 1) h)

/-- A port updated leaves the others. -/
theorem State.mp_mport_ne {m n : Nat} (hne : n ≠ m) (s : State) (f : MPort → MPort) : (s.mport m f).mp n = s.mp n :=
  modAt_getD_ne hne ..

theorem State.mp_congr {s t : State} (h : t.mem = s.mem) (n : Nat) : t.mp n = s.mp n := by
  unfold State.mp; rw [h]

/-- The other port of the pair that shares a port's dies (R16). -/
def pairPort (m : Nat) : Nat := if m % 2 = 0 then m + 1 else m - 1

/-- The register fields in which a retirement goes on at its port (R258). -/
def portFields (m : Nat) : List (Fld × Nat) :=
  [(R.mport_SLOT_STAT_A, mInst m), (R.mport_SLOT_STAT_B, mInst m), (R.mport_SLOT_STAT_C, mInst m),
   (R.mport_RANK_MAP_SPARE, mInst m), (R.spare_MIG_STAT_ACTIVE, 0), (R.spare_MIG_STAT_FAST, 0)]

/-- The fields of `portFields`, of any port. -/
def portFlds : List Fld :=
  [R.mport_SLOT_STAT_A, R.mport_SLOT_STAT_B, R.mport_SLOT_STAT_C, R.mport_RANK_MAP_SPARE, R.spare_MIG_STAT_ACTIVE,
   R.spare_MIG_STAT_FAST]

theorem fst_mem_portFlds {m : Nat} {x : Fld × Nat} (hx : x ∈ portFields m) : x.1 ∈ portFlds :=
  List.mem_map_of_mem (f := Prod.fst) hx

/-- From `s` to `t` nothing happens outside port `m`, as far as retirement goes: the other ports' records stand and so does
every register but `portFields`; `t` is in canonical form. -/
structure OnPort (m : Nat) (s t : State) : Prop where
  inv : t.Inv
  regs : s.regsBut t (portFields m)
  ports : ∀ n, n ≠ m → t.mp n = s.mp n

theorem OnPort.refl {s : State} (hI : s.Inv) (m : Nat) : OnPort m s s :=
  ⟨hI, State.regsBut_refl s _, fun _ _ => rfl⟩

theorem OnPort.pi {m : Nat} {s t : State} (h : OnPort m s t) {f : Fld} {i : Nat} (hm : (f, i) ∈ portFields m) (v : Nat) :
    OnPort m s (t.pi f i v) :=
  ⟨State.pi_inv h.inv f i v, State.regsBut_pi h.inv h.regs hm v, h.ports⟩

theorem OnPort.mport {m : Nat} {s t : State} (h : OnPort m s t) (f : MPort → MPort) : OnPort m s (t.mport m f) :=
  ⟨h.inv, State.regsBut_congr h.regs rfl, fun n hn => (State.mp_mport_ne hn t f).trans (h.ports n hn)⟩

theorem OnPort.setSlotStat {m : Nat} {s t : State} (h : OnPort m s t) (slot v : Nat) :
    OnPort m s (t.setSlotStat m slot v) := by
  have hmem : (slotStatFld slot, mInst m) ∈ portFields m := by
    unfold slotStatFld portFields
    split <;> simp
  unfold State.setSlotStat
  split
  · exact h.pi hmem v
  · exact h

theorem OnPort.setMig {m : Nat} {s t : State} (h : OnPort m s t) (active fast : Bool) :
    OnPort m s (t.setMig m active fast) :=
  (h.pi (by simp [portFields]) _).pi (by simp [portFields]) _

theorem OnPort.nextSpare {m : Nat} {s t : State} (h : OnPort m s t) : OnPort m s (t.nextSpare m) :=
  h.pi (by simp [portFields]) _

/-- The mark of a retirement: the slot's cause with its log entry, and the suspicion on the partner port. -/
def State.markRetired (s : State) (m slot cause : Nat) : State :=
  ((s.pi R.spare_SLOT_HEALTH_CAUSE (hInst m slot) cause).log R.spare_SLOT_HEALTH_CAUSE 0x04A []).pi
    R.spare_SLOT_HEALTH_PAIR_SUSPECT (hInst (pairPort m) slot) 1

/-- A slot retired before stays as it is. -/
theorem State.retire_of_retired {s : State} {m slot : Nat} (h : s.gi R.spare_SLOT_HEALTH_CAUSE (hInst m slot) ≠ 0)
    (cause : Nat) : s.retire m slot cause = s := by
  unfold State.retire
  rw [if_pos (.inr h)]

theorem State.markRetired_inv {s : State} (hI : s.Inv) (m slot cause : Nat) : (s.markRetired m slot cause).Inv :=
  State.pi_inv (State.log_inv (State.pi_inv hI ..) ..) ..

theorem State.markRetired_mp (s : State) (m slot cause n : Nat) : (s.markRetired m slot cause).mp n = s.mp n :=
  State.mp_congr (State.log_mem ..) n

/-- The mark holds the cause. -/
theorem State.markRetired_cause {s : State} (hI : s.Inv) (m slot cause : Nat) :
    (s.markRetired m slot cause).gi R.spare_SLOT_HEALTH_CAUSE (hInst m slot)
      = cause % 2 ^ R.spare_SLOT_HEALTH_CAUSE.width := by
  unfold State.markRetired
  rw [State.gi_pi_ne (State.log_inv (State.pi_inv hI ..) ..) (.inl (by decide)), State.gi_congr (State.log_regs ..),
    State.gi_pi_eq hI]

/-- The mark makes the slot suspect on the partner port. -/
theorem State.markRetired_suspect {s : State} (hI : s.Inv) (m slot cause : Nat) :
    (s.markRetired m slot cause).gi R.spare_SLOT_HEALTH_PAIR_SUSPECT (hInst (pairPort m) slot) = 1 :=
  State.gi_pi_eq (State.log_inv (State.pi_inv hI ..) ..) ..

/-- The mark writes the two fields it names, each at one slot. -/
theorem State.markRetired_regsBut {s : State} (hI : s.Inv) (m slot cause : Nat) :
    s.regsBut (s.markRetired m slot cause)
      [(R.spare_SLOT_HEALTH_CAUSE, hInst m slot), (R.spare_SLOT_HEALTH_PAIR_SUSPECT, hInst (pairPort m) slot)] :=
  State.regsBut_pi (State.log_inv (State.pi_inv hI ..) ..)
    (State.regsBut_congr (State.regsBut_pi hI (State.regsBut_refl s _) (by simp) _) (State.log_regs ..)) (by simp) _

/-- What follows the mark, by the slot and the state of its port, happens on that port (R258). -/
theorem State.retire_onPort {s : State} {m slot : Nat} (hI : s.Inv) (hslot : slot < 3)
    (hnew : s.gi R.spare_SLOT_HEALTH_CAUSE (hInst m slot) = 0) (cause : Nat) :
    OnPort m (s.markRetired m slot cause) (s.retire m slot cause) := by
  have hgo : ¬ (3 ≤ slot ∨ s.gi R.spare_SLOT_HEALTH_CAUSE (hInst m slot) ≠ 0) := by simp [hslot, hnew]
  unfold State.retire
  rw [if_neg hgo]
  extract_lets t
  have h : OnPort m (s.markRetired m slot cause) t := OnPort.refl (State.markRetired_inv hI m slot cause) m
  clear_value t
  split
  · split
    · exact h.mport _
    split
    · exact h.mport _
    · exact h.mport _
  · split
    · exact ((((h.setSlotStat slot 3).mport _).setMig false false).setSlotStat _ 0).nextSpare
    split
    · exact (h.setSlotStat slot 3).nextSpare
    · exact h.setSlotStat slot 3

/-- The registers that a retirement writes. -/
def retireWrites (m slot : Nat) : List (Fld × Nat) :=
  (R.spare_SLOT_HEALTH_CAUSE, hInst m slot) :: (R.spare_SLOT_HEALTH_PAIR_SUSPECT, hInst (pairPort m) slot) :: portFields m

/-- The frame of a retirement, of a slot retired before or not: it writes `retireWrites`. -/
theorem State.retire_regsBut {s : State} {m slot : Nat} (hI : s.Inv) (hslot : slot < 3) (cause : Nat) :
    s.regsBut (s.retire m slot cause) (retireWrites m slot) := by
  by_cases hnew : s.gi R.spare_SLOT_HEALTH_CAUSE (hInst m slot) = 0
  · refine State.regsBut_trans (State.regsBut_mono (State.markRetired_regsBut hI m slot cause) ?_)
      (State.regsBut_mono (State.retire_onPort hI hslot hnew cause).regs ?_)
    · simp [retireWrites]
    · exact fun x hx => List.mem_cons_of_mem _ (List.mem_cons_of_mem _ hx)
  · rw [State.retire_of_retired hnew]
    exact State.regsBut_refl s _

/-- A retirement leaves the records of the other ports. -/
theorem State.retire_mp {s : State} {m slot n : Nat} (hI : s.Inv) (hslot : slot < 3) (hne : n ≠ m) (cause : Nat) :
    (s.retire m slot cause).mp n = s.mp n := by
  by_cases hnew : s.gi R.spare_SLOT_HEALTH_CAUSE (hInst m slot) = 0
  · exact ((State.retire_onPort hI hslot hnew cause).ports n hne).trans (State.markRetired_mp ..)
  · rw [State.retire_of_retired hnew]

/-- What follows the mark leaves the health of every slot. -/
theorem State.retire_health {s : State} {m slot : Nat} (hI : s.Inv) (hslot : slot < 3)
    (hnew : s.gi R.spare_SLOT_HEALTH_CAUSE (hInst m slot) = 0) (cause : Nat) {f : Fld}
    (hf : f ∈ [R.spare_SLOT_HEALTH_CAUSE, R.spare_SLOT_HEALTH_PAIR_SUSPECT]) (j : Nat) :
    (s.retire m slot cause).gi f j = (s.markRetired m slot cause).gi f j := by
  have hbases : ∀ f ∈ [R.spare_SLOT_HEALTH_CAUSE, R.spare_SLOT_HEALTH_PAIR_SUSPECT],
      ∀ g ∈ portFlds, f.base ≠ g.base := by decide
  exact (State.retire_onPort hI hslot hnew cause).regs f j fun x hx =>
    .inl (hbases f hf x.1 (fst_mem_portFlds hx))

/-- Slots of two ports have health registers of their own. -/
theorem hInst_mod_ne {m n slot x : Nat} (hm : m < 8) (hn : n < 8) (hslot : slot < 3) (hx : x < 3) (hne : n ≠ m) :
    hInst n x % 2 ^ 20 ≠ hInst m slot % 2 ^ 20 := by
  unfold hInst; omega

/-- Two ports have registers of their own. -/
theorem mInst_mod_ne {m n : Nat} (hm : m < 8) (hn : n < 8) (hne : n ≠ m) : mInst n % 2 ^ 20 ≠ mInst m % 2 ^ 20 := by
  unfold mInst; omega

/-- A retirement retires no slot of another port (R257). -/
theorem State.retire_cause_ne {s : State} {m n slot x : Nat} (hI : s.Inv) (hm : m < 8) (hn : n < 8) (hslot : slot < 3)
    (hx : x < 3) (hne : n ≠ m) (cause : Nat) :
    (s.retire m slot cause).gi R.spare_SLOT_HEALTH_CAUSE (hInst n x) = s.gi R.spare_SLOT_HEALTH_CAUSE (hInst n x) := by
  have hbases : ∀ g ∈ portFlds, R.spare_SLOT_HEALTH_CAUSE.base ≠ g.base := by decide
  refine State.retire_regsBut hI hslot cause _ _ ?_
  simp only [retireWrites, List.forall_mem_cons]
  exact ⟨.inr (hInst_mod_ne hm hn hslot hx hne), .inl (by decide), fun y hy => .inl (hbases y.1 (fst_mem_portFlds hy))⟩

/-- A retirement leaves what the slots of another port do. -/
theorem State.retire_slotStat_ne {s : State} {m n slot : Nat} (hI : s.Inv) (hm : m < 8) (hn : n < 8) (hslot : slot < 3)
    (hne : n ≠ m) (cause : Nat) {f : Fld} (hf : f ∈ [R.mport_SLOT_STAT_A, R.mport_SLOT_STAT_B, R.mport_SLOT_STAT_C]) :
    (s.retire m slot cause).gi f (mInst n) = s.gi f (mInst n) := by
  have hbases : ∀ f ∈ [R.mport_SLOT_STAT_A, R.mport_SLOT_STAT_B, R.mport_SLOT_STAT_C],
      ∀ g ∈ [R.spare_SLOT_HEALTH_CAUSE, R.spare_SLOT_HEALTH_PAIR_SUSPECT, R.spare_MIG_STAT_ACTIVE, R.spare_MIG_STAT_FAST],
        f.base ≠ g.base := by decide
  have hother := mInst_mod_ne hm hn hne
  refine State.retire_regsBut hI hslot cause _ _ ?_
  simp only [retireWrites, portFields, List.forall_mem_cons]
  exact ⟨.inl (hbases f hf _ (by simp)), .inl (hbases f hf _ (by simp)), .inr hother, .inr hother, .inr hother,
    .inr hother, .inl (hbases f hf _ (by simp)), .inl (hbases f hf _ (by simp)), List.forall_mem_nil _⟩

/-- RANK_RETIRE of a slot that exists retires it on the state the command acts on (R256, R364). -/
theorem exec_rankRetire {h : Hdr} {m slot : Nat} {s : State} (ht : takes (.rankRetire h m slot) h 0x0060 s) (hm : m < 8)
    (hslot : slot < 3) : exec (.rankRetire h m slot) s
      = .next (answer s ((acting h s).retire m slot 6) h 0x0060 (.done stOk [])) := by
  have hbody : ∀ u : State, u.rankRetire m slot = (u.retire m slot 6, .done stOk []) := fun u => by
    unfold State.rankRetire
    rw [if_neg (by omega)]
  show execRankRetire h m slot s = _
  unfold execRankRetire
  rw [zcsRun_of_takes ht, hbody]

/-- Settles O60: the mark of a retirement names the slot and the partner's suspicion, and all else stays on its port. -/
theorem retirementIsPerPort : Obligations.RetirementIsPerPort := by
  unfold Obligations.RetirementIsPerPort
  refine ⟨fun m slot cause s hI hm hslot => ⟨fun hold => State.retire_of_retired hold cause, fun hnew => ⟨?_, ?_⟩,
    fun n x hn hx hne => ⟨?_, ?_, fun f hf => ?_⟩⟩, fun h m slot s hI ht hm hslot => ?_⟩
  · rw [State.retire_health hI hslot hnew cause (by simp), State.markRetired_cause hI]
  · rw [State.retire_health hI hslot hnew cause (by simp)]
    exact State.markRetired_suspect hI ..
  · exact State.retire_cause_ne hI hm hn hslot hx hne cause
  · exact State.retire_mp hI hslot hne cause
  · exact State.retire_slotStat_ne hI hm hn hslot hne cause hf
  · have hact := acting_inv hI h
    have hsame := State.gi_congr (acting_regs h s) R.spare_SLOT_HEALTH_CAUSE
    refine ⟨(acting h s).retire m slot 6, exec_rankRetire ht hm hslot, fun hnew => ?_, fun n x hn hx hne => ?_⟩
    · rw [State.retire_health hact hslot ((hsame _).trans hnew) 6 (by simp)]
      exact State.markRetired_suspect hact ..
    · rw [State.retire_cause_ne hact hm hn hslot hx hne, hsame]

end Sys2Proof.Machine
end

section
/-! SUPPORT. What a reset leaves of commands and sessions (R359): the register writes that follow a reset to the reset
values touch neither, so none is left. -/
namespace Sys2Proof.Machine

/-- From `s` to `t` registers alone are written. -/
def State.regsOnly (s t : State) : Prop := t = { s with regs := t.regs }

theorem State.regsOnly_refl (s : State) : s.regsOnly s := rfl

theorem State.regsOnly_pi (s : State) (f : Fld) (i v : Nat) : s.regsOnly (s.pi f i v) := rfl

theorem State.regsOnly_trans {s t u : State} (hst : s.regsOnly t) (htu : t.regsOnly u) : s.regsOnly u := by
  unfold State.regsOnly at *
  rw [htu, hst]

theorem State.regsOnly_ite {c : Prop} [Decidable c] {s t u : State} (ht : s.regsOnly t) (hu : s.regsOnly u) :
    s.regsOnly (if c then t else u) := by
  split
  · exact ht
  · exact hu

theorem State.regsOnly_foldl {α : Type} {f : State → α → State} (hf : ∀ (s : State) x, s.regsOnly (f s x)) (l : List α)
    (s : State) : s.regsOnly (l.foldl f s) := by
  induction l generalizing s with
  | nil => exact s.regsOnly_refl
  | cons x l ih => exact State.regsOnly_trans (hf s x) (ih (f s x))

theorem State.regsOnly_forAll {f : State → Nat → State} (hf : ∀ (s : State) n, s.regsOnly (f s n)) (l : List Nat)
    (s : State) : s.regsOnly (forAll l s f) := State.regsOnly_foldl hf l s

theorem State.regsOnly_zcs {s t : State} (h : s.regsOnly t) : t.zcs = s.zcs := by rw [h]

theorem State.regsOnly_boot {s t : State} (h : s.regsOnly t) : t.boot = s.boot := by rw [h]

theorem State.keepSliceOut_regsOnly (s old : State) (b : Nat) : s.regsOnly (s.keepSliceOut old b) := by
  unfold State.keepSliceOut
  split
  · exact s.regsOnly_refl
  · rfl

theorem State.keepPins_regsOnly (s : State) : s.regsOnly s.keepPins := by
  unfold State.keepPins
  extract_lets wide
  have hwide : s.regsOnly wide := State.regsOnly_forAll (fun _ _ => by rfl) _ s
  clear_value wide
  refine State.regsOnly_trans hwide (State.regsOnly_foldl (fun u x => ?_) _ wide)
  split
  · exact State.regsOnly_forAll (fun _ _ => by rfl) _ u
  · exact State.regsOnly_ite (u.regsOnly_pi ..) u.regsOnly_refl

theorem noCommands_congr {s t : State} (h : noCommands s) (hzcs : t.zcs = s.zcs) (hboot : t.boot.req = s.boot.req) :
    noCommands t := by
  unfold noCommands at *
  rwa [hzcs, hboot]

theorem noCommands_regsOnly {s t : State} (h : noCommands s) (hregs : s.regsOnly t) : noCommands t :=
  noCommands_congr h (State.regsOnly_zcs hregs) (congrArg Boot.req (State.regsOnly_boot hregs))

/-- No reset keeps a session or a command: what it takes over of the old state lies outside `zcs` and `boot.req` (R359,
R501). -/
theorem State.resetTo_noCommands (s : State) (kind : Nat) : noCommands (s.resetTo kind) := by
  unfold State.resetTo
  extract_lets old warm r regs on _ _ _ _ _ _ _ _ _ t started latched _ safe
  have ht : noCommands t := ⟨rfl, rfl, rfl, rfl, rfl, rfl⟩
  clear_value t
  have hstarted : noCommands started := noCommands_congr ht rfl rfl
  clear_value started
  have hsafe : noCommands safe := by
    unfold safe
    split
    · exact hstarted
    · exact noCommands_congr hstarted rfl rfl
  clear_value safe
  split
  · have hslices : safe.regsOnly (forAll (List.range 24) safe.keepPins fun u b => u.keepSliceOut old b) :=
      State.regsOnly_trans safe.keepPins_regsOnly (State.regsOnly_forAll (fun u b => u.keepSliceOut_regsOnly old b) _ _)
    refine noCommands_regsOnly hsafe (State.regsOnly_trans hslices (State.regsOnly_forAll (fun u m => ?_) _ _))
    exact State.regsOnly_ite (u.regsOnly_pi ..) u.regsOnly_refl
  · exact hsafe

/-- RESET_N low for 10 µs resets a hub that has power and saves nothing, and holds it (R499). -/
theorem State.resetLow_of_acts {s : State} {low : Nat} (hlow : 10000 ≤ low) (hon : s.power.unpowered = false)
    (hsave : s.power.saving = none) : s.resetLow low = (s.resetTo 1).bt fun b => { b with held := true } := by
  simp [State.resetLow, hlow, Nat.not_lt.mpr hlow, hon, hsave]

theorem State.resetLow_noCommands {s : State} {low : Nat} (hlow : 10000 ≤ low) (hon : s.power.unpowered = false)
    (hsave : s.power.saving = none) : noCommands (s.resetLow low) := by
  rw [State.resetLow_of_acts hlow hon hsave]
  exact noCommands_congr (s.resetTo_noCommands 1) rfl rfl

theorem State.resetActs_noCommands_of_restart {s : State} (hrestart : s.boot.restart = true) : noCommands s.resetActs := by
  unfold State.resetActs
  rw [if_pos hrestart]
  exact State.resetTo_noCommands ..

/-- A requested reset that is due acts, or the one after a TRIP_CLEAR, which goes before it (R359, R502). -/
theorem State.resetActs_noCommands_of_due {s : State} {o : Nat × Nat} (hreq : s.boot.req = some o)
    (hdue : s.live = false ∨ o.2 ≤ s.trellis.orbit) : noCommands s.resetActs := by
  cases hrestart : s.boot.restart with
  | true => exact State.resetActs_noCommands_of_restart hrestart
  | false =>
    have hnow : ¬ (s.live && decide (s.trellis.orbit < o.2)) = true := by
      rcases hdue with hlive | horbit
      · simp [hlive]
      · simp [horbit]
    unfold State.resetActs
    rw [hrestart, hreq]
    dsimp only
    rw [if_neg hnow]
    exact State.resetTo_noCommands ..

theorem State.sramScrub_noCommands (s : State) (corrected : List Nat) (fatal : Nat) :
    noCommands (s.sramScrub corrected (some fatal)) := by
  unfold State.sramScrub
  exact State.resetTo_noCommands ..

theorem State.romRecheck_noCommands {s : State} (hrun : s.on R.cpu_PAIR_STAT_TND_RUN 0 = true) :
    noCommands (s.romRecheck false) := by
  unfold State.romRecheck
  rw [hrun]
  exact s.resetTo_noCommands 4

theorem State.powerRestore_noCommands {s : State}
    (h : s.power.unpowered = true ∨ (s.power.pfail = true ∧ s.power.saving = none)) : noCommands s.powerRestore := by
  have hrestarts : (s.power.pfail && s.power.saving.isNone || s.power.unpowered) = true := by
    rcases h with hoff | ⟨hfail, hsave⟩
    · simp [hoff]
    · simp [hfail, hsave]
  unfold State.powerRestore
  rw [if_pos hrestarts]
  exact s.resetTo_noCommands 0

theorem State.powerLoss_noCommands {s : State} (hon : s.power.unpowered = false) : noCommands s.powerLoss := by
  unfold State.powerLoss
  rw [if_neg (by simp [hon])]
  exact noCommands_congr (s.saveCut.resetTo_noCommands 0) rfl rfl

/-- Settles O58: the reset that all kinds share leaves no command, and each of these commands ends in it. -/
theorem resetsCloseSessions : Obligations.ResetsCloseSessions := by
  unfold Obligations.ResetsCloseSessions
  exact ⟨fun kind s _ => s.resetTo_noCommands kind,
    fun low s _ hlow hon hsave => ⟨s.resetLow low, rfl, State.resetLow_noCommands hlow hon hsave⟩,
    fun o s _ hreq hdue => ⟨s.resetActs, rfl, State.resetActs_noCommands_of_due hreq hdue⟩,
    fun s _ hrestart => ⟨s.resetActs, rfl, State.resetActs_noCommands_of_restart hrestart⟩,
    fun s _ => ⟨s.watchdogReset, rfl, s.resetTo_noCommands 4⟩,
    fun s _ hrun => ⟨s.romRecheck false, rfl, State.romRecheck_noCommands hrun⟩,
    fun l w s _ => ⟨s.sramScrub l (some w), rfl, s.sramScrub_noCommands l w⟩,
    fun s _ hfails => ⟨s.powerRestore, rfl, State.powerRestore_noCommands hfails⟩,
    fun s _ hon => ⟨s.powerLoss, rfl, State.powerLoss_noCommands hon⟩⟩

end Sys2Proof.Machine
end
